-- ==== Sys2Proof/Word.lean ====
section
/-! DEFINITION. The word types of the W64 (R5, R6): little-endian memory, bit 0 least significant. -/

namespace Sys2Proof

/-- A lane word, an instruction word, a literal. -/
abbrev Word := BitVec 32
/-- One byte of memory. -/
abbrev Byte := BitVec 8
/-- A sidereal tick (R18). -/
abbrev Tick := BitVec 64
/-- A base-register value: an 80-bit pointer (R181). -/
abbrev Ptr := BitVec 80
/-- A set of lanes of one warp. -/
abbrev Mask := BitVec 32

end Sys2Proof
end

