-- ==== Sys2Proof/Config.lean ====
section
/-! DEFINITION. What an implementation fixes and the spec leaves open: constants without a body, so that no proof can
see their value. A value drawn afresh is `free… n` at the counter `State.fresh` of the machine. -/

namespace Sys2Proof.Config

/-- A fresh unconstrained number: promises of transits within their bound (R231), readings (R433). DESIGN CHOICE, log 6. safe. -/
opaque freeNat : Nat → Nat
/-- A fresh unconstrained word: power, temperature and other readings the spec gives no value for (R433). DESIGN CHOICE, log 8. safe. -/
opaque freeWord : Nat → Word
/-- A fresh unconstrained 64-bit datum: DATA of an event whose contents the spec does not give (R429). DESIGN CHOICE, log 23. safe. -/
opaque freeData : Nat → BitVec 64
/-- A fresh unconstrained address: the address field of a trap record whose entry names none (R80). DESIGN CHOICE, log 19. safe. -/
opaque freePtr : Nat → Ptr
/-- A byte of memory whose contents a power loss leaves undefined (R52): by draw and physical address. DESIGN CHOICE, log 9. safe. -/
opaque freeByte : Nat → Nat → Byte
/-- Which of several values the spec leaves: of those a byte may read as when the matrix port reads it (R47, R259), by draw and scratch offset; of the
pointers a misaligned copy concerns (R234). DESIGN CHOICE, log 6. safe. -/
opaque freePick : Nat → Nat → Nat
/-- Words of the fused identity record (Table 17-8) that the spec leaves to the part: serial number and keys. DESIGN CHOICE, log 8. safe. -/
opaque identityWord : Nat → Word
/-- Whether the part is sold as grade B (R1, Table 00-1). DESIGN CHOICE, log 8. safe. -/
opaque gradeB : Bool
/-- The hedged SLH-DSA signature of a message under the device key: by message, draw and byte index (R428). DESIGN CHOICE, log 8. safe. -/
opaque signature : List Byte → Nat → Nat → Byte
/-- The firmware image that is in the part's flash, by draw (R428). DESIGN CHOICE, log 8. safe. -/
opaque firmware : Nat → List Byte
/-- SHA-256 (R428). DESIGN CHOICE, log 8. safe. -/
opaque sha256 : List Byte → List Byte
/-- Whether a firmware image verifies against the fused SHA-256 hash of its key (R428). DESIGN CHOICE, log 8. safe. -/
opaque verifies : List Byte → List Byte → Bool
/-- Whether the supplies are in range at a bring-up (R414). DESIGN CHOICE, log 8. safe. -/
opaque suppliesOk : Nat → Bool
/-- The physical cores, GiB of DRAM and MiB of persistent umbra that fail their test at a bring-up: by draw, domain and number (R414). DESIGN CHOICE, log
8. safe. -/
opaque failsTest : Nat → Nat → Nat → Bool
/-- The clock neighbours the service firmware chooses (R420): by domain and position, CK1 in [1:0], CK2 in [3:2]. DESIGN CHOICE, log 8. safe. -/
opaque clockChoice : Nat → Nat → BitVec 4

end Sys2Proof.Config
end

