-- ==== Sys2Proof/Syntax.lean ====
section
/-! DEFINITION. The syntax: one constructor of `Instr` for every row of spec/opcode_table.json. The 204 instruction words
carry the fields of their format family (03 Tables 03-2, 03-4 to 03-8); the 80 events carry what names the item they act on. -/

namespace Sys2Proof

/-- Register format (Table 03-2). -/
structure RegW where
  g : BitVec 3
  nw : BitVec 1
  dst : BitVec 6
  a : BitVec 7
  b : BitVec 7
  lit : Option Word
deriving DecidableEq, Repr

/-- Branch format (Table 03-4). -/
structure BrW where
  g : BitVec 3
  off : BitVec 18
deriving DecidableEq, Repr

/-- Loop format (Table 03-5). -/
structure LoopW where
  g : BitVec 3
  c : BitVec 2
  cnt : BitVec 7
  stop : BitVec 12
  lit : Option Word
deriving DecidableEq, Repr

/-- Memory format (Table 03-6). -/
structure MemW where
  g : BitVec 3
  d : BitVec 3
  sz : BitVec 3
  dat : BitVec 6
  ba : BitVec 3
  idx : BitVec 5
  lit : Option Word
deriving DecidableEq, Repr

/-- Matrix format (Table 03-8), literal always. -/
structure MtxW where
  g : BitVec 3
  t : BitVec 4
  d : BitVec 3
  ar : BitVec 6
  br : BitVec 6
  lit : Word
deriving DecidableEq, Repr

/-- Drain format (Table 03-8), literal always. -/
structure DrnW where
  g : BitVec 3
  t : BitVec 4
  d : BitVec 3
  v : BitVec 6
  ba : BitVec 3
  idx : BitVec 5
  lit : Word
deriving DecidableEq, Repr

/-- Asynchronous format (Table 03-8). -/
structure AsyW where
  g : BitVec 3
  d : BitVec 3
  v : BitVec 3
  s : BitVec 4
  ba : BitVec 3
  bb : BitVec 3
  lit : Option Word
deriving DecidableEq, Repr

/-- System format (Table 03-8). -/
structure SysW where
  g : BitVec 3
  d : BitVec 3
  f : BitVec 5
  s : BitVec 4
  ba : BitVec 3
  lit : Option Word
deriving DecidableEq, Repr

/-- Where one byte lives: physical memory, a block's scratch share, or the byte image of its register rows or tiles (R21, R24). -/
inductive Place where
  | glob (pa : Nat)
  | scr (b off : Nat)
  | row (b off : Nat)
  | acc (b off : Nat)
deriving DecidableEq, Repr

/-- A request of a core's L1 to the slice (Table 08-2). -/
inductive L1Req where
  | read | write | replace
deriving DecidableEq, Repr

/-- A host read of `n` bytes or write of bytes through a BAR (R406). -/
inductive HostAcc where
  | read (n : Nat)
  | write (bytes : List Byte)
deriving DecidableEq, Repr

/-- The identifier of a C0, C2 or tagged C1 message (R400). -/
structure FabId where
  dev : Nat
  dom : Nat
  num : Nat
deriving DecidableEq, Repr

/-- What a fabric message does at the receiver (Table 16-4, R402, R403). A packet of a C1 message: aperture, the message's offset and number of sectors, the
number of the packet's first sector, and its bytes. -/
inductive FabBody where
  | enq (dom idx : Nat) (wafer : Bool) (rec : List Word)
  | data (apr off n k : Nat) (bytes : List Byte) (tag : Option Word)
  | set (apr off : Nat) (x : Word)
  | add (apr off : Nat) (x : Word)
  | dec (h : Word)
deriving DecidableEq, Repr

/-- A fabric message as it arrives: source device, identifier, the port it enters by (`none`: local), the sending operation
when the sender is this device, and for a journalled message its source position and TAG (R400). -/
structure FabMsg where
  src : Nat
  id : FabId
  port : Option Nat
  op : Option Nat
  jtag : Option (Nat × Nat)
  body : FabBody
deriving DecidableEq, Repr

/-- A unit that can be retired (R425, R426): whole core, context slot, register-file bank of a logical position; a GiB of DRAM or a MiB of umbra
of a domain; a Bretos Link port, a pool port; and a physical core that is repaired (R418). -/
inductive RetUnit where
  | core (d y x : Nat)
  | slot (d y x k : Nat)
  | bank (d y x b : Nat)
  | dram (d g : Nat)
  | umbra (d m : Nat)
  | port (i : Nat)
  | pool (p : Nat)
  | repaired (d y x : Nat)
deriving DecidableEq, Repr

/-- Who asks a home for a line (R212): an operation, the slice of a domain, a core for a walk, a fetch or a word at issue, the task engine of a domain
for a record it has completed, a host link, a Bretos Link port. -/
inductive Asker where
  | op (o : Nat)
  | slice (d : Nat)
  | core (d a : Nat)
  | task (d i : Nat)
  | host (l : Nat)
  | port (p : Nat)
deriving DecidableEq, Repr

/-- The rows of spec/opcode_table.json: first the instruction words, then the events: those the
machine schedules itself, then those that come from outside or are the caches' own. -/
inductive Instr where
  /-- NOP (R132). -/
  | nop (i : RegW)
  /-- BRA (R133). -/
  | bra (i : BrW)
  /-- BRX (R134). -/
  | brx (i : RegW)
  /-- CALL (R133). -/
  | call (i : BrW)
  /-- CALLX (R134). -/
  | callx (i : RegW)
  /-- RET (R135). -/
  | ret (i : RegW)
  /-- LOOP (R136). -/
  | loop (i : LoopW)
  /-- RPT (R137). -/
  | rpt (i : RegW)
  /-- EXIT (R138). -/
  | exit (i : RegW)
  /-- EXITS (R139). -/
  | exits (i : RegW)
  /-- BAR (R140). -/
  | bar (i : RegW)
  /-- BARA (R140). -/
  | bara (i : RegW)
  /-- BARM (R140). -/
  | barm (i : RegW)
  /-- BARW (R140). -/
  | barw (i : RegW)
  /-- YIELD (R132). -/
  | yield (i : RegW)
  /-- VOTE (R141). -/
  | vote (i : RegW)
  /-- PLOP (R142). -/
  | plop (i : RegW)
  /-- MOVS (R143). -/
  | movs (i : RegW)
  /-- SMOV (R144). -/
  | smov (i : RegW)
  /-- REGGIVE (R146). -/
  | reggive (i : RegW)
  /-- REGCLAIM (R146). -/
  | regclaim (i : RegW)
  /-- SETTID (R145). -/
  | settid (i : RegW)
  /-- QBIND (R147). -/
  | qbind (i : RegW)
  /-- CHPUT (R148). -/
  | chput (i : RegW)
  /-- CHGET (R148). -/
  | chget (i : RegW)
  /-- CHCLOSE (R148). -/
  | chclose (i : RegW)
  /-- SLEEP (R149). -/
  | sleep (i : RegW)
  /-- TRAP (R150). -/
  | trap (i : RegW)
  /-- ASSERT (R150). -/
  | assert (i : RegW)
  /-- TRET (R151). -/
  | tret (i : RegW)
  /-- KILL (R152). -/
  | kill (i : RegW)
  /-- MOVSYS (R153). -/
  | movsys (i : RegW)
  /-- MOVSYS_W (R153). -/
  | movsysW (i : RegW)
  /-- IADD (R158). -/
  | iadd (i : RegW)
  /-- ISUB (R158). -/
  | isub (i : RegW)
  /-- IMUL (R158). -/
  | imul (i : RegW)
  /-- IMULH (R158). -/
  | imulh (i : RegW)
  /-- IMAD (R158). -/
  | imad (i : RegW)
  /-- IMIN (R158). -/
  | imin (i : RegW)
  /-- IMAX (R158). -/
  | imax (i : RegW)
  /-- IABS (R158). -/
  | iabs (i : RegW)
  /-- AND (R158). -/
  | and (i : RegW)
  /-- OR (R158). -/
  | or (i : RegW)
  /-- XOR (R158). -/
  | xor (i : RegW)
  /-- NOT (R158). -/
  | not (i : RegW)
  /-- SHL (R158). -/
  | shl (i : RegW)
  /-- SHR (R158). -/
  | shr (i : RegW)
  /-- SHRA (R158). -/
  | shra (i : RegW)
  /-- ROT (R158). -/
  | rot (i : RegW)
  /-- POPC (R158). -/
  | popc (i : RegW)
  /-- CLZ (R158). -/
  | clz (i : RegW)
  /-- BREV (R158). -/
  | brev (i : RegW)
  /-- BFE (R159). -/
  | bfe (i : RegW)
  /-- BFI (R159). -/
  | bfi (i : RegW)
  /-- BYMIX (R159). -/
  | bymix (i : RegW)
  /-- SEL (R158). -/
  | sel (i : RegW)
  /-- ICMP (R160). -/
  | icmp (i : RegW)
  /-- MOV (R158). -/
  | mov (i : RegW)
  /-- MOVI (R158). -/
  | movi (i : RegW)
  /-- IACC (R158). -/
  | iacc (i : RegW)
  /-- ISAD (R158). -/
  | isad (i : RegW)
  /-- IDOT4 (R158). -/
  | idot4 (i : RegW)
  /-- FADD (R161). -/
  | fadd (i : RegW)
  /-- FSUB (R161). -/
  | fsub (i : RegW)
  /-- FMUL (R161). -/
  | fmul (i : RegW)
  /-- FFMA (R161). -/
  | ffma (i : RegW)
  /-- FMIN (R161). -/
  | fmin (i : RegW)
  /-- FMAX (R161). -/
  | fmax (i : RegW)
  /-- FCMP (R160). -/
  | fcmp (i : RegW)
  /-- FRND (R161). -/
  | frnd (i : RegW)
  /-- FCLMP (R161). -/
  | fclmp (i : RegW)
  /-- FSCALE (R161). -/
  | fscale (i : RegW)
  /-- FEXP (R161). -/
  | fexp (i : RegW)
  /-- ADDMIN (R163). -/
  | addmin (i : RegW)
  /-- ADDMAX (R163). -/
  | addmax (i : RegW)
  /-- RCP (R162). -/
  | rcp (i : RegW)
  /-- RSQ (R162). -/
  | rsq (i : RegW)
  /-- SQRT (R162). -/
  | sqrt (i : RegW)
  /-- EXP2 (R162). -/
  | exp2 (i : RegW)
  /-- LOG2 (R162). -/
  | log2 (i : RegW)
  /-- HADD2 (R164). -/
  | hadd2 (i : RegW)
  /-- HMUL2 (R164). -/
  | hmul2 (i : RegW)
  /-- HFMA2 (R164). -/
  | hfma2 (i : RegW)
  /-- HMIN2 (R164). -/
  | hmin2 (i : RegW)
  /-- HMAX2 (R164). -/
  | hmax2 (i : RegW)
  /-- DOT2 (R165). -/
  | dot2 (i : RegW)
  /-- CVT (R166). -/
  | cvt (i : RegW)
  /-- PKCV (R167). -/
  | pkcv (i : RegW)
  /-- XPCV (R168). -/
  | xpcv (i : RegW)
  /-- SCEXT (R169). -/
  | scext (i : RegW)
  /-- SCINS (R169). -/
  | scins (i : RegW)
  /-- SCMAX (R169). -/
  | scmax (i : RegW)
  /-- DOT4 (R165). -/
  | dot4 (i : RegW)
  /-- PACK (R158). -/
  | pack (i : RegW)
  /-- QXCH (R171). -/
  | qxch (i : RegW)
  /-- QBC (R171). -/
  | qbc (i : RegW)
  /-- QSUM (R171). -/
  | qsum (i : RegW)
  /-- LSHF (R172). -/
  | lshf (i : RegW)
  /-- LROT (R172). -/
  | lrot (i : RegW)
  /-- LBC (R172). -/
  | lbc (i : RegW)
  /-- LIDX (R172). -/
  | lidx (i : RegW)
  /-- WRED (R173). -/
  | wred (i : RegW)
  /-- WSCAN (R174). -/
  | wscan (i : RegW)
  /-- RNDS (R175). -/
  | rnds (i : RegW)
  /-- RND (R176). -/
  | rnd (i : RegW)
  /-- LD (R190). -/
  | ld (i : MemW)
  /-- ST (R190). -/
  | st (i : MemW)
  /-- LDX (R192). -/
  | ldx (i : MemW)
  /-- STX (R192). -/
  | stx (i : MemW)
  /-- LDW (R193). -/
  | ldw (i : MemW)
  /-- STW (R193). -/
  | stw (i : MemW)
  /-- LDMX (R194). -/
  | ldmx (i : MemW)
  /-- STMX (R194). -/
  | stmx (i : MemW)
  /-- LDN (R191). -/
  | ldn (i : MemW)
  /-- STN (R191). -/
  | stn (i : MemW)
  /-- PREF (R198). -/
  | pref (i : MemW)
  /-- FENCE (R199). -/
  | fence (i : MemW)
  /-- CWB (R200). -/
  | cwb (i : MemW)
  /-- CINV (R200). -/
  | cinv (i : MemW)
  /-- SETB (R196). -/
  | setb (i : MemW)
  /-- LDB (R195). -/
  | ldb (i : MemW)
  /-- BADD (R197). -/
  | badd (i : MemW)
  /-- LDS (R195). -/
  | lds (i : MemW)
  /-- MMQ (R266). -/
  | mmq (i : MtxW)
  /-- MMQS (R266). -/
  | mmqs (i : MtxW)
  /-- MMQX (R266). -/
  | mmqx (i : MtxW)
  /-- MMQT (R266). -/
  | mmqt (i : MtxW)
  /-- MMS (R267). -/
  | mms (i : MtxW)
  /-- MMSS (R267). -/
  | mmss (i : MtxW)
  /-- MMZ (R268). -/
  | mmz (i : MtxW)
  /-- ACCMV (R269). -/
  | accmv (i : MtxW)
  /-- ACCLD (R269). -/
  | accld (i : MtxW)
  /-- ACCSC (R270). -/
  | accsc (i : MtxW)
  /-- ACCCV (R271). -/
  | acccv (i : MtxW)
  /-- SPLD (R272). -/
  | spld (i : MtxW)
  /-- DST (R286). -/
  | dst (i : DrnW)
  /-- DSTA (R287). -/
  | dsta (i : DrnW)
  /-- DSTM (R288). -/
  | dstm (i : DrnW)
  /-- DSTV (R289). -/
  | dstv (i : DrnW)
  /-- ATOM (R290). -/
  | atom (i : DrnW)
  /-- ATOMC (R291). -/
  | atomc (i : DrnW)
  /-- RED (R292). -/
  | red (i : DrnW)
  /-- DFENCE (R284). -/
  | dfence (i : DrnW)
  /-- CPY (R235). -/
  | cpy (i : AsyW)
  /-- CPY2 (R236). -/
  | cpy2 (i : AsyW)
  /-- CPYM (R237). -/
  | cpym (i : AsyW)
  /-- CPYT_PROM (R240). -/
  | cpytProm (i : AsyW)
  /-- CPYT_EVCT (R240). -/
  | cpytEvct (i : AsyW)
  /-- CPYT_SCR (R240). -/
  | cpytScr (i : AsyW)
  /-- CPYT_GLB (R240). -/
  | cpytGlb (i : AsyW)
  /-- CPYW (R241). -/
  | cpyw (i : AsyW)
  /-- WAITT (R242). -/
  | waitt (i : AsyW)
  /-- TQRY (R244). -/
  | tqry (i : AsyW)
  /-- CPYC (R245). -/
  | cpyc (i : AsyW)
  /-- SPAWN (R321). -/
  | spawn (i : AsyW)
  /-- ENQ (R320). -/
  | enq (i : AsyW)
  /-- TDEC (R322). -/
  | tdec (i : AsyW)
  /-- TINC (R322). -/
  | tinc (i : AsyW)
  /-- TWAIT (R323). -/
  | twait (i : AsyW)
  /-- TSTAT (R324). -/
  | tstat (i : AsyW)
  /-- TCANCEL (R325). -/
  | tcancel (i : AsyW)
  /-- TREARM (R326). -/
  | trearm (i : AsyW)
  /-- VPOST (R343). -/
  | vpost (i : AsyW)
  /-- VPOSTF (R343). -/
  | vpostf (i : AsyW)
  /-- SUBS (R344). -/
  | subs (i : AsyW)
  /-- VERQ (R345). -/
  | verq (i : AsyW)
  /-- RSTOP (R345). -/
  | rstop (i : AsyW)
  /-- GRPSET_NEW (R346). -/
  | grpsetNew (i : AsyW)
  /-- GRPSET_ADD (R346). -/
  | grpsetAdd (i : AsyW)
  /-- GRPSET_ARM (R346). -/
  | grpsetArm (i : AsyW)
  /-- GRPSET_FREE (R346). -/
  | grpsetFree (i : AsyW)
  /-- SHMAP (R347). -/
  | shmap (i : AsyW)
  /-- SHMAP_FREE (R347). -/
  | shmapFree (i : AsyW)
  /-- SSACK (R348). -/
  | ssack (i : AsyW)
  /-- SEQLD (R368). -/
  | seqld (i : SysW)
  /-- SEQGO (R369). -/
  | seqgo (i : SysW)
  /-- SEQSTOP (R369). -/
  | seqstop (i : SysW)
  /-- QSET (R370). -/
  | qset (i : SysW)
  /-- QDEC (R370). -/
  | qdec (i : SysW)
  /-- QWAIT (R371). -/
  | qwait (i : SysW)
  /-- SEQSIG (R370). -/
  | seqsig (i : SysW)
  /-- SEQQ (R372). -/
  | seqq (i : SysW)
  /-- PFENCE (R391). -/
  | pfence (i : SysW)
  /-- CHKS (R392). -/
  | chks (i : SysW)
  /-- UMQ (R393). -/
  | umq (i : SysW)
  /-- UMSET (R394). -/
  | umset (i : SysW)
  /-- FSEND (R409). -/
  | fsend (i : SysW)
  /-- FENQ (R410). -/
  | fenq (i : SysW)
  /-- FSIG (R411). -/
  | fsig (i : SysW)
  /-- FFENCE (R412). -/
  | ffence (i : SysW)
  /-- TLBI (R224). -/
  | tlbi (i : SysW)
  /-- HFLUSH (R225). -/
  | hflush (i : SysW)
  /-- HPROBE (R226). -/
  | hprobe (i : SysW)
  /-- ATR (R227). -/
  | atr (i : SysW)
  /-- SVC_VF (R431). -/
  | svcVf (i : SysW)
  /-- SVC_RETIRE (R431). -/
  | svcRetire (i : SysW)
  /-- SVC_PKILL (R431). -/
  | svcPkill (i : SysW)
  /-- SVC_QUOTE (R431). -/
  | svcQuote (i : SysW)
  /-- CAPQ (R432). -/
  | capq (i : SysW)
  /-- PWRQ (R433). -/
  | pwrq (i : SysW)
  /-- CLKQ (R433). -/
  | clkq (i : SysW)
  /-- EVLOG_PUT (R434). -/
  | evlogPut (i : SysW)
  /-- EVLOG_GET (R434). -/
  | evlogGet (i : SysW)
  /-- HSTAT (R433). -/
  | hstat (i : SysW)
  /-- CLAUSE_ISSUE (R60). -/
  | clauseIssue (d a p : Nat)
  /-- QUARTET_RENDEZVOUS (R261). -/
  | quartetRendezvous (b q : Nat)
  /-- ACTIVE_SET_EXCHANGE (R113). -/
  | activeSetExchange (d a : Nat)
  /-- HANDLER_START (R125). -/
  | handlerStart (d a : Nat)
  /-- SLOT_COMPLETE (R14). -/
  | slotComplete (o : Nat)
  /-- SLEEP_DEADLINE (R149). -/
  | sleepDeadline (b w : Nat)
  /-- SIDEREAL_TICK (R18). -/
  | siderealTick (lag : BitVec 64)
  /-- SIDEREAL_BEACON (R18). -/
  | siderealBeacon
  /-- WINDOW_WRITE_ENTRY (R50). -/
  | windowWriteEntry (b : Nat)
  /-- LOAD_COMPLETE (R190). -/
  | loadComplete (o : Nat) (pl : Place)
  /-- STORE_PERFORMED (R188). -/
  | storePerformed (o : Nat) (pl : Place)
  /-- HOME_RETRY of a requester for a line (R212). -/
  | homeRetry (o : Asker × Nat)
  /-- RESERVATION_LAPSE (R213). -/
  | reservationLapse (h line : Nat)
  /-- CPYM_REQUEST_ARRIVAL (R238). -/
  | cpymRequestArrival (o : Nat)
  /-- MULTICAST_WINDOW_CLOSE (R238). -/
  | multicastWindowClose (d g : Nat)
  /-- LATE_JOINER_RESEND (R239). -/
  | lateJoinerResend (d g : Nat)
  /-- COPY_SECTOR_WRITE (R247). -/
  | copySectorWrite (o : Nat) (pl : Place)
  /-- COPY_COMPLETION (R235). -/
  | copyCompletion (o : Nat)
  /-- TRANSIT_TICK (R242). -/
  | transitTick (b w : Nat)
  /-- MATRIX_COMPLETION (R266). -/
  | matrixCompletion (o : Nat) (stale : Bool)
  /-- DRAIN_UPDATE_APPLY (R280). -/
  | drainUpdateApply (o : Nat)
  /-- RANGE_RECORD_ARRIVAL (R306). -/
  | rangeRecordArrival (n : Nat)
  /-- DISPATCH_PLACEMENT (R307). -/
  | dispatchPlacement (d : Nat)
  /-- EVICTION (R312). -/
  | eviction (b : Nat)
  /-- PARK_RECORD_WAKE (R312). -/
  | parkRecordWake (d idx : Nat)
  /-- PARK_NEIGHBOUR_OFFER (R314). -/
  | parkNeighbourOffer (d idx : Nat)
  /-- BLOCK_EXIT (R138). -/
  | blockExit (b : Nat)
  /-- GRID_COMPLETION (R316). -/
  | gridCompletion (d idx : Nat)
  /-- SUPERSEDE_EVENT (R338). -/
  | supersedeEvent (b w : Nat)
  /-- TWAIT_DEADLINE (R323). -/
  | twaitDeadline (b w : Nat)
  /-- PROMOTION_SERVE (R356). -/
  | promotionServe (d : Nat)
  /-- PROMOTION_AGING (R356). -/
  | promotionAging (d : Nat)
  /-- PROMOTION_DONE (R355). -/
  | promotionDone (d idx : Nat)
  /-- OBJECT_EVICTION_DONE (R355). -/
  | objectEvictionDone (d idx : Nat)
  /-- SEQ_WORD_REPLAY (R361). -/
  | seqWordReplay (d a : Nat)
  /-- SEQ_TRANSITION (R364). -/
  | seqTransition (d a : Nat)
  /-- SEQ_TIMEOUT (R364). -/
  | seqTimeout (d a : Nat)
  /-- PERIODIC_CUT (R377). -/
  | periodicCut (d a : Nat)
  /-- CUT_INSTANT (R377). -/
  | cutInstant (d a : Nat)
  /-- BANK_SEAL (R379). -/
  | bankSeal (d a : Nat)
  /-- JOURNAL_ACK (R382). -/
  | journalAck (d a i : Nat)
  /-- L1_DIRECTORY_REQUEST (R205). -/
  | l1DirectoryRequest (d a : Nat) (q : L1Req) (sec : Nat)
  /-- REMOTE_FETCH (R207). -/
  | remoteFetch (d sec : Nat)
  /-- HOME_UPDATE (R210). -/
  | homeUpdate (d sec : Nat)
  /-- REMOTE_INVALIDATION (R208). -/
  | remoteInvalidation (d sec : Nat)
  /-- SLICE_REPLACEMENT (R209). -/
  | sliceReplacement (d line : Nat)
  /-- DIRECTORY_ENTRY_DROP (R211). -/
  | directoryEntryDrop (h line : Nat)
  /-- PAGE_WALK (R219). -/
  | pageWalk (d asid : Nat) (va : Ptr)
  /-- BACK_INVALIDATION_SNOOP (R215). -/
  | backInvalidationSnoop (line : Nat)
  /-- HOST_SNOOP (R217). -/
  | hostSnoop (line : Nat)
  /-- HOST_LINK_ACCESS (R406). -/
  | hostLinkAccess (link bar off : Nat) (acc : HostAcc)
  /-- POOL_LINK_DOWN (R216). -/
  | poolLinkDown (p : Nat)
  /-- POOL_LINK_UP (R216). -/
  | poolLinkUp (p : Nat)
  /-- ENQUEUE_WINDOW_WRITE (R300). -/
  | enqueueWindowWrite (d : Nat) (wafer : Bool) (idx : Nat) (rec : List Word)
  /-- ENQDROP_WRITE (R297). -/
  | enqdropWrite (d : Nat)
  /-- OBJECT_TABLE_WRITE (R354). -/
  | objectTableWrite (d idx wd : Nat) (x : Word)
  /-- COMPUTE_ISLAND_POWER_FAIL (R380). -/
  | computeIslandPowerFail (d : Nat) (finish : List Nat)
  /-- CORE_RESUME (R384). -/
  | coreResume (d a : Nat)
  /-- FABRIC_C0_ARRIVAL (R402). -/
  | fabricC0Arrival (m : FabMsg)
  /-- FABRIC_C1_ARRIVAL (R402). -/
  | fabricC1Arrival (m : FabMsg)
  /-- FABRIC_C2_ARRIVAL (R402). -/
  | fabricC2Arrival (m : FabMsg)
  /-- FABRIC_ACK (R397). -/
  | fabricAck (o : Nat) (status : Word)
  /-- FABRIC_RESEND (R404). -/
  | fabricResend (o : Nat)
  /-- PORT_DOWN (R405). -/
  | portDown (p : Nat)
  /-- PORT_UP (R405). -/
  | portUp (p : Nat)
  /-- FABRIC_MANAGEMENT (R395). -/
  | fabricManagement (dev : Nat)
  /-- FDISC_WRITE (R396). -/
  | fdiscWrite (d : Nat)
  /-- CONTROL_REGISTER_WRITE (R20). -/
  | controlRegisterWrite (d off : Nat) (x : Word)
  /-- MODULE_BRING_UP (R414). -/
  | moduleBringUp
  /-- MODULE_POWER_LOSS (R52). -/
  | modulePowerLoss (keep : List Nat)
  /-- UNCORE_ISLAND_POWER_LOSS (R52). -/
  | uncoreIslandPowerLoss (d : Nat) (keep : List Nat)
  /-- UNIT_RETIREMENT (R425). -/
  | unitRetirement (u : RetUnit)
  /-- CLOCK_SOURCE_FAIL (R421). -/
  | clockSourceFail (d a : Nat)
  /-- POWER_LIMIT_STEP (R424). -/
  | powerLimitStep (d isl : Nat) (lower : Bool)
  /-- SUPPLY_DROOP (R424). -/
  | supplyDroop (d isl : Nat)
  /-- THERMAL_TRIP (R424). -/
  | thermalTrip
  /-- ISLAND_POWER_OFF (R423). -/
  | islandPowerOff (d : Nat)
  /-- UNCORE_ISLAND_POWER_RETURN (R422). -/
  | uncoreIslandPowerReturn (d : Nat)
  /-- ACKNOWLEDGEMENT_RECEIPT_CONFIRMED (R400). -/
  | acknowledgementReceiptConfirmed (d : Nat) (id : FabId)
  /-- CORRECTED_ERROR (R425): corrected, or uncorrectable at a physical address. -/
  | correctedError (d : Nat) (ue : Option Nat)
deriving DecidableEq, Repr

end Sys2Proof
end

