-- ==== Sys2Proof/Decode.lean ====
section
/-! DEFINITION. Decoding and encoding of instruction words (03, R58 to R82): the opcode map, the format families, the rule
for trailing literals, check 4 of Table 03-11 on the fields of every instruction, the decoder, and the encoder. -/

namespace Sys2Proof

/-- The fields of a word by format family (Table 03-10). -/
inductive Fields where
  | reg (f : RegW) | br (f : BrW) | loop (f : LoopW) | mem (f : MemW)
  | mtx (f : MtxW) | drn (f : DrnW) | asy (f : AsyW) | sys (f : SysW)
deriving DecidableEq, Repr

/-- Why a word does not decode: the trap of the first failing check of Table 03-11 that the word alone decides. -/
inductive DecodeError where
  /-- Unassigned opcode (R76). -/
  | illegalOpcode
  /-- The trailing literal is missing (R59). -/
  | illegalClause
  /-- A reserved field of the format is set. -/
  | illegalOperand
deriving DecidableEq, Repr

/-! ## The opcode map -/

/-- Opcode and fields of an instruction word; an event has none (Table 03-9). -/
def Instr.parts (i : Instr) : Option (BitVec 8 × Fields) :=
  match i with
  | .nop i => some (0x00#8, .reg i)
  | .bra i => some (0x01#8, .br i)
  | .brx i => some (0x02#8, .reg i)
  | .call i => some (0x03#8, .br i)
  | .callx i => some (0x04#8, .reg i)
  | .ret i => some (0x05#8, .reg i)
  | .loop i => some (0x06#8, .loop i)
  | .rpt i => some (0x07#8, .reg i)
  | .exit i => some (0x08#8, .reg i)
  | .exits i => some (0x09#8, .reg i)
  | .bar i => some (0x0A#8, .reg i)
  | .bara i => some (0x0B#8, .reg i)
  | .barm i => some (0x0C#8, .reg i)
  | .barw i => some (0x0D#8, .reg i)
  | .yield i => some (0x0E#8, .reg i)
  | .vote i => some (0x0F#8, .reg i)
  | .plop i => some (0x10#8, .reg i)
  | .movs i => some (0x11#8, .reg i)
  | .smov i => some (0x12#8, .reg i)
  | .reggive i => some (0x13#8, .reg i)
  | .regclaim i => some (0x14#8, .reg i)
  | .settid i => some (0x15#8, .reg i)
  | .qbind i => some (0x16#8, .reg i)
  | .chput i => some (0x17#8, .reg i)
  | .chget i => some (0x18#8, .reg i)
  | .chclose i => some (0x19#8, .reg i)
  | .sleep i => some (0x1A#8, .reg i)
  | .trap i => some (0x1B#8, .reg i)
  | .assert i => some (0x1C#8, .reg i)
  | .tret i => some (0x1D#8, .reg i)
  | .kill i => some (0x1E#8, .reg i)
  | .movsys i => some (0x1F#8, .reg i)
  | .movsysW i => some (0x1F#8, .reg i)
  | .iadd i => some (0x30#8, .reg i)
  | .isub i => some (0x31#8, .reg i)
  | .imul i => some (0x32#8, .reg i)
  | .imulh i => some (0x33#8, .reg i)
  | .imad i => some (0x34#8, .reg i)
  | .imin i => some (0x35#8, .reg i)
  | .imax i => some (0x36#8, .reg i)
  | .iabs i => some (0x37#8, .reg i)
  | .and i => some (0x38#8, .reg i)
  | .or i => some (0x39#8, .reg i)
  | .xor i => some (0x3A#8, .reg i)
  | .not i => some (0x3B#8, .reg i)
  | .shl i => some (0x3C#8, .reg i)
  | .shr i => some (0x3D#8, .reg i)
  | .shra i => some (0x3E#8, .reg i)
  | .rot i => some (0x3F#8, .reg i)
  | .popc i => some (0x40#8, .reg i)
  | .clz i => some (0x41#8, .reg i)
  | .brev i => some (0x42#8, .reg i)
  | .bfe i => some (0x43#8, .reg i)
  | .bfi i => some (0x44#8, .reg i)
  | .bymix i => some (0x45#8, .reg i)
  | .sel i => some (0x46#8, .reg i)
  | .icmp i => some (0x47#8, .reg i)
  | .mov i => some (0x48#8, .reg i)
  | .movi i => some (0x49#8, .reg i)
  | .iacc i => some (0x4A#8, .reg i)
  | .isad i => some (0x4B#8, .reg i)
  | .idot4 i => some (0x4C#8, .reg i)
  | .fadd i => some (0x4D#8, .reg i)
  | .fsub i => some (0x4E#8, .reg i)
  | .fmul i => some (0x4F#8, .reg i)
  | .ffma i => some (0x50#8, .reg i)
  | .fmin i => some (0x51#8, .reg i)
  | .fmax i => some (0x52#8, .reg i)
  | .fcmp i => some (0x53#8, .reg i)
  | .frnd i => some (0x54#8, .reg i)
  | .fclmp i => some (0x55#8, .reg i)
  | .fscale i => some (0x56#8, .reg i)
  | .fexp i => some (0x57#8, .reg i)
  | .addmin i => some (0x58#8, .reg i)
  | .addmax i => some (0x59#8, .reg i)
  | .rcp i => some (0x5A#8, .reg i)
  | .rsq i => some (0x5B#8, .reg i)
  | .sqrt i => some (0x5C#8, .reg i)
  | .exp2 i => some (0x5D#8, .reg i)
  | .log2 i => some (0x5E#8, .reg i)
  | .hadd2 i => some (0x5F#8, .reg i)
  | .hmul2 i => some (0x60#8, .reg i)
  | .hfma2 i => some (0x61#8, .reg i)
  | .hmin2 i => some (0x62#8, .reg i)
  | .hmax2 i => some (0x63#8, .reg i)
  | .dot2 i => some (0x64#8, .reg i)
  | .cvt i => some (0x65#8, .reg i)
  | .pkcv i => some (0x66#8, .reg i)
  | .xpcv i => some (0x67#8, .reg i)
  | .scext i => some (0x68#8, .reg i)
  | .scins i => some (0x69#8, .reg i)
  | .scmax i => some (0x6A#8, .reg i)
  | .dot4 i => some (0x6B#8, .reg i)
  | .pack i => some (0x6C#8, .reg i)
  | .qxch i => some (0x6D#8, .reg i)
  | .qbc i => some (0x6E#8, .reg i)
  | .qsum i => some (0x6F#8, .reg i)
  | .lshf i => some (0x70#8, .reg i)
  | .lrot i => some (0x71#8, .reg i)
  | .lbc i => some (0x72#8, .reg i)
  | .lidx i => some (0x73#8, .reg i)
  | .wred i => some (0x74#8, .reg i)
  | .wscan i => some (0x75#8, .reg i)
  | .rnds i => some (0x76#8, .reg i)
  | .rnd i => some (0x77#8, .reg i)
  | .ld i => some (0x80#8, .mem i)
  | .st i => some (0x81#8, .mem i)
  | .ldx i => some (0x82#8, .mem i)
  | .stx i => some (0x83#8, .mem i)
  | .ldw i => some (0x84#8, .mem i)
  | .stw i => some (0x85#8, .mem i)
  | .ldmx i => some (0x86#8, .mem i)
  | .stmx i => some (0x87#8, .mem i)
  | .ldn i => some (0x88#8, .mem i)
  | .stn i => some (0x89#8, .mem i)
  | .pref i => some (0x8A#8, .mem i)
  | .fence i => some (0x8B#8, .mem i)
  | .cwb i => some (0x8C#8, .mem i)
  | .cinv i => some (0x8D#8, .mem i)
  | .setb i => some (0x8E#8, .mem i)
  | .ldb i => some (0x8F#8, .mem i)
  | .badd i => some (0x90#8, .mem i)
  | .lds i => some (0x91#8, .mem i)
  | .mmq i => some (0xA0#8, .mtx i)
  | .mmqs i => some (0xA1#8, .mtx i)
  | .mmqx i => some (0xA2#8, .mtx i)
  | .mmqt i => some (0xA3#8, .mtx i)
  | .mms i => some (0xA4#8, .mtx i)
  | .mmss i => some (0xA5#8, .mtx i)
  | .mmz i => some (0xA6#8, .mtx i)
  | .accmv i => some (0xA7#8, .mtx i)
  | .accld i => some (0xA8#8, .mtx i)
  | .accsc i => some (0xA9#8, .mtx i)
  | .acccv i => some (0xAA#8, .mtx i)
  | .spld i => some (0xAB#8, .mtx i)
  | .dst i => some (0xB0#8, .drn i)
  | .dsta i => some (0xB1#8, .drn i)
  | .dstm i => some (0xB2#8, .drn i)
  | .dstv i => some (0xB3#8, .drn i)
  | .atom i => some (0xB4#8, .drn i)
  | .atomc i => some (0xB5#8, .drn i)
  | .red i => some (0xB6#8, .drn i)
  | .dfence i => some (0xB7#8, .drn i)
  | .cpy i => some (0xB8#8, .asy i)
  | .cpy2 i => some (0xB9#8, .asy i)
  | .cpym i => some (0xBA#8, .asy i)
  | .cpytProm i => some (0xBB#8, .asy i)
  | .cpytEvct i => some (0xBB#8, .asy i)
  | .cpytScr i => some (0xBB#8, .asy i)
  | .cpytGlb i => some (0xBB#8, .asy i)
  | .cpyw i => some (0xBC#8, .asy i)
  | .waitt i => some (0xBD#8, .asy i)
  | .tqry i => some (0xBE#8, .asy i)
  | .cpyc i => some (0xBF#8, .asy i)
  | .spawn i => some (0xC0#8, .asy i)
  | .enq i => some (0xC1#8, .asy i)
  | .tdec i => some (0xC2#8, .asy i)
  | .tinc i => some (0xC3#8, .asy i)
  | .twait i => some (0xC4#8, .asy i)
  | .tstat i => some (0xC5#8, .asy i)
  | .tcancel i => some (0xC6#8, .asy i)
  | .trearm i => some (0xC7#8, .asy i)
  | .vpost i => some (0xC8#8, .asy i)
  | .vpostf i => some (0xC9#8, .asy i)
  | .subs i => some (0xCA#8, .asy i)
  | .verq i => some (0xCB#8, .asy i)
  | .rstop i => some (0xCC#8, .asy i)
  | .grpsetNew i => some (0xCD#8, .asy i)
  | .grpsetAdd i => some (0xCD#8, .asy i)
  | .grpsetArm i => some (0xCD#8, .asy i)
  | .grpsetFree i => some (0xCD#8, .asy i)
  | .shmap i => some (0xCE#8, .asy i)
  | .shmapFree i => some (0xCE#8, .asy i)
  | .ssack i => some (0xCF#8, .asy i)
  | .seqld i => some (0xD0#8, .sys i)
  | .seqgo i => some (0xD1#8, .sys i)
  | .seqstop i => some (0xD2#8, .sys i)
  | .qset i => some (0xD3#8, .sys i)
  | .qdec i => some (0xD4#8, .sys i)
  | .qwait i => some (0xD5#8, .sys i)
  | .seqsig i => some (0xD6#8, .sys i)
  | .seqq i => some (0xD7#8, .sys i)
  | .pfence i => some (0xD8#8, .sys i)
  | .chks i => some (0xD9#8, .sys i)
  | .umq i => some (0xDA#8, .sys i)
  | .umset i => some (0xDB#8, .sys i)
  | .fsend i => some (0xDC#8, .sys i)
  | .fenq i => some (0xDD#8, .sys i)
  | .fsig i => some (0xDE#8, .sys i)
  | .ffence i => some (0xDF#8, .sys i)
  | .tlbi i => some (0xE0#8, .sys i)
  | .hflush i => some (0xE1#8, .sys i)
  | .hprobe i => some (0xE2#8, .sys i)
  | .atr i => some (0xE3#8, .sys i)
  | .svcVf i => some (0xE4#8, .sys i)
  | .svcRetire i => some (0xE4#8, .sys i)
  | .svcPkill i => some (0xE4#8, .sys i)
  | .svcQuote i => some (0xE4#8, .sys i)
  | .capq i => some (0xE5#8, .sys i)
  | .pwrq i => some (0xE6#8, .sys i)
  | .clkq i => some (0xE7#8, .sys i)
  | .evlogPut i => some (0xE8#8, .sys i)
  | .evlogGet i => some (0xE8#8, .sys i)
  | .hstat i => some (0xE9#8, .sys i)
  | .clauseIssue _ _ _ | .quartetRendezvous _ _ | .activeSetExchange _ _ | .handlerStart _ _ | .slotComplete _ | .sleepDeadline _ _ | .siderealTick _
    | .siderealBeacon | .windowWriteEntry _ | .loadComplete _ _ | .storePerformed _ _ | .l1DirectoryRequest _ _ _ _ | .remoteFetch _ _
    | .homeUpdate _ _ | .remoteInvalidation _ _ | .sliceReplacement _ _ | .directoryEntryDrop _ _ | .homeRetry _ | .reservationLapse _ _
    | .pageWalk _ _ _ | .backInvalidationSnoop _ | .hostSnoop _ | .hostLinkAccess _ _ _ _ | .poolLinkDown _ | .poolLinkUp _ | .cpymRequestArrival _
    | .multicastWindowClose _ _ | .lateJoinerResend _ _ | .copySectorWrite _ _ | .copyCompletion _ | .transitTick _ _ | .matrixCompletion _ _
    | .drainUpdateApply _ | .enqueueWindowWrite _ _ _ _ | .enqdropWrite _ | .rangeRecordArrival _ | .dispatchPlacement _ | .eviction _
    | .parkRecordWake _ _ | .parkNeighbourOffer _ _ | .blockExit _ | .gridCompletion _ _ | .supersedeEvent _ _ | .twaitDeadline _ _
    | .objectTableWrite _ _ _ _ | .promotionServe _ | .promotionAging _ | .promotionDone _ _ | .objectEvictionDone _ _ | .seqWordReplay _ _
    | .seqTransition _ _ | .seqTimeout _ _ | .periodicCut _ _ | .cutInstant _ _ | .bankSeal _ _ | .journalAck _ _ _ | .computeIslandPowerFail _ _
    | .coreResume _ _ | .fabricC0Arrival _ | .fabricC1Arrival _ | .fabricC2Arrival _ | .fabricAck _ _ | .fabricResend _ | .portDown _ | .portUp _
    | .fabricManagement _ | .fdiscWrite _ | .controlRegisterWrite _ _ _ | .moduleBringUp | .modulePowerLoss _ | .uncoreIslandPowerLoss _ _
    | .unitRetirement _ | .clockSourceFail _ _ | .powerLimitStep _ _ _ | .supplyDroop _ _ | .thermalTrip | .islandPowerOff _
    | .uncoreIslandPowerReturn _ | .acknowledgementReceiptConfirmed _ _ | .correctedError _ _ => none

/-- The opcode number of an instruction word; 256 for an event. -/
def Instr.opcode (i : Instr) : Nat :=
  match i.parts with
  | some p => p.1.toNat
  | none => 256

/-- Whether a constructor is an instruction word. -/
def Instr.isWord (i : Instr) : Bool := i.parts.isSome

/-- Whether an opcode is assigned (Table 03-9, R76). -/
def opAssigned (op : Nat) : Bool :=
  op ≤ 0x1F || (0x30 ≤ op && op ≤ 0x77) || (0x80 ≤ op && op ≤ 0x91) || (0xA0 ≤ op && op ≤ 0xAB) || (0xB0 ≤ op && op ≤ 0xE9)

/-- The clause class of an assigned opcode (Table 03-10): VEC 0, MEM 1, MTX 2, DRN 3, ASY 4, CTL 5, SYS 6. -/
def opClass (op : Nat) : Nat :=
  if op ≤ 0x1F then 5 else if op ≤ 0x77 then 0 else if op ≤ 0x91 then 1 else if op ≤ 0xAB then 2
  else if op ≤ 0xB7 then 3 else if op ≤ 0xCF then 4 else 6

/-- Opcodes marked E in Table 03-9: the instruction ends its clause (R59). -/
def opEnds (op : Nat) : Bool :=
  [0x01, 0x02, 0x03, 0x04, 0x05, 0x07, 0x08, 0x09, 0x0A, 0x0C, 0x0D, 0x0E, 0x14, 0x17, 0x18, 0x1A, 0x1B, 0x1D, 0x1E, 0xBD, 0xC0, 0xC4, 0xD5].contains op

/-- Opcodes marked S in Table 03-9: supervisor only (R77). -/
def opSuper (op : Nat) : Bool := [0x1D, 0x1E, 0x1F, 0xDB, 0xE0].contains op

/-- Quartet forms open their clause (R59). -/
def opQuartet (op : Nat) : Bool := 0xA0 ≤ op && op ≤ 0xA3

/-! ## Formats -/

/-- Register format: a 7-bit field `srcA` of this opcode is a source (Tables 05-10, 06-2). `w6` is bit 6 of `srcB`, the W bit of MOVSYS. -/
def regSrcA (op : Nat) (w6 : Bool) : Bool :=
  if op ≤ 0x1F then
    [0x02, 0x04, 0x07, 0x0A, 0x0B, 0x0C, 0x12, 0x13, 0x14, 0x15, 0x17, 0x1A, 0x1B, 0x1D, 0x1E].contains op || (op = 0x1F && w6)
  else !(op = 0x49 || op = 0x77)

/-- Register format: `srcB` of this opcode is a source; PKCV and XPCV hold their control literal there (Tables 05-10, 06-2, R155). -/
def regSrcB (op : Nat) : Bool :=
  op = 0x1C || (0x30 ≤ op && op ≤ 0x36) || (0x38 ≤ op && op ≤ 0x3A) || (0x3C ≤ op && op ≤ 0x3F) || (0x43 ≤ op && op ≤ 0x47)
    || (0x4A ≤ op && op ≤ 0x53) || op = 0x55 || op = 0x56 || op = 0x58 || op = 0x59 || (0x5F ≤ op && op ≤ 0x64)
    || op = 0x66 || op = 0x67 || (0x6A ≤ op && op ≤ 0x6C) || (0x70 ≤ op && op ≤ 0x73) || op = 0x76

/-- Register format: the destination is also the third source (Table 06-2). -/
def regThird (op : Nat) : Bool :=
  [0x34, 0x44, 0x45, 0x46, 0x4A, 0x4B, 0x4C, 0x50, 0x55, 0x58, 0x59, 0x61, 0x64, 0x66, 0x67, 0x69, 0x6A, 0x6B, 0x70].contains op

/-- Register format: bit [20] is the format bit F and `dst` always names a v-register (R155). -/
def regFBit (op : Nat) : Bool := (0x5F ≤ op && op ≤ 0x64) || op = 0x6B

/-- Register format: result-producing opcodes (Result column of Tables 05-10 and 06-2; MOVSYS only in its read form). -/
def regResult (op : Nat) (w6 : Bool) : Bool :=
  if op ≤ 0x1F then [0x0F, 0x11, 0x12, 0x18].contains op || (op = 0x1F && !w6)
  else !(op = 0x47 || op = 0x53 || op = 0x76)

def opIsBranch (op : Nat) : Bool := op = 0x01 || op = 0x03
def opIsLoop (op : Nat) : Bool := op = 0x06

/-- Whether a word takes a trailing literal (R71). -/
def takesLiteral (w : Word) : Bool :=
  let op := (w.extractLsb' 24 8).toNat
  if opIsBranch op then false
  else if opIsLoop op then w.extractLsb' 12 7 == 124#7
  else if op ≤ 0x77 then
    (regSrcA op (w.getLsbD 6) && w.extractLsb' 7 7 == 124#7) || (regSrcB op && w.extractLsb' 0 7 == 124#7)
  else if 0xA0 ≤ op && op ≤ 0xB7 then true
  else w.getLsbD 20

def regOfWord (w : Word) (lit : Option Word) : RegW :=
  ⟨w.extractLsb' 21 3, w.extractLsb' 20 1, w.extractLsb' 14 6, w.extractLsb' 7 7, w.extractLsb' 0 7, lit⟩
def brOfWord (w : Word) : BrW := ⟨w.extractLsb' 21 3, w.extractLsb' 0 18⟩
def loopOfWord (w : Word) (lit : Option Word) : LoopW :=
  ⟨w.extractLsb' 21 3, w.extractLsb' 19 2, w.extractLsb' 12 7, w.extractLsb' 0 12, lit⟩
def memOfWord (w : Word) (lit : Option Word) : MemW :=
  ⟨w.extractLsb' 21 3, w.extractLsb' 17 3, w.extractLsb' 14 3, w.extractLsb' 8 6, w.extractLsb' 5 3, w.extractLsb' 0 5, lit⟩
def mtxOfWord (w lit : Word) : MtxW :=
  ⟨w.extractLsb' 21 3, w.extractLsb' 17 4, w.extractLsb' 14 3, w.extractLsb' 8 6, w.extractLsb' 2 6, lit⟩
def drnOfWord (w lit : Word) : DrnW :=
  ⟨w.extractLsb' 21 3, w.extractLsb' 17 4, w.extractLsb' 14 3, w.extractLsb' 8 6, w.extractLsb' 5 3, w.extractLsb' 0 5, lit⟩
def asyOfWord (w : Word) (lit : Option Word) : AsyW :=
  ⟨w.extractLsb' 21 3, w.extractLsb' 17 3, w.extractLsb' 14 3, w.extractLsb' 10 4, w.extractLsb' 7 3, w.extractLsb' 4 3, lit⟩
def sysOfWord (w : Word) (lit : Option Word) : SysW :=
  ⟨w.extractLsb' 21 3, w.extractLsb' 17 3, w.extractLsb' 12 5, w.extractLsb' 8 4, w.extractLsb' 5 3, lit⟩

def regToWord (op : BitVec 8) (f : RegW) : Word := op ++ f.g ++ f.nw ++ f.dst ++ f.a ++ f.b
def brToWord (op : BitVec 8) (f : BrW) : Word := op ++ f.g ++ 0#3 ++ f.off
def loopToWord (op : BitVec 8) (f : LoopW) : Word := op ++ f.g ++ f.c ++ f.cnt ++ f.stop
def memToWord (op : BitVec 8) (f : MemW) : Word :=
  op ++ f.g ++ BitVec.ofBool f.lit.isSome ++ f.d ++ f.sz ++ f.dat ++ f.ba ++ f.idx
def mtxToWord (op : BitVec 8) (f : MtxW) : Word := op ++ f.g ++ f.t ++ f.d ++ f.ar ++ f.br ++ 0#2
def drnToWord (op : BitVec 8) (f : DrnW) : Word := op ++ f.g ++ f.t ++ f.d ++ f.v ++ f.ba ++ f.idx
def asyToWord (op : BitVec 8) (f : AsyW) : Word :=
  op ++ f.g ++ BitVec.ofBool f.lit.isSome ++ f.d ++ f.v ++ f.s ++ f.ba ++ f.bb ++ 0#4
def sysToWord (op : BitVec 8) (f : SysW) : Word :=
  op ++ f.g ++ BitVec.ofBool f.lit.isSome ++ f.d ++ f.f ++ f.s ++ f.ba ++ 0#5

/-- The instruction of an opcode in the reg format (Table 03-9). -/
def mkReg (op : Nat) (f : RegW) : Option Instr :=
  match op with
  | 0x00 => some (.nop f)
  | 0x02 => some (.brx f)
  | 0x04 => some (.callx f)
  | 0x05 => some (.ret f)
  | 0x07 => some (.rpt f)
  | 0x08 => some (.exit f)
  | 0x09 => some (.exits f)
  | 0x0A => some (.bar f)
  | 0x0B => some (.bara f)
  | 0x0C => some (.barm f)
  | 0x0D => some (.barw f)
  | 0x0E => some (.yield f)
  | 0x0F => some (.vote f)
  | 0x10 => some (.plop f)
  | 0x11 => some (.movs f)
  | 0x12 => some (.smov f)
  | 0x13 => some (.reggive f)
  | 0x14 => some (.regclaim f)
  | 0x15 => some (.settid f)
  | 0x16 => some (.qbind f)
  | 0x17 => some (.chput f)
  | 0x18 => some (.chget f)
  | 0x19 => some (.chclose f)
  | 0x1A => some (.sleep f)
  | 0x1B => some (.trap f)
  | 0x1C => some (.assert f)
  | 0x1D => some (.tret f)
  | 0x1E => some (.kill f)
  | 0x1F => some (if f.b.getLsbD 6 then .movsysW f else .movsys f)
  | 0x30 => some (.iadd f)
  | 0x31 => some (.isub f)
  | 0x32 => some (.imul f)
  | 0x33 => some (.imulh f)
  | 0x34 => some (.imad f)
  | 0x35 => some (.imin f)
  | 0x36 => some (.imax f)
  | 0x37 => some (.iabs f)
  | 0x38 => some (.and f)
  | 0x39 => some (.or f)
  | 0x3A => some (.xor f)
  | 0x3B => some (.not f)
  | 0x3C => some (.shl f)
  | 0x3D => some (.shr f)
  | 0x3E => some (.shra f)
  | 0x3F => some (.rot f)
  | 0x40 => some (.popc f)
  | 0x41 => some (.clz f)
  | 0x42 => some (.brev f)
  | 0x43 => some (.bfe f)
  | 0x44 => some (.bfi f)
  | 0x45 => some (.bymix f)
  | 0x46 => some (.sel f)
  | 0x47 => some (.icmp f)
  | 0x48 => some (.mov f)
  | 0x49 => some (.movi f)
  | 0x4A => some (.iacc f)
  | 0x4B => some (.isad f)
  | 0x4C => some (.idot4 f)
  | 0x4D => some (.fadd f)
  | 0x4E => some (.fsub f)
  | 0x4F => some (.fmul f)
  | 0x50 => some (.ffma f)
  | 0x51 => some (.fmin f)
  | 0x52 => some (.fmax f)
  | 0x53 => some (.fcmp f)
  | 0x54 => some (.frnd f)
  | 0x55 => some (.fclmp f)
  | 0x56 => some (.fscale f)
  | 0x57 => some (.fexp f)
  | 0x58 => some (.addmin f)
  | 0x59 => some (.addmax f)
  | 0x5A => some (.rcp f)
  | 0x5B => some (.rsq f)
  | 0x5C => some (.sqrt f)
  | 0x5D => some (.exp2 f)
  | 0x5E => some (.log2 f)
  | 0x5F => some (.hadd2 f)
  | 0x60 => some (.hmul2 f)
  | 0x61 => some (.hfma2 f)
  | 0x62 => some (.hmin2 f)
  | 0x63 => some (.hmax2 f)
  | 0x64 => some (.dot2 f)
  | 0x65 => some (.cvt f)
  | 0x66 => some (.pkcv f)
  | 0x67 => some (.xpcv f)
  | 0x68 => some (.scext f)
  | 0x69 => some (.scins f)
  | 0x6A => some (.scmax f)
  | 0x6B => some (.dot4 f)
  | 0x6C => some (.pack f)
  | 0x6D => some (.qxch f)
  | 0x6E => some (.qbc f)
  | 0x6F => some (.qsum f)
  | 0x70 => some (.lshf f)
  | 0x71 => some (.lrot f)
  | 0x72 => some (.lbc f)
  | 0x73 => some (.lidx f)
  | 0x74 => some (.wred f)
  | 0x75 => some (.wscan f)
  | 0x76 => some (.rnds f)
  | 0x77 => some (.rnd f)
  | _ => none

/-- The instruction of an opcode in the br format (Table 03-9). -/
def mkBr (op : Nat) (f : BrW) : Option Instr :=
  match op with
  | 0x01 => some (.bra f)
  | 0x03 => some (.call f)
  | _ => none

/-- The instruction of an opcode in the loop format (Table 03-9). -/
def mkLoop (op : Nat) (f : LoopW) : Option Instr :=
  match op with
  | 0x06 => some (.loop f)
  | _ => none

/-- The instruction of an opcode in the mem format (Table 03-9). -/
def mkMem (op : Nat) (f : MemW) : Option Instr :=
  match op with
  | 0x80 => some (.ld f)
  | 0x81 => some (.st f)
  | 0x82 => some (.ldx f)
  | 0x83 => some (.stx f)
  | 0x84 => some (.ldw f)
  | 0x85 => some (.stw f)
  | 0x86 => some (.ldmx f)
  | 0x87 => some (.stmx f)
  | 0x88 => some (.ldn f)
  | 0x89 => some (.stn f)
  | 0x8A => some (.pref f)
  | 0x8B => some (.fence f)
  | 0x8C => some (.cwb f)
  | 0x8D => some (.cinv f)
  | 0x8E => some (.setb f)
  | 0x8F => some (.ldb f)
  | 0x90 => some (.badd f)
  | 0x91 => some (.lds f)
  | _ => none

/-- The instruction of an opcode in the mtx format (Table 03-9). -/
def mkMtx (op : Nat) (f : MtxW) : Option Instr :=
  match op with
  | 0xA0 => some (.mmq f)
  | 0xA1 => some (.mmqs f)
  | 0xA2 => some (.mmqx f)
  | 0xA3 => some (.mmqt f)
  | 0xA4 => some (.mms f)
  | 0xA5 => some (.mmss f)
  | 0xA6 => some (.mmz f)
  | 0xA7 => some (.accmv f)
  | 0xA8 => some (.accld f)
  | 0xA9 => some (.accsc f)
  | 0xAA => some (.acccv f)
  | 0xAB => some (.spld f)
  | _ => none

/-- The instruction of an opcode in the drn format (Table 03-9). -/
def mkDrn (op : Nat) (f : DrnW) : Option Instr :=
  match op with
  | 0xB0 => some (.dst f)
  | 0xB1 => some (.dsta f)
  | 0xB2 => some (.dstm f)
  | 0xB3 => some (.dstv f)
  | 0xB4 => some (.atom f)
  | 0xB5 => some (.atomc f)
  | 0xB6 => some (.red f)
  | 0xB7 => some (.dfence f)
  | _ => none

/-- The instruction of an opcode in the asy format (Table 03-9). -/
def mkAsy (op : Nat) (f : AsyW) : Option Instr :=
  match op with
  | 0xB8 => some (.cpy f)
  | 0xB9 => some (.cpy2 f)
  | 0xBA => some (.cpym f)
  | 0xBB => some (match (f.v.extractLsb' 0 2).toNat with | 0 => .cpytProm f | 1 => .cpytEvct f | 2 => .cpytScr f | _ => .cpytGlb f)
  | 0xBC => some (.cpyw f)
  | 0xBD => some (.waitt f)
  | 0xBE => some (.tqry f)
  | 0xBF => some (.cpyc f)
  | 0xC0 => some (.spawn f)
  | 0xC1 => some (.enq f)
  | 0xC2 => some (.tdec f)
  | 0xC3 => some (.tinc f)
  | 0xC4 => some (.twait f)
  | 0xC5 => some (.tstat f)
  | 0xC6 => some (.tcancel f)
  | 0xC7 => some (.trearm f)
  | 0xC8 => some (.vpost f)
  | 0xC9 => some (.vpostf f)
  | 0xCA => some (.subs f)
  | 0xCB => some (.verq f)
  | 0xCC => some (.rstop f)
  | 0xCD => some (match (f.v.extractLsb' 0 2).toNat with | 0 => .grpsetNew f | 1 => .grpsetAdd f | 2 => .grpsetArm f | _ => .grpsetFree f)
  | 0xCE => some (if f.v.getLsbD 0 then .shmapFree f else .shmap f)
  | 0xCF => some (.ssack f)
  | _ => none

/-- The instruction of an opcode in the sys format (Table 03-9). -/
def mkSys (op : Nat) (f : SysW) : Option Instr :=
  match op with
  | 0xD0 => some (.seqld f)
  | 0xD1 => some (.seqgo f)
  | 0xD2 => some (.seqstop f)
  | 0xD3 => some (.qset f)
  | 0xD4 => some (.qdec f)
  | 0xD5 => some (.qwait f)
  | 0xD6 => some (.seqsig f)
  | 0xD7 => some (.seqq f)
  | 0xD8 => some (.pfence f)
  | 0xD9 => some (.chks f)
  | 0xDA => some (.umq f)
  | 0xDB => some (.umset f)
  | 0xDC => some (.fsend f)
  | 0xDD => some (.fenq f)
  | 0xDE => some (.fsig f)
  | 0xDF => some (.ffence f)
  | 0xE0 => some (.tlbi f)
  | 0xE1 => some (.hflush f)
  | 0xE2 => some (.hprobe f)
  | 0xE3 => some (.atr f)
  | 0xE4 => some (match (f.f.extractLsb' 0 2).toNat with | 0 => .svcVf f | 1 => .svcRetire f | 2 => .svcPkill f | _ => .svcQuote f)
  | 0xE5 => some (.capq f)
  | 0xE6 => some (.pwrq f)
  | 0xE7 => some (.clkq f)
  | 0xE8 => some (if f.f.getLsbD 0 then .evlogGet f else .evlogPut f)
  | 0xE9 => some (.hstat f)
  | _ => none

/-! ## Check 4 of Table 03-11: reserved fields zero, defined field values, D, NW and dst legal, order and scope legal -/

/-- A source field names a source (R66). -/
def srcOk (f : BitVec 7) : Bool := f.toNat ≤ 124
/-- NW and dst are legal (R67). -/
def dstOk (f : RegW) : Bool := f.nw == 0#1 || f.dst.toNat ≤ 7 || f.dst == 63#6
def zeroOk (f : RegW) : Bool := f.nw == 0#1 && f.dst == 0#6 && f.a == 0#7 && f.b == 0#7
/-- NW and dst zero, one source in srcA, srcB zero. -/
def oneOk (f : RegW) : Bool := f.nw == 0#1 && f.dst == 0#6 && srcOk f.a && f.b == 0#7
def resultTwo (f : RegW) : Bool := dstOk f && srcOk f.a && srcOk f.b
def resultOne (f : RegW) : Bool := dstOk f && srcOk f.a && f.b == 0#7
def fbitTwo (f : RegW) : Bool := srcOk f.a && srcOk f.b
/-- Result, one source, srcB a modifier below `n`. -/
def resultMod (f : RegW) (n : Nat) : Bool := dstOk f && srcOk f.a && f.b.toNat < n
/-- The literal is present exactly when a source field of the word holds 124 (R71). -/
def regLitOk (op : Nat) (f : RegW) : Bool :=
  f.lit.isSome == ((regSrcA op (f.b.getLsbD 6) && f.a == 124#7) || (regSrcB op && f.b == 124#7))

/-- Order codes legal for a kind of access (Table 02-2). -/
def loadOrd (o : Nat) : Bool := o = 0 || o = 1 || o = 4
def storeOrd (o : Nat) : Bool := o = 0 || o = 2 || o = 4
def rmwOrd (o : Nat) : Bool := o ≤ 4
def fenceOrd (o : Nat) : Bool := 1 ≤ o && o ≤ 4

/-- The fields of a memory literal (Table 03-6); the default without one (R27). -/
def litOrd (l : Word) : Nat := (l.extractLsb' 29 3).toNat
def litScp (l : Word) : Nat := (l.extractLsb' 27 2).toNat
def litPth (l : Word) : Bool := l.getLsbD 26
def dOk (d : BitVec 3) : Bool := d != 7#3
/-- A memory literal is absent, or has PTH 0 and satisfies `p` on order and scope (R189). -/
def memLit (l : Option Word) (p : Nat → Nat → Bool) : Bool :=
  match l with
  | none => true
  | some l => !litPth l && p (litOrd l) (litScp l)
def memLoad (f : MemW) : Bool := dOk f.d && memLit f.lit fun o _ => loadOrd o
def memStore (f : MemW) : Bool := dOk f.d && memLit f.lit fun o _ => storeOrd o
/-- Registers of a size code (Table 03-7). -/
def szRegs (sz : BitVec 3) : Nat := if sz == 5#3 then 2 else if sz == 6#3 then 4 else 1
/-- The size code is listed and the register group stays within v0–v63 (R184). -/
def memGroup (f : MemW) : Bool := f.sz != 7#3 && f.dat.toNat + szRegs f.sz ≤ 64
def memPlain (f : MemW) : Bool := memLit f.lit fun o s => o = 0 && s = 0
/-- A literal where the entry takes none is zero (R75). -/
def noLit (l : Option Word) : Bool := l.getD 0#32 == 0#32

/-- The literal of a matrix word by fields (Table 03-8). -/
def mFA (l : Word) : Nat := (l.extractLsb' 27 5).toNat
def mFB (l : Word) : Nat := (l.extractLsb' 22 5).toNat
def mSA (l : Word) : Nat := (l.extractLsb' 16 6).toNat
def mBSA (l : Word) : Nat := (l.extractLsb' 14 2).toNat
def mSB (l : Word) : Nat := (l.extractLsb' 8 6).toNat
def mBSB (l : Word) : Nat := (l.extractLsb' 6 2).toNat
def mSC (l : Word) : Bool := l.getLsbD 5
def mZ (l : Word) : Bool := l.getLsbD 4

/-- Operand formats of the multiply forms (R256). -/
def mulLit (l : Word) : Bool :=
  let a := mFA l
  let b := mFB l
  ((a ≤ 27 && b ≤ 27) || (a = 31 && b = 31) || ((a = 28 || a = 29) && (b = 28 || b = 29)))
    && (if mSC l then a ≤ 27 && b ≤ 27 else l.extractLsb' 6 16 == 0#16) && l.extractLsb' 0 4 == 0#4
/-- A register group of `n` registers stays within v0–v63. -/
def groupOk (r n : Nat) : Bool := r + n ≤ 64
def mulOk (f : MtxW) : Bool := dOk f.d && mulLit f.lit
def quartetOk (f : MtxW) : Bool := mulOk f && f.t.toNat ≤ 12

/-- The literal of a drain word by fields (Table 03-8). -/
def dFMT (l : Word) : Nat := (l.extractLsb' 22 5).toNat
def dRND (l : Word) : Nat := (l.extractLsb' 20 2).toNat
def dOP (l : Word) : Nat := (l.extractLsb' 16 4).toNat
def dSP (l : Word) : Bool := l.getLsbD 15
def dDISP (l : Word) : BitVec 15 := l.extractLsb' 0 15
/-- A copy literal: ORD RLX or REL, [26:0] zero (R233). -/
def copyLit (l : Option Word) (o : Nat → Bool) : Bool :=
  match l with
  | none => true
  | some l => o (litOrd l) && l.extractLsb' 0 27 == 0#27
def cpyOrd (o : Nat) : Bool := o = 0 || o = 2
/-- A scope literal of the publish engine: SCP 1 to 3, other bits zero (Table 13-6). -/
def scopeLit (l : Option Word) : Bool :=
  match l with
  | none => true
  | some l => 1 ≤ litScp l && l.extractLsb' 29 3 == 0#3 && l.extractLsb' 0 27 == 0#27
def atomPlain (f : DrnW) : Bool :=
  dOk f.d && f.t == 0#4 && rmwOrd (litOrd f.lit) && dFMT f.lit = 0 && dRND f.lit = 0

/-- The fields of an instruction word take only defined values: check 4 of Table 03-11 and the literal rules of R71 and R75
(Tables 05-10, 06-2, 06-9, 07-5, 08-7, 09-2, 10-2, 10-4, 11-1, 11-2, 12-10, 13-6, 14-7, 15-5, 16-6, 17-11). -/
def fieldsOk (i : Instr) : Bool :=
  match i with
  -- control (Table 05-10)
  | .nop f | .ret f | .exit f | .exits f | .yield f => zeroOk f && f.lit.isNone
  | .bra _ | .call _ => true
  | .brx f => oneOk f && regLitOk 0x02 f
  | .callx f => oneOk f && regLitOk 0x04 f
  | .loop f => srcOk f.cnt && f.stop != 0#12 && f.lit.isSome == (f.cnt == 124#7)
  | .rpt f => oneOk f && regLitOk 0x07 f
  | .bar f | .barm f => f.nw == 0#1 && f.dst.toNat < 16 && srcOk f.a && regLitOk 0x0A f
  | .bara f => f.nw == 0#1 && f.dst.toNat < 32 && srcOk f.a && regLitOk 0x0B f
  | .barw f => f.nw == 0#1 && f.dst.toNat < 32 && f.a == 0#7 && f.lit.isNone
  | .vote f => dstOk f && f.a.toNat < 16 && f.b.toNat < 24 && f.lit.isNone
  | .plop f => f.nw == 0#1 && f.dst.toNat < 7 && f.a.toNat < 64 && f.b.toNat < 16 && f.lit.isNone
  | .movs f => dstOk f && f.a.toNat ≤ 16 && f.b == 0#7 && f.lit.isNone
  | .smov f => f.nw == 0#1 && f.dst.toNat < 16 && srcOk f.a && f.b.toNat < 2 && regLitOk 0x12 f
  | .reggive f => oneOk f && regLitOk 0x13 f
  | .regclaim f => oneOk f && regLitOk 0x14 f
  | .settid f => oneOk f && regLitOk 0x15 f
  | .qbind f => f.nw == 1#1 && (f.dst == 6#6 || f.dst == 7#6) && f.a.toNat < 16 && (f.a.getLsbD 3 || f.a == 0#7) && f.b == 0#7 && f.lit.isNone
  | .chput f => f.nw == 0#1 && f.dst.toNat < 8 && srcOk f.a && regLitOk 0x17 f
  | .chget f => dstOk f && f.a.toNat < 8 && f.lit.isNone
  | .chclose f => f.nw == 0#1 && f.dst.toNat < 8 && f.a == 0#7 && f.b == 0#7 && f.lit.isNone
  | .sleep f => oneOk f && regLitOk 0x1A f
  | .trap f => oneOk f && regLitOk 0x1B f
  | .assert f => f.nw == 0#1 && f.dst == 0#6 && f.a.toNat < 16 && srcOk f.b && regLitOk 0x1C f
  | .tret f => f.nw == 0#1 && f.dst == 0#6 && srcOk f.a && f.b.toNat < 2 && regLitOk 0x1D f
  | .kill f => oneOk f && regLitOk 0x1E f
  | .movsys f => dstOk f && f.a == 0#7 && f.b.toNat ≤ 11 && f.lit.isNone
  | .movsysW f => f.nw == 0#1 && f.dst == 0#6 && srcOk f.a && (f.b == 73#7 || f.b == 74#7) && regLitOk 0x1F f
  -- vector (Table 06-2)
  | .iadd f | .isub f | .imul f | .imulh f | .imad f | .imin f | .imax f | .and f | .or f | .xor f | .shl f | .shr f | .shra f | .rot f
  | .bfe f | .bfi f | .bymix f | .sel f | .iacc f | .isad f | .idot4 f | .fadd f | .fsub f | .fmul f | .ffma f | .fmin f | .fmax f
  | .fclmp f | .fscale f | .addmin f | .addmax f | .scmax f | .pack f | .lshf f | .lrot f | .lbc f | .lidx f =>
    resultTwo f && regLitOk 0x30 f
  | .iabs f | .not f | .popc f | .clz f | .brev f | .mov f | .fexp f | .rcp f | .rsq f | .sqrt f | .exp2 f | .log2 f =>
    resultOne f && regLitOk 0x37 f
  | .icmp f => 8 * 6 > f.dst.toNat && f.dst.extractLsb' 0 3 != 7#3 && srcOk f.a && srcOk f.b && regLitOk 0x47 f
  | .movi f => dstOk f && f.lit.isNone
  | .fcmp f => f.nw == 0#1 && f.dst.extractLsb' 0 3 != 7#3 && srcOk f.a && srcOk f.b && regLitOk 0x53 f
  | .frnd f => resultMod f 4 && regLitOk 0x54 f
  | .hadd2 f | .hmul2 f | .hfma2 f | .hmin2 f | .hmax2 f | .dot2 f | .dot4 f => fbitTwo f && regLitOk 0x5F f
  | .cvt f => dstOk f && srcOk f.a && f.b.toNat < 96 && f.b.toNat % 32 ≤ 19
      && (f.b.toNat < 32 || !(f.b.toNat % 32 == 10 || f.b.toNat % 32 == 11)) && regLitOk 0x65 f
  | .pkcv f => dstOk f && srcOk f.a && f.b == 124#7 &&
      (match f.lit with
       | some l => l.toNat < 512 && (l.extractLsb' 0 5).toNat ≤ 29 && l.extractLsb' 5 2 != 3#2
           && ((l.extractLsb' 0 5).toNat < 28 || !l.getLsbD 7)
       | none => false)
  | .xpcv f => dstOk f && srcOk f.a && f.b == 124#7 &&
      (match f.lit with
       | some l => l.toNat < 4096 && (l.extractLsb' 0 5).toNat != 30 && l.extractLsb' 5 2 == 0#2
           && (!l.getLsbD 9 || (l.extractLsb' 0 5).toNat ≤ 27)
           && (!((l.extractLsb' 0 5).toNat == 28 || (l.extractLsb' 0 5).toNat == 29) || !l.getLsbD 7)
       | none => false)
  | .scext f => resultMod f 28 && regLitOk 0x68 f
  | .scins f | .qxch f | .qbc f => resultMod f 4 && regLitOk 0x69 f
  | .qsum f => resultMod f 2 && regLitOk 0x6F f
  | .wred f => resultMod f 9 && regLitOk 0x74 f
  | .wscan f => resultMod f 32 && f.b.toNat % 16 ≤ 8 && regLitOk 0x75 f
  | .rnds f => f.nw == 0#1 && f.dst == 0#6 && srcOk f.a && srcOk f.b && regLitOk 0x76 f
  | .rnd f => dstOk f && f.a == 0#7 && f.b.toNat < 2 && f.lit.isNone
  -- memory (Table 07-5)
  | .ld f | .ldx f | .ldn f => memLoad f && memGroup f
  | .st f | .stx f | .stn f => memStore f && memGroup f
  | .ldw f | .stw f => dOk f.d && memPlain f && 4 ≤ f.sz.toNat && memGroup f
  | .ldmx f => memLoad f && f.sz.toNat < 4 && f.dat.toNat ≤ 55 && f.ba != 7#3
  | .stmx f => memStore f && f.sz.toNat < 4 && f.dat.toNat ≤ 55 && f.ba != 7#3
  | .pref f => f.d == 6#3 && memPlain f && f.sz.toNat < 2 && f.dat == 0#6
  | .fence f => dOk f.d && f.sz == 0#3 && f.dat == 0#6 && f.ba == 0#3 && f.idx == 31#5 &&
      (match f.lit with
       | some l => fenceOrd (litOrd l) && l.extractLsb' 0 26 == 0#26
       | none => false)
  | .cwb f | .cinv f => dOk f.d && f.sz == 0#3 && f.dat == 0#6 && memLit f.lit fun o _ => o = 0
  | .setb f => f.d == 6#3 && memPlain f &&
      (match f.sz.toNat with
       | 0 => f.dat.toNat ≤ 61 && f.idx == 31#5
       | 1 => f.dat == 0#6 && f.idx.toNat < 8
       | 2 => f.dat == 0#6
       | 3 => true
       | _ => false)
  | .ldb f => memLoad f && (f.sz == 5#3 || f.sz == 6#3) && f.dat.toNat < 8
  | .badd f => f.d == 6#3 && memPlain f && f.sz.toNat ≤ 4 && f.dat == 0#6
  | .lds f => memLoad f && f.sz.toNat ≤ 4 && f.dat.toNat < 16
  -- matrix (Tables 10-2, 10-4)
  | .mmq f => quartetOk f && groupOk f.ar.toNat 8 && groupOk f.br.toNat 8
  | .mmqs f => quartetOk f && groupOk f.ar.toNat 4 && groupOk f.br.toNat 8
  | .mmqx f => quartetOk f && f.ar.toNat < 16 && groupOk f.br.toNat 8
  | .mmqt f => quartetOk f && groupOk f.ar.toNat 8 && f.br.toNat < 16
  | .mms f => mulOk f && groupOk f.ar.toNat 8 && groupOk f.br.toNat 8
  | .mmss f => mulOk f && groupOk f.ar.toNat 4 && groupOk f.br.toNat 8
  | .mmz f => dOk f.d && f.ar == 0#6 && f.br == 0#6 && f.lit == 0#32
  | .accmv f => dOk f.d && groupOk f.ar.toNat 8 && f.br == 0#6 && f.lit.extractLsb' 8 24 == 0#24 && f.lit.extractLsb' 0 6 == 0#6
  | .accld f => dOk f.d && groupOk f.ar.toNat 8 && f.br == 0#6 && 30 ≤ mFA f.lit && f.lit.extractLsb' 8 19 == 0#19
      && !mSC f.lit && f.lit.extractLsb' 0 4 == 0#4
  | .accsc f => dOk f.d && f.br == 0#6 && f.lit == 0#32
  | .acccv f => dOk f.d && groupOk f.ar.toNat 8 && f.br == 0#6 && mFA f.lit != 30 && f.lit.extractLsb' 24 2 == 0#2
      && f.lit.extractLsb' 22 2 != 3#2 && f.lit.extractLsb' 8 6 == 0#6
      && (if mFA f.lit = 28 || mFA f.lit = 29 then mBSB f.lit ≤ 1 else mBSB f.lit = 0)
      && (!f.lit.getLsbD 26 || mFA f.lit = 31) && (!mSC f.lit || mFA f.lit ≤ 27)
      && f.lit.extractLsb' 0 5 == 0#5
  | .spld f => dOk f.d && f.t == 0#4 && f.lit == 0#32
  -- drain (Tables 11-1, 11-2)
  | .dst f => dOk f.d && 1 ≤ f.v.toNat && f.v.toNat < 16 && storeOrd (litOrd f.lit) && dRND f.lit != 3 && (dFMT f.lit != 31 || dRND f.lit = 0) && dOP f.lit = 0
  | .dsta f => dOk f.d && 1 ≤ f.v.toNat && f.v.toNat < 16 && rmwOrd (litOrd f.lit) && dOP f.lit ≤ 3
      && (if dOP f.lit = 1 then dFMT f.lit = 30 && dRND f.lit = 0 else dFMT f.lit ≤ 30 && dRND f.lit != 3)
  | .dstm f => dOk f.d && 1 ≤ f.v.toNat && f.v.toNat < 4 && f.ba != 7#3 && storeOrd (litOrd f.lit) && dFMT f.lit ≤ 27
      && dRND f.lit != 3 && dOP f.lit = 0 && !dSP f.lit
  | .dstv f => dOk f.d && f.t == 0#4 && storeOrd (litOrd f.lit) && dRND f.lit != 3 && (dFMT f.lit != 31 || dRND f.lit = 0) && dOP f.lit = 0
  | .atom f => atomPlain f && dOP f.lit ≤ 12
  | .atomc f => atomPlain f && dOP f.lit ≤ 1 && groupOk f.v.toNat (if dOP f.lit = 0 then 2 else 4)
  | .red f => atomPlain f && dOP f.lit ≤ 12 && dOP f.lit != 9
  | .dfence f => dOk f.d && f.t == 0#4 && f.v == 0#6 && f.ba == 0#3 && f.idx == 31#5 && litOrd f.lit = 0 && f.lit.extractLsb' 0 27 == 0#27
  -- copy (Table 09-2, R233)
  | .cpy f => dOk f.d && (!f.v.getLsbD 2 || !f.v.getLsbD 0) && copyLit f.lit cpyOrd
  | .cpy2 f => dOk f.d && (!f.v.getLsbD 2 || !f.v.getLsbD 0) && f.s.toNat ≤ 13 && copyLit f.lit cpyOrd
  | .cpym f => dOk f.d && f.v.toNat < 2 && f.s.toNat ≤ 14 && copyLit f.lit cpyOrd
  | .cpytProm f => dOk f.d && f.v == 0#3 && f.ba == 0#3 && f.bb == 0#3 && noLit f.lit
  | .cpytEvct f => dOk f.d && f.v == 1#3 && f.ba == 0#3 && f.bb == 0#3 && noLit f.lit
  | .cpytScr f => dOk f.d && f.v == 2#3 && f.bb == 0#3 && copyLit f.lit cpyOrd
  | .cpytGlb f => dOk f.d && f.v == 3#3 && f.bb == 0#3 && copyLit f.lit cpyOrd
  | .cpyw f => dOk f.d && f.v.toNat < 4 && copyLit f.lit fun o => o = 0
  | .waitt f => f.d == 6#3 && f.v.toNat < 6 && f.ba == 0#3 && f.bb == 0#3 && noLit f.lit
  | .tqry f => dOk f.d && f.v.toNat < 6 && f.s.toNat ≤ 14 && f.ba == 0#3 && f.bb == 0#3 && noLit f.lit
  | .cpyc f => dOk f.d && f.v.toNat < 6 && f.ba == 0#3 && f.bb == 0#3 && noLit f.lit
  -- task (Table 12-10)
  | .spawn f | .enq f => dOk f.d && f.v.toNat < 2 && f.bb == 0#3 && noLit f.lit
  | .tdec f | .tinc f => dOk f.d && f.v == 0#3 && f.s.toNat ≤ 14 && f.ba == 0#3 && f.bb == 0#3 && f.lit != some 0#32
  | .twait f => f.d == 6#3 && f.v.toNat < 2 && (f.v == 0#3 || f.s.toNat ≤ 14) && f.ba == 0#3 && f.bb == 0#3 && noLit f.lit
  | .tstat f => dOk f.d && f.v == 0#3 && f.s.toNat ≤ 14 && f.ba == 0#3 && f.bb == 0#3 && noLit f.lit
  | .tcancel f => dOk f.d && f.v == 0#3 && f.ba == 0#3 && f.bb == 0#3 && noLit f.lit
  | .trearm f => dOk f.d && f.v == 0#3 && f.ba == 0#3 && f.bb == 0#3 && f.lit.isSome
  -- publish (Table 13-6)
  | .vpost f | .vpostf f | .verq f => dOk f.d && f.v == 0#3 && f.s.toNat ≤ 14 && f.ba == 0#3 && f.bb == 0#3 && scopeLit f.lit
  | .subs f => dOk f.d && f.v.toNat < 4 && f.s.toNat ≤ 13 && f.ba == 0#3 && f.bb == 0#3
      && (if f.v.getLsbD 0 then (match f.lit with | some l => l.extractLsb' 0 2 == 0#2 | none => false) else noLit f.lit)
  | .rstop f => dOk f.d && f.v == 0#3 && f.s.toNat ≤ 14 && f.ba == 0#3 && f.bb == 0#3 && noLit f.lit
  | .grpsetNew f => dOk f.d && f.v == 0#3 && f.s.toNat ≤ 14 && f.ba == 0#3 && f.bb == 0#3 && f.lit != some 0#32
  | .grpsetAdd f => dOk f.d && f.v == 1#3 && f.s.toNat ≤ 14 && f.ba == 0#3 && f.bb == 0#3 && noLit f.lit
  | .grpsetArm f => dOk f.d && f.v == 2#3 && f.s.toNat ≤ 14 && f.ba == 0#3 && f.bb == 0#3 && noLit f.lit
  | .grpsetFree f => dOk f.d && f.v == 3#3 && f.s.toNat ≤ 14 && f.ba == 0#3 && f.bb == 0#3 && noLit f.lit
  | .shmap f => dOk f.d && f.v == 0#3 && f.s.toNat ≤ 14 && f.bb == 0#3
      && (match f.lit with | some l => 256 ≤ l.toNat && l.toNat ≤ 32768 && l.toNat % 256 == 0 | none => false)
  | .shmapFree f => dOk f.d && f.v == 1#3 && f.s.toNat ≤ 14 && f.ba == 0#3 && f.bb == 0#3 && noLit f.lit
  | .ssack f => dOk f.d && f.v.toNat < 2 && f.ba == 0#3 && f.bb == 0#3 && noLit f.lit
  -- sequencer (Table 14-7)
  | .seqld f => dOk f.d && f.f == 0#5 && noLit f.lit
  | .seqgo f => dOk f.d && f.f == 0#5 && f.ba == 0#3 && noLit f.lit
  | .seqstop f => dOk f.d && f.f.toNat < 2 && f.ba == 0#3 && noLit f.lit
  | .qset f => dOk f.d && f.f.toNat < 8 && f.ba == 0#3 && noLit f.lit
  | .qdec f => dOk f.d && f.f.toNat < 8 && f.ba == 0#3
  | .qwait f => f.d == 6#3 && f.f.toNat < 8 && f.ba == 0#3 && noLit f.lit
  | .seqsig f => dOk f.d && f.f == 0#5 && f.s == 0#4 && f.ba == 0#3
      && (match f.lit with | some l => 1 ≤ l.toNat && l.toNat < 256 | none => false)
  | .seqq f => dOk f.d && f.f == 0#5 && f.s.toNat ≤ 14 && f.ba == 0#3 && noLit f.lit
  -- umbra (Table 15-5)
  | .pfence f => dOk f.d && f.f.toNat < 2 && f.s == 0#4 && f.ba == 0#3 && noLit f.lit
  | .chks f => dOk f.d && f.f.toNat < 2 && f.ba == 0#3 && noLit f.lit
  | .umq f => dOk f.d && f.f.toNat < 3 && f.s.toNat ≤ 14 && f.ba == 0#3 && noLit f.lit
  | .umset f => dOk f.d && f.f == 0#5 && f.ba == 0#3 && noLit f.lit
  -- fabric (Table 16-6)
  | .fsend f => dOk f.d && f.f.toNat < 4 && (!f.f.getLsbD 0 || f.s.toNat ≤ 14) && f.ba != 7#3 && noLit f.lit
  | .fenq f => dOk f.d && f.f.toNat < 2 && noLit f.lit
  | .fsig f => dOk f.d && f.f.toNat < 3 && f.s.toNat ≤ 14 && (f.f != 2#5 || f.ba == 0#3) && noLit f.lit
  | .ffence f => dOk f.d && f.f == 0#5 && f.s == 0#4 && f.ba == 0#3 && noLit f.lit
  -- home (Table 08-7)
  | .tlbi f => dOk f.d && f.f.toNat < 12 && f.f.extractLsb' 0 2 != 3#2 && (f.f.extractLsb' 0 2 != 2#2 || f.s == 0#4)
      && (f.f.extractLsb' 0 2 == 0#2 || f.ba == 0#3) && noLit f.lit
  | .hflush f => dOk f.d && f.f.toNat < 8 && f.f.extractLsb' 0 2 != 3#2
      && (f.f.extractLsb' 0 2 != 2#2 || (f.s == 0#4 && f.ba == 0#3)) && noLit f.lit
  | .hprobe f => dOk f.d && f.f.toNat < 3 && (f.f != 1#5 || f.s.toNat ≤ 14) && noLit f.lit
  | .atr f => dOk f.d && f.f.toNat < 3 && f.s.toNat ≤ 14 && noLit f.lit
  -- service (Table 17-11)
  | .svcVf f => dOk f.d && f.f == 0#5 && f.ba == 0#3 && noLit f.lit
  | .svcRetire f => dOk f.d && f.f == 1#5 && f.ba == 0#3 && noLit f.lit
  | .svcPkill f => dOk f.d && f.f == 2#5 && f.ba == 0#3 && noLit f.lit
  | .svcQuote f => dOk f.d && f.f == 3#5 && noLit f.lit
  | .capq f => dOk f.d && f.f.toNat < 4 && (f.f == 2#5 || f.ba == 0#3) && noLit f.lit
  | .pwrq f => dOk f.d && f.f.toNat < 4 && f.ba == 0#3 && noLit f.lit
  | .clkq f => dOk f.d && f.f == 0#5 && f.s.toNat ≤ 14 && f.ba == 0#3 && noLit f.lit
  | .evlogPut f => dOk f.d && f.f == 0#5 && f.s.toNat ≤ 14 && f.ba == 0#3 && noLit f.lit
  | .evlogGet f => dOk f.d && f.f == 1#5 && f.s.toNat ≤ 14 && noLit f.lit
  | .hstat f => dOk f.d && f.f.toNat < 4 && f.ba == 0#3 && noLit f.lit
  -- events carry no word
  | .clauseIssue _ _ _ | .quartetRendezvous _ _ | .activeSetExchange _ _ | .handlerStart _ _ | .slotComplete _ | .sleepDeadline _ _ | .siderealTick _
    | .siderealBeacon | .windowWriteEntry _ | .loadComplete _ _ | .storePerformed _ _ | .l1DirectoryRequest _ _ _ _ | .remoteFetch _ _
    | .homeUpdate _ _ | .remoteInvalidation _ _ | .sliceReplacement _ _ | .directoryEntryDrop _ _ | .homeRetry _ | .reservationLapse _ _
    | .pageWalk _ _ _ | .backInvalidationSnoop _ | .hostSnoop _ | .hostLinkAccess _ _ _ _ | .poolLinkDown _ | .poolLinkUp _ | .cpymRequestArrival _
    | .multicastWindowClose _ _ | .lateJoinerResend _ _ | .copySectorWrite _ _ | .copyCompletion _ | .transitTick _ _ | .matrixCompletion _ _
    | .drainUpdateApply _ | .enqueueWindowWrite _ _ _ _ | .enqdropWrite _ | .rangeRecordArrival _ | .dispatchPlacement _ | .eviction _
    | .parkRecordWake _ _ | .parkNeighbourOffer _ _ | .blockExit _ | .gridCompletion _ _ | .supersedeEvent _ _ | .twaitDeadline _ _
    | .objectTableWrite _ _ _ _ | .promotionServe _ | .promotionAging _ | .promotionDone _ _ | .objectEvictionDone _ _ | .seqWordReplay _ _
    | .seqTransition _ _ | .seqTimeout _ _ | .periodicCut _ _ | .cutInstant _ _ | .bankSeal _ _ | .journalAck _ _ _ | .computeIslandPowerFail _ _
    | .coreResume _ _ | .fabricC0Arrival _ | .fabricC1Arrival _ | .fabricC2Arrival _ | .fabricAck _ _ | .fabricResend _ | .portDown _ | .portUp _
    | .fabricManagement _ | .fdiscWrite _ | .controlRegisterWrite _ _ _ | .moduleBringUp | .modulePowerLoss _ | .uncoreIslandPowerLoss _ _
    | .unitRetirement _ | .clockSourceFail _ _ | .powerLimitStep _ _ _ | .supplyDroop _ _ | .thermalTrip | .islandPowerOff _
    | .uncoreIslandPowerReturn _ | .acknowledgementReceiptConfirmed _ _ | .correctedError _ _ => true

/-! ## Decoder and encoder -/

/-- The reserved bits that Tables 03-4 and 03-8 give a whole format are zero. -/
def formatOk (w : Word) : Bool :=
  let op := (w.extractLsb' 24 8).toNat
  if opIsBranch op then w.extractLsb' 18 3 == 0#3
  else if 0xA0 ≤ op && op ≤ 0xAB then w.extractLsb' 0 2 == 0#2
  else if 0xB8 ≤ op && op ≤ 0xCF then w.extractLsb' 0 4 == 0#4
  else if 0xD0 ≤ op then w.extractLsb' 0 5 == 0#5
  else true

/-- The instruction a word stands for, its format's reserved bits aside (Tables 03-9, 03-10). -/
def instrOfWord (w : Word) (lit : Option Word) : Option Instr :=
  let op := (w.extractLsb' 24 8).toNat
  if opIsBranch op then mkBr op (brOfWord w)
  else if opIsLoop op then mkLoop op (loopOfWord w lit)
  else if op ≤ 0x77 then mkReg op (regOfWord w lit)
  else if op ≤ 0x91 then mkMem op (memOfWord w lit)
  else if op ≤ 0xAB then mkMtx op (mtxOfWord w (lit.getD 0#32))
  else if op ≤ 0xB7 then mkDrn op (drnOfWord w (lit.getD 0#32))
  else if op ≤ 0xCF then mkAsy op (asyOfWord w lit)
  else mkSys op (sysOfWord w lit)

/-- Decode the instruction at the head of the words left in a clause; the words after it are returned (R59, R71, R75, R76). -/
def decode (ws : List Word) : Except DecodeError (Instr × List Word) :=
  match ws with
  | [] => .error .illegalClause
  | w :: rest =>
    if !opAssigned (w.extractLsb' 24 8).toNat then .error .illegalOpcode
    else if takesLiteral w then
      match rest with
      | [] => .error .illegalClause
      | l :: rest' =>
        if !formatOk w then .error .illegalOperand
        else match instrOfWord w (some l) with
          | some i => .ok (i, rest')
          | none => .error .illegalOpcode
    else if !formatOk w then .error .illegalOperand
    else match instrOfWord w none with
      | some i => .ok (i, rest)
      | none => .error .illegalOpcode

/-- The words of a byte string, little-endian (R5); a last part shorter than a word is dropped. -/
def wordsOfBytes : List Byte → List Word
  | b0 :: b1 :: b2 :: b3 :: rest => (b3 ++ b2 ++ b1 ++ b0 : Word) :: wordsOfBytes rest
  | _ => []

/-- Decode from bytes. -/
def decodeBytes (bs : List Byte) : Except DecodeError (Instr × List Word) := decode (wordsOfBytes bs)

/-- The words of an instruction (Tables 03-2 to 03-8); an event has none. -/
def encode (i : Instr) : List Word :=
  match i.parts with
  | none => []
  | some (op, .reg f) => regToWord op f :: f.lit.toList
  | some (op, .br f) => [brToWord op f]
  | some (op, .loop f) => loopToWord op f :: f.lit.toList
  | some (op, .mem f) => memToWord op f :: f.lit.toList
  | some (op, .mtx f) => [mtxToWord op f, f.lit]
  | some (op, .drn f) => [drnToWord op f, f.lit]
  | some (op, .asy f) => asyToWord op f :: f.lit.toList
  | some (op, .sys f) => sysToWord op f :: f.lit.toList

/-- The little-endian bytes of words. -/
def bytesOfWords : List Word → List Byte
  | [] => []
  | w :: ws => w.extractLsb' 0 8 :: w.extractLsb' 8 8 :: w.extractLsb' 16 8 :: w.extractLsb' 24 8 :: bytesOfWords ws

/-- The words of an instruction numbered as spec/opcode_table.json numbers bits: the first word least significant, the bits above
`nbits` zero; 16 words are a whole instruction buffer. -/
def tableWords (nbits w : Nat) : List Word :=
  (List.range 15).map fun k => BitVec.ofNat 32 ((w % 2 ^ nbits) >>> (32 * k))

/-- The instruction the decoder reads from the bits `w`, laid out little-endian. -/
def decodeTableWord (nbits w : Nat) : Option Instr :=
  match decodeBytes (bytesOfWords (tableWords nbits w)) with
  | .ok (i, _) => some i
  | .error _ => none

end Sys2Proof
end

