-- ==== Sys2Proof/Machine/Map.lean ====
section
/-! DEFINITION. Finite maps from numbers as sorted lists of pairs: plain data in one canonical form. `mget d` and `mset d` read and
write a map in which an unlisted key holds `d`; writing `d` removes the entry, so that equal maps are equal lists. -/

namespace Sys2Proof.Machine

/-- A finite map from numbers. -/
abbrev AMap (α : Type) := List (Nat × α)

/-- The entry at a key. -/
def mfind {α : Type} : AMap α → Nat → Option α
  | [], _ => none
  | (k, v) :: m, j => if k = j then some v else mfind m j

/-- Write an entry in key order. -/
def mput {α : Type} : AMap α → Nat → α → AMap α
  | [], j, x => [(j, x)]
  | (k, v) :: m, j, x => if j < k then (j, x) :: (k, v) :: m else if j = k then (j, x) :: m else (k, v) :: mput m j x

/-- Remove an entry. -/
def mdel {α : Type} (m : AMap α) (j : Nat) : AMap α := m.filter fun p => p.1 != j

/-- Read a map in which an unlisted key holds `d`. -/
def mget {α : Type} (d : α) (m : AMap α) (j : Nat) : α := (mfind m j).getD d

/-- Write a map in which an unlisted key holds `d`. -/
def mset {α : Type} [DecidableEq α] (d : α) (m : AMap α) (j : Nat) (x : α) : AMap α :=
  if x = d then mdel m j else mput m j x

/-- Change the entry at a key, if there is one. -/
def mupd {α : Type} (m : AMap α) (j : Nat) (f : α → α) : AMap α :=
  match mfind m j with
  | some x => mput m j (f x)
  | none => m

/-- The keys strictly rise. -/
def msorted {α : Type} : AMap α → Bool
  | [] => true
  | [_] => true
  | (k, _) :: (k', v') :: m => k < k' && msorted ((k', v') :: m)

/-- The canonical form of a map whose unlisted key `j` holds `u j`: keys strictly rising, no entry equal to what its key would hold unlisted. -/
def mwfBy {α : Type} [DecidableEq α] (u : Nat → α) (m : AMap α) : Bool := msorted m && m.all fun p => p.2 != u p.1
/-- The canonical form of a map with default `d`. -/
def mwf {α : Type} [DecidableEq α] (d : α) (m : AMap α) : Bool := mwfBy (fun _ => d) m

/-- The entries of a map whose key lies in `[lo, lo + n)`. -/
def mrange {α : Type} (m : AMap α) (lo n : Nat) : AMap α := m.filter fun p => lo ≤ p.1 && p.1 < lo + n

end Sys2Proof.Machine
end

