-- ==== Sys2Proof/Machine/State.lean ====
section
/-! DEFINITION. The state of the W64 as plain data: lanes, warps, blocks, cores, domains, the device, and the model's own scheduling data. -/

namespace Sys2Proof.Machine

/-! ## Lanes and warps (Tables 05-1, 05-2) -/

/-- ST of a lane (Table 05-1). A lane of an absent quad reads as exited (R16). -/
inductive LaneSt where
  | live | launchHelper | exitHelper | exited
deriving DecidableEq, Repr

/-- A live loop: counter, first header of the body, last word of the body (R115). -/
structure LoopEnt where
  c : Nat
  start : Word
  stop : Word
deriving DecidableEq, Repr

/-- One lane (Table 05-1, R67, R69, R95). `loops` and `calls` hold the top of the stack first; LD and CD are their lengths. `lat` holds
l0 first. An unlisted counter or o-register is 0. -/
structure Lane where
  pc : Word
  c : AMap Word
  loops : List LoopEnt
  calls : List (Word × Nat)
  fb : Nat
  dfr : Bool
  st : LaneSt
  p : BitVec 7
  o : AMap Word
  lat : List Word
  gen : Word
deriving DecidableEq, Repr

/-- An open clause (R60, R62): its header and the header's PC, the words of the instruction buffer, the number of the next word
(1 to N; 0: the header itself), results issued so far, the run and the exit helpers that issue with it, the lanes whose PC the clause
has set, whether the warp had several runs when this one was selected (R110), and whether it issues under RPT (R118). -/
structure Clause where
  hdr : Word
  pc : Word
  ibuf : List Word
  idx : Nat
  nres : Nat
  run : Mask
  exits : Mask
  setpc : Mask
  many : Bool
  rpt : Bool
deriving DecidableEq, Repr

/-- One row of a channel: 32 lane words and the valid mask (R122). -/
structure ChRow where
  ws : AMap Word
  valid : Mask
deriving DecidableEq, Repr

/-- The E instruction a warp stands at, with its operands (WAIT of Table 05-2). `g` is the set of guard-true lanes. -/
inductive Wait where
  /-- BAR, BARM, BARW on k: SF and lanes for the status, whether the departure orders matrix reads (R140). -/
  | barrier (k : Nat) (sf : BitVec 7) (g : Mask) (pth : Bool)
  | regclaim (n : Nat)
  | chput (ch : Nat) (row : ChRow) (sf : BitVec 7) (g : Mask)
  /-- CHGET: the lanes that receive the row, and those of the run whose predicate takes the status (R121). -/
  | chget (ch : Nat) (nw : BitVec 1) (dst : BitVec 6) (sf : BitVec 7) (g gr : Mask)
  | sleep
  /-- WAITT: the watched slot and the promised tick (R242). -/
  | waitt (v : Nat) (t : Tick)
  /-- SPAWN waiting for a hardware record (R321). -/
  | spawn (r : List Word) (w : Bool) (s d : Nat)
  /-- TWAIT: handle, result register, deadline (R323). -/
  | twait (h : Word) (s : Nat) (dl : Option Tick)
  /-- QWAIT: counter and result register (R371). -/
  | qwait (q s : Nat)
deriving DecidableEq, Repr

/-- A trap record (Table 05-7). -/
structure TrapRec where
  cause : Nat
  pc : Word
  mask : Mask
  info : Word
  addr : Ptr
deriving DecidableEq, Repr

/-- One warp (Table 05-2 and 05, 07, 10, 13). -/
structure Warp where
  /-- 32 lanes. -/
  lanes : List Lane
  role : Nat
  s : AMap Word
  b : AMap Ptr
  bud : Nat
  last : Mask
  rep : Nat
  reprun : Mask
  /-- d0 to d5 pending. -/
  pend : BitVec 6
  /-- D = 6 instructions outstanding. -/
  d6 : Nat
  /-- Rows of the slot's register file that hold v0, v1, ...; VCNT is its length over 8. -/
  rows : List Nat
  tid : Nat
  bnd6 : Option Nat
  bnd7 : Option Nat
  arr : BitVec 16
  /-- Phases of BARAs not yet waited on, by barrier. -/
  bara : AMap Nat
  wait : Option Wait
  /-- Parked by a trap (R62). -/
  parked : Bool
  trap : TrapRec
  dl : Tick
  scap : Option Tick
  /-- SPM: MAP and IDX (R263). -/
  spmMap : BitVec 64
  spmIdx : AMap (BitVec 16)
  clause : Option Clause
  /-- EVPCs of the supersede events waiting for a clause boundary, oldest first, and whether the boundary has come (R338). -/
  ev : List Word
  evDue : Bool
  /-- EXITS of a sibling waiting for this warp's next clause boundary (R139). -/
  exitPend : Bool
  /-- Arrived at its quartet's rendezvous (R261). -/
  rdv : Bool
  /-- Placed last in the round-robin order by Y or YIELD (R112, R132). -/
  yielded : Bool
  /-- Cycles ready or not ready without a break (R113). -/
  readyFor : Nat
  notReadyFor : Nat
  /-- The clause's cut has been taken (R378); its word waits at issue for the operation journal (R381). -/
  cutDone : Bool
  /-- Number and SEQ of the cut its open clause took, and the first operation after that cut (R391, R392). -/
  cut : Nat × Nat × Nat
  held : Bool
  /-- Sectors of pool and host memory that its drain instructions have updated below SYS scope (R284). -/
  far : List Nat
  /-- Number of the release that its word at issue has begun: the write-backs it made are tagged with it (R41, R210). -/
  rel : Option Nat
deriving DecidableEq, Repr

/-! ## Blocks -/

/-- Header and footer of a bank or of a park image (Table 15-3): all of it 0 in the empty bank of bring-up; `pos` is domain + 64 × area; `ok`:
the CRC matches the bytes it covers. -/
structure ImgHead where
  magic : Nat
  fmt : Nat
  bank : Bool
  hseq : Nat
  fseq : Nat
  ok : Bool
  kind : Nat
  arm : Bool
  whole : Bool
  tick : Tick
  pos : Nat
  mapgen : Nat
  nsec : Nat
  crc : Word
  pfw : Option Nat
  pfpc : Word
deriving DecidableEq, Repr

/-- The scope of a release, its block and its domain (R28). -/
structure RelTag where
  scp : Nat
  b : Nat
  d : Nat
deriving DecidableEq, Repr

/-- Whoever can have a scratch store in its happens-before past (R34, R47): a warp, what its last FENCE.REL passes on, what its loads would give
to a FENCE.ACQ, a barrier's phase, a channel, an operation that copies or drains, a claimed slot once such an operation of it has completed (warp 16: the
sequencer's, 17: all of these), the sequencer a block holds, a location in memory, a location of a share; with the scope of the release that a
fence, a location or a load's value carries (R28); and the matrix port of a warp, or of the sequencer (16). Block 0 is the block of the share, b + 1 another block b. -/
inductive Agent where
  | warp (b w : Nat)
  | fenced (b w scp : Nat)
  | loaded (b w : Nat) (t : RelTag)
  | bar (b k : Nat)
  | chan (b c : Nat)
  | op (o : Nat)
  | slot (b w d : Nat)
  | seq (b : Nat)
  | port (w : Nat)
  | glob (pa : Nat) (t : RelTag)
  | scr (b o : Nat) (t : RelTag)
deriving DecidableEq, Repr

/-- An edge of happens-before within a block that the records of other blocks' shares have still to follow: from one agent to another, the path
joined by an agent (R140), slot `i` of warp `w` awaited. -/
inductive HbEdge where
  | flow (x y : Agent)
  | join (x : Agent)
  | await (w i : Nat)
deriving DecidableEq, Repr

/-- A store into a scratch share (R47): offset and the bytes it overwrote, the storing warp, or the operation until its warp has waited on its slot, who has it in its past, and for whose matrix reads
it is ordered. -/
structure ScrWrite where
  off : Nat
  old : List Byte
  src : Agent
  kno : List Agent
  vis : List Agent
deriving DecidableEq, Repr

/-- A barrier object (Table 05-5). -/
structure Bar where
  exp : Nat
  cnt : Nat
  ph : BitVec 16
  set : Bool
  brk : Bool
deriving DecidableEq, Repr

/-- A channel (Table 05-6): `res` holds the register-file rows it reserves; NROW is the length of `q`. -/
structure Chan where
  opn : Bool
  cls : Bool
  brk : Bool
  disc : Nat
  res : List Nat
  q : List ChRow
deriving DecidableEq, Repr

/-- Where a block is: the slot of a core (4: the handler slot). -/
structure Loc where
  d : Nat
  a : Nat
  k : Nat
deriving DecidableEq, Repr

/-- A copy record (Table 09-1); SLOT is its block's. ST: 0 queued, 1 active, 2 late joiner, 3 complete, 4 cancelled, 5 failed; `late`: it has
been a late joiner; `sq`: the sequencer replayed it, and DS names one of its slots. SCP is the scope of the destination writes. -/
structure CopyRec where
  op : Nat
  v : Nat
  w : Nat
  ds : Nat
  sq : Bool
  ord : Nat
  scp : Nat
  st : Nat
  late : Bool
  rsm : Bool
  len : Word
  dst : Ptr
  src : Ptr
  sstr : Word
  dstr : Word
  prom : Tick
  iss : Tick
  key : Word
  done : Nat
deriving DecidableEq, Repr

/-- What UMQ.RES reports of a block's last resume (Table 15-6). -/
structure ResumeInfo where
  resumed : Bool
  bank : Bool
  otherTorn : Bool
  armed : Bool
  matched : Nat
  reissued : Nat
  lost : Bool
  restarted : Bool
  resumes : Nat
  seq : Nat
deriving DecidableEq, Repr

/-- A block and its context: everything an eviction or cut carries (05, 07, 09, 10, 12, 13, 15). -/
structure Block where
  loc : Option Loc
  /-- The sixteen words of its launch record, and the record's home and index; for a block of a range record also that record's. -/
  lrec : List Word
  rdom : Nat
  ridx : Nat
  qdom : Nat
  qidx : Nat
  lin : Nat
  warps : List Warp
  bars : AMap Bar
  chans : AMap Chan
  /-- Window descriptors: index to raw 128 bits (Table 07-4). -/
  wins : AMap Nat
  /-- Register file: row × 32 + lane. -/
  rf : AMap Word
  /-- Scratch share by offset, and the stores the matrix port may still not see, oldest first (R47). -/
  scr : AMap Byte
  scrH : List ScrWrite
  edges : List HbEdge
  /-- Accumulator words: tile × 1024 + 64 row + column. -/
  acc : AMap Word
  /-- Exception counters: 3 × identifier + (0 saturation, 1 flush, 2 NaN). -/
  cnt : AMap Word
  /-- Copy records: 8 × warp + slot. -/
  copies : AMap CopyRec
  /-- Window writes that wait for a clause boundary of the row's owner, oldest first: byte of the register rows (128 × row + 4 × lane + byte) and
  its value (R50). -/
  winq : List (Nat × Byte)
  /-- Warps with a waiting REGCLAIM, oldest first (R124). -/
  claims : List Nat
  idle : Nat
  killed : Bool
  abandoned : Bool
  /-- Its eviction has begun: it issues nothing more (R312). -/
  evicting : Bool
  exiting : Bool
  /-- Its exit has been reported; it keeps its slot for its constellation (R17). -/
  reported : Bool
  cntErr : Bool
  /-- Domain and hardware index of its park record (R312). -/
  parkIdx : Option (Nat × Nat)
  /-- SPAWN children whose index has not returned to the pool (R321). -/
  children : List Word
  umq : ResumeInfo
  /-- Cuts its core had taken when it was placed there (R387). -/
  placedCut : Nat
  /-- Of a parked block: the logical position it left. -/
  left : Nat
  /-- The CID its core had when it was placed or last resumed (R12). -/
  cid : Nat
  /-- VERIN and STALE of its run (R335, R349). -/
  verin : Word
  stale : Word
  /-- Number of the release that its exit or eviction has begun (R40, R210). -/
  rel : Option Nat
  /-- The words of its park record as its eviction began (R312). -/
  park : Option (List Word)
  /-- A wait ended while it was parked: it acquires at SYS when it resumes (R323). -/
  acqDue : Bool
  /-- It was converted from an image, and its copies are issued again as it resumes (R252, R389). -/
  redo : Bool
  /-- Header and footer of the park image it was last saved to (R388). -/
  pimg : ImgHead
deriving DecidableEq, Repr

/-! ## Engine operations in flight (R14) -/

/-- Where a load delivers: registers from v[dat] by size code, an s-register, a b-register, an MX block with scale byte k. -/
inductive LdDst where
  | v (dat sz : Nat)
  | s (r sz : Nat)
  | b (r sz : Nat)
  | mx (dat k : Nat)
deriving DecidableEq, Repr

/-- One lane's access: place of its first byte, length, bytes to store, place of the MX scale, page types of the element and of the scale: 0 N,
1 W, 2 D, 3 S. The unperformed W-page stores of a warp are its combining buffer (R30). -/
structure Part where
  lane : Nat
  pl : Place
  n : Nat
  data : List Byte
  sc : Option Place
  ty : Nat
  sty : Nat
deriving DecidableEq, Repr

/-- A quartet member's (or the one warp's) captured operands (R258): registers by 32 j + lane, scale registers by lane (for ACCCV `sb` the
generators), SPM, offsets, live lanes; for a scratch image the values that each of its bytes could read as at issue (R47, R259); whether the sequencer replayed the word. -/
structure MtxMem where
  w : Nat
  tile : Nat
  tid : Nat
  areg : AMap Word
  breg : AMap Word
  sa : AMap Word
  sb : AMap Word
  map : BitVec 64
  idx : AMap (BitVec 16)
  aoff : Nat
  boff : Nat
  live : Mask
  img : AMap (List Byte)
  seq : Bool
deriving DecidableEq, Repr

/-- One element of a drain tile update: lane or row, column, place, size, operand or comparand and new value, draw, for an MX block the place
of its scale, page types of the element and of the scale. -/
structure DElem where
  lane : Nat
  col : Nat
  pl : Place
  n : Nat
  x : Nat
  cmp : Nat
  draw : Word
  sc : Option Place
  ty : Nat
  sty : Nat
deriving DecidableEq, Repr

/-- A run of bytes of a copy: where they go, where they come from, how many, the page type of the destination. The source of a CPYM or
CPYT is an offset in the group's source or the image, as a global place. -/
structure Seg where
  dst : Place
  src : Place
  n : Nat
  ty : Nat
deriving DecidableEq, Repr

/-- A fabric message at its sender (R397): destination device, primary port (`none`: local), whether it first releases at SYS, physical
addresses of the source sectors of an FSEND, those performed by number, the greatest status code so far, the status word once a local
message has ended, refusals met and cycles until it is sent again (R404), and the message (of an FSEND without its bytes). -/
structure FabOut where
  dev : Nat
  port : Option Nat
  rel : Bool
  srcs : List Nat
  sent : List Nat
  code : Nat
  ended : Option Word
  tries : Nat
  back : Nat
  msg : FabMsg
deriving DecidableEq, Repr

/-- What an operation still has to do. -/
inductive OpK where
  /-- Effect performed at the engine; only the slot completes (R14). -/
  | plain
  | load (dst : LdDst) (ord scp : Nat) (parts : List Part)
  | store (ord scp : Nat) (parts : List Part)
  | fence (ord scp : Nat) (pth : Bool)
  /-- CWB and CINV of lines, settled when performed. -/
  | cache (scp : Nat) (inv : Bool) (lines : List Nat)
  /-- HFLUSH of sectors, or of the remote-dirty list as it stands when performed (R225). -/
  | flush (all inv sys : Bool) (secs : List Nat)
  | matrix (op : Nat) (lit : Word) (dst : Nat) (mems : List MtxMem)
  /-- Opcode, literal, result register, tile of a tile form, tensor identifier, elements still to be applied (R280). -/
  | drain (op : Nat) (lit : Word) (reg : Nat) (tile : Option Nat) (tid : Nat) (es : List DElem)
  | dfence (scp : Nat)
  /-- CPY, CPY2, CPYW: what is still to be written, and the source sectors read (R246). -/
  | copy (ord scp : Nat) (shd : Bool) (segs : List Seg) (got : List (Place × List Byte))
  /-- CPYT: object index, variant, phase (0 waits for the promotion, 1 for the eviction, 2 copies, 3 has ended, 4 has failed), segments of the
  tile-image copy and the source sectors read (R240, R246). -/
  | tier (idx v phase : Nat) (ord scp : Nat) (segs : List Seg) (got : List (Place × List Byte))
  /-- CPYC waiting for the copy of operation `o` (R245). -/
  | cancel (o : Nat)
  /-- CPYM: home domain, group once it has arrived, physical base of each source page, length, key, the tick promised at issue, and the sectors
  it has received by number (R237 to R239). -/
  | mcast (home : Nat) (grp : Option Nat) (pages : List Nat) (n : Nat) (key : Word) (ord scp : Nat) (prom : Tick) (segs : List Seg)
      (got : AMap (List Byte))
  | fabric (m : FabOut)
  | ffence
  /-- PFENCE and CHKS waiting for the seal of cut number `n`, or, the cut sealed, for the copies numbered below `n` into persistent memory; `dom`:
its stores become durable (R248, R391, R392). -/
  | cut (n : Nat) (toSeal dom : Bool)
  /-- TLBI waiting for every earlier operation in its reach: 0 core, 1 domain, 2 device (R224); SEQSTOP, reach 3, for the words the core's
  sequencer has replayed (R369). -/
  | after (reach : Nat)
deriving DecidableEq, Repr

/-- An operation in flight: number, issuing block, warps with the slots they claimed (6: no slot), domain and core, instruction word,
whether the sequencer replayed it, uniform results to write at completion, whether its effect is performed, whether a release has made its
write-backs, whether it acquires at WAF or SYS scope, lines on which it holds a transaction open (R225, R281), journal entry, tiles it is pinned to,
and until its slot completes: blocks whose slots it reads or writes (R250), tiles whose shadow it writes (R249, R295), whether it writes to the
persistent region (R248). -/
structure Op where
  id : Nat
  bid : Nat
  ws : List (Nat × Nat)
  d : Nat
  a : Nat
  word : Word
  seq : Bool
  k : OpK
  res : List (Nat × Word)
  performed : Bool
  flushed : Bool
  acq : Bool
  txn : List Nat
  jent : Option Nat
  pins : List (Nat × Bool)
  foot : List Nat
  shads : List Nat
  pers : Bool
deriving DecidableEq, Repr

/-! ## Cores -/

/-- A TLB entry (R222): ASID, global, page size 0 to 2, virtual page, page frame, permissions, type. -/
structure TlbEnt where
  asid : Nat
  g : Bool
  size : Nat
  vpn : Nat
  pa : Nat
  wr : Bool
  x : Bool
  u : Bool
  ty : Nat
deriving DecidableEq, Repr

/-- The layer sequencer (Table 14-4). `hold` is the holder's slot and block; `tab` holds NST entries of 16 words. -/
structure Seq where
  hold : Option (Nat × Nat)
  mode : Nat
  tab : List (List Word)
  cur : Nat
  phase : Nat
  wix : Nat
  t0 : Tick
  drv : Nat
  qd : Nat
  q : AMap Word
  sig : BitVec 8
  sd : BitVec 6
  tev : Bool
  pinned : Bool
  frec : Word
  /-- A warp of its holder was killed: its claim ends when the words it has replayed have completed (R358). -/
  ending : Bool
  /-- Number of the release that the word it replays has begun (R41, R210). -/
  rel : Option Nat
deriving DecidableEq, Repr

/-- A journal entry (Table 15-4); whether a word has been matched to it or made it, and the target domain that still holds its
acknowledgement (R382), with `data` the values it carries; of an access of several sectors the lanes performed so far and the domains they were performed
in (R54). -/
structure JEnt where
  op : Nat
  warp : Nat
  slot : Nat
  st : Nat
  pc : Word
  mask : Word
  tag : Nat
  tgt : Nat
  data : List (Nat × Word)
  matched : Bool
  ack : Option Nat
  lanes : Mask
  doms : List Nat
deriving DecidableEq, Repr

/-- What a bank captures (R375): the number of the cut, blocks by number, slots, sequencer, handler queue, HENT, EVTH. -/
structure Image where
  no : Nat
  blocks : AMap Block
  slots : AMap Nat
  seq : Seq
  hq : List Nat
  hent : Word
  evth : Nat
deriving DecidableEq, Repr

/-- A bank (Table 15-2): header and footer, journal, captured state. -/
structure Bank extends ImgHead where
  jn : List JEnt
  img : Option Image
deriving DecidableEq, Repr

/-- A request for a cut: kind 0 periodic, 1 CHKS, 2 PFENCE, exit or journal; the warp that asked (R377). -/
structure CutReq where
  kind : Nat
  warp : Option (Nat × Nat)
  exit : Option Nat
deriving DecidableEq, Repr

/-- The checkpoint port of a core (R376, R377): PER in force and PER from the next cut instant on, the periodic timer, cycles since the last
cut instant, requests, banks A and B, the bank (true: B) of the unsealed cut, cuts taken, the last one sealed, the number of the first
operation after the last cut instant, whether the epoch is armed, the bank whose image the epoch began with, the units the epoch before the present one
changed (R376). -/
structure Umbra where
  per : Nat
  perNext : Nat
  timer : Nat
  since : Nat
  reqs : List CutReq
  bankA : Bank
  bankB : Bank
  openCut : Option Bool
  cutNo : Nat
  sealedNo : Nat
  cutOp : Nat
  armed : Bool
  base : Option Bool
  dirty : List Nat
deriving DecidableEq, Repr

/-- A line of a core's L1 (R178, R179): line number, way, writer slot, its valid sectors. -/
structure L1Line where
  line : Nat
  way : Nat
  ws : Nat
  secs : List Nat
deriving DecidableEq, Repr

/-- A core: partition in KiB, the record it is marked for draining for (R308), slot table (slot to block number, 4 the handler), retired slots, ports, round robin, active and pending
sets, handler queue, HENT, EVTH, handler run in progress, TLB, sequencer, checkpoint port, clock. -/
structure Core where
  part : Nat
  drain : Option Nat
  slots : AMap Nat
  retired : List Nat
  ports : AMap (Nat × Nat)
  rr : List (Nat × Nat)
  /-- The warp that last began a clause on either port (R112). -/
  begun : Option (Nat × Nat)
  active : List (Nat × Nat)
  pending : List (Nat × Nat)
  hq : List Nat
  hent : Word
  evth : Nat
  hrun : Bool
  tlb : List TlbEnt
  /-- Lines of its L1, the last used first (R178). -/
  l1 : List L1Line
  /-- Window descriptors of slots that hold no block: 16 × slot + index to raw 128 bits (R183). -/
  wins : AMap Nat
  /-- Persistent sectors its warps have stored to and not made durable, with the number of the first such operation (R51). -/
  pst : AMap Nat
  seq : Seq
  umb : Umbra
  stopped : Bool
  /-- It moves to another physical core, or off the map, at its next cut (R418, R389). -/
  moving : Bool
  cksrc : Nat
  cksw : Nat
  cktick : Tick
deriving DecidableEq, Repr

/-! ## Domains -/

/-- A remote sector in a slice (Table 08-3): clean bytes with their epoch, dirty bytes by offset. RS: clean only; RD: dirty only; RDV: both. -/
structure RSec where
  clean : Option (Nat × List Byte)
  dirty : AMap Byte
deriving DecidableEq, Repr

/-- State of a sector in the L1 directory (Table 08-2); an unlisted sector is I. -/
inductive Moesi where
  | s | e | o | m
deriving DecidableEq, Repr

/-- L1 directory entry: state, cluster vector, owner core (R205). -/
structure L1Sec where
  st : Moesi
  vec : BitVec 3
  owner : Nat
deriving DecidableEq, Repr

/-- Record states (Table 12-3). -/
inductive RecSt where
  | free | waiting | ready | running | done | cancelled | refused
deriving DecidableEq, Repr

/-- What a record is: a launch, a range of a WAFER launch (home and index of the launch), or a park record (block, physical address of its
image, tick of the park). -/
inductive RecKind where
  | launch
  | range (od oi : Nat)
  | park (bid img : Nat) (since : Tick)
deriving DecidableEq, Repr

/-- How far the end of a task record with a completion record has come (R316, R317): it is due; its release at SYS has begun, under a number, at the tick of
completion; it is written, under that number. -/
inductive RecEnd where
  | due
  | released (n : Nat) (t : Tick)
  | stored (n : Nat)
deriving DecidableEq, Repr

/-- A task record: its 16 words, state, marks, refusal code, the run's accounting, VERIN and STALE (R296, R298, R299, R315, R335). -/
structure Rec where
  ws : List Word
  kind : RecKind
  st : RecSt
  under : Bool
  wafer : Bool
  code : Nat
  /-- Next linear index to place (for a WAFER launch the set of domains its range records have still to reach), whether placing is over,
  ranges not complete, blocks placed and not yet exited. -/
  cursor : Nat
  placed : Bool
  ranges : Nat
  live : Nat
  exited : Nat
  abandoned : Bool
  killed : Bool
  cancel : Bool
  cntErr : Bool
  status : Word
  /-- Block that spawned it (R321), and cycles it has waited woken (R314). -/
  parent : Option Nat
  waited : Nat
  verin : Word
  stale : Word
  /-- Of a launch: the unusable positions when its blocks were given their homes (R306). -/
  unus : List Nat
  /-- Its end is under way; a re-fire of it is due (R316, R337). -/
  fin : Option RecEnd
  refire : Bool
deriving DecidableEq, Repr

/-- A subscriber entry (Table 13-3). SST: 1 waiting, 2 armed, 3 bound, 4 idle; an unused entry is unlisted. -/
structure Sub where
  rh : Word
  bv : Nat
  bvf : Bool
  ev : Bool
  pos : Nat
  sst : Nat
  minv : Nat
  evpc : Word
deriving DecidableEq, Repr

/-- A tile descriptor with its subscriber entries (Table 13-1); NSUB is their number. -/
structure Tile where
  ver : Nat
  final : Bool
  stop : Bool
  front : Bool
  mapped : Bool
  lost : Bool
  grp : Option Word
  base : Nat
  szu : Nat
  asid : Nat
  tpub : Tick
  subs : AMap Sub
deriving DecidableEq, Repr

/-- A group entry (Table 13-5). -/
structure Group where
  tgt : Word
  m : Nat
  nmem : Nat
  nfin : Nat
  nbusy : Nat
  val : Bool
  arm : Bool
  set : Bool
  asid : Nat
  tset : Tick
deriving DecidableEq, Repr

/-- An object table entry (Table 14-2). `raw` holds the words software writes; ST, EVH, PRQ, PIN and TRES are the engine's. -/
structure Obj where
  raw : List Word
  st : Nat
  evh : Bool
  prq : Bool
  pin : Nat
  tres : Tick
deriving DecidableEq, Repr

/-- An open multicast group (R238): identifying tuple (source page bases, length, key, scope), member operations, late joiners with the first
sector each was sent, cycles open, whether the window has closed, sectors sent, tiles its reads are pinned to. -/
structure Mcast where
  pages : List Nat
  n : Nat
  key : Word
  scp : Nat
  members : List Nat
  late : List (Nat × Nat)
  age : Nat
  closed : Bool
  sent : Nat
  pins : List (Nat × Bool)
deriving DecidableEq, Repr

/-- A message that a target domain has accepted and not yet ended (R400, R402 to R404): the message, the domain whose aperture table it was checked with, the
physical base of a C1's range if it was admitted, the sectors performed by number, the greatest code so far, the release that a C2's write belongs to and
whether it has been made. -/
structure FabIn where
  msg : FabMsg
  tbl : Nat
  base : Option Nat
  got : List Nat
  code : Nat
  rel : Option Nat
  made : Bool
deriving DecidableEq, Repr

/-- One domain. -/
structure Domain where
  /-- Its copy of the sidereal counter is one tick behind (R18), or not yet reloaded (R422). -/
  lag : Bool
  sidHeld : Bool
  hasidb : Nat
  hv : Bool
  scb : Nat
  hdb : Ptr
  enqDropped : Nat
  enqStray : Nat
  fdiscEnded : Nat
  fdiscRefused : Nat
  /-- Aperture and route tables by word offset from 0x0500_0000 (Table 16-1). -/
  fab : AMap Word
  objs : AMap Obj
  recs : AMap Rec
  ready : List Nat
  tiles : AMap Tile
  groups : AMap Group
  rsec : AMap RSec
  epoch : Nat
  l1 : AMap L1Sec
  dtlb : List TlbEnt
  mcasts : AMap Mcast
  /-- Queued promotions in arrival order with cycles waited, and those served (R356). -/
  promq : List (Nat × Nat)
  promrun : List Nat
  /-- Replay filter: 16 × source position + IDX to TAG (R383). -/
  filter : AMap Nat
  /-- Inbound filter: identifier, status (R400); messages under way, oldest first; messages refused and not yet accepted with their counts, the first refused
  first (R404); numbers assigned to sent messages. -/
  inbox : List (FabId × Word)
  fabIn : List FabIn
  fabRef : List (FabId × Nat)
  sentNo : Nat
  reqC : Nat
  effC : Nat
  effU : Nat
  reqU : Nat
  coff : Bool
  uoff : Bool
  droopC : Nat
  droopU : Nat
  ce : Nat
  ue : Nat
  /-- Clock phases of the compute and uncore islands (R422). -/
  phase : Nat
  phaseU : Nat
deriving DecidableEq, Repr

/-! ## The device -/

/-- State of a sector of a home line in its slice (R435); an unlisted sector is absent. -/
inductive HomeSt where
  | clean | dirty | excl
deriving DecidableEq, Repr

/-- Home directory entry and conflict state of a line (R211 to R213): sharers, refusals counted, refused requesters oldest first, the
requester the line is reserved for with the cycles since. -/
structure HomeLine where
  sharers : BitVec 64
  starve : Nat
  refused : List Asker
  resv : Option (Asker × Nat)
deriving DecidableEq, Repr

/-- A refused request (R212, R213): requester and line, refusals met, cycles until the next retry, tick of its first refusal. -/
structure Retry where
  q : Asker
  line : Nat
  tries : Nat
  back : Nat
  since : Tick
deriving DecidableEq, Repr

/-- An invalidation sent and not confirmed: domain, sector, whether it keeps its line's transaction open, the release it belongs to. -/
structure PInv where
  d : Nat
  sec : Nat
  txn : Bool
  op : Option Nat
deriving DecidableEq, Repr

/-- A log entry (R429); SEQ is its place in the log, from 1. -/
structure LogEnt where
  tick : Tick
  code : Nat
  dom : Nat
  area : Nat
  data : BitVec 64
deriving DecidableEq, Repr

/-- The service engine (17): generations, boot status, device number, fuses, retired units (those that failed their test at bring-up among them), those that
retire when their block exits or is parked (R425), unusable positions (132 d + a), ports and links, the grade's slots as last computed (R426), enqueue windows
open, the draw of the bring-up whose firmware runs (R428). -/
structure Service where
  mapgen : Nat
  tgen : Nat
  bootst : Nat
  dev : Nat
  dead : AMap Nat
  portDead : BitVec 32
  retired : List RetUnit
  pend : List RetUnit
  unusable : List Nat
  slots : Nat
  bg : Bool
  portDown : List Nat
  poolDown : List Nat
  poolGone : List Nat
  winOpen : Bool
  fw : Nat
  powered : Bool
  /-- A thermal trip is under way (R424). -/
  tripped : Bool
deriving DecidableEq, Repr

/-- The machine. `mem` holds the bytes of physical memory as their homes serve them; `back` the bytes the backing memory of a dirty
persistent, pool or host sector still holds (R435). `agenda`, `focus`, `nextOp`, `nextBid` and `fresh` are the model's own: the events that
happen next, the warp whose open clause issues the next word, numbers for operations and blocks, and the counter of free values. `lost` names
for a domain that has lost its memory the draw its unlisted bytes of DRAM read as (R52). -/
structure State where
  doms : AMap Domain
  cores : AMap Core
  blocks : AMap Block
  mem : List Host.Cell
  lost : AMap Nat
  hsec : AMap HomeSt
  back : AMap (List Byte)
  hdir : AMap HomeLine
  pinv : List PInv
  retries : List Retry
  ops : List Op
  tick : Tick
  /-- The greatest transit issued (R19). -/
  maxTick : Tick
  log : List LogEnt
  svc : Service
  /-- Data returned to the host by reads, newest first; `none` is a completer abort (R406). -/
  replies : List (Option (List Byte))
  /-- Physical words of 8 bytes whose reads return an uncorrectable error (R221). -/
  poison : List Nat
  agenda : List Instr
  focus : Option (Nat × Nat)
  nextOp : Nat
  nextBid : Nat
  fresh : Nat
deriving DecidableEq, Repr

/-- Why the machine stops with a fault. -/
inductive Fault where
  /-- An instruction is executed with no warp standing at it: `exec` called outside a clause. Raised by the shared prologue of every
  instruction word. Safe: the hardware has no such step. -/
  | noIssuingWarp
deriving DecidableEq, Repr

/-- Why a step is refused. -/
inductive Refusal where
  /-- An instruction without a meaning yet, by its mnemonic. Raised by an arm of `exec`. Safe. -/
  | notModelled (mnemonic : String)
  /-- An event of the agenda whose conditions do not hold, so that the hardware takes no such step. Raised by the events. Safe. -/
  | notEnabled
deriving DecidableEq, Repr

abbrev Out := Host.Outcome State Fault Refusal

/-! ## Values at reset -/

def Seq.empty : Seq :=
  { hold := none, mode := 0, tab := [], cur := 0, phase := 0, wix := 0, t0 := 0, drv := 0, qd := 0, q := [], sig := 0, sd := 0,
    tev := false, pinned := false, frec := 0, ending := false, rel := none }

def ImgHead.empty : ImgHead :=
  { magic := 0, fmt := 0, bank := false, hseq := 0, fseq := 0, ok := true, kind := 0, arm := false, whole := false, tick := 0, pos := 0, mapgen := 0, nsec := 0, crc := 0, pfw := none, pfpc := 0 }
def Bank.empty : Bank := { ImgHead.empty with jn := [], img := none }

/-- PER is 65,536 after bring-up (R394). -/
def Umbra.reset : Umbra :=
  { per := 65536, perNext := 65536, timer := 0, since := 0, reqs := [], bankA := .empty, bankB := .empty, openCut := none, cutNo := 0, sealedNo := 0,
    cutOp := 0, armed := false, base := none, dirty := [] }

/-- A core after bring-up: partition 0 (R309), HENT 0 (R126), EVTH 4,096 (Table 05-9). -/
def Core.reset : Core :=
  { part := 0, drain := none, slots := [], retired := [], ports := [], rr := [], begun := none, active := [], pending := [], hq := [], hent := 0,
    evth := 4096, hrun := false, tlb := [], l1 := [], wins := [], pst := [], seq := .empty, umb := .reset, stopped := false, moving := false, cksrc := 0, cksw := 0, cktick := 0 }

/-- A domain after bring-up (Table 17-1). DESIGN CHOICE, log 3: HASIDB 0 and acquire epoch 0, which the spec does not state. unsafe. -/
def Domain.reset : Domain :=
  { lag := false, sidHeld := false, hasidb := 0, hv := false, scb := 0, hdb := 0, enqDropped := 0, enqStray := 0, fdiscEnded := 0,
    fdiscRefused := 0, fab := [], objs := [], recs := [], ready := [], tiles := [], groups := [], rsec := [], epoch := 0, l1 := [],
    dtlb := [], mcasts := [], promq := [], promrun := [], filter := [], inbox := [], fabIn := [], fabRef := [], sentNo := 0, reqC := 0, effC := 0, effU := 0, reqU := 0,
    coff := false, uoff := false, droopC := 0, droopU := 0, ce := 0, ue := 0, phase := 0, phaseU := 0 }

/-- A lane of a new block before its fields are set (R310). -/
def Lane.zero : Lane :=
  { pc := 0, c := [], loops := [], calls := [], fb := 0, dfr := false, st := .exited, p := 0, o := [], lat := [], gen := 1 }

def TrapRec.zero : TrapRec := { cause := 0, pc := 0, mask := 0, info := 0, addr := 0 }

def Warp.zero : Warp :=
  { lanes := [], role := 0, s := [], b := [], bud := 0, last := 0, rep := 0, reprun := 0, pend := 0, d6 := 0, rows := [], tid := 0,
    bnd6 := none, bnd7 := none, arr := 0, bara := [], wait := none, parked := false, trap := .zero, dl := 0, scap := none, spmMap := 0,
    spmIdx := [], clause := none, ev := [], evDue := false, exitPend := false, rdv := false, yielded := false, readyFor := 0,
    notReadyFor := 0, cutDone := false, cut := (0, 0, 0), held := false, far := [], rel := none }

def Bar.zero : Bar := { exp := 0, cnt := 0, ph := 0, set := false, brk := false }
def Chan.zero : Chan := { opn := false, cls := false, brk := false, disc := 0, res := [], q := [] }
def ResumeInfo.zero : ResumeInfo :=
  { resumed := false, bank := false, otherTorn := false, armed := false, matched := 0, reissued := 0, lost := false, restarted := false,
    resumes := 0, seq := 0 }

def Block.zero : Block :=
  { loc := none, lrec := [], rdom := 0, ridx := 0, qdom := 0, qidx := 0, lin := 0, warps := [], bars := [], chans := [], wins := [], rf := [],
    scr := [], scrH := [], edges := [], acc := [], cnt := [], copies := [], winq := [], claims := [], idle := 0, killed := false, abandoned := false,
    evicting := false, exiting := false, reported := false, cntErr := false, parkIdx := none, children := [], umq := .zero, placedCut := 0, left := 0,
    cid := 0, verin := 0, stale := 0, rel := none, park := none, acqDue := false, redo := false, pimg := .empty }

def Rec.free : Rec :=
  { ws := List.replicate 16 0, kind := .launch, st := .free, under := false, wafer := false, code := 0, cursor := 0, placed := false,
    ranges := 0, live := 0, exited := 0, abandoned := false, killed := false, cancel := false, cntErr := false, status := 0,
    parent := none, waited := 0, verin := 0, stale := 0, unus := [], fin := none, refire := false }

def Tile.zero : Tile :=
  { ver := 0, final := false, stop := false, front := false, mapped := false, lost := false, grp := none, base := 0, szu := 0, asid := 0,
    tpub := 0, subs := [] }

def Group.zero : Group :=
  { tgt := 0, m := 0, nmem := 0, nfin := 0, nbusy := 0, val := false, arm := false, set := false, asid := 0, tset := 0 }

def Obj.zero : Obj := { raw := List.replicate 16 0, st := 0, evh := false, prq := false, pin := 0, tres := 0 }
def HomeLine.zero : HomeLine := { sharers := 0, starve := 0, refused := [], resv := none }

/-- The service engine after the first bring-up (Table 17-1): MAPGEN 1, BOOTST 0, DEV 0. DESIGN CHOICE, log 3: TGEN 0 and fuses with no
defect. unsafe. -/
def Service.reset : Service :=
  { mapgen := 1, tgen := 0, bootst := 0, dev := 0, dead := [], portDead := 0, retired := [], pend := [], unusable := [], slots := 33792, bg := false, portDown := [],
    poolDown := [], poolGone := [], winOpen := true, fw := 0, powered := true, tripped := false }

/-- The machine right after its first bring-up: no block, no record, memory with nothing listed, the sidereal counter 0 (R414). -/
def State.reset : State :=
  { doms := [], cores := [], blocks := [], mem := [], lost := [], hsec := [], back := [], hdir := [], pinv := [], retries := [], ops := [], tick := 0, maxTick := 0,
    log := [], svc := .reset, replies := [], poison := [], agenda := [], focus := none, nextOp := 0, nextBid := 0, fresh := 0 }

end Sys2Proof.Machine
end

