-- ==== Sys2Proof/Machine/Ops.lean ====
section
/-! DEFINITION. The named operations over State: lane sets, accessors, launch-record fields, runs, loops and the end of a clause,
barriers, channels and rows, exits and kills, taking a trap and returning from one, completing an operation, the event log. -/

namespace Sys2Proof.Machine

/-! ## Lane sets -/

/-- The set of lanes with a property. -/
def maskOf (f : Nat → Bool) : Mask :=
  (List.range 32).foldl (fun m L => if f L then m ||| BitVec.twoPow 32 L else m) 0#32
/-- The lanes of a set in ascending order. -/
def lanesOf (m : Mask) : List Nat := (List.range 32).filter fun L => m.getLsbD L
def lowLane (m : Mask) : Nat := (lanesOf m).headD 0

/-! ## Accessors -/

def State.dom (s : State) (d : Nat) : Domain := mget Domain.reset s.doms d
def State.setDom (s : State) (d : Nat) (x : Domain) : State := { s with doms := mset Domain.reset s.doms d x }
def State.updDom (s : State) (d : Nat) (f : Domain → Domain) : State := s.setDom d (f (s.dom d))
/-- The key of the core at logical position `a` = 11 y + x of domain `d` (R11). -/
def coreKey (d a : Nat) : Nat := 132 * d + a
def State.core (s : State) (d a : Nat) : Core := mget Core.reset s.cores (coreKey d a)
def State.setCore (s : State) (d a : Nat) (x : Core) : State := { s with cores := mset Core.reset s.cores (coreKey d a) x }
def State.updCore (s : State) (d a : Nat) (f : Core → Core) : State := s.setCore d a (f (s.core d a))
def State.block (s : State) (b : Nat) : Block := (mfind s.blocks b).getD Block.zero
def State.setBlock (s : State) (b : Nat) (x : Block) : State := { s with blocks := mput s.blocks b x }
/-- Change a block that exists. -/
def State.updBlock (s : State) (b : Nat) (f : Block → Block) : State := { s with blocks := mupd s.blocks b f }
def Block.warp (b : Block) (w : Nat) : Warp := b.warps.getD w Warp.zero
def Block.updWarp (b : Block) (w : Nat) (f : Warp → Warp) : Block := { b with warps := b.warps.modify w f }
def State.updWarp (s : State) (b w : Nat) (f : Warp → Warp) : State := s.updBlock b fun x => x.updWarp w f
def Block.isHandler (b : Block) : Bool := match b.loc with | some l => l.k = 4 | none => false
def Warp.lane (wp : Warp) (L : Nat) : Lane := wp.lanes.getD L Lane.zero
/-- Change the lanes of a set. -/
def Warp.updLanes (wp : Warp) (m : Mask) (f : Nat → Lane → Lane) : Warp :=
  { wp with lanes := wp.lanes.mapIdx fun L ln => if m.getLsbD L then f L ln else ln }
def Warp.sreg (wp : Warp) (i : Nat) : Word := mget 0#32 wp.s i
def Warp.setS (wp : Warp) (i : Nat) (x : Word) : Warp := { wp with s := mset 0#32 wp.s i x }
def Warp.breg (wp : Warp) (i : Nat) : Ptr := mget 0#80 wp.b i
def Warp.setB (wp : Warp) (i : Nat) (x : Ptr) : Warp := { wp with b := mset 0#80 wp.b i x }
/-- v-registers the warp holds (R72). -/
def Warp.vcnt (wp : Warp) : Nat := wp.rows.length
def Block.vread (b : Block) (wp : Warp) (j L : Nat) : Word :=
  match wp.rows[j]? with | some r => mget 0#32 b.rf (32 * r + L) | none => 0#32
def Block.vwrite (b : Block) (wp : Warp) (j L : Nat) (x : Word) : Block :=
  match wp.rows[j]? with | some r => { b with rf := mset 0#32 b.rf (32 * r + L) x } | none => b
/-- Write v_j in the lanes of a set. -/
def Block.vwriteLanes (b : Block) (wp : Warp) (j : Nat) (m : Mask) (f : Nat → Word) : Block :=
  (lanesOf m).foldl (fun b L => b.vwrite wp j L (f L)) b
def Lane.oreg (ln : Lane) (i : Nat) : Word := mget 0#32 ln.o i
def Lane.ctr (ln : Lane) (i : Nat) : Word := mget 0#32 ln.c i
def Lane.setCtr (ln : Lane) (i : Nat) (x : Word) : Lane := { ln with c := mset 0#32 ln.c i x }
/-- Predicate `i` of a lane; index 7 reads true (Table 05-1). -/
def Lane.pred (ln : Lane) (i : Nat) : Bool := i = 7 || ln.p.getLsbD i
def Lane.setPred (ln : Lane) (i : Nat) (x : Bool) : Lane :=
  if i = 7 then ln else { ln with p := if x then ln.p ||| BitVec.twoPow 7 i else ln.p &&& ~~~(BitVec.twoPow 7 i) }
/-- A lane with a PC: ST 0 or 1. -/
def Lane.present (ln : Lane) : Bool := ln.st = .live || ln.st = .launchHelper
def Warp.present (wp : Warp) : Mask := maskOf fun L => (wp.lane L).present
/-- The warp has wholly exited (R138). -/
def Warp.exited (wp : Warp) : Bool := wp.present = 0#32
/-- The lanes of `m` whose guard is true (R63). -/
def Warp.guard (wp : Warp) (g : BitVec 3) (m : Mask) : Mask := maskOf fun L => m.getLsbD L && (wp.lane L).pred g.toNat
/-- The lanes of `m` with ST 0. -/
def Warp.contrib (wp : Warp) (m : Mask) : Mask := maskOf fun L => m.getLsbD L && (wp.lane L).st = .live
/-- Warps of the block that have not wholly exited. -/
def Block.liveWarps (b : Block) : Nat := (b.warps.filter fun w => !w.exited).length

/-- A fresh free word (Config.freeWord). -/
def State.fresh1 (s : State) : Word × State := (Config.freeWord s.fresh, { s with fresh := s.fresh + 1 })

/-! ## Records (Table 12-2) -/

/-- Bits [lo + n − 1 : lo] of the record word at byte offset `off`. -/
def recBits (ws : List Word) (off lo n : Nat) : Nat := ((ws.getD (off / 4) 0#32).toNat / 2 ^ lo) % 2 ^ n
def rKind (r : List Word) : Nat := recBits r 4 0 2
def rPRI (r : List Word) : Nat := recBits r 4 2 3
def rCSZ (r : List Word) : Nat := recBits r 4 5 6
/-- Lanes of a block, 1 to 512 (R16). -/
def rLanes (r : List Word) : Nat := recBits r 4 11 9 + 1
def rVR (r : List Word) : Nat := 8 * (recBits r 4 20 3 + 1)
def rSCRF (r : List Word) : Nat := recBits r 4 23 5
def rDEPTH (r : List Word) : Nat := recBits r 4 28 4
def rACCF (r : List Word) : Nat := recBits r 8 0 5
def rPART (r : List Word) : Nat := recBits r 8 5 9
def rASID (r : List Word) : Nat := recBits r 8 14 12
def rCR (r : List Word) : Bool := recBits r 8 26 1 = 1
def rGRDX (r : List Word) : Nat := recBits r 12 0 32
def rGRDY (r : List Word) : Nat := recBits r 16 0 16
def rGRDZ (r : List Word) : Nat := recBits r 16 16 16
def rROLE (r : List Word) (w : Nat) : Nat := recBits r 20 (2 * w) 2
/-- Code base CB = CBH × 2^16 (R56). -/
def rCB (r : List Word) : Nat := (recBits r 24 0 32 + 2 ^ 32 * recBits r 28 0 32) * 2 ^ 16
def rENTRY (r : List Word) : Nat := recBits r 32 0 32
def rHINT (r : List Word) : Nat := recBits r 36 0 32
def rARGB (r : List Word) : Nat := recBits r 40 0 32 + 2 ^ 32 * recBits r 44 0 32 + 2 ^ 64 * recBits r 48 0 16
/-- The counter area's address: ARGB + CNTO, or none, where CNTO or the address is 0 (R104, R298). -/
def rCounters (r : List Word) : Option Nat :=
  let o := recBits r 52 0 32
  let a := (((rARGB r : Int) + (BitVec.ofNat 32 o).toInt) % 2 ^ 80).toNat
  if o = 0 || a = 0 then none else some a
def rBlocks (r : List Word) : Nat := rGRDX r * rGRDY r * rGRDZ r
def Block.asid (b : Block) : Nat := rASID b.lrec
/-- The virtual address CB + PC. -/
def Block.cbAddr (b : Block) (pc : Word) : Ptr := BitVec.ofNat 80 (rCB b.lrec + pc.toNat)
/-- CSTRANK and the number of blocks in the block's constellation, the last one possibly partial (R17). -/
def Block.rank (b : Block) : Nat := b.lin % rCSZ b.lrec
def Block.csize (b : Block) : Nat := min (rCSZ b.lrec) (rBlocks b.lrec - b.lin / rCSZ b.lrec * rCSZ b.lrec)
/-- Bytes of a block's scratch share (R180). -/
def Block.share (b : Block) : Nat := rPART b.lrec * 256

/-! ## Runs (R107 to R110) -/

/-- The ordering key (DEF, PC, c0 to c3), counters descending (R107). -/
def Lane.key (ln : Lane) : List Nat :=
  [if ln.dfr then 1 else 0, ln.pc.toNat] ++ (List.range 4).map fun i => 2 ^ 32 - 1 - (ln.ctr i).toNat
def keyLt : List Nat → List Nat → Bool
  | a :: as, b :: bs => a < b || (a = b && keyLt as bs)
  | _, _ => false
/-- R109: lanes whose PC and counters agree but whose DEF bits differ become one run, deferred no longer. -/
def Warp.mergeDef (wp : Warp) : Warp :=
  if wp.lanes.any (·.dfr) then
    let undeferred := wp.lanes.filter fun x => x.present && !x.dfr
    { wp with lanes := wp.lanes.map fun ln =>
        if ln.dfr && ln.present && undeferred.any (fun x => x.key.tail = ln.key.tail) then { ln with dfr := false } else ln }
  else wp
/-- The head run: the lanes of the least key (R107). -/
def Warp.headRun (wp : Warp) : Mask :=
  match wp.lanes.filter Lane.present with
  | [] => 0#32
  | ln :: rest =>
    let k := rest.foldl (fun k x => if keyLt x.key k then x.key else k) ln.key
    maskOf fun L => (wp.lane L).present && (wp.lane L).key = k
/-- Whether the warp has at least two runs. -/
def Warp.manyRuns (wp : Warp) : Bool := wp.headRun != wp.present
/-- The exit helpers of the quads that hold lanes of the run (R108). -/
def Warp.helpersOf (wp : Warp) (run : Mask) : Mask :=
  maskOf fun L => (wp.lane L).st = .exitHelper && (List.range 4).any fun i => run.getLsbD (L / 4 * 4 + i)
/-- The rotation budget after a clause issue (R110). -/
def Warp.budget (wp : Warp) (run : Mask) (many : Bool) : Warp :=
  let bud := if many then (if run = wp.last then wp.bud + 1 else 1) else 0
  let wp := { wp with bud := bud, last := run }
  let wp := if wp.bud ≥ 4096 && wp.rep = 0 then { wp.updLanes run (fun _ ln => { ln with dfr := true }) with bud := 0 } else wp
  if wp.lanes.any (fun ln => ln.present && !ln.dfr) then wp
  else { wp with lanes := wp.lanes.map fun ln => { ln with dfr := false } }

/-! ## Loops (R115 to R118) -/

/-- The loop test of R116 at the address `e` of a clause's last word, on the loop stack, top first. -/
def Lane.loopTest (e : Word) (ln : Lane) : List LoopEnt → Lane
  | [] => { ln with loops := [] }
  | l :: rest =>
    if ln.fb ≤ rest.length && l.stop = e then
      let c := ln.ctr l.c - 1#32
      if c != 0#32 then { ln.setCtr l.c c with loops := l :: rest, pc := l.start }
      else Lane.loopTest e (ln.setCtr l.c 0#32) rest
    else { ln with loops := l :: rest }

/-- Pop the loops above the frame base for which `out` holds, from the top (R117, R135). -/
def Lane.popLoops (out : LoopEnt → Bool) (ln : Lane) : List LoopEnt → Lane
  | [] => { ln with loops := [] }
  | l :: rest =>
    if ln.fb ≤ rest.length && out l then Lane.popLoops out (ln.setCtr l.c 0#32) rest
    else { ln with loops := l :: rest }

/-! ## Clause headers (Table 03-1) -/

def hdrN (h : Word) : Nat := (h.extractLsb' 28 4).toNat
def hdrClass (h : Word) : Nat := (h.extractLsb' 25 3).toNat
def hdrWait (h : Word) : BitVec 6 := h.extractLsb' 19 6
def hdrY (h : Word) : Bool := h.getLsbD 18
def hdrSD (h : Word) : Bool := h.getLsbD 13
/-- A header that R58 lets begin. -/
def hdrOk (h : Word) : Bool := hdrN h != 0 && hdrClass h != 7 && h.extractLsb' 0 13 == 0#13

/-- The PC of word `idx` of a clause. -/
def Clause.wordPc (c : Clause) : Word := c.pc + BitVec.ofNat 32 (4 * c.idx)
/-- The word at issue. -/
def Clause.word (c : Clause) : Word := if c.idx = 0 then c.hdr else c.ibuf.getD (c.idx - 1) 0#32
/-- Lanes that execute: the run and its exit helpers (R65, R108). -/
def Clause.gang (c : Clause) : Mask := c.run ||| c.exits

/-- The lanes of `run` move past a clause and make its loop test (R60, R116, R118). -/
def Warp.advance (wp : Warp) (run setpc : Mask) (pc : Word) (n : Nat) : Warp :=
  wp.updLanes (run &&& ~~~setpc &&& wp.present) fun _ ln =>
    Lane.loopTest (pc + BitVec.ofNat 32 (4 * n)) { ln with pc := pc + BitVec.ofNat 32 (4 * (n + 1)) } ln.loops

/-- The end of a clause issue: PCs, repeats, budget, runs that have merged (R60, R109, R110, R116, R118). -/
def Warp.closeClause (wp : Warp) : Warp :=
  match wp.clause with
  | none => wp
  | some c =>
    let again := c.rpt && 1 < wp.rep
    let wp := { wp with clause := none, wait := none, yielded := wp.yielded || hdrY c.hdr, cutDone := false, held := false, rel := none,
                        rep := if c.rpt then wp.rep - 1 else wp.rep, reprun := if c.rpt && !again then 0#32 else wp.reprun }
    let wp := { wp with evDue := !wp.ev.isEmpty && wp.reprun = 0#32 }
    let wp := if again then wp else wp.advance c.run c.setpc c.pc (hdrN c.hdr)
    (wp.budget c.run c.many).mergeDef

/-! ## Who has a scratch store in its past (R34, R47) -/

/-- A warp as an agent of the records of its own block. -/
def Agent.own (w : Nat) : Agent := .warp 0 w
/-- An agent of block `x`, as block `b` names it: its own with 0, another's with its number + 1. -/
def agentBlock (b x : Nat) : Nat := if b = x then 0 else x + 1
def ScrWrite.flow (r : ScrWrite) (x y : Agent) : ScrWrite :=
  { r with kno := if r.kno.contains x && !r.kno.contains y then y :: r.kno else r.kno,
           vis := if r.vis.contains x && !r.vis.contains y then y :: r.vis else r.vis }
/-- `y` gets everything that `x` has in its past: an edge of happens-before (R34). -/
def Block.flow (b : Block) (x y : Agent) : Block :=
  if b.scrH.isEmpty then b else { b with scrH := b.scrH.map (·.flow x y) }
/-- Whatever an agent has in its past, the agents that `f` gives for it have too. -/
def Block.flowBy (b : Block) (f : Agent → List Agent) : Block :=
  let add := fun (l : List Agent) => (l.flatMap f).foldl (fun l y => if l.contains y then l else y :: l) l
  if b.scrH.isEmpty then b else { b with scrH := b.scrH.map fun r => { r with kno := add r.kno, vis := add r.vis } }
/-- Two operations are mutually in scope (R28, Table 02-3). -/
def RelTag.reaches (x y : RelTag) : Bool := if x.scp = 0 then x.b = y.b else if x.scp = 1 then x.d = y.d else true
def RelTag.mutual (x y : RelTag) : Bool := x.reaches y && y.reaches x
/-- The matrix reads of a warp, or of the sequencer (16), see the store. -/
def ScrWrite.seen (r : ScrWrite) (w : Nat) : Bool := r.vis.contains (if w = 16 then .seq 0 else .own w) || r.vis.contains (.port w)
/-- The oldest stores go once every warp's matrix reads see them. -/
def Block.settleScr (b : Block) : Block := { b with scrH := b.scrH.dropWhile fun r => (List.range b.warps.length).all r.seen }
/-- Agent `x` has waited on slot `i` of its warp `w` of block `n` (16: the sequencer's): what the slot's completed operations wrote is in its past, as
its own stores, and its own matrix reads see it (R47, R242, R274, R285). -/
def Block.awaitSlot (b : Block) (n w i : Nat) (x : Agent) : Block :=
  let b := b.flow (.slot n w i) x
  { b with scrH := b.scrH.map fun r =>
      if !r.kno.contains (.slot n w i) then r
      else { r with src := match r.src with | .op _ => x | y => y,
                    vis := if n = 0 && !r.vis.contains (.port w) then .port w :: r.vis else r.vis } }
/-- A BARM of agent `x`: whatever it has in its past is ordered before its later matrix reads, and those of whoever follows it (R47). -/
def Block.pathJoin (b : Block) (x : Agent) : Block :=
  if b.scrH.isEmpty then b
  else Block.settleScr { b with scrH := b.scrH.map fun r => if r.kno.contains x && !r.vis.contains x then { r with vis := x :: r.vis } else r }
/-- A PTH fence of agent `x`: its own stores are ordered before the matrix reads that the fence precedes (R47). -/
def Block.pathFenceOf (b : Block) (x : Agent) : Block :=
  if b.scrH.isEmpty then b
  else Block.settleScr { b with scrH := b.scrH.map fun r => if r.src = x && !r.vis.contains x then { r with vis := x :: r.vis } else r }
def Block.pathFence (b : Block) (w : Nat) : Block := b.pathFenceOf (.own w)
/-- An edge within a block, in its own records, and still to be followed in those of others. -/
def Block.hb (b : Block) (x y : Agent) : Block := { b.flow x y with edges := b.edges ++ [.flow x y] }
def Block.hbJoin (b : Block) (x : Agent) : Block := { b.pathJoin x with edges := b.edges ++ [.join x] }
def Block.hbAwait (b : Block) (w i : Nat) : Block := { b.awaitSlot 0 w i (.own w) with edges := b.edges ++ [.await w i] }
/-- An agent of a block in the records of another, which names the block `n`. -/
def Agent.named (n : Nat) : Agent → Agent
  | .warp _ w => .warp n w
  | .bar _ k => .bar n k
  | .chan _ c => .chan n c
  | x => x
/-- Follow an edge of block `n`. -/
def Block.follow (n : Nat) (b : Block) : HbEdge → Block
  | .flow x y => b.flow (x.named n) (y.named n)
  | .join x => b.pathJoin (x.named n)
  | .await w i => b.awaitSlot n w i (.warp n w)
/-- The records of the other blocks follow the edges of block `b`. -/
def State.spread (s : State) (b : Nat) : State :=
  match mfind s.blocks b with
  | none => s
  | some x =>
    if x.edges.isEmpty then s
    else { s with blocks := s.blocks.map fun p =>
             if p.1 = b then (p.1, { p.2 with edges := [] })
             else if p.2.scrH.isEmpty then p else (p.1, x.edges.foldl (Block.follow (agentBlock p.1 b)) p.2) }
/-- A change of the records of every block that has any, after every edge still to be followed. -/
def State.onScr (s : State) (f : Nat → Block → Block) : State :=
  let s := (s.blocks.filter fun p => !p.2.edges.isEmpty).foldl (fun s p => s.spread p.1) s
  { s with blocks := s.blocks.map fun p => if p.2.scrH.isEmpty then p else (p.1, f p.1 p.2) }

/-- Agent `x` of block `b` has waited on slots `is` of warp `w`. -/
def State.awaitSlots (s : State) (b w : Nat) (is : List Nat) (x : Nat → Agent) : State :=
  s.onScr fun c y => is.foldl (fun y i => y.awaitSlot (agentBlock c b) w i (x (agentBlock c b))) y

/-! ## Rendezvous (R61, R253, R261) -/

/-- Warp `w` waits at its quartet's rendezvous for a partner. -/
def Block.rdvPartner (b : Block) (w : Nat) : Bool := (b.warp w).rdv && !((List.range 4).all fun i => (b.warp (w / 4 * 4 + i)).rdv)

/-! ## Barriers, channels, rows -/

def Block.bar (b : Block) (k : Nat) : Bar := mget Bar.zero b.bars k
def Block.setBar (b : Block) (k : Nat) (x : Bar) : Block := { b with bars := mset Bar.zero b.bars k x }
def Block.chan (b : Block) (c : Nat) : Chan := mget Chan.zero b.chans c
def Block.setChan (b : Block) (c : Nat) (x : Chan) : Block := { b with chans := mset Chan.zero b.chans c x }

/-- Write a status through SF: the predicate in the lanes `g`, the s-register (R121, R123). -/
def Warp.status (wp : Warp) (sf : BitVec 7) (g : Mask) (p : Bool) (x : Word) : Warp :=
  let wp := wp.updLanes g fun _ ln => ln.setPred (sf.toNat / 16) p
  if sf.toNat % 16 = 15 then wp else wp.setS (sf.toNat % 16) x

/-- The barrier status word (R121). -/
def barStatus (brk : Bool) (ph : BitVec 16) : Word := BitVec.ofNat 32 ((if brk then 2 ^ 31 else 0) + ph.toNat)
/-- The channel status word (R123). -/
def Chan.statusWord (c : Chan) : Word :=
  BitVec.ofNat 32 ((if c.brk then 2 ^ 31 else 0) + (if c.cls then 2 ^ 30 else 0) + 256 * c.disc + c.q.length)

/-- Rows no warp and no channel holds (R124). -/
def Block.freeRows (b : Block) : List Nat :=
  let used := b.warps.flatMap (·.rows) ++ b.chans.flatMap (·.2.res)
  (List.range 1024).filter fun r => !used.contains r
/-- Remove the contents of rows that nobody holds any longer, window writes on their way to them included (R124, R183). -/
def Block.clearRows (b : Block) (rows : List Nat) : Block :=
  { b with rf := b.rf.filter fun p => !rows.contains (p.1 / 32), winq := b.winq.filter fun q => !rows.contains (q.1 / 128) }
/-- A byte of a word map laid out as consecutive little-endian words. -/
def wordByte (m : AMap Word) (off : Nat) : Byte := (mget 0#32 m (off / 4)).extractLsb' (8 * (off % 4)) 8
def setWordByte (m : AMap Word) (off : Nat) (x : Byte) : AMap Word :=
  let w := mget 0#32 m (off / 4)
  mset 0#32 m (off / 4) ((w &&& ~~~(0xFF#32 <<< (8 * (off % 4)))) ||| (x.setWidth 32 <<< (8 * (off % 4))))
/-- The warp that holds a row. -/
def Block.rowOwner (b : Block) (r : Nat) : Option Nat := (List.range b.warps.length).find? fun w => (b.warp w).rows.contains r
/-- The window writes to rows of the warps that `may` names enter their registers (R50). -/
def Block.enterRows (b : Block) (may : Nat → Bool) : Block :=
  let own := fun (q : Nat × Byte) => match b.rowOwner (q.1 / 128) with | some w => may w | none => true
  if b.winq.any own then
    { b with rf := (b.winq.filter own).foldl (fun m q => if (b.rowOwner (q.1 / 128)).isSome then setWordByte m q.1 q.2 else m) b.rf,
             winq := b.winq.filter fun q => !own q }
  else b

/-- Open a channel, if 16 rows are free (R122). -/
def Block.openChan (b : Block) (c : Nat) : Option Block :=
  if (b.chan c).opn then some b
  else
    let f := b.freeRows.take 16
    if f.length < 16 then none else some (b.setChan c { b.chan c with opn := true, res := f })

/-- Every slot and every D = 6 instruction of the warp has completed (R146). -/
def Warp.settled (wp : Warp) : Bool := wp.pend = 0#6 && wp.d6 = 0
/-- A legal register count (R146). -/
def countOk (n : Nat) : Bool := n % 8 = 0 && 8 ≤ n && n ≤ 64

/-- Serve waiting REGCLAIMs, the oldest first, while the free rows cover them (R124, R146). -/
def Block.serveClaims (b : Block) : Nat → Block
  | 0 => b
  | k + 1 =>
    match b.claims with
    | [] => b
    | w :: rest =>
      match (b.warp w).wait with
      | some (.regclaim n) =>
        let wp := b.warp w
        let need := n - wp.vcnt
        let f := b.freeRows.take need
        if !wp.settled || !countOk n || n < wp.vcnt || f.length < need then b
        else Block.serveClaims (Block.updWarp { b with claims := rest, idle := 0 } w fun wp => Warp.closeClause { wp with rows := wp.rows ++ f }) k
      | _ => Block.serveClaims { b with claims := rest } k

/-- REGCLAIMs of the count a warp has end once its slots have completed, whatever else is claimed (R146). -/
def Block.equalClaims (b : Block) : Block :=
  b.claims.foldl (fun b w =>
    match (b.warp w).wait with
    | some (.regclaim n) =>
      if (b.warp w).settled && countOk n && n = (b.warp w).vcnt then
        Block.updWarp { b with claims := b.claims.filter (· != w), idle := 0 } w Warp.closeClause
      else b
    | _ => b) b

/-- Phase `ph` of barrier `k` as an agent. -/
def barAgent (k : Nat) (ph : BitVec 16) : Agent := .bar 0 (16 * ph.toNat + k)
/-- The departure of warp `w` from phase `ph` of barrier `k`; with `pth` it orders later matrix reads (R47, R140). -/
def Block.depart (b : Block) (k : Nat) (ph : BitVec 16) (w : Nat) (pth : Bool) : Block :=
  let b := b.hb (barAgent k ph) (.own w)
  if pth then b.hbJoin (.own w) else b
/-- The departures of the warps that wait on a completing phase. -/
def Block.departAll (b : Block) (k : Nat) (ph : BitVec 16) : Block :=
  (List.range b.warps.length).foldl (fun b w => match (b.warp w).wait with
    | some (.barrier k' _ _ pth) => if k' = k then b.depart k ph w pth else b
    | _ => b) b
/-- Wake the warps that wait on barrier `k`, with the object's status (R119, R121). -/
def Block.wakeBar (b : Block) (k : Nat) : Block :=
  let x := b.bar k
  { b with warps := b.warps.map fun wp =>
      match wp.wait with
      | some (.barrier k' sf g _) => if k' = k then (wp.status sf g x.brk (barStatus x.brk x.ph)).closeClause else wp
      | _ => wp }

/-- The completion test of barrier `k` (R119). -/
def Block.testBar (b : Block) (k : Nat) : Block :=
  let x := b.bar k
  if x.set && !x.brk && x.cnt = (if x.exp = 0 then b.liveWarps else x.exp) then
    let b := (b.departAll k x.ph).setBar k { x with ph := x.ph + 1, cnt := 0, set := false }
    let b := { b with warps := b.warps.map fun (wp : Warp) => { wp with arr := wp.arr &&& ~~~(BitVec.twoPow 16 k) } }
    { b.wakeBar k with idle := 0 }
  else b

/-- Effects of a warp wholly exiting: its rows return, waits with EXP = 0 are tested again (R119, R124). -/
def Block.gone (b : Block) (w : Nat) : Block :=
  let rows := (b.warp w).rows
  let b := b.updWarp w fun wp =>
    { wp with rows := [], wait := none, clause := none, rep := 0, reprun := 0#32, exitPend := false, rdv := false, rel := none }
  let b := b.clearRows rows
  let b := { b with claims := b.claims.filter (· != w) }
  let b := (List.range 16).foldl (fun b k => if (b.bar k).exp = 0 then b.testBar k else b) b
  b.serveClaims 16

/-- EXIT of the lanes `m` (R138): exit helpers until their quad has no lane with ST 0 or 1. -/
def Warp.exitLanes (wp : Warp) (m : Mask) : Warp :=
  let wp := wp.updLanes m fun _ ln => if ln.present then { ln with st := .exitHelper } else ln
  wp.updLanes (maskOf fun L => (List.range 4).all fun i => !(wp.lane (L / 4 * 4 + i)).present) fun _ ln => { ln with st := .exited }

/-- The warp wholly exits (R139). -/
def Block.exitWarp (b : Block) (w : Nat) : Block :=
  if (b.warp w).exited then b else (b.updWarp w fun wp => wp.exitLanes 0xFFFFFFFF#32).gone w

/-- The end of a clause issue of warp `w`, or of the wait it stood at, with a pending EXITS of a sibling (R139); the idle timer starts again (R311). -/
def Block.closeClause (b : Block) (w : Nat) : Block :=
  let b := { b.updWarp w Warp.closeClause with idle := 0 }
  let wp := b.warp w
  if wp.exitPend then b.exitWarp w
  else if wp.exited && !wp.rows.isEmpty then b.gone w
  else b

/-- Push a row to a channel: a closed or broken one discards it (R70, R122, R148). DESIGN CHOICE, log 84: a bound o6 pushes past 16 rows where
its channel has filled since its clause began. unsafe. -/
def Chan.push (ch : Chan) (row : ChRow) : Chan :=
  if ch.brk || ch.cls then { ch with disc := min 65535 (ch.disc + 1) } else { ch with q := ch.q ++ [row] }

/-- A channel row from lane words and valid lanes. -/
def mkRow (valid : Mask) (x : Nat → Word) : ChRow :=
  { ws := (lanesOf valid).foldl (fun m L => mset 0#32 m L (x L)) [], valid := valid }
def ChRow.get (r : ChRow) (L : Nat) : Word := if r.valid.getLsbD L then mget 0#32 r.ws L else 0#32

/-- The result of a result-producing instruction (R67, R69): `g` the lanes with a true guard, destination v_dst (`nw` 0), o_dst, or only
the latches; a bound o6 pushes a row of the run's live lanes. -/
def Block.writeResult (b : Block) (w : Nat) (nw : BitVec 1) (dst : BitVec 6) (g : Mask) (x : Nat → Word) : Block :=
  let wp := b.warp w
  match wp.clause with
  | none => b
  | some cl =>
    let b := if nw = 0#1 then b.vwriteLanes wp dst.toNat g x else b
    let push := if nw = 1#1 && dst = 6#6 && (g &&& cl.run) != 0#32 then wp.bnd6 else none
    let b := match push with
      | some ch => b.setChan ch ((b.chan ch).push (mkRow (wp.contrib (g &&& cl.run)) x))
      | none => b
    let toO := nw = 1#1 && dst.toNat < 8 && !(dst = 6#6 && wp.bnd6.isSome)
    b.updWarp w fun wp =>
      let wp := wp.updLanes cl.gang fun L ln =>
        let r := if g.getLsbD L then x L else 0#32
        let ln := { ln with lat := (r :: ln.lat).take 4 }
        if toO && g.getLsbD L then { ln with o := mset 0#32 ln.o dst.toNat r } else ln
      { wp with clause := some { cl with nres := cl.nres + 1 } }

/-- A CHPUT or CHGET performs its effect when the channel can serve it, and stands otherwise (R148): the row moved, the result, the status. -/
def Block.chanServe (b : Block) (w : Nat) (i : Wait) : Option Block :=
  match i with
  | .chput c row sf g =>
    let ch := b.chan c
    if ch.brk || ch.cls || ch.q.length < 16 then
      let ch' := ch.push row
      some (((b.hb (.own w) (.chan 0 c)).setChan c ch').updWarp w fun wp => wp.status sf g (ch.brk || ch.cls) ch'.statusWord)
    else none
  | .chget c nw dst sf g gr =>
    let ch := b.chan c
    let fin := fun (row : ChRow) (ch' : Chan) (moved : Bool) =>
      let b := (((if moved then b.hb (.chan 0 c) (.own w) else b).setChan c ch')).writeResult w nw dst g row.get
      b.updWarp w fun wp => wp.status sf gr (!moved) (b.chan c).statusWord
    if ch.brk then some (fin ⟨[], 0#32⟩ ch false)
    else
      match ch.q with
      | row :: rest => some (fin row { ch with q := rest } true)
      | [] => if ch.cls then some (fin ⟨[], 0#32⟩ ch false) else none
  | _ => none

/-- Waiting CHPUTs and CHGETs that their channels can now serve are, in warp order (R123, R148). -/
def Block.serveChans (b : Block) : Nat → Block
  | 0 => b
  | k + 1 =>
    match (List.range b.warps.length).findSome? fun w => match (b.warp w).wait with
      | some i => (b.chanServe w i).map fun x => x.closeClause w
      | none => none with
    | some x => Block.serveChans x k
    | none => b

/-- The warps of the block that stand at a CHPUT or CHGET are served, if there are any. -/
def Block.serveWaiting (b : Block) : Block :=
  if b.warps.any fun wp => match wp.wait with | some (.chput _ _ _ _) | some (.chget _ _ _ _ _ _) => true | _ => false then b.serveChans 16 else b

/-! ## Cores and their queues -/

/-- Remove a warp from the ports and from the active and pending sets of its core (R112, R113). -/
def Core.freePort (c : Core) (bw : Nat × Nat) : Core := { c with ports := c.ports.filter fun p => p.2 != bw }
def Core.dropWarp (c : Core) (bw : Nat × Nat) : Core :=
  { c with ports := c.ports.filter (fun p => p.2 != bw), active := c.active.filter (· != bw), pending := c.pending.filter (· != bw),
           rr := c.rr.filter (· != bw), begun := if c.begun = some bw then none else c.begun }
/-- The sidereal count of a domain (R18). -/
def State.sid (s : State) (d : Nat) : Tick := if (s.dom d).lag then s.tick - 1 else s.tick
/-- The domain's copy of the counter waits for the next beacon: its engines read it only then (R422). -/
def State.sidHeld (s : State) (d : Nat) : Bool := (s.dom d).sidHeld
/-- Whether the core at a logical position is usable, and its CID (R12). -/
def State.usable (s : State) (d a : Nat) : Bool := d < 64 && a < 132 && !s.svc.unusable.contains (coreKey d a)
def State.cid (s : State) (d a : Nat) : Nat := coreKey d a - (s.svc.unusable.filter (· < coreKey d a)).length
/-- The core at a position runs: it is usable, or on its way off the map, and has power and clock. -/
def State.coreOn (s : State) (d a : Nat) : Bool := (s.usable d a || (s.core d a).moving) && !(s.core d a).stopped && s.svc.powered

def State.updCoreOf (s : State) (b : Nat) (f : Core → Core) : State :=
  match (s.block b).loc with
  | some l => s.updCore l.d l.a f
  | none => s
/-- The warp leaves its port and the focus. -/
def State.leavePort (s : State) (b w : Nat) : State :=
  { s.updCoreOf b (·.freePort (b, w)) with focus := if s.focus = some (b, w) then none else s.focus }

/-- Enter an event with its data in the log (R429); the area index is the core's logical position, 0xFF for the module or a domain as a
whole. -/
def State.logData (s : State) (code dom area : Nat) (data : BitVec 64) : State :=
  { s with log := s.log ++ [{ tick := s.tick, code := code, dom := dom, area := area, data := data }] }
/-- Enter an event whose DATA the spec does not give: a free value (log 23). -/
def State.logEvent (s : State) (code dom area : Nat) : State :=
  State.logData { s with fresh := s.fresh + 1 } code dom area (Config.freeData s.fresh)

/-! ## Task records and their handles (R296, R319, R321) -/

def Domain.recOf (x : Domain) (i : Nat) : Rec := (mfind x.recs i).getD Rec.free
def State.recAt (s : State) (d i : Nat) : Rec := (s.dom d).recOf i
def State.updRec (s : State) (d i : Nat) (f : Rec → Rec) : State := s.updDom d fun x => { x with recs := mput x.recs i (f (x.recOf i)) }
def recHandle (dev d i : Nat) : Word := BitVec.ofNat 32 (i + 2 ^ 16 * d + 2 ^ 22 * dev)
/-- The domain and index a handle of this device names. -/
def State.named (s : State) (h : Word) : Option (Nat × Nat) :=
  let h := h.toNat
  if h / 2 ^ 28 = 0 && h / 2 ^ 22 % 64 = s.svc.dev then some (h / 2 ^ 16 % 64, h % 2 ^ 16) else none
def RecSt.terminal : RecSt → Bool
  | .done | .cancelled | .refused => true
  | _ => false
/-- A child's index returns to the pool (R321). -/
def State.poolReturn (s : State) (d i : Nat) : State :=
  let h := recHandle s.svc.dev d i
  let s := match (s.recAt d i).parent with
    | some b => s.updBlock b fun x => { x with children := x.children.filter (· != h) }
    | none => s
  s.updRec d i fun r => { r with st := .free, parent := none }
/-- The terminal children of a block that exits return their indices to the pool (R321). -/
def State.childrenEnd (s : State) (b : Nat) : State :=
  (s.block b).children.foldl (fun s h => match s.named h with
    | some (d, i) => if (s.recAt d i).st.terminal && (s.recAt d i).fin.isNone then s.poolReturn d i else s
    | none => s) s

/-- A warp's handle on its core (R125). -/
def handleOf (k w : Nat) : Nat := 16 * k + w
/-- The block and warp a handle names on a core. -/
def Core.ofHandle (c : Core) (h : Nat) : Option (Nat × Nat) :=
  match mfind c.slots (h / 16) with
  | some b => if h < 64 then some (b, h % 16) else none
  | none => none

/-- End the handler's run: the handler slot is empty and idle, its terminal children return (R125, R321). -/
def State.endHandler (s : State) (d a : Nat) : State :=
  match mfind (s.core d a).slots 4 with
  | some hb =>
    let s := (s.childrenEnd hb).updCore d a fun c => { c with slots := mdel c.slots 4, hrun := false, ports := c.ports.filter fun p => p.2.1 != hb }
    { s with blocks := mdel s.blocks hb, focus := if s.focus.any (·.1 = hb) then none else s.focus }
  | none => s.updCore d a fun c => { c with hrun := false }

/-- Break every barrier and channel of a block; their waiters wake with broken status, sleeps
end (R121, R123, R149, R152). -/
def Block.break (b : Block) : Block :=
  let b := { b with bars := (List.range 16).foldl (fun m k => mset Bar.zero m k { mget Bar.zero m k with brk := true }) b.bars,
                    chans := (List.range 8).foldl (fun m k => mset Chan.zero m k { mget Chan.zero m k with brk := true }) b.chans }
  let b := (List.range 16).foldl (fun b k => b.wakeBar k) b
  (List.range 16).foldl (fun b w =>
    match (b.warp w).wait with
    | some .sleep => b.closeClause w
    | some i => match b.chanServe w i with
      | some b' => b'.closeClause w
      | none => b
    | none => b) b

/-! ## Objects and the sequencer's pin (R353 to R357, R364) -/

def Obj.val (o : Obj) : Bool := (o.raw.getD 0 0#32).getLsbD 0
def Obj.field (o : Obj) (i lo n : Nat) : Nat := (o.raw.getD i 0#32).toNat / 2 ^ lo % 2 ^ n
def Obj.tag (o : Obj) : Nat := o.field 2 0 18
def Domain.obj (x : Domain) (i : Nat) : Obj := mget Obj.zero x.objs i
def State.updObj (s : State) (d i : Nat) (f : Obj → Obj) : State :=
  s.updDom d fun x => { x with objs := mset Obj.zero x.objs i (f (x.obj i)) }
/-- The entry an identifier names in a domain's table (R353). -/
def Domain.named (x : Domain) (id : Word) : Option Nat :=
  let i := id.toNat % 2 ^ 14
  if (x.obj i).val && (x.obj i).tag = id.toNat / 2 ^ 14 then some i else none
/-- Word `i` of the current entry; fields of CTL and CND. -/
def Seq.entWord (q : Seq) (i : Nat) : Word := (q.tab.getD q.cur []).getD i 0#32
def Seq.ctl (q : Seq) (lo n : Nat) : Nat := (q.entWord 8).toNat / 2 ^ lo % 2 ^ n
def Seq.cnd (q : Seq) (lo n : Nat) : Nat := (q.entWord 9).toNat / 2 ^ lo % 2 ^ n
def Seq.pov (q : Seq) : Bool := q.ctl 17 1 = 1
def Seq.pobj (q : Seq) : Word := q.entWord 14
def Seq.running (q : Seq) : Bool := q.mode = 2
def State.seqOf (s : State) (d a : Nat) : Seq := (s.core d a).seq
def State.updSeq (s : State) (d a : Nat) (f : Seq → Seq) : State := s.updCore d a fun c => { c with seq := f c.seq }
/-- The block that holds a sequencer. -/
def Seq.holder (q : Seq) : Option Nat := q.hold.map (·.2)
def State.op (s : State) (o : Nat) : Option Op := s.ops.find? fun x => x.id = o
def State.setOp (s : State) (x : Op) : State := { s with ops := s.ops.map fun y => if y.id = x.id then x else y }
/-- An operation is gone, with the retries it has still to make. -/
def State.dropOp (s : State) (o : Nat) : State :=
  { s with ops := s.ops.filter fun x => x.id != o, retries := s.retries.filter (·.q != .op o) }

/-- Operations that wait in an object's phase. -/
def State.tierOps (s : State) (d i ph : Nat) : List Op :=
  s.ops.filter fun x => x.d = d && (match x.k with | .tier j _ p _ _ _ _ => j = i && p = ph | _ => false)
/-- A tier operation goes on to another phase. -/
def OpK.toPhase (k : OpK) (ph : Nat) : OpK := match k with | .tier i v _ o c g h => .tier i v ph o c g h | k => k
def State.tierPhase (s : State) (x : Op) (ph : Nat) : State := s.setOp { x with k := x.k.toPhase ph }
/-- CPYT .SCR and .GLB take a pin. -/
def OpK.pinning : OpK → Bool | .tier _ v _ _ _ _ _ => 2 ≤ v | _ => false

/-- What follows when an object is RESIDENT, or a pin has gone (R355, R357): sequencers that wait for it take pins, then the CPYTs that
wait; a held eviction runs if no pin is left. -/
def State.settleObj (s : State) (d i : Nat) : State :=
  if ((s.dom d).obj i).st != 1 then s
  else
    let pinOne := fun (s : State) => s.updObj d i fun o => { o with pin := o.pin + 1 }
    let room := fun (s : State) => ((s.dom d).obj i).pin < 65535
    let s := (List.range 132).foldl (fun s a =>
      let q := s.seqOf d a
      if q.running && q.phase = 0 && q.pov && (s.dom d).named q.pobj = some i && room s then
        (pinOne s).updSeq d a fun q => { q with pinned := true, phase := 1 }
      else s) s
    let s := (s.tierOps d i 0).foldl (fun s x =>
      if !x.k.pinning then s.tierPhase x 3 else if room s then (pinOne s).tierPhase x 2 else s) s
    s.updObj d i fun o => if o.evh && o.pin = 0 then { o with evh := false, st := 3 } else o
/-- A pin is released (R355, R357). -/
def State.unpin (s : State) (d i : Nat) : State :=
  (s.updObj d i fun o => { o with pin := o.pin - 1 }).settleObj d i
/-- A sequencer drops the pin it holds. -/
def State.seqUnpin (s : State) (d a : Nat) : State :=
  let q := s.seqOf d a
  if !q.pinned then s
  else
    let s := s.updSeq d a fun q => { q with pinned := false }
    match (s.dom d).named q.pobj with
    | some i => s.unpin d i
    | none => s
/-- The sequencer stops: a wait is abandoned, the pin dropped, MODE STOPPED unless EMPTY (R358, R369). -/
def State.seqStop (s : State) (d a : Nat) : State :=
  (s.seqUnpin d a).updSeq d a fun q => { q with mode := if q.mode = 0 then 0 else 1 }

/-- KILL of the warp with handle `h` if it is parked (R152): waiters wake with broken status before the warp's exit re-tests any object, and a
sequencer that its block holds stops at that instant, its claim to end when the words it has replayed have completed (R358). -/
def State.killWarp (s : State) (d a h : Nat) : State :=
  match (s.core d a).ofHandle h with
  | none => s
  | some (b, w) =>
    if !((s.block b).warp w).parked then s
    else
      let s := s.updCore d a fun c => { c with hq := c.hq.filter (· != h) }
      let s := s.updBlock b fun x =>
        let x := (x.updWarp w fun wp => { wp with parked := false, trap := .zero }).break
        { x.exitWarp w with killed := true }
      let s := (s.updCore d a (·.dropWarp (b, w))).spread b
      if (s.seqOf d a).holder = some b then (s.seqStop d a).updSeq d a fun q => { q with ending := true } else s

/-- A fault of the handler run: the block of the warp it handles is killed, an event logged, the handler idle (R125). -/
def State.handlerFault (s : State) (d a : Nat) : State :=
  let s := match (s.core d a).hq with
    | h :: _ => s.killWarp d a h
    | [] => s
  (s.logEvent 0x30 d a).endHandler d a

/-! ## Traps (R80, R83, R125, R127) -/

/-- The trap causes (Table 05-8). -/
inductive Cause where
  | illegalOpcode | illegalClause | illegalOperand | staleLatch | partialBarrier | illegalConvergence | pageFault | protection
  | misaligned | missedTransit | nestingLimit | footprint | software | assert | registerRange | windowDenied | versionOverflow
  | quartetMismatch | uniformMismatch
deriving DecidableEq, Repr

/-- The code of a cause (Table 05-8). -/
def Cause.code : Cause → Nat
  | .illegalOpcode => 0x01 | .illegalClause => 0x02 | .illegalOperand => 0x03 | .staleLatch => 0x04 | .partialBarrier => 0x05
  | .illegalConvergence => 0x06 | .pageFault => 0x07 | .protection => 0x08 | .misaligned => 0x09 | .missedTransit => 0x0A
  | .nestingLimit => 0x0B | .footprint => 0x0C | .software => 0x0D | .assert => 0x0E | .registerRange => 0x0F | .windowDenied => 0x10
  | .versionOverflow => 0x11 | .quartetMismatch => 0x12 | .uniformMismatch => 0x13

/-- Take a trap: the record is written, the warp parked at the word of its open clause with its latches, its handle queued; a trap of the
handler warp is a handler fault (R62, R80, R83, R125). -/
def State.takeTrap (s : State) (b w : Nat) (cause : Cause) (mask : Mask) (addr : Ptr) (info : Word) : State :=
  let x := s.block b
  match x.loc with
  | none => s
  | some l =>
    if l.k = 4 then s.handlerFault l.d l.a
    else
      let pc := match (x.warp w).clause with
        | some c => c.wordPc
        | none => 0#32
      let s := s.updWarp b w fun wp =>
        { wp with trap := { cause := cause.code, pc := pc, mask := mask, info := info, addr := addr }, parked := true, wait := none, rel := none }
      let s := s.updCore l.d l.a fun c => { c.freePort (b, w) with hq := c.hq ++ [handleOf l.k w] }
      { s with focus := if s.focus = some (b, w) then none else s.focus }

/-- A word of a warp has issued: the next word of its clause, or the clause's end (R60). -/
def State.retire (s : State) (b w nw : Nat) : State :=
  let s := (s.updBlock b (·.serveWaiting)).spread b
  match ((s.block b).warp w).clause with
  | none => s.leavePort b w
  | some c =>
    if c.idx + nw ≤ hdrN c.hdr then s.updWarp b w fun wp => { wp with clause := some { c with idx := c.idx + nw }, rel := none }
    else
      let s := (s.leavePort b w).updBlock b (·.closeClause w)
      let x := s.block b
      if (x.warp w).exited then
        let s := s.updCoreOf b (·.dropWarp (b, w))
        match x.loc with
        | some l => if l.k = 4 then s.handlerFault l.d l.a else s
        | none => s
      else s

/-- The opcode of a word. -/
def opOfWord (w : Word) : Nat := (w.extractLsb' 24 8).toNat
/-- TRET: warp `h`, if parked, resumes at its trapping word with its latches, or after it; a word of no assigned opcode has no literal (R71, R151).
DESIGN CHOICE, log 106: a word that is passed shifts no latch and does not count for STALE_LATCH, and one that could not be fetched is one word. unsafe. -/
def State.resumeTrap (s : State) (d a h : Nat) (skip : Bool) : State :=
  match (s.core d a).ofHandle h with
  | none => s
  | some (b, w) =>
    let wp := (s.block b).warp w
    if !wp.parked then s
    else
      let s := s.updCore d a fun c => { c with hq := c.hq.filter (· != h) }
      match wp.clause with
      | none => s.updWarp b w fun wp => { wp with parked := false, trap := .zero }
      | some c =>
        if c.idx = 0 then s.updWarp b w fun wp => { wp with parked := false, trap := .zero, clause := none, evDue := !wp.ev.isEmpty && wp.reprun = 0#32 }
        else
          let n := if c.idx ≤ c.ibuf.length && opAssigned (opOfWord c.word) && takesLiteral c.word then 2 else 1
          -- words passed that could not be fetched are not fetched again
          let pass := { c with ibuf := c.ibuf ++ List.replicate (c.idx + n - 1 - c.ibuf.length) 0#32 }
          let s := s.updWarp b w fun wp => { wp with parked := false, trap := .zero, clause := some (if skip then pass else c) }
          if skip then s.retire b w n else s

/-! ## Orders and scopes (R29, R33) -/

/-- Orders that acquire, that release (R33). -/
def ordAcq (o : Nat) : Bool := o = 1 || o = 3 || o = 4
def ordRel (o : Nat) : Bool := o = 2 || o = 3 || o = 4
/-- Effective order and scope of a part on its page type (Table 02-4). -/
def effOrd (o ty : Nat) : Nat := if ty = 3 then 4 else o
def effScp (c ty : Nat) : Nat := if ty = 0 then c else 3
/-- A load that acquires at WAF or SYS scope in some lane (R208). -/
def OpK.acquiresWide : OpK → Bool
  | .load _ o c ps => ps.any fun p => ordAcq (effOrd o p.ty) && 2 ≤ max (effScp c p.ty) (effScp c p.sty)
  | _ => false

/-! ## Dependence slots and operations (R14, R63) -/

/-- Slot `d` of a warp is pending. -/
def Warp.slotBusy (wp : Warp) (d : Nat) : Bool := wp.pend.getLsbD d
def Warp.claim (wp : Warp) (d : Nat) : Warp :=
  if d = 6 then { wp with d6 := wp.d6 + 1 } else { wp with pend := wp.pend ||| BitVec.twoPow 6 d }
def Warp.release (wp : Warp) (d : Nat) : Warp :=
  if d = 6 then { wp with d6 := wp.d6 - 1 } else { wp with pend := wp.pend &&& ~~~(BitVec.twoPow 6 d) }

/-- A WAITT on a slot that has completed ends: an acquire on what the slot's operation has written (R242). -/
def Block.wakeWaitt (b : Block) (w : Nat) : Block :=
  match (b.warp w).wait with
  | some (.waitt v _) => if (b.warp w).slotBusy v then b else (b.hbAwait w v).closeClause w
  | _ => b
/-- The copy record of a slot goes when the slot is next claimed (R228). -/
def Block.unrecord (b : Block) (w d : Nat) : Block := if d < 6 then { b with copies := mdel b.copies (8 * w + d) } else b

/-- What an operation's completion does to the block that issued it: uniform results are written, the slots it claimed become complete. -/
def Block.freeSlots (b : Block) (x : Op) : Block :=
  let b := x.ws.foldl (fun b p => b.updWarp p.1 (·.release p.2)) b
  let b := match x.ws with
    | (w, _) :: _ => b.updWarp w fun wp => x.res.foldl (fun (wp : Warp) (r : Nat × Word) => wp.setS r.1 r.2) wp
    | [] => b
  x.ws.foldl (fun b p => b.wakeWaitt p.1) b
/-- Waiting REGCLAIMs whose slots have completed trap REGISTER_RANGE on an illegal count, or on one below the warp's own, which names no info word
(R146, log 19). -/
def State.claimTraps (s : State) (b : Nat) : State :=
  (s.block b).claims.foldl (fun s w =>
    let wp := (s.block b).warp w
    match wp.wait, wp.clause with
    | some (.regclaim n), some c =>
      if wp.settled && (!countOk n || n < wp.vcnt) then
        let s := s.updBlock b fun x => { x with claims := x.claims.filter (· != w) }
        State.takeTrap { s with fresh := s.fresh + 1 } b w .registerRange c.run (Config.freePtr s.fresh)
          (if countOk n then Config.freeWord s.fresh else BitVec.ofNat 32 n)
      else s
    | _, _ => s) s
/-- REGCLAIMs that can end do: traps first, then those that change nothing, then the oldest that the free rows cover (R124, R146). -/
def State.settleClaims (s : State) (b : Nat) : State :=
  if (s.block b).claims.isEmpty then s else (s.claimTraps b).updBlock b fun x => x.equalClaims.serveClaims 16
/-- What a completing operation has written is what whoever waits on its slots awaits (R274, R285). -/
def State.opPast (s : State) (x : Op) : State :=
  s.onScr fun b y =>
    let n := agentBlock b x.bid
    let y := x.ws.foldl (fun (y : Block) p => y.flow (.op x.id) (.slot n (if x.seq then 16 else p.1) p.2)) y
    if x.seq then y.flow (.op x.id) (.slot n 17 0) else y
/-- An operation's slots complete. A DFENCE whose slot has completed names slot 7, which is none. -/
def State.freeSlots (s : State) (x : Op) : State :=
  let s := s.opPast x
  if x.seq then
    s.updCore x.d x.a fun c => { c with seq := { c.seq with sd := x.ws.foldl (fun sd p => sd &&& ~~~(BitVec.twoPow 6 p.2)) c.seq.sd } }
  else ((s.updBlock x.bid (·.freeSlots x)).spread x.bid).settleClaims x.bid
/-- An operation ends. -/
def State.completeOp (s : State) (x : Op) : State := (s.dropOp x.id).freeSlots x

end Sys2Proof.Machine
end

