-- ==== Sys2Proof/Machine/Operands.lean ====
section
/-! DEFINITION. Operands of the instruction at issue: the context of the open clause, register sources (Table 03-3), index registers,
uniform operands, results, and the decode checks of Table 03-11 that every meaning makes through `issue`. -/

namespace Sys2Proof.Machine

/-- What an instruction sees at issue: the block, the warp and its clause, the guard, the lanes with a true guard (`g`, exit helpers
included), the run's own (`gr`), the popped row of a bound o7; `sq`: the layer sequencer replays the word (R361). -/
structure Env where
  s : State
  bid : Nat
  w : Nat
  blk : Block
  wp : Warp
  cl : Clause
  g : Mask
  gr : Mask
  lit : Word
  row : Option ChRow
  sq : Bool
deriving Repr

/-- How an instruction ends at issue. -/
inductive Act where
  /-- It has its effect, and the next word follows. -/
  | done (s : State)
  /-- It traps without effect (R80). -/
  | trap (c : Cause) (mask : Mask) (addr : Ptr) (info : Word)
  /-- It traps without effect of its own, after the steps that the state holds: entries its walks have filled, draws of free values. -/
  | trapAt (s : State) (c : Cause) (mask : Mask) (addr : Ptr) (info : Word)
  /-- It traps without effect; the entry names the cause and the info word, or not even that, and no address: free values (R80). -/
  | trapOpen (c : Cause) (info : Option Word)
  /-- An E instruction stands at its wait (R61). -/
  | wait (s : State)
  /-- The word waits at issue (R14). -/
  | stall
  /-- The handler's run has ended or the word has parked or ended its own warp: nothing is left to retire. -/
  | ended (s : State)

def Env.loc (e : Env) : Loc := e.blk.loc.getD ⟨0, 0, 0⟩
def Env.core (e : Env) : Core := e.s.core e.loc.d e.loc.a
def Env.dom (e : Env) : Domain := e.s.dom e.loc.d
/-- Any(G) (R64). -/
def Env.any (e : Env) : Bool := e.gr != 0#32
/-- Contributing lanes: a true guard and ST 0. -/
def Env.contrib (e : Env) : Mask := e.wp.contrib e.gr
def Env.lane (e : Env) (L : Nat) : Lane := e.wp.lane L
def Env.pcVa (e : Env) : Ptr := e.blk.cbAddr e.cl.wordPc
def Env.sreg (e : Env) (i : Nat) : Word := e.wp.sreg i
def Env.breg (e : Env) (i : Nat) : Ptr := e.wp.breg i
def Env.v (e : Env) (j L : Nat) : Word := e.blk.vread e.wp j L
/-- The PC of the header after the clause. -/
def Env.nextPc (e : Env) : Word := e.cl.pc + BitVec.ofNat 32 (4 * (hdrN e.cl.hdr + 1))
/-- Change the issuing block, warp. -/
def Env.setBlk (e : Env) (f : Block → Block) : State := e.s.updBlock e.bid f
def Env.setWarp (e : Env) (f : Warp → Warp) : State := e.s.updWarp e.bid e.w f

/-- A source of Table 03-3 in lane `L` (R66, R69, R71). -/
def Env.src (e : Env) (f : BitVec 7) (L : Nat) : Word :=
  let c := f.toNat
  if c < 64 then e.v c L
  else if c < 72 then
    if c = 71 then (match e.row with | some r => r.get L | none => (e.lane L).oreg 7) else (e.lane L).oreg (c - 64)
  else if c < 76 then (e.lane L).lat.getD (c - 72) 0#32
  else if c < 92 then e.sreg (c - 76)
  else match c with
    | 92 => 0#32
    | 93 => BitVec.ofNat 32 L
    | 94 => BitVec.ofNat 32 (L % 4)
    | 95 => BitVec.ofNat 32 (L / 4)
    | 96 => BitVec.ofNat 32 e.w
    | 97 => BitVec.ofNat 32 e.wp.role
    | 98 => 0xFFFFFFFF#32
    | 99 => 0x3F800000#32
    | 124 => e.lit
    | _ => BitVec.ofInt 32 ((c : Int) - 104)

/-- A uniform source: its value in the lowest lane of the run with a true guard. DESIGN CHOICE, log 86: with none, but an exit helper whose guard is
true, lane 0's. unsafe. -/
def Env.uni (e : Env) (f : BitVec 7) : Word := e.src f (lowLane e.gr)

/-- The third source, from the register `dst` names: v_dst, o_dst, or l0 (R67). -/
def Env.third (e : Env) (op : Nat) (f : RegW) (L : Nat) : Word :=
  if regFBit op || f.nw = 0#1 then e.v f.dst.toNat L
  else if f.dst = 63#6 then (e.lane L).lat.getD 0 0#32
  else (e.lane L).oreg f.dst.toNat

/-! ## Checks 4 to 7 on register-format words (Table 03-11) -/

/-- The source fields a register-format word names. -/
def regSources (op : Nat) (f : RegW) : List (BitVec 7) :=
  (if regSrcA op (f.b.getLsbD 6) then [f.a] else []) ++ (if regSrcB op then [f.b] else [])
/-- The word writes a register named by NW and `dst` (SMOV's names an s-register). -/
def regWritesDst (op : Nat) (f : RegW) : Bool := regResult op (f.b.getLsbD 6) && op != 0x12
/-- The v-registers a register-format word uses (R72). -/
def regVs (op : Nat) (f : RegW) : List Nat :=
  ((regSources op f).map (·.toNat)).filter (· < 64)
    ++ (if (regFBit op || f.nw = 0#1) && (regWritesDst op f || regThird op) then [f.dst.toNat] else [])
/-- The word reads its third source: XPCV only when SC = 1 (R168). -/
def readsThird (op : Nat) (f : RegW) : Bool := regThird op && (op != 0x67 || (f.lit.getD 0#32).getLsbD 9)
/-- Bound o6 and o7 are used legally (R69). DESIGN CHOICE, log 83: a word whose third source is the bound o7 that it also writes traps. unsafe. -/
def boundOk (wp : Warp) (op : Nat) (f : RegW) : Bool :=
  let o := !regFBit op && f.nw = 1#1
  !(wp.bnd6.isSome && ((regSources op f).contains 70#7 || (o && f.dst = 6#6 && readsThird op f)))
    && !(wp.bnd7.isSome && o && f.dst = 7#6 && regWritesDst op f)
/-- The latches read have been written (R68). -/
def latchOk (cl : Clause) (op : Nat) (f : RegW) : Bool :=
  (regSources op f).all (fun x => !(72 ≤ x.toNat && x.toNat < 76) || x.toNat - 71 ≤ cl.nres)
    && (!(readsThird op f && !regFBit op && f.nw = 1#1 && f.dst = 63#6) || 1 ≤ cl.nres)
/-- Opcodes of Table 05-10 whose `srcA` is uniform, and ASSERT's `srcB`. -/
def uniA (op : Nat) (f : RegW) : Bool :=
  [0x07, 0x0A, 0x0B, 0x0C, 0x13, 0x14, 0x15, 0x1A, 0x1B, 0x1D, 0x1E].contains op || (op = 0x1F && f.b.getLsbD 6) || (op = 0x12 && !f.b.getLsbD 0)

/-! ## The words of a clause -/

/-- The opcode of a word. -/
abbrev opOf (w : Word) : Nat := opOfWord w
/-- The instruction words among a clause's words: literals are passed over (R71). -/
def clauseInstrs : Nat → List Word → List Word
  | 0, _ => []
  | _, [] => []
  | n + 1, w :: ws => w :: clauseInstrs n (if takesLiteral w then ws.tail else ws)

/-- The word can pop o7, can push o6 (R69, R70). -/
def wordPops (w : Word) : Bool :=
  let op := opOf w
  if opIsLoop op then w.extractLsb' 12 7 == 71#7
  else op ≤ 0x77 && !opIsBranch op && (regSources op (regOfWord w none)).contains 71#7
def wordPushes (w : Word) : Bool :=
  let op := opOf w
  let f := regOfWord w none
  op ≤ 0x77 && !opIsBranch op && !opIsLoop op && !regFBit op && regWritesDst op f && f.nw = 1#1 && f.dst = 6#6

/-- Bound channels can serve the clause's words `ws` (R70). -/
def Block.channelsServe (b : Block) (wp : Warp) (ws : List Word) : Bool :=
  let is := clauseInstrs 15 ws
  let pops := (is.filter wordPops).length
  let pushes := (is.filter wordPushes).length
  (match wp.bnd7 with
   | some c => let ch := b.chan c; pops ≤ ch.q.length || ch.cls || ch.brk
   | none => true) &&
  (match wp.bnd6 with
   | some c => let ch := b.chan c; ch.q.length + pushes ≤ 16 || ch.cls || ch.brk
   | none => true)
/-- Warp `w` stands at a blocking point of its quartet's rendezvous: it waits for a partner, or, once all four have arrived, for the rows or room of
its bound channels (R60, R61, R70, R261). Any other wait there is at issue and is no blocking point (R253). -/
def Block.rdvWaits (b : Block) (w : Nat) : Bool :=
  b.rdvPartner w || ((b.warp w).rdv && match (b.warp w).clause with | some cl => !b.channelsServe (b.warp w) cl.ibuf | none => false)

/-! ## Uniform operands and bound channels -/

/-- All lanes of the run with a true guard supply one value (R73). -/
def Env.uniform (e : Env) (x : Nat → Word) : Bool :=
  (lanesOf e.gr).all fun L => x L = x (lowLane e.gr)

/-- The popped row of a bound channel and the channel after it (R69, R70). DESIGN CHOICE, log 84: an open channel that has run empty since the
clause began, or that was bound within it, gives a row of zeros. unsafe. -/
def Chan.pop (ch : Chan) : ChRow × Chan :=
  if ch.brk then (⟨[], 0#32⟩, ch)
  else match ch.q with
    | r :: rest => (r, { ch with q := rest })
    | [] => (⟨[], 0#32⟩, ch)

/-- The environment after a word that names a bound o7 as a source has popped its row, once, if Any(G) (R69). -/
def Env.popped (e : Env) (names : Bool) : Env :=
  match e.wp.bnd7 with
  | some ch =>
    if !names then e
    else if e.any then
      let p := (e.blk.chan ch).pop
      let blk := e.blk.setChan ch p.2
      { e with s := e.s.setBlock e.bid blk, blk := blk, row := some p.1 }
    else { e with row := some ⟨[], 0#32⟩ }
  | none => e

/-! ## Issue -/

/-- The context of the warp in focus. -/
def envOf (s : State) (g : BitVec 3) (lit : Option Word) : Option Env :=
  match s.focus with
  | none => none
  | some (b, w) =>
    let blk := s.block b
    let wp := blk.warp w
    match wp.clause with
    | none => none
    | some cl => some { s := s, bid := b, w := w, blk := blk, wp := wp, cl := cl, g := wp.guard g cl.gang, gr := wp.guard g cl.run,
                        lit := lit.getD 0#32, row := none, sq := false }

/-- A decode trap: the whole run, CB + PC of the word, the word (R80). -/
def Env.decodeTrap (e : Env) (c : Cause) : Out := .next (e.s.takeTrap e.bid e.w c e.cl.run e.pcVa e.cl.word)

/-- A warp stands at the wait of an E instruction, or exits at once where a sibling's EXITS is pending (R61, R139). -/
def State.stands (s : State) (b w : Nat) : State :=
  let s := ((s.leavePort b w).updBlock b (·.serveWaiting)).spread b
  let wp := (s.block b).warp w
  if wp.exitPend && wp.wait.isSome then (s.updBlock b fun x => (x.exitWarp w).serveWaiting).updCoreOf b (·.dropWarp (b, w)) else s

/-- How many words an instruction takes. -/
def Instr.words (i : Instr) : Nat := (encode i).length

/-- The end of an instruction at issue. -/
def Env.finish (e : Env) (n : Nat) (a : Act) : Out :=
  match a with
  | .done s => .next (s.retire e.bid e.w n)
  | .trap c m ad info => .next (e.s.takeTrap e.bid e.w c m ad info)
  | .trapAt s c m ad info => .next (s.takeTrap e.bid e.w c m ad info)
  | .trapOpen c info =>
    let s := { e.s with fresh := e.s.fresh + 1 }
    .next (s.takeTrap e.bid e.w c e.cl.run (Config.freePtr e.s.fresh) (info.getD (Config.freeWord e.s.fresh)))
  | .wait s => .next (s.stands e.bid e.w)
  | .stall => .next { e.s with focus := none }
  | .ended s => .next s

/-- An instruction word at issue: privilege, fields (checks 3 and 4), the further checks `pre` in order, then its own effect (R79). -/
def issue (i : Instr) (g : BitVec 3) (lit : Option Word) (s : State) (pre : Env → List (Bool × Cause)) (act : Env → Act) : Out :=
  match envOf s g lit with
  | none => .fault .noIssuingWarp
  | some e =>
    if opSuper i.opcode && !e.blk.isHandler then e.decodeTrap .protection
    else if !fieldsOk i then e.decodeTrap .illegalOperand
    else match (pre e).find? fun p => !p.1 with
      | some (_, c) => e.decodeTrap c
      | none => e.finish (Instr.words i) (act e)

/-- v-register indices lie below the warp's count (R72). -/
def Env.vsOk (e : Env) (vs : List Nat) : Bool := vs.all (· < e.wp.vcnt)

/-- A register-format word at issue; the row of a bound o7 is popped first (R69). -/
def issueReg (i : Instr) (f : RegW) (s : State) (act : Env → Act) : Out :=
  let op := i.opcode
  let pop := (regSources op f).contains 71#7
  issue i f.g f.lit s
    (fun e =>
      let e' := e.popped pop
      [(boundOk e.wp op f, .illegalOperand), (e.vsOk (regVs op f), .registerRange), (latchOk e.cl op f, .staleLatch),
        (!uniA op f || e'.uniform (e'.src f.a), .uniformMismatch), (op != 0x1C || e'.uniform (e'.src f.b), .uniformMismatch)])
    fun e => act (e.popped pop)

/-- A register-format word whose only effect is its result (R67). -/
def issueResult (i : Instr) (f : RegW) (s : State) (x : Env → Nat → Word) : Out :=
  issueReg i f s fun e =>
    .done (e.setBlk fun b => b.writeResult e.w (if regFBit i.opcode then 0#1 else f.nw) f.dst e.g (x e))

/-- A word of another format at issue, with the v-registers it uses and the uniformity it asks for. -/
def issueWord (i : Instr) (g : BitVec 3) (lit : Option Word) (vs : List Nat) (s : State) (uni : Env → Bool) (act : Env → Act) : Out :=
  issue i g lit s (fun e => [(e.vsOk vs, .registerRange), (uni e, .uniformMismatch)]) act

/-- Slot `d` is pending, of the warp or of the sequencer (R361). -/
def Env.slotBusy (e : Env) (d : Nat) : Bool := if e.sq then e.core.seq.sd.getLsbD d else e.wp.slotBusy d
/-- Claim slot `d`. -/
def Env.claim (e : Env) (s : State) (d : Nat) : State :=
  if e.sq then
    s.updCore e.loc.d e.loc.a fun c => { c with seq := { c.seq with sd := if d < 6 then c.seq.sd ||| BitVec.twoPow 6 d else c.seq.sd } }
  else s.updBlock e.bid fun b => (b.updWarp e.w (·.claim d)).unrecord e.w d

/-- An engine word with dependence slot `d` (R14, R63, R64): it waits at issue while its slot is pending; with no true guard in the run it
has no effect and its slot completes at once. -/
def Env.slotted (e : Env) (d : BitVec 3) (act : Env → Act) : Act :=
  if (d.toNat < 6 && e.slotBusy d.toNat) || e.s.sidHeld e.loc.d then .stall
  else if !e.any then .done (e.s.updBlock e.bid fun b => b.unrecord e.w d.toNat)
  else act e

/-- Load/store operations of a warp that are not performed: all of them, or only the loads (R34, R199). -/
def State.lsBusy (s : State) (b w : Nat) (loadsOnly : Bool) : Bool :=
  s.ops.any fun x => x.bid = b && x.ws.any (·.1 = w) && !x.performed &&
    (match x.k with
     | .load _ _ _ _ => true
     | .store _ _ _ | .fence _ _ _ => !loadsOnly
     | _ => false)

/-- Register an operation that claims slot `d` of the issuing warp; `k` its remaining work, `j` its journal entry. -/
def Env.start (e : Env) (s : State) (d : BitVec 3) (k : OpK) (res : List (Nat × Word)) (j : Option Nat := none) : State :=
  let x : Op := { id := s.nextOp, bid := e.bid, ws := [(e.w, d.toNat)], d := e.loc.d, a := e.loc.a, word := e.cl.word, seq := e.sq, k := k,
                  res := res, performed := false, flushed := false, acq := k.acquiresWide,
                  txn := [], jent := j, pins := [], foot := [], shads := [], pers := false }
  { e.claim s d.toNat with ops := s.ops ++ [x], nextOp := s.nextOp + 1 }

end Sys2Proof.Machine
end

