-- ==== Sys2Proof/Machine/Control.lean ====
section
/-! DEFINITION. Meanings of the control opcodes 0x00 to 0x1F (05, R131 to R153). -/

namespace Sys2Proof.Machine

/-- The lanes `m` of the run take new PCs (R60, R116). -/
def Env.jump (e : Env) (m : Mask) (f : Nat → Lane → Lane) : State :=
  e.setWarp fun wp => { wp.updLanes m f with clause := some { e.cl with setpc := e.cl.setpc ||| m } }

/-- NOP (R132). -/
def execNop (f : RegW) (s : State) : Out := issueReg (.nop f) f s fun e => .done e.s

/-- YIELD: the warp is placed last in the round-robin order (R132). -/
def execYield (f : RegW) (s : State) : Out :=
  issueReg (.yield f) f s fun e => .done (if e.any then e.setWarp fun wp => { wp with yielded := true } else e.s)

/-- A taken branch to `t L`, popping the loops that exclude the target (R117, R133). -/
def Env.branch (e : Env) (t : Nat → Word) : State :=
  e.jump e.gr fun L ln => { ln.popLoops (fun l => !(l.start ≤ t L && t L ≤ l.stop)) ln.loops with pc := t L }

/-- A call to `t L`: overflowing lanes trap NESTING_LIMIT (R117, R133, R134). DESIGN CHOICE, log 85: where their targets differ, the address is
that of the lowest of them. unsafe. -/
def Env.call (e : Env) (t : Nat → Word) : Act :=
  let ovf := maskOf fun L => e.gr.getLsbD L && (e.lane L).calls.length = 8
  if ovf != 0#32 then .trap .nestingLimit ovf (e.blk.cbAddr (t (lowLane ovf))) 0#32
  else .done (e.jump e.gr fun L ln => { ln with calls := (e.nextPc, ln.fb) :: ln.calls, fb := ln.loops.length, pc := t L })

/-- The branch target: PC of the word + 4 × OFF (R133). -/
def Env.target (e : Env) (off : BitVec 18) : Word := e.cl.wordPc + (off.signExtend 32 <<< 2)

/-- BRA (R133). -/
def execBra (f : BrW) (s : State) : Out :=
  issueWord (.bra f) f.g none [] s (fun _ => true) fun e => .done (e.branch fun _ => e.target f.off)

/-- CALL (R133). -/
def execCall (f : BrW) (s : State) : Out :=
  issueWord (.call f) f.g none [] s (fun _ => true) fun e => e.call fun _ => e.target f.off

/-- A trap whose entry names its mask and address, and no info word: a free value (log 19). -/
def Env.trapFree (e : Env) (c : Cause) (mask : Mask) (addr : Ptr) : Act :=
  .trapAt { e.s with fresh := e.s.fresh + 1 } c mask addr (Config.freeWord e.s.fresh)
/-- Targets of BRX and CALLX are multiples of 4, else MISALIGNED (R78, R134). -/
def Env.aligned (e : Env) (t : Nat → Word) (k : Act) : Act :=
  let bad := maskOf fun L => e.gr.getLsbD L && (t L).extractLsb' 0 2 != 0#2
  if bad != 0#32 then e.trapFree .misaligned bad (e.blk.cbAddr (t (lowLane bad))) else k

/-- BRX (R134). -/
def execBrx (f : RegW) (s : State) : Out :=
  issueReg (.brx f) f s fun e => e.aligned (e.src f.a) (.done (e.branch (e.src f.a)))

/-- CALLX (R134). -/
def execCallx (f : RegW) (s : State) : Out :=
  issueReg (.callx f) f s fun e => e.aligned (e.src f.a) (e.call (e.src f.a))

/-- RET (R135). -/
def execRet (f : RegW) (s : State) : Out :=
  issueReg (.ret f) f s fun e =>
    let bad := maskOf fun L => e.gr.getLsbD L && (e.lane L).calls.isEmpty
    if bad != 0#32 then .trap .nestingLimit bad e.pcVa 0#32
    else .done (e.jump e.gr fun _ ln =>
      let ln := ln.popLoops (fun _ => true) ln.loops
      match ln.calls with
      | (pc, fb) :: rest => { ln with pc := pc, fb := fb, calls := rest }
      | [] => ln)

/-- The count of LOOP as the source of a register-format word, and its checks: those of BRX, whose `srcA` is a source and nothing else. -/
def loopCount (f : LoopW) : RegW := ⟨f.g, 0#1, 0#6, f.cnt, 0#7, f.lit⟩
def loopPre (f : LoopW) (e : Env) : List (Bool × Cause) :=
  [(boundOk e.wp 0x02 (loopCount f), .illegalOperand), (e.vsOk (((regSources 0x02 (loopCount f)).map (·.toNat)).filter (· < 64)), .registerRange),
    (latchOk e.cl 0x02 (loopCount f), .staleLatch)]

/-- LOOP: arm the loop, or skip the body (R115, R136). -/
def execLoop (f : LoopW) (s : State) : Out :=
  let c := f.c.toNat
  issue (.loop f) f.g f.lit s (loopPre f)
    fun e =>
      let e := e.popped (f.cnt = 71#7)
      let live := maskOf fun L => e.gr.getLsbD L && (e.lane L).loops.any fun l => l.c = c
      if live != 0#32 then .trap .nestingLimit live e.pcVa (BitVec.ofNat 32 c)
      else
        let stop := e.cl.wordPc + (f.stop.setWidth 32 <<< 2)
        let arm := maskOf fun L => e.gr.getLsbD L && e.src f.cnt L != 0#32
        let skip := e.cl.run &&& ~~~arm
        let s := e.setWarp fun wp => wp.updLanes arm fun L ln =>
          { ln.setCtr c (e.src f.cnt L) with loops := ⟨c, e.nextPc, stop⟩ :: ln.loops }
        .done (s.updWarp e.bid e.w fun wp =>
          { wp.updLanes skip (fun _ ln => { ln with pc := stop + 4#32 }) with clause := some { e.cl with setpc := e.cl.setpc ||| skip } })

/-- RPT (R118, R137). A count of 0 is kept as REP 0 with REPRUN set: the next clause is passed unissued. -/
def execRpt (f : RegW) (s : State) : Out :=
  issueReg (.rpt f) f s fun e =>
    if !e.any then .done e.s
    else
      let n := e.uni f.a
      if 4096 < n.toNat then .trapOpen .illegalOperand (some n)
      else .done (e.setWarp fun wp => { wp with rep := n.toNat, reprun := e.cl.run })

/-- EXIT (R138). In the handler slot it ends the run as a fault (R125). -/
def execExit (f : RegW) (s : State) : Out :=
  issueReg (.exit f) f s fun e =>
    if e.any && e.blk.isHandler then .ended (e.s.handlerFault e.loc.d e.loc.a)
    else .done (e.setWarp fun wp => wp.exitLanes e.gr)

/-- Every other warp of an abandoned block exits at its next clause boundary, or at once where it stands at one, a rendezvous included (R61, R139). -/
def Block.abandon (b : Block) (w : Nat) : Block :=
  (List.range b.warps.length).foldl (fun b u =>
    let wp := b.warp u
    if u = w || wp.exited then b
    else if wp.parked || (wp.clause.isSome && wp.wait.isNone && !b.rdvWaits u) then b.updWarp u fun wp => { wp with exitPend := true }
    else b.exitWarp u) { b with abandoned := true }

/-- EXITS (R139). -/
def execExits (f : RegW) (s : State) : Out :=
  issueReg (.exits f) f s fun e =>
    if !e.any then .done e.s
    else if e.blk.isHandler then .ended (e.s.handlerFault e.loc.d e.loc.a)
    else .done (e.setBlk fun b => (b.updWarp e.w fun wp => wp.exitLanes e.gr).abandon e.w)

/-! ## Barriers (R119 to R121, R140) -/

/-- The convergence test of a barrier instruction (R120): nothing to do, a trap, or on. -/
def Env.converged (e : Env) (k : Nat) (go : Act) : Act :=
  if !e.any then .done e.s
  else if e.gr != e.cl.run || e.cl.run != e.wp.present then .trap .partialBarrier e.cl.run 0#80 (BitVec.ofNat 32 k)
  else go

/-- An arrival of warp `w` on barrier `k` with count `n`; `none` when it traps PARTIAL_BARRIER (R119). -/
def Block.arrive (b : Block) (w k n : Nat) : Option Block :=
  let x := b.bar k
  if x.brk then some b
  else if (x.set && x.exp != n) || n > b.warps.length || (b.warp w).arr.getLsbD k then none
  else
    let b := b.setBar k { x with exp := n, set := true, cnt := x.cnt + 1 }
    some (b.updWarp w fun wp => { wp with arr := wp.arr ||| BitVec.twoPow 16 k })

/-- The arrival's release (R34): whoever departs from the phase has the arriving warp's past; with `pth` ordered before matrix reads (R47). -/
def Block.arrived (b : Block) (k w : Nat) (pth : Bool) : Block :=
  let b := if pth then b.hbJoin (.own w) else b
  b.hb (.own w) (barAgent k (b.bar k).ph)

/-- BAR and BARM: arrive and wait; the arrival's release waits for the warp's earlier accesses (R34, R140). DESIGN CHOICE, log 104: the convergence
test comes before that of the count. unsafe. -/
def Env.barrier (e : Env) (f : RegW) (pth : Bool) : Act :=
  let k := f.dst.toNat % 16
  e.converged k <|
    let n := e.uni f.a
    if 16 < n.toNat then .trapOpen .illegalOperand (some n)
    else if e.s.lsBusy e.bid e.w false then .stall
    else match e.blk.arrive e.w k n.toNat with
      | none => .trap .partialBarrier e.cl.run 0#80 (BitVec.ofNat 32 k)
      | some b =>
        let b := b.arrived k e.w pth
        if (b.bar k).brk then .done (e.s.setBlock e.bid (b.updWarp e.w fun wp => wp.status f.b e.gr true (barStatus true (b.bar k).ph)))
        else
          let s := e.s.setBlock e.bid (b.updWarp e.w fun wp => { wp with wait := some (.barrier k f.b e.gr pth) })
          .wait (s.updBlock e.bid (·.testBar k))

/-- BAR (R140). -/
def execBar (f : RegW) (s : State) : Out := issueReg (.bar f) f s fun e => e.barrier f false
/-- BARM (R140). -/
def execBarm (f : RegW) (s : State) : Out := issueReg (.barm f) f s fun e => e.barrier f true

/-- BARA: arrive without waiting (R140). -/
def execBara (f : RegW) (s : State) : Out :=
  issueReg (.bara f) f s fun e =>
    let k := f.dst.toNat % 16
    e.converged k <|
      let n := e.uni f.a
      if 16 < n.toNat then .trapOpen .illegalOperand (some n)
      else if e.s.lsBusy e.bid e.w false then .stall
      else match e.blk.arrive e.w k n.toNat with
        | none => .trap .partialBarrier e.cl.run 0#80 (BitVec.ofNat 32 k)
        | some b =>
          let ph := (b.bar k).ph
          let b := b.arrived k e.w (f.dst.getLsbD 4)
          let b := (b.updWarp e.w fun wp => { wp with bara := mput wp.bara k ph.toNat }).testBar k
          .done (e.s.setBlock e.bid (b.updWarp e.w fun wp => wp.status f.b e.gr (b.bar k).brk (barStatus (b.bar k).brk (b.bar k).ph)))

/-- BARW: wait for the phase of the warp's last BARA (R140); on a broken object it ends at once (R121). -/
def execBarw (f : RegW) (s : State) : Out :=
  issueReg (.barw f) f s fun e =>
    let k := f.dst.toNat % 16
    let pth := f.dst.getLsbD 4
    e.converged k <|
      let x := e.blk.bar k
      let last := mfind e.wp.bara k
      if last.isNone && !e.wp.arr.getLsbD k then .trap .partialBarrier e.cl.run 0#80 (BitVec.ofNat 32 k)
      else if e.s.lsBusy e.bid e.w true then .stall
      else
        let s := e.setWarp fun wp => { wp with bara := mdel wp.bara k }
        if x.brk then .done (s.updWarp e.bid e.w fun wp => wp.status f.b e.gr true (barStatus true x.ph))
        else match last with
          | some ph =>
            if x.ph.toNat != ph then
              .done (s.updBlock e.bid fun b => (b.depart k (BitVec.ofNat 16 ph) e.w pth).updWarp e.w fun wp => wp.status f.b e.gr false (barStatus false x.ph))
            else .wait (s.updWarp e.bid e.w fun wp => { wp with wait := some (.barrier k f.b e.gr pth) })
          | none => .wait (s.updWarp e.bid e.w fun wp => { wp with wait := some (.barrier k f.b e.gr pth) })

/-! ## Votes, predicates, moves -/

/-- VOTE (R141). -/
def execVote (f : RegW) (s : State) : Out :=
  issueReg (.vote f) f s fun e =>
    let con := e.contrib
    let b := maskOf fun L => con.getLsbD L && ((e.lane L).pred (f.a.toNat % 8) != f.a.getLsbD 3)
    let r := match f.b.toNat / 8 % 4 with
      | 0 => b = con
      | 1 => b != 0#32
      | _ => b = 0#32 || b = con
    let s := e.setBlk fun x => x.writeResult e.w f.nw f.dst e.g fun _ => b
    .done (s.updWarp e.bid e.w fun wp => wp.updLanes e.g fun _ ln => ln.setPred (f.b.toNat % 8) r)

/-- PLOP (R142). -/
def execPlop (f : RegW) (s : State) : Out :=
  issueReg (.plop f) f s fun e =>
    .done (e.setWarp fun wp => wp.updLanes e.g fun _ ln =>
      let i := 2 * (ln.pred (f.a.toNat % 8)).toNat + (ln.pred (f.a.toNat / 8 % 8)).toNat
      ln.setPred f.dst.toNat (f.b.getLsbD i))

/-- A special register of Table 05-11 in lane `L`; `cap` is the warp's SIDL capture. CID is that of the last placement or resume (R12).
DESIGN CHOICE, log 102: a SIDL of helper lanes alone captures nothing, and they receive the low half of the last capture, or 0. unsafe. -/
def Env.special (e : Env) (cap : Option Tick) (sel L : Nat) : Word :=
  let r := e.blk.lrec
  match sel with
  | 0 => BitVec.ofNat 32 e.wp.role
  | 1 => BitVec.ofNat 32 L
  | 2 => BitVec.ofNat 32 (L / 4)
  | 3 => BitVec.ofNat 32 e.w
  | 4 => BitVec.ofNat 32 (e.blk.lin % rGRDX r)
  | 5 => BitVec.ofNat 32 (e.blk.lin / rGRDX r % rGRDY r)
  | 6 => BitVec.ofNat 32 (e.blk.lin / (rGRDX r * rGRDY r))
  | 7 => BitVec.ofNat 32 (rGRDX r)
  | 8 => BitVec.ofNat 32 (rGRDY r)
  | 9 => BitVec.ofNat 32 (rGRDZ r)
  | 10 => BitVec.ofNat 32 e.blk.cid
  | 11 => BitVec.ofNat 32 e.blk.rank
  | 12 => (cap.getD 0#64).setWidth 32
  | 13 => ((cap.getD (e.s.sid e.loc.d)).extractLsb' 32 32)
  | 14 => BitVec.ofNat 32 e.wp.tid
  | 15 => e.blk.verin
  | _ => e.blk.stale

/-- MOVS (R18, R143). -/
def execMovs (f : RegW) (s : State) : Out :=
  issueReg (.movs f) f s fun e =>
    if (f.a = 12#7 || f.a = 13#7) && e.s.sidHeld e.loc.d then .stall else
    let cap := if f.a = 12#7 && e.any then some (e.s.sid e.loc.d) else e.wp.scap
    let s := e.setWarp fun wp => { wp with scap := cap }
    .done (s.updBlock e.bid fun b => b.writeResult e.w f.nw f.dst e.g (e.special cap f.a.toNat))

/-- SMOV: the s-register once, and the latches (R144). -/
def execSmov (f : RegW) (s : State) : Out :=
  issueReg (.smov f) f s fun e =>
    let x := e.uni f.a
    let s := if e.any then e.setWarp fun wp => wp.setS (f.dst.toNat % 16) x else e.s
    .done (s.updBlock e.bid fun b => b.writeResult e.w 1#1 63#6 e.g fun _ => x)

/-! ## Registers and channels -/

/-- REGGIVE (R124, R146). -/
def execReggive (f : RegW) (s : State) : Out :=
  issueReg (.reggive f) f s fun e =>
    if !e.any then .done e.s
    else if e.wp.pend != 0#6 || e.wp.d6 != 0 then .stall
    else
      let n := e.uni f.a
      if !countOk n.toNat then .trapOpen .registerRange (some n)
      else if e.wp.vcnt < n.toNat then .trapOpen .registerRange none
      else .done (e.setBlk fun b =>
        ((b.updWarp e.w fun wp => { wp with rows := wp.rows.take n.toNat }).clearRows (e.wp.rows.drop n.toNat)).serveClaims 16)

/-- REGCLAIM: stand until the warp's slots have completed, then until the claim is the oldest and the free rows cover it (R124, R146). -/
def execRegclaim (f : RegW) (s : State) : Out :=
  issueReg (.regclaim f) f s fun e =>
    if !e.any then .done e.s
    else
      let s := e.setBlk fun b =>
        Block.updWarp { b with claims := b.claims ++ [e.w] } e.w fun wp => { wp with wait := some (.regclaim (e.uni f.a).toNat) }
      .wait (s.settleClaims e.bid)

/-- SETTID (R145). -/
def execSettid (f : RegW) (s : State) : Out :=
  issueReg (.settid f) f s fun e =>
    if !e.any then .done e.s
    else
      let t := e.uni f.a
      if 63 < t.toNat then .trapOpen .illegalOperand (some t) else .done (e.setWarp fun wp => { wp with tid := t.toNat })

/-- QBIND (R147). -/
def execQbind (f : RegW) (s : State) : Out :=
  issueReg (.qbind f) f s fun e =>
    let c := f.a.toNat % 8
    if !e.any then .done e.s
    else
      let bind := fun (b : Block) (x : Option Nat) =>
        e.s.setBlock e.bid (b.updWarp e.w fun wp => if f.dst = 7#6 then { wp with bnd7 := x } else { wp with bnd6 := x })
      if f.a.getLsbD 3 then
        match e.blk.openChan c with
        | some b => .done (bind b (some c))
        | none => .trapOpen .footprint (some (BitVec.ofNat 32 c))
      else .done (bind e.blk none)

/-- CHPUT and CHGET: open the channel, then move a row or stand (R122, R123, R148). -/
def Env.channel (e : Env) (c : Nat) (i : Wait) (loadsOnly : Bool) : Act :=
  match e.blk.openChan c with
  | none => .trapOpen .footprint (some (BitVec.ofNat 32 c))
  | some b =>
    if e.s.lsBusy e.bid e.w loadsOnly then .stall
    else match b.chanServe e.w i with
      | some b' => .done (e.s.setBlock e.bid b')
      | none => .wait (e.s.setBlock e.bid (b.updWarp e.w fun wp => { wp with wait := some i }))

/-- CHPUT (R148). -/
def execChput (f : RegW) (s : State) : Out :=
  issueReg (.chput f) f s fun e =>
    let c := f.dst.toNat % 8
    if !e.any then .done e.s
    else e.channel c (.chput c (mkRow e.contrib (e.src f.a)) f.b e.gr) false

/-- CHGET (R148); with no true guard it only shifts the latches (R67). -/
def execChget (f : RegW) (s : State) : Out :=
  issueReg (.chget f) f s fun e =>
    let c := f.a.toNat % 8
    if !e.any then .done (e.setBlk fun b => b.writeResult e.w f.nw f.dst 0#32 fun _ => 0#32)
    else e.channel c (.chget c f.nw f.dst f.b e.g e.gr) true

/-- CHCLOSE (R148). -/
def execChclose (f : RegW) (s : State) : Out :=
  issueReg (.chclose f) f s fun e =>
    let c := f.dst.toNat % 8
    .done (if e.any then e.setBlk fun b => b.setChan c { b.chan c with cls := true } else e.s)

/-- SLEEP (R149). -/
def execSleep (f : RegW) (s : State) : Out :=
  issueReg (.sleep f) f s fun e =>
    if !e.any then .done e.s
    else if e.s.sidHeld e.loc.d then .stall
    else
      let t := e.uni f.a
      let s := e.setWarp fun wp => { wp with dl := e.s.sid e.loc.d + t.setWidth 64 }
      if t = 0#32 then .done s else .wait (s.updWarp e.bid e.w fun wp => { wp with wait := some .sleep })

/-! ## Traps and the handler -/

/-- TRAP (R150). -/
def execTrap (f : RegW) (s : State) : Out :=
  issueReg (.trap f) f s fun e =>
    if e.contrib = 0#32 then .done e.s else .trap .software e.contrib 0#80 (e.uni f.a)

/-- ASSERT (R150). -/
def execAssert (f : RegW) (s : State) : Out :=
  issueReg (.assert f) f s fun e =>
    let bad := maskOf fun L => e.contrib.getLsbD L && !((e.lane L).pred (f.a.toNat % 8) != f.a.getLsbD 3)
    if bad = 0#32 then .done e.s else .trap .assert bad 0#80 (e.uni f.b)

/-- TRET (R151). -/
def execTret (f : RegW) (s : State) : Out :=
  issueReg (.tret f) f s fun e =>
    if !e.any then .done e.s
    else .ended ((e.s.resumeTrap e.loc.d e.loc.a (e.uni f.a).toNat (f.b.getLsbD 0)).endHandler e.loc.d e.loc.a)

/-- KILL (R152). -/
def execKill (f : RegW) (s : State) : Out :=
  issueReg (.kill f) f s fun e =>
    if !e.any then .done e.s
    else .ended ((e.s.killWarp e.loc.d e.loc.a (e.uni f.a).toNat).endHandler e.loc.d e.loc.a)

/-- A system register of Table 05-9. DESIGN CHOICE, log 93: SLOTS holds counts of the slots held and retired, which R128 does not say. unsafe. -/
def Env.sysreg (e : Env) (sel : Nat) : Word :=
  let c := e.core
  let h := c.hq.headD 0
  let bw := (c.ofHandle h).getD (0, 0)
  let t := ((e.s.block bw.1).warp bw.2).trap
  match sel with
  | 0 => BitVec.ofNat 32 (t.cause + 256 * (h % 16) + 4096 * (h / 16))
  | 1 => t.pc
  | 2 => t.mask
  | 3 => t.info
  | 4 => t.addr.setWidth 32
  | 5 => t.addr.extractLsb' 32 32
  | 6 => t.addr.extractLsb' 64 32
  | 7 => BitVec.ofNat 32 h
  | 8 => BitVec.ofNat 32 c.hq.length
  | 9 => c.hent
  | 10 => BitVec.ofNat 32 c.evth
  | _ => BitVec.ofNat 32 ((c.slots.filter fun p => p.1 < 4).length + 16 * c.retired.length)

/-- MOVSYS (R153). -/
def execMovsys (f : RegW) (s : State) : Out := issueResult (.movsys f) f s fun e _ => e.sysreg (f.b.toNat % 64)

/-- MOVSYS.W (R128, R153). -/
def execMovsysW (f : RegW) (s : State) : Out :=
  issueReg (.movsysW f) f s fun e =>
    if !e.any then .done e.s
    else
      let x := e.uni f.a
      if f.b.toNat % 64 = 9 then
        if x.extractLsb' 0 2 != 0#2 then .trapOpen .misaligned none
        else .done (e.s.updCore e.loc.d e.loc.a fun c => { c with hent := x })
      else if x != 0#32 && (x.toNat < 64 || 1048576 < x.toNat) then .trapOpen .illegalOperand none
      else .done (e.s.updCore e.loc.d e.loc.a fun c => { c with evth := x.toNat })

end Sys2Proof.Machine
end

