-- ==== Sys2Proof/Machine/Mem.lean ====
section
/-! DEFINITION. Memory: the physical map, homes and views of a sector, translation, scratch and window addressing, and the places a byte
can live (01 R20 to R22, 02, 07 R180 to R187, 08). `State.mem` holds the bytes as their homes serve them. -/

namespace Sys2Proof.Machine

/-! ## The physical map (Table 01-6) and homes (Table 08-1) -/

inductive Region where
  | dram | park | umbra | persist | window | ctl | pool | host | res
deriving DecidableEq, Repr

def dramSize : Nat := 0x600000000
def umbraBase : Nat := 0x20000000000
def windowBase : Nat := 0x30000000000
def ctlBase : Nat := 0x40000000000
def poolBase : Nat := 0x80000000000000
def hostBase : Nat := 0xC0000000000000

/-- The region of a physical address and the first address after its segment (R20, R313). -/
def segOf (pa : Nat) : Region × Nat :=
  if pa < 64 * dramSize then
    let b := pa / dramSize * dramSize
    if pa - b < 0x5C0000000 then (.dram, b + 0x5C0000000) else (.park, b + dramSize)
  else if pa < umbraBase then (.res, umbraBase)
  else if pa < umbraBase + 64 * 2 ^ 30 then
    let b := pa / 2 ^ 30 * 2 ^ 30
    if pa - b < 0x24000000 then (.umbra, b + 0x24000000) else (.persist, b + 2 ^ 30)
  else if pa < windowBase then (.res, windowBase)
  else if pa < windowBase + 9216 * 2 ^ 21 then (.window, windowBase + 9216 * 2 ^ 21)
  else if pa < ctlBase then (.res, ctlBase)
  else if pa < ctlBase + 64 * 2 ^ 30 then (.ctl, ctlBase + 64 * 2 ^ 30)
  else if pa < poolBase then (.res, poolBase)
  else if pa < poolBase + 2 ^ 54 then (.pool, hostBase)
  else if pa < hostBase + 2 ^ 54 then (.host, hostBase + 2 ^ 54)
  else (.res, 2 ^ 64)
def regionOf (pa : Nat) : Region := (segOf pa).1

/-- The edge domain of a Bretos Link port. -/
def portDomain (p : Nat) : Nat :=
  [0, 0, 1, 2, 3, 4, 5, 6, 7, 7, 15, 23, 31, 39, 47, 55, 63, 63, 62, 61, 60, 59, 58, 57, 56, 56, 48, 40, 32, 24, 16, 8].getD p 0
/-- The domain of a host link (R10). -/
def hostDom (l : Nat) : Nat := if l = 0 then 3 else 60
/-- The domains of the pool ports (Table 01-2). -/
def poolDom (p : Nat) : Nat := [8, 15, 16, 23, 40, 47, 48, 55].getD p 0
def poolPort (pa : Nat) : Nat := pa / 2 ^ 13 % 8
/-- The home domain of a cacheable address (R204). -/
def homeOf (pa : Nat) : Nat :=
  match regionOf pa with
  | .persist => (pa - umbraBase) / 2 ^ 30
  | .pool => poolDom (poolPort pa)
  | .host => hostDom (pa / 2 ^ 12 % 2)
  | _ => pa / dramSize
/-- Requests for the address wait: its pool port's link is down (R216), or its home has no power. -/
def State.unreachable (s : State) (pa : Nat) : Bool :=
  match regionOf pa with
  | .pool => s.svc.poolDown.contains (poolPort pa) || (s.dom (homeOf pa)).uoff
  | .ctl => (s.dom ((pa - ctlBase) / 2 ^ 30)).uoff
  | .window | .res => false
  | _ => (s.dom (homeOf pa)).uoff

/-! ## Home bytes -/

/-- What a byte of memory reads as that `State.mem` does not list: DRAM of a domain that has lost its contents is undefined (R52, log 9), every
other byte 0 (log 2). -/
def unlisted (lost : AMap Nat) (pa : Nat) : Byte :=
  match (if pa < 64 * dramSize then mfind lost (pa / dramSize) else none) with
  | some n => Config.freeByte n pa
  | none => 0#8
/-- A byte of memory as its home serves it. -/
def State.byte (s : State) (pa : Nat) : Byte := mget (unlisted s.lost pa) s.mem pa
def memRead (s : State) (pa n : Nat) : List Byte := (List.range n).map fun i => s.byte (pa + i)
/-- Write bytes from an address on into a map of bytes whose unlisted bytes read as `u` says. -/
def memPut (u : Nat → Byte) (m : List Host.Cell) (pa : Nat) : List Byte → List Host.Cell
  | [] => m
  | x :: xs => memPut u (mset (u pa) m pa x) (pa + 1) xs
def State.memPut (s : State) (pa : Nat) (bs : List Byte) : State := { s with mem := Machine.memPut (unlisted s.lost) s.mem pa bs }
/-- Bytes as a little-endian number. -/
def leNat : List Byte → Nat
  | [] => 0
  | x :: xs => x.toNat + 256 * leNat xs
/-- The `n` little-endian bytes of a number. -/
def leBytes (n x : Nat) : List Byte := (List.range n).map fun i => BitVec.ofNat 8 (x / 2 ^ (8 * i))
def memNat (s : State) (pa n : Nat) : Nat := leNat (memRead s pa n)

/-- Whether a sector's backing memory is apart from the model's home bytes: persistent, pool and host memory (R51, R435). -/
def backed (sec : Nat) : Bool :=
  match regionOf (64 * sec) with
  | .persist | .pool | .host => true
  | _ => false

/-- The home serves an access to a sector: an absent sector becomes clean (R435). -/
def State.touch (s : State) (sec : Nat) : State :=
  match mfind s.hsec sec with
  | none => { s with hsec := mput s.hsec sec .clean }
  | some _ => s

/-- An invalidation of a sector sent to every listed domain but the writer (R208, R210). -/
def State.invalidate (s : State) (sec d : Nat) (txn : Bool) (op : Option Nat) : State :=
  match mfind s.hdir (sec / 4) with
  | none => s
  | some l =>
    let ds := (List.range 64).filter fun i => l.sharers.getLsbD i && i != d
    { s with pinv := s.pinv ++ ds.map fun i => { d := i, sec := sec, txn := txn, op := op } }

/-- The sector's line is held exclusive from the pool or the host (R215). -/
def State.lineExcl (s : State) (sec : Nat) : Bool := (List.range 4).any fun i => mfind s.hsec (sec / 4 * 4 + i) = some .excl
/-- The home sector has been updated (R215, R435): `old` its bytes before. An update at SYS scope, or of a line held exclusive, is written on to the
pool or host. -/
def State.homeUpdated (s : State) (sec : Nat) (old : List Byte) (sys : Bool) : State :=
  let far := regionOf (64 * sec) = .pool || regionOf (64 * sec) = .host
  if far && (sys || s.lineExcl sec) then { s with hsec := mput s.hsec sec .excl, back := mdel s.back sec }
  else { s with hsec := mput s.hsec sec .dirty, back := if backed sec && (mfind s.back sec).isNone then mput s.back sec old else s.back }

/-! ## The L1s and their directory (R178, R179, Table 08-2): bookkeeping of who holds what, the bytes themselves being those of the views -/

def clusterBit (a : Nat) : BitVec 3 := BitVec.twoPow 3 (a / 44)
/-- The ways of a core's L1: banks 0 up (R178). -/
def Core.ways (c : Core) : Nat := 20 - c.part / 16
def L1Line.without (l : L1Line) (sec : Nat) : L1Line := { l with secs := l.secs.filter (· != sec) }
/-- The core holds a sector no longer. -/
def Core.l1Forget (c : Core) (sec : Nat) : Core :=
  if c.l1.any (·.line = sec / 4) then { c with l1 := (c.l1.map fun l => if l.line = sec / 4 then l.without sec else l).filter fun l => !l.secs.isEmpty } else c
def Core.l1Holds (c : Core) (sec : Nat) : Bool := c.l1.any fun l => l.secs.contains sec
/-- Change every core of a domain that holds anything in its L1, by position. -/
def State.onL1s (s : State) (d : Nat) (f : Nat → Core → Core) : State :=
  ((List.range 132).filter fun a => !(s.core d a).l1.isEmpty).foldl (fun s a => s.updCore d a (f a)) s
/-- Every core of a domain but `keep` drops a sector: clusters in the vector are invalidated. -/
def State.l1Forget (s : State) (d : Nat) (keep : Option Nat) (sec : Nat) : State :=
  s.onL1s d fun a c => if some a = keep then c else c.l1Forget sec
def Moesi.isDirty : Moesi → Bool | .m | .o => true | _ => false
/-- The directory's entry of a sector that core `a` owns dirty. -/
def State.l1Dirty (s : State) (d a sec : Nat) : Option L1Sec :=
  match mfind (s.dom d).l1 sec with
  | some e => if e.st.isDirty && e.owner = a then some e else none
  | none => none
def State.setL1 (s : State) (d sec : Nat) (e : Option L1Sec) : State :=
  s.updDom d fun x => { x with l1 := match e with | some e => mput x.l1 sec e | none => mdel x.l1 sec }
/-- An L1 writes a dirty sector back to the slice: an update of a home sector (R207, R435); of a remote one its bytes are on the dirty list already. -/
def State.l1WriteBack (s : State) (d sec : Nat) : State :=
  if homeOf (64 * sec) = d then State.invalidate (s.homeUpdated sec (memRead s (64 * sec) 64) false) sec d false none else s
/-- Replacement, context save, CINV or recall in the owner: dirty data go to the slice, M becomes I and O becomes S. -/
def State.l1Recall (s : State) (d sec : Nat) : State :=
  match mfind (s.dom d).l1 sec with
  | some e =>
    match e.st with
    | .m => ((s.l1WriteBack d sec).l1Forget d none sec).setL1 d sec none
    | .o => ((s.l1WriteBack d sec).updCore d e.owner (·.l1Forget sec)).setL1 d sec (some { e with st := .s })
    | _ => s
  | none => s
/-- The slice drops the sector: dirty data go to the slice first, every L1 copy is invalidated. -/
def State.l1Drop (s : State) (d sec : Nat) : State :=
  match mfind (s.dom d).l1 sec with
  | some e => ((if e.st.isDirty then s.l1WriteBack d sec else s).l1Forget d none sec).setL1 d sec none
  | none => s
/-- Dirty data of core `a` go to the slice and stay valid and clean (R179, R191, R200). DEDUCED, log 36: M becomes E, O becomes S. -/
def State.l1Clean (s : State) (d a sec : Nat) : State :=
  match s.l1Dirty d a sec with
  | some e => (s.l1WriteBack d sec).setL1 d sec (some { e with st := if e.st = Moesi.m then .e else .s })
  | none => s
/-- A line leaves core `a`'s L1: its dirty sectors are recalled; clean ones leave the directory as it is. -/
def State.l1Evict (s : State) (d a : Nat) (l : L1Line) : State :=
  let s := l.secs.foldl (fun s sec => if (s.l1Dirty d a sec).isSome then s.l1Recall d sec else s) s
  s.updCore d a fun c => { c with l1 := c.l1.filter (·.line != l.line) }
/-- A sector enters core `a`'s L1 and its line becomes the last used; where the set is full, its least recently used line is replaced (R178). -/
def State.l1Fill (s : State) (d a sec : Nat) : State :=
  let c := s.core d a
  let line := sec / 4
  match c.l1.find? (·.line = line) with
  | some l =>
    s.updCore d a fun c => { c with l1 := { l with secs := if l.secs.contains sec then l.secs else sec :: l.secs } :: c.l1.filter (·.line != line) }
  | none =>
    let set := c.l1.filter fun l => l.line % 64 = line % 64
    let put := fun (s : State) (way : Nat) => s.updCore d a fun c => { c with l1 := { line := line, way := way, ws := 0, secs := [sec] } :: c.l1 }
    match (List.range c.ways).find? fun w => !set.any (·.way = w) with
    | some w => put s w
    | none => match set.getLast? with
      | some v => put (s.l1Evict d a v) v.way
      | none => s

/-- A read by core `a` (Table 08-2). -/
def State.l1Read (s : State) (d a sec : Nat) : State :=
  let e' : L1Sec := match mfind (s.dom d).l1 sec with
    | none => { st := .e, vec := clusterBit a, owner := a }
    | some e => match e.st with
      | .s | .o => { e with vec := e.vec ||| clusterBit a }
      | .e => if a = e.owner then e else { e with st := .s, vec := e.vec ||| clusterBit a }
      | .m => if a = e.owner then e else { e with st := .o, vec := e.vec ||| clusterBit a }
  (s.setL1 d sec (some e')).l1Fill d a sec
/-- A write by core `a` for block slot `k` (Table 08-2): another owner's dirty data go to the slice; so do the dirty sectors of the line that another
slot wrote (R179). -/
def State.l1Write (s : State) (d a k sec : Nat) : State :=
  let s := match mfind (s.dom d).l1 sec with
    | some e => if e.st.isDirty && e.owner != a then s.l1WriteBack d sec else s
    | none => s
  let s := match (s.core d a).l1.find? (·.line = sec / 4) with
    | some l => if l.ws != k then l.secs.foldl (fun (s : State) q => s.l1Clean d a q) s else s
    | none => s
  let s := ((s.l1Forget d (some a) sec).l1Fill d a sec).updCore d a fun (c : Core) =>
    { c with l1 := c.l1.map fun (l : L1Line) => if l.line = sec / 4 then { l with ws := k } else l }
  s.setL1 d sec (some { st := .m, vec := clusterBit a, owner := a })
/-- STN in core `a` (R191): its own copy takes the bytes and is left clean, every other copy goes. DEDUCED, log 36: the copy is E. -/
def State.l1Merge (s : State) (d a sec : Nat) : State :=
  if (s.core d a).l1Holds sec then
    let s := match mfind (s.dom d).l1 sec with
      | some e => if e.st.isDirty then s.l1WriteBack d sec else s
      | none => s
    (s.l1Forget d (some a) sec).setL1 d sec (some { st := .e, vec := clusterBit a, owner := a })
  else s.l1Drop d sec

/-! ## Views of a domain (R206 to R210) -/

def RSec.empty : RSec := { clean := none, dirty := [] }
def Domain.rs (x : Domain) (sec : Nat) : RSec := mget RSec.empty x.rsec sec
def Domain.setRs (x : Domain) (sec : Nat) (r : RSec) : Domain := { x with rsec := mset RSec.empty x.rsec sec r }
/-- The clean bytes of a remote sector, if of the current epoch (R208). -/
def Domain.cleanOf (x : Domain) (sec : Nat) : Option (List Byte) :=
  match (x.rs sec).clean with
  | some (ep, bs) => if ep = x.epoch then some bs else none
  | none => none

/-- Bytes of one sector as domain `d` reads them; `wide` for WAF and SYS scope (R207). -/
def State.viewBytes (s : State) (d : Nat) (wide : Bool) (pa n : Nat) : List Byte :=
  if homeOf pa = d then memRead s pa n
  else
    let x := s.dom d
    let sec := pa / 64
    let base := if wide then none else x.cleanOf sec
    (List.range n).map fun i =>
      match mfind (x.rs sec).dirty ((pa + i) % 64) with
      | some b => b
      | none => match base with
        | some bs => bs.getD ((pa + i) % 64) 0#8
        | none => s.byte (pa + i)

/-- The home serves an access of domain `d` to a sector: an absent sector is brought in, and another domain's access recalls it from the home's own
L1s (R205, R435). -/
def State.homeServe (s : State) (d sec : Nat) : State :=
  let s := s.touch sec
  let h := homeOf (64 * sec)
  if h = d then s else s.l1Recall h sec
/-- The state after domain `d` has read a sector: the copy fetched from the home, its sharer bit (R207, R211). -/
def State.fetched (s : State) (d : Nat) (wide : Bool) (sec : Nat) : State :=
  if homeOf (64 * sec) = d then s.touch sec
  else if !wide && ((s.dom d).cleanOf sec).isSome then s
  else
    let s := s.homeServe d sec
    let l := mget HomeLine.zero s.hdir (sec / 4)
    let s := { s with hdir := mput s.hdir (sec / 4) { l with sharers := l.sharers ||| BitVec.twoPow 64 d } }
    s.updDom d fun x => x.setRs sec { x.rs sec with clean := some (x.epoch, memRead s (64 * sec) 64) }

/-- An update at the home (R210): bytes at `pa` within one sector, from domain `d`; `rel` when it belongs to a release of
operation `op`; `sys` when it is written on to the pool or host. L1 copies of the home's domain go. -/
def State.homeWrite (s : State) (pa : Nat) (bs : List Byte) (d : Nat) (rel : Bool) (op : Option Nat) (sys : Bool) : State :=
  let sec := pa / 64
  let s := if homeOf pa = d then s else s.l1Drop (homeOf pa) sec
  State.invalidate (State.memPut (s.homeUpdated sec (memRead s (64 * sec) 64) sys) pa bs) sec d rel op

/-- Write back a domain's dirty bytes of a remote sector (R209): recalled from the L1 first; RDV becomes RS, RD becomes I. -/
def State.writeBack (s : State) (d sec : Nat) (rel : Bool) (op : Option Nat) (sys : Bool) : State :=
  let s := s.l1Recall d sec
  let r := (s.dom d).rs sec
  if r.dirty.isEmpty then s
  else
    let bs := (List.range 64).map fun i => (mfind r.dirty i).getD (s.byte (64 * sec + i))
    let s := s.homeWrite (64 * sec) bs d rel op sys
    s.updDom d fun x => x.setRs sec { dirty := [], clean := r.clean.map fun c =>
      (c.1, (List.range 64).map fun i => (mfind r.dirty i).getD (c.2.getD i 0#8)) }

/-- The remote-dirty list of domain `d`, as sectors (R206): sectors with dirty bytes, and L1 sectors in M or O of remote lines. -/
def Domain.dirtyList (x : Domain) (d : Nat) : List Nat :=
  let l1 := x.l1.filter fun p => p.2.st.isDirty && homeOf (64 * p.1) != d && (x.rs p.1).dirty.isEmpty
  (x.rsec.filter fun p => !p.2.dirty.isEmpty).map (·.1) ++ l1.map (·.1)

/-- Write back the whole remote-dirty list (R41, R209). -/
def State.writeBackAll (s : State) (d : Nat) (rel : Bool) (op : Option Nat) (sys : Bool) : State :=
  ((s.dom d).dirtyList d).foldl (fun s sec => s.writeBack d sec rel op sys) s

/-- An acquire at WAF or SYS scope: the epoch moves on, and clean L1 copies of remote lines are invalid; past 0xFFFF every clean byte is removed
first (R208). -/
def State.acquireWide (s : State) (d : Nat) : State :=
  let stale := fun (x : Domain) (sec : Nat) => homeOf (64 * sec) != d && !(match mfind x.l1 sec with | some e => e.st.isDirty | none => false)
  let x := s.dom d
  let drop := fun (c : Core) => (c.l1.flatMap (·.secs)).foldl (fun (c : Core) sec => if stale x sec then c.l1Forget sec else c) c
  let s := s.onL1s d fun _ => drop
  s.updDom d fun x =>
    let x := { x with l1 := x.l1.filter fun (p : Nat × L1Sec) => !stale x p.1 }
    if x.epoch = 0xFFFF then
      { x with epoch := 0, rsec := (x.rsec.map fun p => (p.1, { p.2 with clean := none })).filter fun p => !p.2.dirty.isEmpty }
    else { x with epoch := x.epoch + 1 }

/-! ## Sector accesses of a domain -/

/-- Read `n` bytes of one sector; `alloc`: the core whose L1 takes a copy; `keep`: the slice keeps one of a remote sector, which it does of N pages
only (R29). -/
def State.loadSec (s : State) (d : Nat) (alloc : Option Nat) (wide keep : Bool) (pa n : Nat) : List Byte × State :=
  let bs := s.viewBytes d wide pa n
  let s := if keep then s.fetched d wide (pa / 64) else s.homeServe d (pa / 64)
  (bs, match alloc with | some a => s.l1Read d a (pa / 64) | none => s)

/-- How a store meets its own core's L1: it leaves the sector dirty there for a slot, or it is non-temporal (R191), or it has none. -/
inductive L1Use where
  | dirty (a k : Nat)
  | merge (a : Nat)
  | none
deriving DecidableEq, Repr

/-- Write bytes within one sector at BLK or DOM scope (R41, R207). -/
def State.storeDom (s : State) (d : Nat) (l1 : L1Use) (pa : Nat) (bs : List Byte) : State :=
  let sec := pa / 64
  let here := homeOf pa = d
  let old := memRead s (64 * sec) 64
  let s := match l1 with
    | .dirty a k => s.l1Write d a k sec
    | .merge a => s.l1Merge d a sec
    | .none => s.l1Drop d sec
  if here then
    let s := (s.touch sec).memPut pa bs
    match l1 with
    | .dirty _ _ => { s with back := if backed sec && (mfind s.back sec).isNone then mput s.back sec old else s.back }
    | _ => State.invalidate (s.homeUpdated sec old false) sec d false Option.none
  else
    s.updDom d fun x =>
      let r := x.rs sec
      x.setRs sec { r with dirty := (bs.mapIdx fun i b => (i, b)).foldl (fun m p => mput m ((pa + p.1) % 64) p.2) r.dirty }

/-- Write bytes within one sector through to the home (R207, R210): the domain's own dirty bytes first; its copy is then I. DEDUCED, log 87: a
non-temporal store leaves the copy that its core's L1 held, clean, and so the slice's. -/
def State.storeWide (s : State) (d : Nat) (l1 : L1Use) (pa : Nat) (bs : List Byte) (rel : Bool) (op : Option Nat) (sys : Bool) : State :=
  let sec := pa / 64
  let held := match l1 with | .merge a => (s.core d a).l1Holds sec | _ => false
  let s := s.writeBack d sec rel op sys
  let s := match l1 with | .merge a => s.l1Merge d a sec | _ => s.l1Drop d sec
  let s := s.homeWrite pa bs d rel op sys
  let s := s.updDom d fun x => x.setRs sec RSec.empty
  if held then s.fetched d true sec else s

/-! ## Open transactions, refusals and retries (R212, R213, R281) -/

/-- The line has an open transaction of somebody else, or is reserved for another requester (R212, R213). -/
def State.lineRefuses (s : State) (pa : Nat) (q : Asker) : Bool :=
  let line := pa / 256
  s.pinv.any (fun p => p.txn && p.sec / 4 = line && p.op.map Asker.op != some q) || s.ops.any (fun x => x.txn.contains line && q != .op x.id) ||
    (match (mget HomeLine.zero s.hdir line).resv with
     | some (r, _) => q != r
     | none => false)
/-- The wait before the k-th retry (R212). -/
def backoff (k : Nat) : Nat := min (16 * 2 ^ (k - 1)) 1024
def State.retry (s : State) (q : Asker) (pa : Nat) : Option Retry := s.retries.find? fun r => r.q = q && r.line = pa / 256
/-- A refused request waits for its retry. -/
def State.backing (s : State) (q : Asker) (pa : Nat) : Bool := (s.retry q pa).any (·.back != 0)
/-- The domain and core a requester stands at, as one number: ties of R213 go to the lower. An inbound access is its port's (R10, R24). -/
def State.askKey (s : State) : Asker → Nat
  | .op o => match s.ops.find? (·.id = o) with | some x => coreKey x.d x.a | none => 0
  | .slice d => coreKey d 0
  | .core d a => coreKey d a
  | .task d _ => coreKey d 0
  | .host l => coreKey (hostDom l) 0
  | .port p => coreKey (portDomain p) 0
/-- The requester joins the refused of a line, oldest first, behind those first refused before, or now with a lower domain and core. -/
def State.joinRefused (s : State) (q : Asker) (pa : Nat) (l : List Asker) : List Asker :=
  if l.contains q then l
  else
    let now := fun (r : Asker) => (s.retry r pa).any fun t => t.since = s.tick && s.askKey q < s.askKey r
    l.filter (fun r => !now r) ++ q :: l.filter now
/-- A request is refused: it waits, the line's count rises, and at 32 the line is reserved for the oldest refused request; the holder of a reservation
that retries keeps it for another 2,048 cycles (R212, R213). -/
def State.refuse (s : State) (q : Asker) (pa : Nat) : State :=
  let line := pa / 256
  let l := mget HomeLine.zero s.hdir line
  let refused := s.joinRefused q pa l.refused
  let starve := l.starve + 1
  let resv := match l.resv with
    | some (r, n) => some (r, if r = q then 0 else n)
    | none => if 32 ≤ starve then refused.head?.map (·, 0) else none
  let tries := ((s.retry q pa).map (·.tries)).getD 0 + 1
  let r : Retry := { q := q, line := line, tries := tries, back := backoff tries + 1, since := ((s.retry q pa).map (·.since)).getD s.tick }
  { s with hdir := mset HomeLine.zero s.hdir line { l with starve := starve, refused := refused, resv := resv },
           retries := s.retries.filter (fun t => !(t.q = q && t.line = line)) ++ [r] }
/-- The home serves a requester at a line: a reservation for it ends (R213). -/
def State.served (s : State) (q : Asker) (pa : Nat) : State :=
  let line := pa / 256
  let l := mget HomeLine.zero s.hdir line
  if l.refused.contains q || l.resv.any (·.1 = q) then
    let mine := l.resv.any (·.1 = q)
    let l := { l with refused := l.refused.filter (· != q), starve := if mine then 0 else l.starve, resv := if mine then none else l.resv }
    { s with hdir := mset HomeLine.zero s.hdir line l, retries := s.retries.filter fun t => !(t.q = q && t.line = line) }
  else s
/-- Whether an access of domain `d` to a sector asks the home: a load at BLK or DOM scope of a remote sector without clean bytes, any access at WAF
or SYS scope (R207). -/
def State.asksHome (s : State) (d : Nat) (wide store : Bool) (pa : Nat) : Bool :=
  wide || (!store && homeOf pa != d && ((s.dom d).cleanOf (pa / 64)).isNone)

/-! ## Mapped tiles (R329 to R331) -/

/-- The mapped tile whose two buffers hold a physical address: home, index, descriptor, whether the address lies in the anchor. -/
def State.tileAt (s : State) (pa : Nat) : Option (Nat × Nat × Tile × Bool) :=
  s.doms.findSome? fun p => p.2.tiles.findSome? fun q =>
    if q.2.mapped && q.2.base ≤ pa && pa < q.2.base + 512 * q.2.szu then some (p.1, q.1, q.2, pa < q.2.base + 256 * q.2.szu) else none
def tileKey (d i : Nat) : Nat := 4096 * d + i

/-- A read pinned to a buffer of a tile is outstanding, of another operation than `o` (R331). -/
def State.bufferHeld (s : State) (o key : Nat) (buf : Bool) : Bool :=
  s.ops.any (fun x => x.id != o && x.pins.contains (key, buf)) || s.doms.any fun p => p.2.mcasts.any fun m => m.2.pins.contains (key, buf)

/-- The physical address in a tile's shadow buffer, with the tile and the buffer. -/
def State.shadowOf (s : State) (pa : Nat) : Option (Nat × Nat × Bool) :=
  match s.tileAt pa with
  | some (d, i, t, true) => some (pa + (if t.front then 0 else 256 * t.szu), tileKey d i, !t.front)
  | _ => none

/-- Where a sector's bytes are at their home now: a tile's shadow buffer for a mapped tile (R295). -/
def State.drainHome (s : State) (pa : Nat) : Nat := match s.shadowOf pa with | some (q, _, _) => q | none => pa
/-! ## Releases (R41, R210) -/

/-- Invalidations a release of operation `o` waits for (R210). -/
def State.confirming (s : State) (o : Nat) : Bool := s.pinv.any fun p => p.op = some o

/-- Write a home sector's dirty bytes on to the pool or host (R225, R435). -/
def State.pushHome (s : State) (sec : Nat) : State :=
  if mfind s.hsec sec = some .dirty then { s with hsec := mput s.hsec sec .clean, back := mdel s.back sec } else s
/-- How far a release at WAF or SYS scope of domain `d` has come (R41, R210, R216). -/
inductive Flush where
  /-- A line of the remote-dirty list waits: for a link, or for a retry. -/
  | wait
  /-- The home of an address refuses the write-back. -/
  | refused (pa : Nat)
  /-- The write-backs are made. -/
  | made (s : State)
def State.flush (s : State) (d : Nat) (q : Asker) (n : Nat) (sys : Bool) : Flush :=
  let l := ((s.dom d).dirtyList d).map (64 * ·)
  if l.any fun pa => s.unreachable pa || s.backing q pa then .wait
  else match l.find? fun pa => s.lineRefuses pa q with
    | some pa => .refused pa
    | none => .made (l.foldl (fun s pa => s.served q pa) (s.writeBackAll d true (some n) sys))

/-! ## Translation (R218 to R222) -/

/-- Access kinds of Translate (Table 03-13). -/
inductive Kind where
  | load | store | rmw | fetch | tile
deriving DecidableEq, Repr

/-- Page sizes 0, 1, 2: 64 KiB, 512 MiB, 4 TiB. -/
def pageBits (size : Nat) : Nat := [16, 29, 42].getD size 16

/-- How a walk ends: an entry, the level and code of Table 08-6, waiting for a pool link or a retry (R212, R216), or refused by the home of an entry. -/
inductive WalkRes where
  | ok (e : TlbEnt)
  | bad (level code : Nat)
  | wait
  | refused (pa : Nat)
deriving DecidableEq, Repr

/-- What keeps requester `q` from reading a table entry: a link, a retry, a refusal (R212, R216). -/
def State.walkHeld (s : State) (q : Asker) (pa : Nat) : Option WalkRes :=
  if s.unreachable pa || s.backing q pa then some .wait else if s.lineRefuses pa q then some (.refused pa) else none
/-- The walk of requester `q` below level `lvl` from the table at `table` (R219, R220), and the sectors it has read. -/
def walkFrom (s : State) (q : Asker) (asid va : Nat) : Nat → Nat → List Nat → WalkRes × List Nat
  | lvl, table, read =>
    let idx := if lvl = 4 then va / 2 ^ 68 % 4096 else va / 2 ^ (16 + 13 * lvl) % 8192
    let pa := table + 8 * idx
    match s.walkHeld q pa with
    | some r => (r, read)
    | none =>
    if s.poison.contains (pa / 8) then (.bad lvl 5, pa / 64 :: read)
    else
      let x := memNat s pa 8
      let leaf := x / 2 % 2 = 1
      let p := x / 2 ^ 16 % 2 ^ 40 * 2 ^ 16
      let read := pa / 64 :: read
      if x % 2 = 0 then (.bad lvl 0, read)
      else if x / 2 ^ 8 % 256 != 0 || x / 2 ^ 56 != 0 then (.bad lvl 1, read)
      else if leaf then
        if 2 < lvl || p % 2 ^ pageBits lvl != 0 then (.bad lvl 1, read)
        else (.ok { asid := asid, g := x / 32 % 2 = 1, size := lvl, vpn := va / 2 ^ pageBits lvl, pa := p, wr := x / 4 % 2 = 1,
                    x := x / 8 % 2 = 1, u := x / 16 % 2 = 1, ty := x / 64 % 4 }, read)
      else match lvl with
        | 0 => (.bad 0 1, read)
        | l + 1 => walkFrom s q asid va l p read

/-- The walk of a virtual address in an ASID (R218, R219), for requester `q`. -/
def walk (s : State) (d asid va : Nat) (q : Asker := .slice d) : WalkRes × List Nat :=
  let pa := (s.dom d).hasidb + 8 * asid
  match s.walkHeld q pa with
  | some r => (r, [])
  | none =>
  if s.poison.contains (pa / 8) then (.bad 4 5, [pa / 64])
  else
    let x := memNat s pa 8
    if x % 2 = 0 || x / 2 % 2 ^ 15 != 0 || x / 2 ^ 56 != 0 then (.bad 4 0, [pa / 64])
    else walkFrom s q asid va 4 (x / 2 ^ 16 % 2 ^ 40 * 2 ^ 16) [pa / 64]
/-- What a walk does besides its result: the homes serve the sectors it reads, an uncorrectable error is logged, a refusal is counted (R212, R221,
R435). -/
def State.walked (s : State) (d a : Nat) (r : WalkRes × List Nat) (q : Asker := .slice d) : State :=
  let s := r.2.foldl (fun s sec => (s.homeServe d sec).served q (64 * sec)) s
  match r.1 with
  | .bad _ 5 => s.logEvent 0x50 d a
  | .refused pa => s.refuse q pa
  | _ => s

def TlbEnt.covers (e : TlbEnt) (asid va : Nat) : Bool := (e.g || e.asid = asid) && va / 2 ^ pageBits e.size = e.vpn
def TlbEnt.paOf (e : TlbEnt) (va : Nat) : Nat := e.pa + va % 2 ^ pageBits e.size

/-- Look up the core and domain TLBs, then walk; a good walk fills both (R222). -/
def State.lookup (s : State) (d a asid va : Nat) : WalkRes × State :=
  match (s.core d a).tlb.find? (·.covers asid va) with
  | some e => (.ok e, s)
  | none =>
    match (s.dom d).dtlb.find? (·.covers asid va) with
    | some e => (.ok e, s.updCore d a fun c => { c with tlb := (e :: c.tlb).take 256 })
    | none =>
      let r := walk s d asid va (.core d a)
      let s := s.walked d a r (.core d a)
      match r.1 with
      | .refused _ => (.wait, s)
      | .ok e => (.ok e, (s.updCore d a fun c => { c with tlb := (e :: c.tlb).take 256 }).updDom d fun x => { x with dtlb := (e :: x.dtlb).take 16384 })
      | r => (r, s)

/-- Every segment the page touches allows its type for the access (R20, R22, R216, R313). DESIGN CHOICE, log 101: a page that reaches into a segment its
type is not allowed in is refused whole, whichever byte the access names. unsafe. -/
def regionsOk (s : State) (ty : Nat) (blk : Bool) (stop : Nat) : Nat → Nat → Bool
  | 0, _ => false
  | k + 1, pa =>
    let g := segOf pa
    (match g.1 with
     | .dram | .host => true
     | .pool => s.svc.poolGone.isEmpty
     | .persist => ty = 0 || ty = 3
     | .ctl => (ty = 2 || ty = 3) && !blk
     | _ => false) && (stop ≤ g.2 || regionsOk s ty blk stop k g.2)

/-- The outcome of Table 08-6 for an access through an entry, codes 2 to 4; `n` its bytes (R31, R56, R220, R221). -/
def entryCode (s : State) (e : TlbEnt) (kind : Kind) (blk : Bool) (n : Nat) : Option Nat :=
  if ((kind = .store || kind = .rmw || kind = .tile) && !e.wr) || (kind = .fetch && !e.x) || (blk && !e.u) then some 2
  else if (kind = .fetch && e.ty != 0) || (2 ≤ e.ty && (kind = .tile || 8 < n)) then some 3
  else if !regionsOk s e.ty blk (e.pa + 2 ^ pageBits e.size) 400 e.pa then some 4
  else none

/-- The result of Translate: an address and its page type, a failure of Table 08-6, or waiting. -/
inductive Trans where
  | ok (pa ty : Nat)
  | bad (level code : Nat)
  | wait
deriving DecidableEq, Repr

def codeCause (code : Nat) : Cause := if code = 0 || code = 1 || code = 5 then .pageFault else .protection

/-- Translate for `n` bytes at `va` (R83). -/
def State.translate (s : State) (d a asid : Nat) (blk : Bool) (va : Nat) (kind : Kind) (n : Nat) : Trans × State :=
  match s.lookup d a asid va with
  | (.ok e, s) =>
    match entryCode s e kind blk n with
    | some c => (.bad e.size c, s)
    | none => (.ok (e.paOf va) e.ty, s)
  | (.bad l c, s) => (.bad l c, s)
  | (_, s) => (.wait, s)

/-- The ASID a block translates in: the handler slot's is that of the warp it handles, kept in its record (R126, R218). -/
def Env.translate (e : Env) (s : State) (va : Nat) (kind : Kind) (n : Nat) : Trans × State :=
  s.translate e.loc.d e.loc.a e.blk.asid (!e.blk.isHandler) va kind n

/-! ## Scratch and windows (R180 to R183) -/

/-- The block that holds constellation rank `r` of block `b`'s constellation (R17). -/
def State.peer (s : State) (b : Block) (r : Nat) : Option Nat :=
  (s.blocks.find? fun p => p.2.rdom = b.rdom && p.2.ridx = b.ridx && p.2.lin = b.lin / rCSZ b.lrec * rCSZ b.lrec + r && p.2.loc.isSome).map (·.1)

/-- The block and offset a scratch pointer reaches for `n` bytes, or PROTECTION (R25, R182). -/
def State.scratch (s : State) (bid : Nat) (p : Ptr) (off n : Nat) : Option (Nat × Nat) :=
  let b := s.block bid
  let peer := p.getLsbD 38
  let rank := (p.extractLsb' 32 6).toNat
  if (p >>> 39) != 0#80 || (!peer && rank != 0) || (peer && b.csize ≤ rank) then none
  else
    let t := if !peer || rank = b.rank then some bid else s.peer b rank
    match t with
    | none => none
    | some t => if (s.block t).share < off + n then none else some (t, off)

/-- The block in a slot of a core. -/
def State.slotBlock (s : State) (d a k : Nat) : Option Nat := mfind (s.core d a).slots k

/-- The core that has a CID (R12). -/
def State.coreOfCid (s : State) (cid : Nat) : Option (Nat × Nat) :=
  -- the usable position with `cid` usable positions before it
  let go := s.svc.unusable.mergeSort.foldl (fun (k : Nat) u => if u ≤ k then k + 1 else k) cid
  if go < 64 * 132 then some (go / 132, go % 132) else none

/-- The block has exited: its warps have, and their slots and D = 6 words are complete (R138). It keeps its slot while its counters are written out, and
for its constellation (R17, R104). -/
def Block.exited (b : Block) : Bool := b.reported || b.warps.all fun wp => wp.exited && wp.settled
/-- A window access of `n` bytes at offset `off` (R50, R183): the place and the target's domain, WINDOW_DENIED or PROTECTION. -/
def State.window (s : State) (bid wd off n : Nat) (write : Bool) : Except Cause (Place × Nat) :=
  let raw := mget 0 (s.block bid).wins wd
  let tgt := raw / 2 ^ 8 % 2 ^ 24
  let rgn := raw / 8 % 4
  let base := raw / 2 ^ 32 % 2 ^ 32
  let limit := raw / 2 ^ 64 % 2 ^ 32
  let byPos := raw / 32 % 2 = 1
  let pos := if byPos then
      let d := tgt % 64
      let y := tgt / 2 ^ 6 % 16
      let x := tgt / 2 ^ 10 % 16
      if tgt / 2 ^ 14 = 0 && y < 12 && x < 11 && s.usable d (11 * y + x) then some (d, 11 * y + x) else none
    else s.coreOfCid tgt
  if raw % 2 = 0 || (if write then raw / 4 % 2 else raw / 2 % 2) = 0 || rgn = 3 || raw / 2 ^ 96 != 0 then .error .windowDenied
  else match pos with
    | none => .error .windowDenied
    | some (d, a) =>
      match s.slotBlock d a (raw / 64 % 4) with
      | none => .error .windowDenied
      | some t =>
        let b := s.block t
        if b.exited then .error .windowDenied else
        let size := if rgn = 0 then 131072 else if rgn = 1 then b.share else 65536
        if size < base + limit then .error .windowDenied
        else if limit < off + n then .error .protection
        else if rgn = 0 then
          let r0 := (base + off) / 128
          let r1 := (base + off + n - 1) / 128
          if b.chans.any fun c => c.2.res.any fun r => r0 ≤ r && r ≤ r1 then .error .windowDenied else .ok (.row t (base + off), d)
        else if rgn = 1 then .ok (.scr t (base + off), d)
        else .ok (.acc t (base + off), d)

/-! ## Places -/

end Sys2Proof.Machine

namespace Sys2Proof

def Place.add (p : Place) (n : Nat) : Place :=
  match p with
  | .glob x => .glob (x + n)
  | .scr b x => .scr b (x + n)
  | .row b x => .row b (x + n)
  | .acc b x => .acc b (x + n)
def Place.off (p : Place) : Nat :=
  match p with
  | .glob x | .scr _ x | .row _ x | .acc _ x => x
/-- The place of the first byte of a place's 64-byte sector. -/
def Place.sector (p : Place) : Place :=
  match p with
  | .glob x => .glob (x / 64 * 64)
  | .scr b x => .scr b (x / 64 * 64)
  | .row b x => .row b (x / 64 * 64)
  | .acc b x => .acc b (x / 64 * 64)
/-- The line of a place in global memory. -/
def Place.line (p : Place) : Option Nat := match p with | .glob x => some (x / 256) | _ => none

end Sys2Proof

namespace Sys2Proof.Machine

/-- Bytes of a block's scratch, rows or tiles; a row's window writes are performed though they wait to enter its registers (R50). -/
def Block.readPlace (b : Block) (p : Place) (n : Nat) : List Byte :=
  (List.range n).map fun i =>
    match p with
    | .scr _ o => mget 0#8 b.scr (o + i)
    | .row _ o =>
      if b.warps.any (·.rows.contains ((o + i) / 128)) then
        match b.winq.reverse.find? (·.1 = o + i) with
        | some p => p.2
        | none => wordByte b.rf (o + i)
      else 0#8
    | .acc _ o => wordByte b.acc (o + i)
    | .glob _ => 0#8

/-- Store to scratch by an agent; who of it is in whose past (R47). -/
def Block.storeScr (b : Block) (off : Nat) (bs : List Byte) (src : Agent) : Block :=
  { b with scr := memPut (fun _ => 0#8) b.scr off bs,
           scrH := b.scrH ++ [{ off := off, old := (List.range bs.length).map fun i => mget 0#8 b.scr (off + i), src := src, kno := [src], vis := [] }] }

end Sys2Proof.Machine
end

