-- ==== Sys2Proof/Machine/Wafer.lean ====
section
/-! DEFINITION. What the service engine publishes (17): the wafer map (R416), usable cores and slots, clock choices (R420), the grade vector
(Table 17-7), the identity record (Table 17-8), the topology table (Table 17-4); the domains of the external ports (R10). -/

namespace Sys2Proof.Machine

/-! ## The wafer map (R415 to R417) -/

/-- A physical core is neither dead nor retired. Retired units name physical rows and columns. -/
def State.goodCore (s : State) (d y x : Nat) : Bool :=
  !((mfind s.svc.dead d).getD 0).testBit (12 * y + x) && !s.svc.retired.contains (.core d y x)
/-- The good columns of a physical row, ascending. -/
def State.goodCols (s : State) (d y : Nat) : List Nat := (List.range 12).filter (s.goodCore d y)
/-- The spare column of a physical row. -/
def State.spare (s : State) (d y : Nat) : Option Nat := (s.goodCols d y)[11]?

/-- The rows that lend their spare, as pairs (borrower, lender), in ascending borrower (R416). -/
def State.loans (s : State) (d : Nat) : List (Nat × Nat) :=
  (List.range 12).foldl (fun (acc : List (Nat × Nat)) y =>
    if 11 ≤ (s.goodCols d y).length then acc
    else
      let free := fun (l : Nat) => l < 12 && l / 4 = y / 4 && (s.spare d l).isSome && !acc.any fun p => p.2 = l
      if 0 < y && free (y - 1) then acc ++ [(y, y - 1)] else if free (y + 1) then acc ++ [(y, y + 1)] else acc) []

/-- The physical row and column that serve a logical position, and whether they are borrowed; none: unusable. -/
def State.serve (s : State) (d a : Nat) : Option (Nat × Nat × Bool) :=
  let y := a / 11
  let x := a % 11
  let g := s.goodCols d y
  match g[x]? with
  | some c => some (y, c, false)
  | none =>
    if x != g.length then none
    else match (s.loans d).find? (·.1 = y) with
      | some (_, l) => (s.spare d l).map fun c => (l, c, true)
      | none => none

/-- The logical position a physical core serves. -/
def State.positionOf (s : State) (d y x : Nat) : Option Nat :=
  (List.range 132).find? fun a => (s.serve d a).any fun p => p.1 = y && p.2.1 = x

/-- A slot of a position's serving core is retired, or retires once it is empty: itself, or one of its register banks (R425). -/
def State.slotRetired (s : State) (d a k : Nat) : Bool :=
  match s.serve d a with
  | none => true
  | some (y, x, _) => (s.svc.retired ++ s.svc.pend).any fun u => match u with
    | .slot d' y' x' k' => d' = d && y' = y && x' = x && k' = k
    | .bank d' y' x' b => d' = d && y' = y && x' = x && b / 2 = k
    | _ => false
/-- The context slots a position offers. -/
def State.slotsOffered (s : State) (d a : Nat) : Nat :=
  if s.usable d a then ((List.range 4).filter fun k => !s.slotRetired d a k).length else 0
/-- Usable positions of a cluster, of a domain (R12). -/
def State.clusterCores (s : State) (d c : Nat) : List Nat := ((List.range 44).map (44 * c + ·)).filter (s.usable d)
def State.domainCores (s : State) (d : Nat) : Nat := 132 - (s.svc.unusable.filter fun k => k / 132 = d).length
/-- Cores of the largest cluster of a domain. -/
def State.largestCluster (s : State) (d : Nat) : Nat :=
  ((List.range 3).map fun c => 44 - (s.svc.unusable.filter fun k => k / 44 = 3 * d + c).length).foldl max 0

/-- The unusable positions the map of a domain gives. -/
def State.unusableOf (s : State) (d : Nat) : List Nat := ((List.range 132).filter fun a => (s.serve d a).isNone).map (coreKey d)

/-! ## Clock neighbours (R420) -/

/-- Directions 0 north to 3 west in which a good physical neighbour of the serving core lies. -/
def State.clockDirs (s : State) (d a : Nat) : List Nat :=
  match s.serve d a with
  | none => []
  | some (y, x, _) => (List.range 4).filter fun i =>
      match i with
      | 0 => 0 < y && s.goodCore d (y - 1) x
      | 1 => x < 11 && s.goodCore d y (x + 1)
      | 2 => y < 11 && s.goodCore d (y + 1) x
      | _ => 0 < x && s.goodCore d y (x - 1)
/-- CK1 and CK2: free among the good neighbours, different where two exist. -/
def State.clocks (s : State) (d a : Nat) : Nat × Nat :=
  let g := s.clockDirs d a
  let f := (Config.clockChoice d (a + 132 * s.svc.mapgen)).toNat
  match g with
  | [] => (0, 0)
  | [x] => (x, x)
  | _ =>
    let c1 := g.getD (f % 4 % g.length) 0
    let r := g.filter (· != c1)
    (c1, r.getD (f / 4 % r.length) 0)

/-! ## Ports (R10) -/

def State.portPresent (s : State) (p : Nat) : Bool := p < 32 && !s.svc.portDead.getLsbD p && !s.svc.retired.contains (.port p)
def State.portLive (s : State) (p : Nat) : Bool := s.portPresent p && !s.svc.portDown.contains p && !(s.dom (portDomain p)).uoff
def State.presentPorts (s : State) : Nat := ((List.range 32).filter s.portPresent).length

/-! ## Grade, identity (Tables 17-7, 17-8) -/

def State.cores' (s : State) : Nat := 8448 - s.svc.unusable.length
/-- Slots offered by the device as counted now: four per usable core less the retired ones. -/
def State.slotCount (s : State) : Nat :=
  4 * s.cores' - (((s.svc.retired ++ s.svc.pend).flatMap fun u => match u with
    | .slot d y x k => [(d, y, x, k)]
    | .bank d y x b => [(d, y, x, b / 2)]
    | _ => []).eraseDups.filter fun q => (s.positionOf q.1 q.2.1 q.2.2.1).isSome).length
/-- Word `i` of the identity record. -/
def idWord (i : Nat) : Word :=
  match i with
  | 4 => if Config.gradeB then 0x42#32 else 0x41#32
  | 5 => if Config.gradeB then 7936#32 else 8320#32
  | 6 => if Config.gradeB then 28#32 else 32#32
  | 7 => 0#32
  | i => if i < 28 then Config.identityWord i else 0#32
/-- BG: below the guaranteed grade (R426). -/
def State.belowGrade (s : State) : Bool := s.cores' < (idWord 5).toNat || s.presentPorts < (idWord 6).toNat
/-- Retired GiB of a domain's DRAM outside its park area, retired MiB of its persistent umbra (Table 17-1 step 4, R426). -/
def State.deadDram (s : State) (d : Nat) : Nat := (s.svc.retired.filter fun u => match u with | .dram d' g => d' = d && g < 23 | _ => false).length
def State.deadUmbra (s : State) (d : Nat) : Nat := (s.svc.retired.filter fun u => match u with | .umbra d' m => d' = d && m < 448 | _ => false).length
def sumTo (n : Nat) (f : Nat → Nat) : Nat := (List.range n).foldl (fun x i => x + f i) 0
/-- Word `i` of the grade vector; SLOTS as it was computed last (R426). -/
def State.gradeWord (s : State) (i : Nat) : Word :=
  match i with
  | 0 => BitVec.ofNat 32 s.cores'
  | 1 => BitVec.ofNat 32 s.svc.slots
  | 2 => BitVec.ofNat 32 (1472 - sumTo 64 s.deadDram)
  | 3 => maskOf s.portPresent
  | 4 => BitVec.ofNat 32 (28672 - sumTo 64 s.deadUmbra)
  | 5 => BitVec.ofNat 32 s.svc.mapgen
  | 6 => BitVec.ofNat 32 ((if s.svc.bg then 1 else 0) + 6 +
      ((List.range 8).filter fun p => !s.svc.poolGone.contains p).foldl (fun x p => x + 2 ^ (3 + p)) 0)
  | _ => 0#32

/-! ## The topology table (Tables 17-2, 17-4) -/

/-- The map entry of a position. -/
def State.mapEntry (s : State) (d a : Nat) : Nat :=
  match (if s.usable d a then s.serve d a else none) with
  | none => 0xFFFFFFFF * 2 ^ 32
  | some (y, x, b) =>
    let ck := s.clocks d a
    x + 2 ^ 4 * y + 2 ^ 8 + 2 ^ 9 * s.slotsOffered d a + 2 ^ 12 * ck.1 + 2 ^ 14 * ck.2 + (if b then 2 ^ 16 else 0) + 2 ^ 32 * s.cid d a
/-- The domain entry, its first 12 bytes as a number. -/
def State.domEntry (s : State) (d : Nat) : Nat :=
  let x := s.dom d
  let cl := fun (c : Nat) => (s.clusterCores d c).length
  let sl := ((List.range 132).map (s.slotsOffered d)).foldl (· + ·) 0
  1 + 2 ^ 8 * cl 0 + 2 ^ 16 * cl 1 + 2 ^ 24 * cl 2 + 2 ^ 32 * sl + 2 ^ 48 * (23 - s.deadDram d) + 2 ^ 64 * (448 - s.deadUmbra d) + 2 ^ 80 * x.effC + 2 ^ 88 * x.effU
/-- A number's byte. -/
def natByte (x i : Nat) : Byte := BitVec.ofNat 8 (x / 2 ^ (8 * i))
/-- A byte of the topology table. -/
def State.topoByte (s : State) (o : Nat) : Byte :=
  if o < 0x4 then natByte 0x544F5031 o
  else if o < 0x8 then natByte s.svc.tgen (o - 0x4)
  else if o < 0xC then natByte s.svc.mapgen (o - 0x8)
  else if o < 0x10 then natByte (s.svc.dev + 2 ^ 8 * s.svc.bootst) (o - 0xC)
  else if o < 0x40 then 0#8
  else if o < 0x60 then natByte (s.gradeWord ((o - 0x40) / 4)).toNat (o % 4)
  else if o < 0x80 then 0#8
  else if o < 0x100 then natByte (idWord ((o - 0x80) / 4)).toNat (o % 4)
  else if o < 0x200 then
    let p := (o - 0x100) / 8
    natByte ((if s.portPresent p then 1 else 0) + (if s.portLive p then 2 else 0) + 4 * portDomain p) (o % 8)
  else if o < 0x1200 then (if (o - 0x200) % 64 < 12 then natByte (s.domEntry ((o - 0x200) / 64)) ((o - 0x200) % 64) else 0#8)
  else if o < 0x1200 + 64 * 1056 then
    natByte (s.mapEntry ((o - 0x1200) / 1056) ((o - 0x1200) % 1056 / 8)) (o % 8)
  else 0#8

end Sys2Proof.Machine
end

