-- ==== Sys2Proof/Machine/Objects.lean ====
section
/-! DEFINITION. The object table and the sequencer's claims on it: entries (Table 14-2), requests and pins (R355 to R357), the current state
of a sequencer (Tables 14-5, 14-6), its fault, and the return of QWAIT (R362, R371). -/

namespace Sys2Proof.Machine

/-! ## Entries (Table 14-2) -/

/-- Writable bits of word `i` of an entry: the engine's fields and the reserved ones are not. -/
def objMask (i : Nat) : Word :=
  match i with
  | 0 => 0x000FFFC9#32
  | 1 => 0xFFFF0000#32
  | 2 => 0x0003FFFF#32
  | 3 => 0x00001FFF#32
  | 4 | 5 | 8 | 9 => 0xFFFFFFFF#32
  | 6 | 10 => 0x0000FFFF#32
  | _ => 0#32
def Obj.wb (o : Obj) : Bool := o.field 0 3 1 = 1
def Obj.bt (o : Obj) : Nat := o.field 0 6 2
def Obj.asid (o : Obj) : Nat := o.field 0 8 12
def Obj.layer (o : Obj) : Nat := o.field 1 16 16
def Obj.size (o : Obj) : Nat := o.field 3 0 13
def Obj.t1va (o : Obj) : Nat := o.field 4 0 32 + 2 ^ 32 * o.field 5 0 32 + 2 ^ 64 * o.field 6 0 16
def Obj.bva (o : Obj) : Nat := o.field 8 0 32 + 2 ^ 32 * o.field 9 0 32 + 2 ^ 64 * o.field 10 0 16
/-- Word `i` of an entry as it reads. -/
def Obj.word (o : Obj) (i : Nat) : Word :=
  match i with
  | 0 => o.raw.getD 0 0#32 ||| BitVec.ofNat 32 (2 * o.st + (if o.evh then 16 else 0) + (if o.prq then 32 else 0))
  | 1 => o.raw.getD 1 0#32 ||| BitVec.ofNat 32 o.pin
  | 12 => o.tres.setWidth 32
  | 13 => o.tres.extractLsb' 32 32
  | i => o.raw.getD i 0#32
/-- A write of some words of an entry at once (R354): dropped while VAL is 1, but for one that clears VAL of an idle entry; the entry that
becomes valid starts ABSENT and unpinned. -/
def Obj.write (o : Obj) (ws : List (Nat × Word)) : Obj :=
  let raw := ws.foldl (fun (r : List Word) p => r.set p.1 (p.2 &&& objMask p.1)) o.raw
  let keep := (raw.getD 0 0#32).getLsbD 0
  if !o.val then
    if keep then { raw := raw, st := 0, evh := false, prq := false, pin := 0, tres := 0#64 } else { o with raw := raw }
  else if !keep && o.st = 0 && o.pin = 0 then { o with raw := raw }
  else o

/-! ## The sequencer's current state (Tables 14-5, 14-6) -/

def Seq.next (q : Seq) : Nat := q.ctl 0 6
def Seq.tnext (q : Seq) : Nat := q.ctl 6 6
def Seq.ten (q : Seq) : Bool := q.ctl 12 1 = 1
def Seq.halt (q : Seq) : Bool := q.ctl 13 1 = 1
def Seq.idl (q : Seq) : Bool := q.ctl 14 1 = 1
def Seq.res (q : Seq) : Bool := q.ctl 15 1 = 1
def Seq.vpb (q : Seq) : Bool := q.ctl 16 1 = 1
def Seq.pfv (q : Seq) : Bool := q.ctl 18 1 = 1
def Seq.objId (q : Seq) : Word := q.entWord 10
def Seq.tile (q : Seq) : Word := q.entWord 11
def Seq.tout (q : Seq) : Nat := (q.entWord 13).toNat
def Seq.pfobj (q : Seq) : Word := q.entWord 15
/-! ## Requests and pins -/

/-- A promotion request at an entry (Table 14-3). -/
def State.requestPromotion (s : State) (d i : Nat) : State :=
  let o := (s.dom d).obj i
  if o.st = 0 then
    s.updDom d fun x => if x.promq.any (·.1 = i) then x else { x with promq := x.promq ++ [(i, 0)] }
  else if o.st = 3 then s.updObj d i fun o => { o with prq := true }
  else s
/-- An eviction request at an entry (Table 14-3). -/
def State.requestEviction (s : State) (d i : Nat) : State :=
  s.updObj d i fun o => match o.st with
    | 1 => if o.pin = 0 then { o with st := 3 } else { o with evh := true }
    | 2 => { o with evh := true }
    | _ => o

/-! ## QWAIT, faults -/

/-- The status QWAIT returns on counter `i` (R371). -/
def Seq.status (q : Seq) (i : Nat) : Word :=
  BitVec.ofNat 32 ((if mget 0#32 q.q i = 0#32 then 1 else 0) + (if q.mode = 3 then 2 else 0) + (if q.tev then 4 else 0) + 2 ^ 8 * q.cur)
/-- A returning QWAIT acquires at BLK, path included: what the sequencer has in its past, and what every word it has completed wrote (R371). -/
def State.qwaitJoin (s : State) (b w : Nat) : State :=
  s.onScr fun c y =>
    let n := agentBlock c b
    ((y.flow (.seq n) (.warp n w)).flow (.slot n 17 0) (.warp n w)).pathJoin (.warp n w)
/-- Every QWAIT of the holder that may return does (R371). -/
def State.qwaitServe (s : State) (d a : Nat) : State :=
  match (s.seqOf d a).holder with
  | none => s
  | some b =>
    (List.range (s.block b).warps.length).foldl (fun s w =>
      let q := s.seqOf d a
      match ((s.block b).warp w).wait with
      | some (.qwait i r) =>
        if mget 0#32 q.q i = 0#32 || q.mode = 3 then
          ((s.qwaitJoin b w).updBlock b fun x => (x.updWarp w fun wp => wp.setS r (q.status i)).closeClause w).updSeq d a fun q => { q with tev := false }
        else s
      | _ => s) s

/-- A sequencer fault (R362): MODE, FREC, the pin, an event, and the holder's QWAITs. -/
def State.seqFault (s : State) (d a cause word absent : Nat) : State :=
  let s := s.updSeq d a fun q => { q with mode := 3, frec := BitVec.ofNat 32 (cause + 2 ^ 8 * word + 2 ^ 10 * q.cur + 2 ^ 16 * absent) }
  ((s.seqUnpin d a).logEvent 0x32 d a).qwaitServe d a
/-- A running sequencer whose state uses an absent identifier faults: as it enters the state, and at each evaluation while it waits in it
(R362). -/
def State.seqRecheck (s : State) (d a : Nat) : State :=
  let q := s.seqOf d a
  let gone := fun (use : Bool) (id : Word) => use && ((s.dom d).named id).isNone
  let n := (if gone q.pov q.pobj then 1 else 0) + (if gone q.pfv q.pfobj then 2 else 0) + (if gone q.res q.objId then 4 else 0)
  if q.running && n != 0 then s.seqFault d a Cause.protection.code 0 n else s
/-- After a write to a domain's object table: the sequencers that wait evaluate anew. -/
def State.seqRecheckAll (s : State) (d : Nat) : State :=
  (List.range 132).foldl (fun s a => if (s.seqOf d a).phase = 1 then s else s.seqRecheck d a) s

end Sys2Proof.Machine
end

