-- ==== Sys2Proof/Machine/Ctl.lean ====
section
/-! DEFINITION. Domain control space (R20): what its regions read as and what a write to them does (Tables 05-13, 12-1, 14-2, 16-1, R218,
R419, R429). Enqueue-window writes of 64 bytes are the task engine's. -/

namespace Sys2Proof.Machine

/-- Replace bytes `off` on of a number by `bs`. -/
def putNat (x off : Nat) (bs : List Byte) : Nat :=
  let lo := x % 2 ^ (8 * off)
  let n := off + bs.length
  lo + 2 ^ (8 * off) * leNat bs + x / 2 ^ (8 * n) * 2 ^ (8 * n)

/-! ## Reads -/

/-- The newest log entry that stands at ring position `j`, with its SEQ. -/
def State.logAt (s : State) (j : Nat) : Option (Nat × LogEnt) :=
  let n := s.log.length
  let q := if n % 65536 < j then n - n % 65536 + j - 65536 else n - n % 65536 + j
  if n % 65536 < j && n < 65536 then none
  else if q = 0 then none else (s.log[q - 1]?).map fun e => (q, e)
/-- The 32 bytes of a log entry as a number (R429). -/
def logNat (q : Nat) (e : LogEnt) : Nat :=
  q + 2 ^ 64 * e.tick.toNat + 2 ^ 128 * (e.code + 2 ^ 16 * e.dom + 2 ^ 22 * e.area) + 2 ^ 192 * e.data.toNat

/-- The logical position of a physical core of a domain, for the window descriptors. -/
def State.winPos (s : State) (d k : Nat) : Option Nat := s.positionOf d (k / 12) (k % 12)
/-- Window descriptor `j` of a block slot (R183): its block's, or the slot's own while it holds none. -/
def State.winDesc (s : State) (d a sl j : Nat) : Nat :=
  match s.slotBlock d a sl with
  | some b => mget 0 (s.block b).wins j
  | none => mget 0 (s.core d a).wins (16 * sl + j)
def State.setWinDesc (s : State) (d a sl j x : Nat) : State :=
  match s.slotBlock d a sl with
  | some b => s.updBlock b fun y => { y with wins := mset 0 y.wins j x }
  | none => s.updCore d a fun c => { c with wins := mset 0 c.wins (16 * sl + j) x }

/-- A byte of domain `d`'s control space; reserved offsets read zero (R6). -/
def State.ctlByte (s : State) (d o : Nat) : Byte :=
  let x := s.dom d
  if o < 0x00100000 then 0#8
  else if o < 0x00100008 then natByte x.hasidb (o - 0x00100000)
  else if o < 0x00100010 then 0#8
  else if o < 0x00100020 then natByte ((if x.hv then 1 else 0) + 2 ^ 16 * x.scb) (o - 0x00100010)
  else if o < 0x00100030 then natByte x.hdb.toNat (o - 0x00100020)
  else if o < 0x01000000 then 0#8
  else if o < 0x01024000 then
    let r := o - 0x01000000
    match s.winPos d (r / 1024) with
    | some a => natByte (s.winDesc d a (r / 256 % 4) (r / 16 % 16)) (r % 16)
    | none => 0#8
  else if o < 0x02000000 then 0#8
  else if o < 0x02400000 then natByte ((x.recOf ((o - 0x02000000) / 64)).ws.getD (o % 64 / 4) 0#32).toNat (o % 4)
  else if o < 0x02800000 then 0#8
  else if o < 0x02C00000 then natByte ((x.recOf ((o - 0x02800000) / 64)).ws.getD (o % 64 / 4) 0#32).toNat (o % 4)
  else if o < 0x03000000 then 0#8
  else if o < 0x03000008 then natByte (x.enqDropped + 2 ^ 32 * x.enqStray) (o - 0x03000000)
  else if o < 0x04000000 then 0#8
  else if o < 0x04100000 then natByte ((x.obj ((o - 0x04000000) / 64)).word (o % 64 / 4)).toNat (o % 4)
  else if o < 0x05000000 then 0#8
  else if o < 0x05002200 then natByte (mget 0#32 x.fab ((o - 0x05000000) / 4)).toNat (o % 4)
  else if o < 0x05002208 then natByte (x.fdiscEnded + 2 ^ 32 * x.fdiscRefused) (o - 0x05002200)
  else if o < 0x06000000 then 0#8
  else if o < 0x07000000 then s.topoByte (o - 0x06000000)
  else if o < 0x07200000 then
    (match s.logAt ((o - 0x07000000) / 32) with
     | some (q, e) => natByte (logNat q e) (o % 32)
     | none => 0#8)
  else 0#8

/-- Saturating 32-bit count. -/
def sat32 (x : Nat) : Nat := min x (2 ^ 32 - 1)

/-! ## Writes -/

/-- Bytes as writes of whole words of a 64-byte entry, each merged into the word as it reads. -/
def mergeWords (rd : Nat → Word) (off : Nat) (bs : List Byte) : List (Nat × Word) :=
  ((List.range 16).filter fun i => off < 4 * i + 4 && 4 * i < off + bs.length).map fun i =>
    (i, (List.range 4).foldl (fun (w : Word) k =>
      if off ≤ 4 * i + k && 4 * i + k < off + bs.length then
        (w &&& ~~~(0xFF#32 <<< (8 * k))) ||| ((bs.getD (4 * i + k - off) 0#8).setWidth 32 <<< (8 * k)) else w) (rd i))

/-- The bits of word `k` of an aperture entry that hold something: its reserved words and fields read zero and ignore writes (R6), but for
[31:3] of offset 0, which R398 has software find and the entry then act as V = 0. -/
def apertureMask (k : Nat) : Word := if k = 1 then 0#32 else if k = 5 then 0x00FFFFFF#32 else if k = 7 then 0xFF#32 else 0xFFFFFFFF#32

/-- A write within one register or entry of domain `d`'s control space; reserved offsets and read-only tables drop it. -/
def State.ctlWrite (s : State) (d o : Nat) (bs : List Byte) : State :=
  let n := bs.length
  if 0x00100000 ≤ o && o < 0x00100008 then
    s.updDom d fun x => { x with hasidb := putNat x.hasidb (o - 0x00100000) (bs.take (0x00100008 - o)) % 2 ^ 56 }
  else if 0x00100010 ≤ o && o < 0x00100020 then
    s.updDom d fun x =>
      let v := putNat ((if x.hv then 1 else 0) + 2 ^ 16 * x.scb) (o - 0x00100010) (bs.take (0x00100020 - o))
      { x with hv := v % 2 = 1, scb := v / 2 ^ 16 % 2 ^ 64 }
  else if 0x00100020 ≤ o && o < 0x00100030 then
    s.updDom d fun x => { x with hdb := BitVec.ofNat 80 (putNat x.hdb.toNat (o - 0x00100020) (bs.take (0x00100030 - o))) }
  else if 0x01000000 ≤ o && o < 0x01024000 then
    let r := o - 0x01000000
    match s.winPos d (r / 1024) with
    | some a =>
      let x := s.winDesc d a (r / 256 % 4) (r / 16 % 16)
      s.setWinDesc d a (r / 256 % 4) (r / 16 % 16) (putNat x (r % 16) (bs.take (16 - r % 16)) % 2 ^ 128)
    | none => s
  else if (0x02000000 ≤ o && o < 0x02400000) || (0x02800000 ≤ o && o < 0x02C00000) then
    s.updDom d fun x => { x with enqDropped := sat32 (x.enqDropped + 1) }
  else if o < 0x03000008 && 0x03000000 < o + n && 0x03000000 ≤ o then s.updDom d fun x => { x with enqDropped := 0, enqStray := 0 }
  else if 0x04000000 ≤ o && o < 0x04100000 then
    let i := (o - 0x04000000) / 64
    (s.updObj d i fun e => e.write (mergeWords e.word (o % 64) bs)).seqRecheckAll d
  else if 0x05000000 ≤ o && o < 0x05002200 then
    s.updDom d fun x =>
      let i := (o - 0x05000000) / 64 * 16
      { x with fab := (mergeWords (fun k => mget 0#32 x.fab (i + k)) (o % 64) bs).foldl (fun m p =>
          let w := if 0x800 ≤ i then (if p.1 % 2 = 1 then p.2 &&& 3#32 else p.2) else p.2 &&& apertureMask (p.1 % 8)
          mset 0#32 m (i + p.1) w) x.fab }
  else if 0x05002200 ≤ o && o < 0x05002208 then s.updDom d fun x => { x with fdiscEnded := 0, fdiscRefused := 0 }
  else s

end Sys2Proof.Machine
end

