-- ==== Sys2Proof/Machine/Issue.lean ====
section
/-! DEFINITION. The issue engine: fetch, what a warp can begin next (R60, R112), CLAUSE_ISSUE, the word at issue with decode checks 1 and
2, ACTIVE_SET_EXCHANGE (R113), HANDLER_START (R125, R126), SLEEP_DEADLINE (R149). -/

namespace Sys2Proof.Machine

/-! ## Fetch (R56, R57) -/

/-- A fetched word, a failing cause, or a wait for a pool link. -/
inductive Fetch where
  | word (x : Word)
  | bad (c : Cause)
  | wait

/-- Fetch the word at a PC of block `b`; a refusal by the home is counted and the fetch waits (R212). DESIGN CHOICE, log 22: it reads the bytes at their
home. -/
def State.fetchAt (s : State) (b : Nat) (pc : Word) : Fetch × State :=
  let x := s.block b
  let l := x.loc.getD ⟨0, 0, 0⟩
  match s.translate l.d l.a x.asid (l.k != 4) (x.cbAddr pc).toNat .fetch 4 with
  | (.ok pa _, s) =>
    let q := Asker.core l.d l.a
    match s.walkHeld q pa with
    | some (.refused pa) => (.wait, s.refuse q pa)
    | some _ => (.wait, s)
    | none => (.word (BitVec.ofNat 32 (memNat s pa 4)), (s.homeServe l.d (pa / 64)).served q pa)
  | (.bad _ c, s) => (.bad (codeCause c), s)
  | (.wait, s) => (.wait, s)

/-- The words from `pc` on, up to `n`, as far as they can be fetched, and whether the next one waits for a pool link. -/
def State.fetchRun (s : State) (b : Nat) (pc : Word) : Nat → List Word × Bool × State
  | 0 => ([], false, s)
  | n + 1 =>
    match s.fetchAt b pc with
    | (.word x, s) =>
      let r := s.fetchRun b (pc + 4#32) n
      (x :: r.1, r.2)
    | (.bad _, s) => ([], false, s)
    | (.wait, s) => ([], true, s)

/-! ## Conditions of a header -/

/-- Stores and drain writes of the warp that are not performed (R58, SD). -/
def State.storesOut (s : State) (b w : Nat) : Bool :=
  s.ops.any fun x => x.bid = b && x.ws.any (·.1 = w) && !x.performed &&
    (match x.k with | .store _ _ _ | .drain _ _ _ _ _ _ => true | _ => false)

/-- A clause opens with a quartet form (R59, R61). -/
def quartetFirst (hdr : Word) (ws : List Word) : Bool := hdrClass hdr = 2 && opQuartet (opOf (ws.headD 0#32))
/-- A clause holds PFENCE or CHKS (R378). -/
def holdsCut (hdr : Word) (ws : List Word) : Bool := hdrClass hdr = 6 && (clauseInstrs 15 ws).any fun w => opOf w = 0xD8 || opOf w = 0xD9
/-- A live loop of a lane ends in `[pc + 4 lo, pc + 4 hi)` without being the clause's last word (Table 03-5). DESIGN CHOICE, log 105: the trap is that of
the word the loop ends at, as it comes to issue, and only loops above the frame base, which alone are tested, count. unsafe. -/
def Warp.badEnd (wp : Warp) (run : Mask) (pc : Word) (n lo hi : Nat) : Bool :=
  (lanesOf run).any fun L =>
    let ln := wp.lane L
    (ln.loops.take (ln.loops.length - ln.fb)).any fun l =>
      (List.range (hi - lo)).any fun i => lo + i != n && l.stop = pc + BitVec.ofNat 32 (4 * (lo + i))

/-! ## Room in the operation journal (R54, R381) -/

/-- A sealed bank that a resume may use (R384). -/
def ImgHead.known (h : ImgHead) : Bool := h.magic = 0x00554D42 && h.fmt = 1
def Bank.valid (b : Bank) : Bool := b.known && b.ok && b.hseq = b.fseq && b.hseq != 0 && b.img.isSome
def Umbra.bank (u : Umbra) (w : Bool) : Bank := if w then u.bankB else u.bankA
def Umbra.setBank (u : Umbra) (w : Bool) (b : Bank) : Umbra := if w then { u with bankB := b } else { u with bankA := b }
/-- The newest sealed bank, true for B. -/
def Umbra.newest (u : Umbra) : Option Bool :=
  if u.bankA.valid && u.bankB.valid then some (u.bankA.hseq < u.bankB.hseq)
  else if u.bankA.valid then some false else if u.bankB.valid then some true else none
/-- The journal of the epoch: that of the bank its cut sealed. -/
def Umbra.journal (u : Umbra) : List JEnt := match u.newest with | some w => (u.bank w).jn | none => []
/-- Opcodes whose operations are, or may be, non-idempotent: ATOM, ATOMC, RED, DSTA, ENQ, SPAWN, TDEC, TINC, TCANCEL, TREARM, VPOST, VPOSTF, FSEND,
FENQ, FSIG, and the global accesses, which may touch a D page (R54). -/
def opOnce (op : Nat) : Bool :=
  [0x80, 0x81, 0x88, 0x89, 0x8F, 0x91, 0xB1, 0xB4, 0xB5, 0xB6, 0xC0, 0xC1, 0xC2, 0xC3, 0xC6, 0xC7, 0xC8, 0xC9, 0xDC, 0xDD, 0xDE].contains op
/-- The words of a clause that may still need a journal entry, from word `i` (1 up) on. -/
def onceLeft (ws : List Word) (i : Nat) : Nat := ((clauseInstrs 15 (ws.drop (i - 1))).filter fun w => opOnce (opOf w)).length
/-- Entries of the epoch's journal, and those its open clauses but `but`'s may still need. -/
def State.journalUse (s : State) (d a : Nat) (but : Option (Nat × Nat)) : Nat :=
  let c := s.core d a
  let open' := c.slots.flatMap fun p => if p.1 = 4 then [] else
    ((s.block p.2).warps.mapIdx fun w wp => if but = some (p.2, w) then 0 else match wp.clause with | some cl => onceLeft cl.ibuf cl.idx | none => 0)
  (if c.umb.openCut.isSome then 0 else c.umb.journal.length) + open'.foldl (· + ·) 0
/-- A clause that needs more entries than an armed epoch's journal still holds begins in the next epoch. DEDUCED, log 30: R381 has an operation
request a cut where 16 entries are in use, and a cut takes warps at clause boundaries only (R61), so the request is made at the header. -/
def State.journalRoom (s : State) (l : Loc) (b w : Nat) (ws : List Word) : Bool :=
  l.k = 4 || !(s.core l.d l.a).umb.armed || onceLeft ws 1 = 0 || s.journalUse l.d l.a (some (b, w)) + onceLeft ws 1 ≤ 16

/-! ## What a warp can begin (R60, R108, R112) -/

inductive Begin where
  /-- Not ready. -/
  | no
  /-- Not ready: its fetch has been refused by a home (R212). -/
  | held
  /-- It holds an open clause: a resumed or granted warp takes a port again. -/
  | resume
  /-- A sibling's EXITS is taken at this boundary (R139). -/
  | exit
  /-- The header traps: the clause as far as known, the cause; the info word, if the entry names one. -/
  | bad (cl : Clause) (c : Cause) (info : Option Word)
  /-- RPT 0: the clause is passed (R118). -/
  | skip (run : Mask) (pc : Word) (n : Nat)
  /-- The clause asks for its cut first (R378), or for one that makes room in the journal (R381). -/
  | cut (r : CutReq)
  /-- It arrives at its quartet's rendezvous (R61). -/
  | arrive (cl : Clause)
  | go (cl : Clause)

/-- The core takes a cut: no clause begins (R377). -/
def Core.cutting (c : Core) : Bool := !c.umb.reqs.isEmpty && c.umb.openCut.isNone

/-- What warp `w` of block `b` can begin; the TLBs it fills. A member that resumes at its quartet word takes the rendezvous again (R262). -/
def State.begin (s : State) (b w : Nat) : Begin × State :=
  let x := s.block b
  let wp := x.warp w
  match x.loc with
  | none => (.no, s)
  | some l =>
    if x.evicting || wp.exited || wp.parked || wp.wait.isSome || wp.rdv || wp.evDue then (.no, s)
    else match wp.clause with
    | some cl => (if cl.idx = 1 && quartetFirst cl.hdr cl.ibuf then .arrive cl else .resume, s)
    | none =>
    if wp.exitPend then (.exit, s)
    else if (s.core l.d l.a).cutting && !wp.cutDone then (.no, s)
    else if (s.core l.d l.a).moving && (s.core l.d l.a).umb.openCut.isSome then (.no, s)
    else
      let run := if wp.reprun = 0#32 then wp.headRun else wp.reprun
      let pc := (wp.lane (lowLane run)).pc
      let cl : Clause := { hdr := 0#32, pc := pc, ibuf := [], idx := 0, nres := 0, run := run, exits := wp.helpersOf run, setpc := 0#32,
                           many := wp.manyRuns, rpt := wp.reprun != 0#32 }
      match s.fetchAt b pc with
      | (.wait, t) => (if t.retries = s.retries then .no else .held, t)
      | (.bad c, s) => (.bad cl c none, s)
      | (.word h, s) =>
        let n := hdrN h
        let cl := { cl with hdr := h }
        if !hdrOk h || wp.badEnd run pc n 0 1 then (.bad cl .illegalClause (some h), s)
        else if cl.rpt && wp.rep = 0 then (.skip run pc n, s)
        else if (List.range 6).any (fun i => (hdrWait h).getLsbD i && wp.slotBusy i) || wp.d6 != 0 || (hdrSD h && s.storesOut b w) then (.no, s)
        else
          match s.fetchRun b (pc + 4#32) n with
          | (_, true, t) => (if t.retries = s.retries then .no else .held, t)
          | (ws, false, s) =>
            let cl := { cl with ibuf := ws, idx := 1 }
            let reqs := (s.core l.d l.a).umb.reqs
            if quartetFirst h ws then (.arrive cl, s)
            else if !x.channelsServe wp ws then (.no, s)
            else if holdsCut h ws && !wp.cutDone then
              if reqs.any (fun r => r.warp = some (b, w)) then (.no, s)
              else (.cut { kind := if (clauseInstrs 15 ws).any fun w => opOf w = 0xD8 then 2 else 1, warp := some (b, w), exit := none }, s)
            else if !s.journalRoom l b w ws then
              (if reqs.contains ⟨2, none, none⟩ then .no else .cut ⟨2, none, none⟩, s)
            else (.go cl, s)

/-- The warp is ready: a clause in progress, or one that can begin (R112). -/
def State.warpReady (s : State) (b w : Nat) : Bool := match (s.begin b w).1 with | .no | .held => false | _ => true

/-! ## CLAUSE_ISSUE -/

/-- The active warps in ring order, from behind the one that last began a clause, which is the last (R112); one that has entered the set since comes
just before it. -/
def Core.ring (c : Core) : List (Nat × Nat) :=
  let last := fun (p : Nat × Nat) => c.begun = some p
  (c.rr.filter fun p => c.active.contains p && !last p) ++ (c.active.filter fun p => !c.rr.contains p && !last p) ++ c.active.filter last
/-- A ring that starts behind `x`. -/
def rotate (x : Nat × Nat) (l : List (Nat × Nat)) : List (Nat × Nat) :=
  let i := l.idxOf x
  l.drop (i + 1) ++ l.take (i + 1)
/-- A warp of the active set begins a clause: the next search starts behind it (R112). -/
def Core.begins (c : Core) (x : Nat × Nat) : Core := if x ∈ c.active then { c with rr := rotate x c.ring, begun := some x } else c
/-- The active warps in round-robin order, the yielded last (R112, R132). -/
def State.rrOrder (s : State) (c : Core) : List (Nat × Nat) :=
  let o := c.ring
  let y := fun (p : Nat × Nat) => ((s.block p.1).warp p.2).yielded
  o.filter (fun p => !y p) ++ o.filter y

/-- The first warp of a list, on no port, that can begin, and what. -/
def State.pick (c : Core) : List (Nat × Nat) → State → Option ((Nat × Nat) × Begin × State)
  | [], _ => none
  | p :: ps, s =>
    if c.ports.any (fun q => q.2 = p) then State.pick c ps s
    else match s.begin p.1 p.2 with
      | (.no, _) => State.pick c ps s
      | (bg, s) => some (p, bg, s)

/-- A header has waited on slots, and every header on D = 6: what their operations wrote into scratch is in the warp's past (R47, R63, R285). -/
def State.awaited (s : State) (b w : Nat) (hdr : Word) : State :=
  s.awaitSlots b w (((List.range 6).filter fun i => (hdrWait hdr).getLsbD i) ++ [6]) fun n => .warp n w

/-- A warp of a core begins a clause: it is the last of the round-robin order from now on. DESIGN CHOICE, log 103: a warp that Y or YIELD has placed
last stays last until the next clause of the active set begins. unsafe. -/
def State.begun (s : State) (d a : Nat) (bw : Nat × Nat) : State :=
  if bw ∈ (s.core d a).active then
    (s.core d a).active.foldl (fun s q => s.updWarp q.1 q.2 fun wp => { wp with yielded := false }) (s.updCore d a (·.begins bw))
  else s

/-- What follows when a warp can begin: a rendezvous, a skip or a request for a cut takes no port; every other beginning takes port `p` and the focus. -/
def State.beginClause (s : State) (d a p : Nat) (bw : Nat × Nat) (bg : Begin) : State :=
  let s := if bg matches .held then s else s.updBlock bw.1 fun x => { x with idle := 0 }
  let port := fun (s : State) => { s.updCore d a fun c => { c with ports := mput c.ports p bw } with focus := some bw }
  match bg with
  | .no | .held => s
  | .resume => port s
  | .exit => (s.updBlock bw.1 fun b => b.exitWarp bw.2).updCore d a (·.dropWarp bw)
  | .bad cl c info =>
    let s := s.updWarp bw.1 bw.2 fun wp => { wp with clause := some cl }
    let va := (s.block bw.1).cbAddr cl.pc
    match info with
    | some i => s.takeTrap bw.1 bw.2 c cl.run va i
    | none => State.takeTrap { s with fresh := s.fresh + 1 } bw.1 bw.2 c cl.run va (Config.freeWord s.fresh)
  | .skip run pc n => s.updWarp bw.1 bw.2 fun wp => ({ wp with reprun := 0#32, evDue := !wp.ev.isEmpty }.advance run 0#32 pc n).mergeDef
  | .cut r => s.updCore d a fun c => { c with umb := { c.umb with reqs := c.umb.reqs ++ [r] } }
  | .arrive cl => (s.awaited bw.1 bw.2 cl.hdr).updWarp bw.1 bw.2 fun wp => { wp with clause := some cl, rdv := true }
  | .go cl =>
    port ((((s.begun d a bw).awaited bw.1 bw.2 cl.hdr).updBlock bw.1 (·.enterRows (· = bw.2))).updWarp bw.1 bw.2 fun wp =>
      { wp.updLanes cl.gang (fun _ ln => { ln with lat := [] }) with clause := some cl })

/-- CLAUSE_ISSUE: port `p` of a core goes on with its clause, or takes the next ready warp (R60, R112, R114). -/
def execClauseIssue (d a p : Nat) (s : State) : Out :=
  let c := s.core d a
  if 2 ≤ p || !s.coreOn d a then .refused .notEnabled
  else match mfind c.ports p with
    | some bw =>
      let wp := (s.block bw.1).warp bw.2
      if wp.clause.isSome && !wp.parked && wp.wait.isNone then .next { s with focus := some bw }
      else .next (s.updCore d a (·.freePort bw))
    | none =>
      let hand := if p = 0 then (match mfind c.slots 4 with | some b => [(b, 0)] | none => []) else []
      match State.pick c (hand ++ s.rrOrder c) s with
      | some (bw, bg, s) => .next (s.beginClause d a p bw bg)
      | none => .refused .notEnabled

/-! ## The word at issue -/

/-- Check 2 of Table 03-11 for the instruction word `w` with `left` words of the clause from it on (R59, R118, Table 03-5). -/
def Warp.placeOk (wp : Warp) (cl : Clause) (w : Word) (left : Nat) : Bool :=
  let op := opOf w
  let len := if takesLiteral w then 2 else 1
  len ≤ left && (opClass op = hdrClass cl.hdr || (opClass op = 5 && len = left)) && (!opEnds op || len = left)
    && (!opQuartet op || cl.idx = 1) && !(cl.rpt && opClass op = 5)
    && !wp.badEnd cl.run cl.pc (hdrN cl.hdr) cl.idx (cl.idx + len)

/-- The instruction the warp in focus issues next, or the step taken instead: a fetch, a trap of checks 1, 2 and 4, a wait. -/
inductive AtWord where
  | instr (i : Instr)
  | other (o : Out)

/-- Fetch one more word of an open clause (R56). -/
def State.fetchMore (s : State) (b w : Nat) (cl : Clause) : Out :=
  let pc := cl.pc + BitVec.ofNat 32 (4 * (cl.ibuf.length + 1))
  match s.fetchAt b pc with
  | (.word x, s) => .next (s.updWarp b w fun wp => { wp with clause := some { cl with ibuf := cl.ibuf ++ [x] } })
  | (.bad c, s) => .next (State.takeTrap { s with fresh := s.fresh + 1 } b w c cl.run ((s.block b).cbAddr pc) (Config.freeWord s.fresh))
  | (.wait, s) => .next { s with focus := none }

/-- The word at issue of warp `w` (R60, R79). -/
def State.atWord (s : State) (b w : Nat) : AtWord :=
  let x := s.block b
  let wp := x.warp w
  match wp.clause with
  | none => .other (.next { s with focus := none })
  | some cl =>
    if cl.idx = 0 || wp.parked || wp.wait.isSome then .other (.next { s with focus := none })
    else if cl.ibuf.length < cl.idx then .other (s.fetchMore b w cl)
    else
      let word := cl.word
      let left := hdrN cl.hdr + 1 - cl.idx
      -- a quartet form that fails a check does so at its rendezvous, once all four members have arrived (R261)
      let trap := fun c => AtWord.other (.next
        (if cl.idx = 1 && quartetFirst cl.hdr cl.ibuf then (s.updWarp b w fun wp => { wp with rdv := true }).leavePort b w
         else s.takeTrap b w c cl.run (x.cbAddr cl.wordPc) word))
      if !opAssigned (opOf word) then trap .illegalOpcode
      else if !wp.placeOk cl word left then trap .illegalClause
      else if takesLiteral word && cl.ibuf.length ≤ cl.idx then .other (s.fetchMore b w cl)
      else match decode ((cl.ibuf.drop (cl.idx - 1)).take left) with
        | .ok (i, _) => .instr i
        | .error .illegalClause => trap .illegalClause
        | .error .illegalOpcode => trap .illegalOpcode
        | .error .illegalOperand => trap (if opSuper (opOf word) && !x.isHandler then .protection else .illegalOperand)

/-! ## The active set (R113) -/

/-- A warp that starts or resumes enters the active set, or the pending set (rule 1). -/
def Core.enter (c : Core) (bw : Nat × Nat) : Core :=
  if c.active.length < 8 then { c with active := c.active ++ [bw] } else { c with pending := c.pending ++ [bw] }
/-- Forget warps that have wholly exited (rule 1). -/
def State.pruned (s : State) (c : Core) : Core :=
  let live := fun (p : Nat × Nat) => !((s.block p.1).warp p.2).exited
  { c with active := c.active.filter live, pending := c.pending.filter live, rr := c.rr.filter live }
/-- The element of greatest measure, the first of equals. -/
def argMax (f : Nat × Nat → Nat) : List (Nat × Nat) → Option (Nat × Nat)
  | [] => none
  | p :: ps => match argMax f ps with
    | some q => if f p < f q then some q else some p
    | none => some p

/-- ACTIVE_SET_EXCHANGE: the first of rules 2 to 4 that applies. DESIGN CHOICE, log 91: of several active warps that rule 4 may exchange, the first in
the active set goes. unsafe. A warp that is exchanged while its clause is on a port stays on it until its last word has issued (R112). -/
def execActiveSetExchange (d a : Nat) (s : State) : Out :=
  let c0 := s.core d a
  let c := s.pruned c0
  let rdy := fun (p : Nat × Nat) => ((s.block p.1).warp p.2).readyFor
  let nrdy := fun (p : Nat × Nat) => ((s.block p.1).warp p.2).notReadyFor
  let ready := c.pending.filter fun p => s.warpReady p.1 p.2
  let onPort := fun (p : Nat × Nat) => c.ports.any fun q => q.2 = p
  let idle := c.active.filter fun p => !onPort p && !s.warpReady p.1 p.2
  let swap := fun (i o : Nat × Nat) (rr : List (Nat × Nat)) =>
    { c with active := c.active.filter (· != o) ++ [i], pending := c.pending.filter (· != i) ++ [o], rr := rr }
  let out := fun (c : Core) => if c = c0 then Host.Outcome.refused Refusal.notEnabled else .next (s.setCore d a c)
  match argMax rdy ready with
  | some i =>
    if c.active.length < 8 then out { c with active := c.active ++ [i], pending := c.pending.filter (· != i) }
    else if 1024 ≤ rdy i then
      match (if idle.isEmpty then c.ring.getLast? else argMax nrdy idle) with
      | some o => out (swap i o (i :: c.ring.filter (· != o)))
      | none => out c
    else match idle with
      | o :: _ => out (swap i o (c.ring.filter (· != o)))
      | [] => out c
  | none =>
    match c.pending with
    | i :: rest => if c.active.length < 8 then out { c with active := c.active ++ [i], pending := rest } else out c
    | [] => out c

/-! ## The handler (R114, R125, R126) -/

/-- A record word with a field set. -/
def recPut (ws : List Word) (off lo x : Nat) : List Word := ws.modify (off / 4) fun w => w ||| (BitVec.ofNat 32 x <<< lo)
/-- The record of a handler run: 32 lanes, 64 v-registers, SCB as code base, the ASID of the handled warp, no footprint. -/
def handlerRec (scb asid : Nat) : List Word :=
  let r := List.replicate 16 0#32
  let r := recPut (recPut r 4 11 31) 4 20 7
  let r := recPut r 8 14 asid
  recPut (recPut r 24 0 (scb % 2 ^ 32)) 28 0 (scb / 2 ^ 32)

/-- The lane at block start: PC, generator (R95, R310). -/
def Lane.start (pc gen : Word) : Lane := { Lane.zero with pc := pc, st := .live, gen := gen }

/-- HANDLER_START. -/
def execHandlerStart (d a : Nat) (s : State) : Out :=
  let c := s.core d a
  if c.hrun || !s.coreOn d a || c.moving then .refused .notEnabled
  else match c.hq with
    | [] => .refused .notEnabled
    | h :: rest =>
      let x := s.dom d
      if !x.hv then
        let s := s.killWarp d a h
        let s := s.updCore d a fun c => if c.hq.head? = some h then { c with hq := rest } else c
        .next (s.logEvent 0x30 d a)
      else
        let bw := (c.ofHandle h).getD (0, 0)
        let b := s.block bw.1
        let wp : Warp := { Warp.zero with
          lanes := (List.range 32).map fun L => Lane.start c.hent (0x9E3779B9#32 ^^^ BitVec.ofNat 32 L), rows := List.range 64 }
        let wp := ((wp.setS 0 (BitVec.ofNat 32 h)).setS 1 (BitVec.ofNat 32 (b.warp bw.2).trap.cause)).setB 0 x.hdb
        let hb : Block := { Block.zero with loc := some ⟨d, a, 4⟩, lrec := handlerRec x.scb b.asid, warps := [wp], cid := s.cid d a }
        let s := s.updCore d a fun c => { c with hrun := true, slots := mput c.slots 4 s.nextBid }
        .next { s with blocks := mput s.blocks s.nextBid hb, nextBid := s.nextBid + 1 }

/-- SLEEP_DEADLINE: a SLEEP ends at DL (R149). -/
def execSleepDeadline (b w : Nat) (s : State) : Out :=
  let x := s.block b
  let wp := x.warp w
  match x.loc, wp.wait with
  | some l, some .sleep => if wp.dl ≤ s.sid l.d && !s.sidHeld l.d then .next (s.updBlock b (·.closeClause w)) else .refused .notEnabled
  | _, _ => .refused .notEnabled

/-! ## A placed instruction (log 4) -/

/-- The record of the block a placed word runs in: four warps, 64 v-registers, 16 tiles. -/
def placedRec : List Word :=
  let r := List.replicate 16 0#32
  let r := recPut (recPut (recPut r 4 11 127) 4 20 7) 4 5 1
  recPut (recPut (recPut (recPut r 8 0 16) 12 0 1) 16 0 1) 16 16 1

/-- The words at issue in an open clause of warp 0 of a fresh block on core 0 of domain 0; in its handler slot, if the word is supervisor's. -/
def State.placed (s : State) (ws : List Word) : State :=
  let op := opOf (ws.headD 0#32)
  let n := if takesLiteral (ws.headD 0#32) then 2 else 1
  let k := if opSuper op then 4 else 0
  let cl : Clause := { hdr := BitVec.ofNat 32 (n * 2 ^ 28 + opClass op * 2 ^ 25), pc := 0#32, ibuf := ws, idx := 1, nres := 0,
                       run := 0xFFFFFFFF#32, exits := 0#32, setpc := 0#32, many := false, rpt := false }
  let warp := fun (w : Nat) => { Warp.zero with
    lanes := (List.range 32).map fun L => Lane.start 0#32 (BitVec.ofNat 32 (32 * w + L + 1)), rows := (List.range 64).map (64 * w + ·),
    clause := if w = 0 || opQuartet op then some cl else none }
  let b : Block := { Block.zero with loc := some ⟨0, 0, k⟩, lrec := placedRec, warps := (List.range 4).map warp }
  let bid := s.nextBid
  let s := s.updCore 0 0 fun c =>
    { c with slots := mput c.slots k bid, ports := mput c.ports 0 (bid, 0), active := if k = 4 then c.active else [(bid, 0)], hrun := k = 4 }
  { s with blocks := mput s.blocks bid b, nextBid := bid + 1, focus := some (bid, 0), agenda := [] }

end Sys2Proof.Machine
end

