-- ==== Sys2Proof/Machine/Journal.lean ====
section
/-! DEFINITION. The operation journal and the replay filters (R54, R381 to R383, R385): what a non-idempotent operation does at issue, at
its target and when it is acknowledged. -/

namespace Sys2Proof.Machine

def State.updJournal (s : State) (d a : Nat) (f : List JEnt → List JEnt) : State :=
  s.updCore d a fun c =>
    match c.umb.newest with
    | some w => { c with umb := c.umb.setBank w { c.umb.bank w with jn := f (c.umb.bank w).jn } }
    | none => c
/-- TAG of entry `i` of a bank (Table 15-4). -/
def jtag (seq i : Nat) : Nat := seq % 2 ^ 60 * 16 + i
/-- The filter entry of source position and index, and whether it shows a tag (R383). -/
def filterKey (d a i : Nat) : Nat := 16 * coreKey d a + i
def State.tagApplied (s : State) (t d a i tag : Nat) : Bool := mfind (s.dom t).filter (filterKey d a i) = some tag
def JEnt.idx (e : JEnt) : Nat := e.tag % 16

/-- Values that an entry restores: by lane, high words at 32 + lane, uniform results from 0 on; all ones where they are lost (R385). -/
def JEnt.values (e : JEnt) : List (Nat × Word) :=
  if e.st = 3 then (lanesOf e.mask).flatMap fun L => [(L, 0xFFFFFFFF#32), (32 + L, 0xFFFFFFFF#32)] else e.data

/-- An operation leaves the core: the ST of its entry is 1 (R381). -/
def State.sent (s : State) (d a : Nat) (j : Option Nat) : State :=
  match j with
  | none => s
  | some i => s.updJournal d a fun l => l.modify i fun e => { e with st := 1 }
/-- A target applies a journalled operation: its TAG enters the filters of the target's domains, and it holds the acknowledgement with the
values until the source confirms it (R382, R383). -/
def State.applyTag (s : State) (d a : Nat) (j : Option Nat) (targets : List Nat) (data : List (Nat × Word)) : State :=
  match j with
  | none => s
  | some i =>
    match (s.core d a).umb.journal[i]? with
    | none => s
    | some e =>
      let s := targets.foldl (fun s t => s.updDom t fun x => { x with filter := mput x.filter (filterKey d a i) e.tag }) s
      s.updJournal d a fun l => l.modify i fun e => { e with data := data, ack := some (targets.headD d) }

/-- The accesses of lanes `m` of a journalled operation are performed: their values join those of the lanes before them, and with the last ones the operation
is applied, its TAG entering the filter of every domain that has performed one (R54, R382). DESIGN CHOICE, log 111: an operation that is issued again
leaves out the lanes that were performed. unsafe. -/
def State.applyTagPart (s : State) (d a : Nat) (j : Option Nat) (last : Bool) (m : Mask) (targets : List Nat) (data : List (Nat × Word)) : State :=
  match j with
  | none => s
  | some i =>
    match (s.core d a).umb.journal[i]? with
    | none => s
    | some e =>
      let ts := (e.doms ++ targets).eraseDups
      if last then s.applyTag d a j ts (e.data ++ data)
      else s.updJournal d a fun l => l.modify i fun e => { e with data := e.data ++ data, lanes := e.lanes ||| m, doms := ts }
/-- The lanes of entry `j` performed before, and their values. -/
def State.performedLanes (s : State) (d a : Nat) (j : Option Nat) : Mask × List (Nat × Word) :=
  match j.bind fun i => (s.core d a).umb.journal[i]? with
  | some e => (e.lanes, e.data)
  | none => (0#32, [])

/-- The acknowledgement of entry `i` has reached the core: its slot may complete (R382). -/
def State.tagAcked (s : State) (d a : Nat) (j : Option Nat) : Bool :=
  match j with
  | none => true
  | some i => match (s.core d a).umb.journal[i]? with
    | some e => 2 ≤ e.st
    | none => true

/-- The word waits at issue; what was asked for it stays asked. -/
def Env.stay (e : Env) (s : State) : Act := if e.sq then .ended s else .ended { s with focus := none }
/-- A warp's word waits at issue for the journal (R381). -/
def Env.hold (e : Env) (s : State) : Act := if e.sq then .ended s else .ended { s.updWarp e.bid e.w (fun wp => { wp with held := true }) with focus := none }

/-- A new journal entry of a core's armed epoch; none where 16 are in use (R381). -/
def State.journalAppend (s : State) (l : Loc) (op w : Nat) (pc mask : Word) (tgt : Nat) : Option (Nat × State) :=
  let u := (s.core l.d l.a).umb
  let seq := match u.newest with | some b => (u.bank b).hseq | none => 0
  let n := u.journal.length
  if 16 ≤ n then none
  else
    let x : JEnt := { op := op, warp := w, slot := l.k, st := 0, pc := pc, mask := mask, tag := jtag seq n, tgt := tgt, data := [],
                      matched := true, ack := none, lanes := 0#32, doms := [] }
    some (n, s.updJournal l.d l.a (· ++ [x]))
/-- Ask for a cut; one request of the journal's is enough. -/
def State.askCut (s : State) (d a : Nat) (r : CutReq) : State :=
  s.updCore d a fun c => if c.umb.reqs.contains r then c else { c with umb := { c.umb with reqs := c.umb.reqs ++ [r] } }
def journalCut : CutReq := { kind := 2, warp := none, exit := none }
/-- An entry for an operation that leaves core `l` now: none is needed outside an armed epoch, nor of the handler slot, which Table 15-4's SLOT does
not name; every one waits while the cut is unsealed, and for room in the journal. `own`: a word of an open clause, which takes the room kept for it (log 30). -/
def State.journalNow (s : State) (l : Loc) (op w : Nat) (pc mask : Word) (tgt : Nat) (own : Bool := true) : Except State (Option Nat × State) :=
  let u := (s.core l.d l.a).umb
  if !u.armed || (u.openCut.isNone && u.newest.isNone) then .ok (none, s)
  else if u.openCut.isSome then .error s
  else if l.k = 4 then .ok (none, s)
  else if !own && 16 ≤ s.journalUse l.d l.a none then .error (s.askCut l.d l.a journalCut)
  else match s.journalAppend l op w pc mask tgt with
    | some (j, s) => .ok (some j, s.sent l.d l.a (some j))
    | none => .error (s.askCut l.d l.a journalCut)

/-- The oldest entry of the resumed epoch that no operation has been matched to, for an operation of warp `w` at `pc` (R385). -/
def Umbra.oldEntry (u : Umbra) (k op w : Nat) (pc : Word) : Option (Nat × JEnt) :=
  if !u.armed || u.openCut.isSome then none
  else (u.journal.mapIdx fun i x => (i, x)).find? fun p => !p.2.matched && p.2.warp = w && p.2.slot = k && p.2.pc = pc && p.2.op = op
/-- That of the word at issue. -/
def Env.oldEntry (e : Env) : Option (Nat × JEnt) := e.core.umb.oldEntry e.loc.k (opOf e.cl.word) e.w e.cl.wordPc
/-- The operation of entry `i` has been applied: its acknowledgement is obtained again, or, where the target holds it no more, its result is lost
and an event logged (R385). -/
def State.entryApplied (s : State) (l : Loc) (i : Nat) (x : JEnt) : JEnt × State :=
  let lost := x.ack.isNone
  let x : JEnt := { x with st := if lost then 3 else 2 }
  let s := s.updJournal l.d l.a fun j => j.modify i fun y => { y with st := x.st }
  (x, if lost then s.logEvent 0x11 l.d l.a else s)
/-- The entry's operation has been applied though its acknowledgement has not come (R383). -/
def State.entryWas (s : State) (l : Loc) (i : Nat) (x : JEnt) : Bool :=
  x.ack.isSome || (List.range 64).any fun t => s.tagApplied t l.d l.a i x.tag
/-- An operation that the core makes for a block as it exits, journalled (R386): none where the journal has no room; whether it is new, or has still to
be made, under its entry; an entry that was applied needs no more (R385). -/
def State.exitEntry (s : State) (l : Loc) (op tgt : Nat) (mask : Word) : Option (Option Nat × State) :=
  let new := fun (s : State) => if 16 ≤ s.journalUse l.d l.a none then none
    else (s.journalAppend l op 0 0#32 mask tgt).map fun p => (some p.1, p.2.sent l.d l.a (some p.1))
  match (s.core l.d l.a).umb.oldEntry l.k op 0 0#32 with
  | none => new s
  | some (i, x) =>
    let s := s.updJournal l.d l.a fun j => j.modify i fun x => { x with matched := true }
    if x.tgt != tgt || x.mask != mask then new s
    else if 2 ≤ x.st then some (none, s)
    else if s.entryWas l i x then some (none, (s.entryApplied l i x).2)
    else some (some i, s.sent l.d l.a (some i))

/-- An operation that core `a` sent before it lost power has still to reach its target (R380): it is no block's any more. -/
def State.travelling (s : State) (d a : Nat) : Bool :=
  s.ops.any fun y => y.d = d && y.a = a && !y.performed && (mfind s.blocks y.bid).isNone
/-- A non-idempotent operation at issue (R381, R385). An inquiry about an entry waits until
every operation that the core sent before it lost power has reached its target (R380). `tgt` and `mask` name it; `wr` writes restored values; `go` issues the operation with
its journal entry. -/
def Env.journal (e : Env) (s : State) (tgt : Nat) (mask : Word) (wr : List (Nat × Word) → State → State) (go : Option Nat → State → Act) : Act :=
  let l := e.loc
  let s := if e.sq then s else s.updWarp e.bid e.w fun wp => { wp with held := false }
  let count := fun (s : State) (f : ResumeInfo → ResumeInfo) => s.updBlock e.bid fun x => { x with umq := f x.umq }
  let fresh := fun (s : State) =>
    match s.journalNow l (opOf e.cl.word) e.w e.cl.wordPc mask tgt (!e.sq) with
    | .ok (j, s) => go j s
    | .error s => e.hold s
  match e.oldEntry with
  | none => fresh s
  | some (i, x) =>
    if s.travelling l.d l.a then .stall else
    let s := s.updJournal l.d l.a fun l => l.modify i fun x => { x with matched := true }
    if x.tgt != tgt || x.mask != mask then fresh s
    else if x.st = 2 then .done (wr x.values (count s fun r => { r with matched := r.matched + 1 }))
    else if s.entryWas l i x then
      let r := s.entryApplied l i x
      .done (wr r.1.values (count r.2 fun r => { r with matched := r.matched + 1, lost := r.lost || x.ack.isNone }))
    else go (some i) ((count s fun r => { r with reissued := r.reissued + 1 }).sent l.d l.a (some i))

end Sys2Proof.Machine
end

