-- ==== Sys2Proof/Machine/LoadStore.lean ====
section
/-! DEFINITION. Meanings of the load/store opcodes 0x80 to 0x91 at issue (07, R181 to R200): every lane is checked, then the operation is
entered in `State.ops`; its sectors are performed by the events of LsEvents. -/

namespace Sys2Proof.Machine

/-! ## Addresses and lane checks -/

/-- The signed displacement of a memory literal (Table 03-6). -/
def memDisp (l : Option Word) : Int := match l with | some l => (l.extractLsb' 0 26).toInt | none => 0
/-- The index of lane `L` (R181). -/
def Env.idx (e : Env) (r : BitVec 5) (L : Nat) : Int := if r = 31#5 then 0 else (e.v r.toNat L).toInt
def memVs (f : MemW) : List Nat := if f.idx = 31#5 then [] else [f.idx.toNat]
/-- va(L) of a global pointer (R181). -/
def Env.gva (e : Env) (f : MemW) (L : Nat) : Nat :=
  (((e.breg f.ba.toNat).toNat + e.idx f.idx L + memDisp f.lit) % 2 ^ 80).toNat
/-- off(L) of a scratch or window pointer (R181). -/
def Env.poff (e : Env) (f : MemW) (L : Nat) : Nat :=
  ((((e.breg f.ba.toNat).toNat % 2 ^ 32 : Nat) + e.idx f.idx L + memDisp f.lit) % 2 ^ 32).toNat
def szBytes (sz : BitVec 3) : Nat := [1, 1, 2, 2, 4, 8, 16, 1].getD sz.toNat 1
def memOrd (f : MemW) : Nat := match f.lit with | some l => litOrd l | none => 0
/-- The scope as requested; without a literal the default of an N page or of scratch (Tables 02-1, 02-4). -/
def memScp (f : MemW) (dflt : Nat) : Nat := match f.lit with | some l => litScp l | none => dflt

/-- The outcome of a lane's checks. -/
inductive LaneRes (α : Type) where
  | ok (x : α)
  | bad (c : Cause) (addr : Nat)
  | wait

def laneOk {α : Type} : LaneRes α → Option α | .ok x => some x | _ => none
def laneBad {α : Type} : LaneRes α → Option (Cause × Nat) | .bad c a => some (c, a) | _ => none
def laneWaits {α : Type} : LaneRes α → Bool | .wait => true | _ => false

/-- Check lanes in ascending order, threading the TLBs. -/
def checkLanes {α : Type} (f : State → Nat → LaneRes α × State) : List Nat → State → List (Nat × LaneRes α) × State
  | [], s => ([], s)
  | L :: ls, s =>
    let r := f s L
    let rest := checkLanes f ls r.2
    ((L, r.1) :: rest.1, rest.2)

/-- The checks of all items of a list, then `k` on their results; else the trap of R186 and R279, whose mask holds `lane` of the items that
fail with its cause. While the walk of any item waits, the word waits at issue (R186). -/
def Env.itemsChecked {α : Type} (e : Env) (items : List Nat) (lane : Nat → Nat) (f : State → Nat → LaneRes α × State)
    (k : List (Nat × α) → State → Act) : Act :=
  let r := checkLanes f items e.s
  let bad := r.1.filterMap fun p => (laneBad p.2).map fun x => (p.1, x)
  if r.1.any fun p => laneWaits p.2 then e.stay r.2
  else match bad with
  | (_, c, a) :: _ => .trapAt r.2 c (maskOf fun L => bad.any fun b => lane b.1 = L && b.2.1 = c) (BitVec.ofNat 80 a) e.cl.word
  | [] => k (r.1.filterMap fun p => (laneOk p.2).map fun x => (p.1, x)) r.2
/-- The checks of all taking-part lanes. -/
def Env.lanesChecked {α : Type} (e : Env) (part : Mask) (f : State → Nat → LaneRes α × State) (k : List (Nat × α) → State → Act) : Act :=
  e.itemsChecked (lanesOf part) (fun L => L) f k

/-- Alignment, translation and the mapped-tile rule for `n` bytes at `va` (R184, R186, R330). -/
def Env.checkGlobal (e : Env) (s : State) (va n align : Nat) (kind : Kind) (tileOk : Bool) : LaneRes (Nat × Nat) × State :=
  if va % align != 0 then (.bad .misaligned va, s)
  else match e.translate s va kind n with
    | (.bad _ c, s) => (.bad (codeCause c) va, s)
    | (.wait, s) => (.wait, s)
    | (.ok pa ty, s) =>
      match s.tileAt pa with
      | some (_, _, _, anchor) => if tileOk && anchor then (.ok (pa, ty), s) else (.bad .protection va, s)
      | none => (.ok (pa, ty), s)

/-- The lanes taking part in a store: the loads' lanes less the helpers (R185). -/
def Env.storing (e : Env) : Mask := e.contrib

/-- The data bytes of a lane's store: registers v[dat] up (R190). -/
def Env.storeData (e : Env) (dat n L : Nat) : List Byte :=
  (List.range n).map fun i => (e.v (dat + i / 4) L).extractLsb' (8 * (i % 4)) 8

/-- The 64 outstanding instructions of a core's engine (R188). -/
def Env.lsFull (e : Env) : Bool :=
  64 ≤ (e.s.ops.filter fun x => x.d = e.loc.d && x.a = e.loc.a && (match x.k with | .load _ _ _ _ | .store _ _ _ | .fence _ _ _ | .cache _ _ _ => true | _ => false)).length

/-- A memory word: slot, capacity, then its checks. -/
def Env.memIssue (e : Env) (d : BitVec 3) (k : Act) : Act :=
  e.slotted d fun e => if e.lsFull then .stall else k

/-! ## Loads and stores of global memory (R190, R191) -/

/-- Sign or zero extension of a load of one register (Table 03-7). -/
def extWord (sz : Nat) (x : Nat) : Word :=
  if sz = 1 then (BitVec.ofNat 8 x).signExtend 32 else if sz = 3 then (BitVec.ofNat 16 x).signExtend 32 else BitVec.ofNat 32 x
/-- Restored words of a per-lane load of size code `sz` in `k` registers (R190, R385): register `dat + r` of lane `L` from key `32 r + L`. -/
def Env.restoreV (e : Env) (dat k sz : Nat) (data : List (Nat × Word)) (s : State) : State :=
  s.updBlock e.bid fun b => data.foldl (fun b p => if p.1 / 32 < k then b.vwrite e.wp (dat + p.1 / 32) (p.1 % 32) (extWord sz p.2.toNat) else b) b
/-- An access goes through the journal, under `mask`, if it touches a D page (R54, R381); `go` issues the lanes that have still to be performed. -/
def Env.device (e : Env) (s : State) (ps : List Part) (tgt : Nat) (mask : Mask) (wr : List (Nat × Word) → State → State)
    (go : Option Nat → List Part → State → Act) : Act :=
  if ps.any (·.ty = 2) then
    e.journal s tgt mask wr fun j s =>
      let had := s.performedLanes e.loc.d e.loc.a j
      if had.1 = 0#32 then go j ps s else go j (ps.filter fun p => !had.1.getLsbD p.lane) (wr had.2 s)
  else go none ps s

/-- LD and LDN. -/
def Env.loadGlobal (e : Env) (f : MemW) : Act :=
  let n := szBytes f.sz
  e.memIssue f.d <| e.lanesChecked e.g (fun s L => e.checkGlobal s (e.gva f L) n n .load true) fun ps s =>
    let parts := ps.map fun p => ({ lane := p.1, pl := .glob p.2.1, n := n, data := [], sc := none, ty := p.2.2, sty := 0 } : Part)
    e.device s parts (e.gva f (lowLane e.g)) e.g (e.restoreV f.dat.toNat (szRegs f.sz) f.sz.toNat) fun j parts s =>
      .done (e.start s f.d (.load (.v f.dat.toNat f.sz.toNat) (memOrd f) (memScp f 1) parts) [] j)
/-- ST and STN. -/
def Env.storeGlobal (e : Env) (f : MemW) : Act :=
  let n := szBytes f.sz
  e.memIssue f.d <| e.lanesChecked e.storing (fun s L => e.checkGlobal s (e.gva f L) n n .store false) fun ps s =>
    let parts := ps.map fun p =>
      ({ lane := p.1, pl := .glob p.2.1, n := n, data := e.storeData f.dat.toNat n p.1, sc := none, ty := p.2.2, sty := 0 } : Part)
    e.device s parts (e.gva f (lowLane e.storing)) e.storing (fun _ s => s) fun j parts s =>
      .done (e.start s f.d (.store (memOrd f) (memScp f 1) parts) [] j)

def memGroupVs (f : MemW) : List Nat := memVs f ++ (List.range (szRegs f.sz)).map (f.dat.toNat + ·)

/-- LD (R190). -/
def execLd (f : MemW) (s : State) : Out := issueWord (.ld f) f.g f.lit (memGroupVs f) s (fun _ => true) fun e => e.loadGlobal f
/-- LDN (R191). -/
def execLdn (f : MemW) (s : State) : Out := issueWord (.ldn f) f.g f.lit (memGroupVs f) s (fun _ => true) fun e => e.loadGlobal f
/-- ST (R190). -/
def execSt (f : MemW) (s : State) : Out := issueWord (.st f) f.g f.lit (memGroupVs f) s (fun _ => true) fun e => e.storeGlobal f
/-- STN (R191). -/
def execStn (f : MemW) (s : State) : Out := issueWord (.stn f) f.g f.lit (memGroupVs f) s (fun _ => true) fun e => e.storeGlobal f

/-! ## Scratch (R192) -/

def Env.checkScratch (e : Env) (f : MemW) (s : State) (L : Nat) : LaneRes Place × State :=
  let n := szBytes f.sz
  let off := e.poff f L
  if off % n != 0 then (.bad .misaligned off, s)
  else match s.scratch e.bid (e.breg f.ba.toNat) off n with
    | some (b, o) => (.ok (.scr b o), s)
    | none => (.bad .protection off, s)
/-- The scope of a scratch access (Table 02-1, R25, R192): WAF and SYS act as DOM; by default BLK for the own share, DOM for a peer's. -/
def Env.scrScp (e : Env) (f : MemW) : Nat := min 1 (memScp f (if (e.breg f.ba.toNat).getLsbD 38 then 1 else 0))
/-- LDX (R192). -/
def execLdx (f : MemW) (s : State) : Out :=
  issueWord (.ldx f) f.g f.lit (memGroupVs f) s (fun _ => true) fun e =>
    e.memIssue f.d <| e.lanesChecked e.g (e.checkScratch f) fun ps s =>
      .done (e.start s f.d (.load (.v f.dat.toNat f.sz.toNat) (memOrd f) (e.scrScp f)
        (ps.map fun p => { lane := p.1, pl := p.2, n := szBytes f.sz, data := [], sc := none, ty := 0, sty := 0 })) [])
/-- STX (R192). -/
def execStx (f : MemW) (s : State) : Out :=
  issueWord (.stx f) f.g f.lit (memGroupVs f) s (fun _ => true) fun e =>
    e.memIssue f.d <| e.lanesChecked e.storing (e.checkScratch f) fun ps s =>
      .done (e.start s f.d (.store (memOrd f) (e.scrScp f)
        (ps.map fun p => { lane := p.1, pl := p.2, n := szBytes f.sz, data := e.storeData f.dat.toNat (szBytes f.sz) p.1, sc := none, ty := 0, sty := 0 })) [])

/-! ## Windows (R193) -/

/-- The checks of R183 in their order. DESIGN CHOICE, log 90: the reserved bits of the pointer (Table 07-3) are checked before the descriptor. unsafe.
The place comes with the target's domain. -/
def Env.checkWindow (e : Env) (f : MemW) (write : Bool) (s : State) (L : Nat) : LaneRes (Place × Nat) × State :=
  let n := szBytes f.sz
  let p := e.breg f.ba.toNat
  let off := e.poff f L
  if off % n != 0 then (.bad .misaligned off, s)
  else if (p >>> 36) != 0#80 then (.bad .protection off, s)
  else match s.window e.bid (p.extractLsb' 32 4).toNat off n write with
    | .ok q => (.ok q, s)
    | .error c => (.bad c off, s)
/-- The scope of a window access (Table 02-1): DOM within the domain, WAF beyond it. -/
def Env.winScp (e : Env) (ps : List (Nat × Place × Nat)) : Nat := if ps.all fun p => p.2.2 = e.loc.d then 1 else 2
/-- LDW (R193). -/
def execLdw (f : MemW) (s : State) : Out :=
  issueWord (.ldw f) f.g f.lit (memGroupVs f) s (fun _ => true) fun e =>
    e.memIssue f.d <| e.lanesChecked e.g (e.checkWindow f false) fun ps s =>
      .done (e.start s f.d (.load (.v f.dat.toNat f.sz.toNat) 0 (e.winScp ps)
        (ps.map fun p => { lane := p.1, pl := p.2.1, n := szBytes f.sz, data := [], sc := none, ty := 0, sty := 0 })) [])
/-- STW (R193). -/
def execStw (f : MemW) (s : State) : Out :=
  issueWord (.stw f) f.g f.lit (memGroupVs f) s (fun _ => true) fun e =>
    e.memIssue f.d <| e.lanesChecked e.storing (e.checkWindow f true) fun ps s =>
      .done (e.start s f.d (.store 0 (e.winScp ps)
        (ps.map fun p => { lane := p.1, pl := p.2.1, n := szBytes f.sz, data := e.storeData f.dat.toNat (szBytes f.sz) p.1, sc := none, ty := 0, sty := 0 })) [])

/-! ## MX blocks (R194) -/

/-- Element and scale addresses of lane `L`. -/
def Env.mxAddrs (e : Env) (f : MemW) (L : Nat) : Nat × Nat :=
  let off := e.idx f.idx L + memDisp f.lit
  ((((e.breg f.ba.toNat).toNat + off) % 2 ^ 80).toNat, (((e.breg (f.ba.toNat + 1)).toNat + off / 32) % 2 ^ 80).toNat)
/-- Addresses and page types of the elements and of the scale (R194). DESIGN CHOICE, log 108: the elements are checked whole before the scale, and a scale that
fails names its own address. unsafe. -/
def Env.checkMx (e : Env) (f : MemW) (kind : Kind) (s : State) (L : Nat) : LaneRes (Nat × Nat × Nat × Nat) × State :=
  let a := e.mxAddrs f L
  let one := fun (s : State) (va n align : Nat) =>
    match e.checkGlobal s va n align kind (kind = .load) with
    | (.ok (pa, ty), s) => if 2 ≤ ty then (LaneRes.bad .protection va, s) else (.ok (pa, ty), s)
    | r => r
  match one s a.1 32 32 with
  | (.ok (ea, ty), s) =>
    match one s a.2 1 1 with
    | (.ok (sa, sty), s) => (.ok (ea, sa, ty, sty), s)
    | (.bad c x, s) => (.bad c x, s)
    | (.wait, s) => (.wait, s)
  | (.bad c x, s) => (.bad c x, s)
  | (.wait, s) => (.wait, s)
def mxVs (f : MemW) : List Nat := memVs f ++ (List.range 9).map (f.dat.toNat + ·)
/-- LDMX (R194). -/
def execLdmx (f : MemW) (s : State) : Out :=
  issueWord (.ldmx f) f.g f.lit (mxVs f) s (fun _ => true) fun e =>
    e.memIssue f.d <| e.lanesChecked e.g (e.checkMx f .load) fun ps s =>
      .done (e.start s f.d (.load (.mx f.dat.toNat f.sz.toNat) (memOrd f) (memScp f 1)
        (ps.map fun p => { lane := p.1, pl := .glob p.2.1, n := 32, data := [], sc := some (.glob p.2.2.1), ty := p.2.2.2.1, sty := p.2.2.2.2 })) [])
/-- STMX (R194): the scale byte last in the data. -/
def execStmx (f : MemW) (s : State) : Out :=
  issueWord (.stmx f) f.g f.lit (mxVs f) s (fun _ => true) fun e =>
    e.memIssue f.d <| e.lanesChecked e.storing (e.checkMx f .store) fun ps s =>
      .done (e.start s f.d (.store (memOrd f) (memScp f 1)
        (ps.map fun p => { lane := p.1, pl := .glob p.2.1, n := 32,
                           data := e.storeData f.dat.toNat 32 p.1 ++ [(e.v (f.dat.toNat + 8) p.1).extractLsb' (8 * f.sz.toNat) 8],
                           sc := some (.glob p.2.2.1), ty := p.2.2.2.1, sty := p.2.2.2.2 })) [])

/-! ## Uniform loads (R195) -/

/-- Restored words of a uniform load. -/
def Env.restoreU (e : Env) (dst : LdDst) (data : List (Nat × Word)) (s : State) : State :=
  let x := fun i => ((data.find? (·.1 = i)).map (·.2)).getD 0#32
  s.updWarp e.bid e.w fun wp => match dst with
    | .s r sz => wp.setS r (extWord sz (x 0).toNat)
    | .b r _ => wp.setB r (BitVec.ofNat 80 ((x 0).toNat + 2 ^ 32 * (x 32).toNat))
    | _ => wp
/-- The one check of a uniform load, whose address is that of the lowest taking-part lane: it fails for every taking-part lane alike (R186, R195). -/
def Env.uniformChecked {α : Type} (e : Env) (f : State → LaneRes α × State) (k : α → State → Act) : Act :=
  match f e.s with
  | (.ok x, s) => k x s
  | (.bad c a, s) => .trapAt s c e.g (BitVec.ofNat 80 a) e.cl.word
  | (.wait, s) => e.stay s
def Env.loadUniform (e : Env) (f : MemW) (n : Nat) (dst : LdDst) : Act :=
  e.memIssue f.d <| e.uniformChecked (fun s => e.checkGlobal s (e.gva f (lowLane e.g)) n n .load true) fun p s =>
    let parts := [p].map fun (p : Nat × Nat) => ({ lane := 0, pl := .glob p.1, n := n, data := [], sc := none, ty := p.2, sty := 0 } : Part)
    e.device s parts (e.gva f (lowLane e.g)) 0xFFFFFFFF#32 (e.restoreU dst) fun j parts s => .done (e.start s f.d (.load dst (memOrd f) (memScp f 1) parts) [] j)
def Env.idxUniform (e : Env) (f : MemW) : Bool := f.idx = 31#5 || e.uniform (e.v f.idx.toNat)
/-- The index is one value in every lane that takes part in a load, exit helpers included (R185, R195). -/
def Env.idxOne (e : Env) (f : MemW) : Bool := f.idx = 31#5 || (lanesOf e.g).all fun L => e.v f.idx.toNat L = e.v f.idx.toNat (lowLane e.g)
/-- LDS (R195). -/
def execLds (f : MemW) (s : State) : Out :=
  issueWord (.lds f) f.g f.lit (memVs f) s (·.idxOne f) fun e => e.loadUniform f (szBytes f.sz) (.s f.dat.toNat f.sz.toNat)
/-- LDB (R195). -/
def execLdb (f : MemW) (s : State) : Out :=
  issueWord (.ldb f) f.g f.lit (memVs f) s (·.idxOne f) fun e => e.loadUniform f (szBytes f.sz) (.b f.dat.toNat f.sz.toNat)

/-! ## Base registers (R196, R197) -/

def ptrOfInt (x : Int) : Ptr := BitVec.ofInt 80 x
/-- The v-registers SETB uses. -/
def setbVs (f : MemW) : List Nat :=
  match f.sz.toNat with
  | 0 => (List.range 3).map (f.dat.toNat + ·)
  | 1 => []
  | 2 => memVs f
  | _ => f.dat.toNat :: memVs f
/-- SETB (R196). -/
def execSetb (f : MemW) (s : State) : Out :=
  issueWord (.setb f) f.g f.lit (setbVs f) s (fun e => (setbVs f).all fun j => e.uniform (e.v j)) fun e =>
    if !e.any then .done e.s
    else if e.lsFull then .stall
    else
      let L := lowLane e.gr
      let disp := memDisp f.lit
      let off := ((e.idx f.idx L + disp) % 2 ^ 32)
      let x : Int := match f.sz.toNat with
        | 0 => ((e.v (f.dat.toNat + 2) L).toNat % 2 ^ 16 * 2 ^ 64 + (e.v (f.dat.toNat + 1) L).toNat * 2 ^ 32 + (e.v f.dat.toNat L).toNat : Nat) + disp
        | 1 => (e.breg (f.idx.toNat % 8)).toNat + disp
        | 2 => off
        | _ => off + (2 ^ 38 + (e.v f.dat.toNat L).toNat % 64 * 2 ^ 32 : Nat)
      .done (e.setWarp fun wp => wp.setB f.ba.toNat (ptrOfInt x))
/-- BADD (R197). -/
def execBadd (f : MemW) (s : State) : Out :=
  issueWord (.badd f) f.g f.lit (memVs f) s (·.idxUniform f) fun e =>
    if !e.any then .done e.s
    else if e.lsFull then .stall
    else
      let x := (e.breg f.ba.toNat).toNat + e.idx f.idx (lowLane e.gr) * 2 ^ f.sz.toNat + memDisp f.lit
      .done (e.setWarp fun wp => wp.setB f.ba.toNat (ptrOfInt x))

/-! ## PREF, FENCE, CWB, CINV (R198 to R200) -/

/-- A line enters the core's L1, or the domain's slice, in shared state. -/
def State.prefetch (s : State) (d a : Nat) (l1 : Bool) (line : Nat) : State :=
  (List.range 4).foldl (fun s i =>
    let sec := 4 * line + i
    let s := s.fetched d false sec
    if l1 && !(s.core d a).l1Holds sec then
      let s := s.l1Read d a sec
      s.setL1 d sec ((mfind (s.dom d).l1 sec).map fun e => if e.st = Moesi.e then { e with st := .s } else e)
    else s) s
/-- One lane of PREF: nothing where its translation fails or waits, on a D or S page, in a mapped tile, or where the home cannot serve it now. -/
def Env.prefLane (e : Env) (f : MemW) (s : State) (L : Nat) : State :=
  match e.translate s (e.gva f L) .load 1 with
  | (.ok pa ty, s) =>
    let asks := (List.range 4).any fun i => s.asksHome e.loc.d false false (pa / 256 * 256 + 64 * i)
    if 2 ≤ ty || (s.tileAt pa).isSome || s.unreachable pa || (asks && (s.backing (.core e.loc.d e.loc.a) pa || s.lineRefuses pa (.core e.loc.d e.loc.a))) then s
    else if ty = 1 then (List.range 4).foldl (fun s i => s.homeServe e.loc.d (4 * (pa / 256) + i)) s
    else s.prefetch e.loc.d e.loc.a (f.sz.toNat = 0) (pa / 256)
  | (_, s) => s
/-- PREF (R198): it never traps, and completes at issue. W pages are cached in their home slice only (R29). -/
def execPref (f : MemW) (s : State) : Out :=
  issueWord (.pref f) f.g f.lit (memVs f) s (fun _ => true) fun e =>
    if e.any && e.lsFull then .stall else .done ((lanesOf e.g).foldl (fun s L => e.prefLane f s L) e.s)
/-- FENCE (R199). -/
def execFence (f : MemW) (s : State) : Out :=
  issueWord (.fence f) f.g f.lit [] s (fun _ => true) fun e =>
    e.memIssue f.d (.done (e.start e.s f.d (.fence (memOrd f) (memScp f 0) (litPth (f.lit.getD 0#32))) []))

/-- The line a lane of CWB or CINV addresses; none on a D or S page or in a mapped tile (R200, R330). -/
def Env.checkLine (e : Env) (f : MemW) (s : State) (L : Nat) : LaneRes (Option Nat) × State :=
  match e.translate s (e.gva f L) .load 1 with
  | (.ok pa ty, s) => (.ok (if 2 ≤ ty || (s.tileAt pa).isSome then none else some (pa / 256)), s)
  | (.bad _ c, s) => (.bad (codeCause c) (e.gva f L), s)
  | (.wait, s) => (.wait, s)
/-- CWB and CINV: the lines of the taking-part lanes. -/
def Env.cacheOp (e : Env) (f : MemW) (inv : Bool) : Act :=
  e.memIssue f.d <| e.lanesChecked e.g (e.checkLine f) fun ps s =>
    .done (e.start s f.d (.cache (memScp f 1) inv (ps.filterMap (·.2)).eraseDups) [])
/-- CWB (R200). -/
def execCwb (f : MemW) (s : State) : Out := issueWord (.cwb f) f.g f.lit (memVs f) s (fun _ => true) fun e => e.cacheOp f false
/-- CINV (R200). -/
def execCinv (f : MemW) (s : State) : Out := issueWord (.cinv f) f.g f.lit (memVs f) s (fun _ => true) fun e => e.cacheOp f true

end Sys2Proof.Machine
end

