-- ==== Sys2Proof/Machine/Records.lean ====
section
/-! DEFINITION. Task records, their checks, counters and completion (12, R296 to R304, R315 to R317), and what a completion does to
subscriptions and refinement groups (13, R334 to R340). -/

namespace Sys2Proof.Machine

/-! ## Records and handles -/

/-- An index of the hardware pool (R296). -/
def hwIndex (i : Nat) : Bool := 57344 ≤ i
def RecKind.isLaunch : RecKind → Bool | .launch => true | _ => false
/-- The usable record a handle names for an issuer (R319). DEDUCED, log 24: a FREE index holds no record whose ASID could differ, and the
engine's own range and park records are named by no handle. safe. -/
def State.usableRec (s : State) (asid : Nat) (sup : Bool) (h : Word) : Option (Nat × Nat) :=
  match s.named h with
  | some (d, i) =>
    let r := s.recAt d i
    if r.st = RecSt.free || (r.kind.isLaunch && (sup || rASID r.ws = asid)) then some (d, i) else none
  | none => none
def RecSt.code : RecSt → Nat
  | .free => 0 | .waiting => 1 | .ready => 2 | .running => 3 | .done => 4 | .cancelled => 5 | .refused => 6
def Rec.cnt (r : Rec) : Nat := recBits r.ws 0 0 32
def Rec.setWord (r : Rec) (i : Nat) (x : Word) : Rec := { r with ws := r.ws.set i x }

/-! ## Ready queues (R305) -/

def Domain.level (x : Domain) (p : Nat) : List Nat := x.ready.filter fun i => rPRI (x.recOf i).ws = p
/-- Room in the queue or ring of a level: 64 and 2,048 entries. -/
def Domain.levelRoom (x : Domain) (p : Nat) : Bool := (x.level p).length < 2112
def Domain.deferred (x : Domain) (i : Nat) : Bool :=
  let l := x.level (rPRI (x.recOf i).ws)
  (x.recOf i).st = RecSt.ready && 2112 ≤ l.idxOf i && l.contains i
/-- A record becomes READY at the tail of its level. -/
def State.makeReady (s : State) (d i : Nat) : State :=
  (s.updRec d i fun r => { r with st := .ready }).updDom d fun x => { x with ready := x.ready ++ [i] }
/-- WAITING, or READY if its counter is 0. -/
def State.arm (s : State) (d i : Nat) : State :=
  if (s.recAt d i).cnt = 0 then s.makeReady d i else s.updRec d i fun r => { r with st := .waiting }
/-- The lowest FREE hardware index of a domain. -/
def Domain.freeHw (x : Domain) : Option Nat := ((List.range 8192).map (57344 + ·)).find? fun i => (x.recOf i).st = RecSt.free

/-! ## Checks (R301) -/

/-- The address of the completion record: ARGB − 16. -/
def compAddr (r : List Word) : Nat := (((rARGB r : Int) - 16) % 2 ^ 80).toNat
/-- The addresses of the pages the engine will write: of the counter area, of the completion record. -/
def recPages (r : List Word) : List Nat :=
  (match rCounters r with | some a => [a, (a + 1023) % 2 ^ 80] | none => [])
    ++ (if rCR r then [compAddr r] else [])
/-- A walk of requester `q` for a store of a block in a record's address space, and what it does besides (R212, R221, R435). -/
def State.walkStore (s : State) (d asid va : Nat) (q : Asker) : Trans × State :=
  let r := walk s d asid va q
  let t := s.walked d 0xFF r q
  match r.1 with
  | .ok e => (match entryCode s e .store true 4 with | some c => .bad e.size c | none => .ok (e.paOf va) e.ty, t)
  | .bad l c => (.bad l c, t)
  | .wait | .refused _ => (.wait, t)
def State.walkStores (s : State) (d asid : Nat) (q : Asker) : List Nat → List Trans × State
  | [] => ([], s)
  | va :: l =>
    let r := s.walkStore d asid va q
    let rest := State.walkStores r.2 d asid q l
    (r.1 :: rest.1, rest.2)
def Trans.isBad : Trans → Bool | .bad _ _ => true | _ => false
def Trans.typed : Trans → Bool | .ok _ ty => 2 ≤ ty | _ => false

/-- The first of checks 1 to 11 of Table 12-4 that a record fails, or 0. `issuer`: the ASID of the block slot it comes from; `again`: DEPTH and SUBL are not
tested (R326). -/
def State.recForm (s : State) (issuer : Option Nat) (again : Bool) (r : List Word) : Nat :=
  let z := fun (off lo n : Nat) => recBits r off lo n = 0
  if !(rKind r = 0 && z 8 27 5 && z 48 16 16 && (again || (rDEPTH r = 0 && z 56 0 32 && z 60 0 32))) then 1
  else if rPART r % 16 != 0 || 256 < rPART r then 2
  else if 16 < rSCRF r || rPART r < 16 * rSCRF r then 3
  else if 1024 < (rLanes r + 31) / 32 * rVR r then 4
  else if 16 < rACCF r then 5
  else if rCSZ r = 0 || 44 < rCSZ r || !((List.range 64).any fun k => rCSZ r ≤ s.largestCluster k) then 6
  else if rBlocks r = 0 then 7
  else if rENTRY r % 4 != 0 then 8
  else if rARGB r % 16 != 0 then 9
  else if rHINT r / 2 ^ 26 != 0 then 10
  else if issuer.any fun a => a != rASID r then 11
  else 0
/-- The counter area is not aligned (check 12). -/
def recMisl (r : List Word) : Bool := match rCounters r with | some a => a % 256 != 0 | none => false
/-- The code of the first check of Table 12-4 a record fails, or 0, with the state after the walks of checks 12 and 13; none while a walk waits. -/
def State.recCode (s : State) (d : Nat) (issuer : Option Nat) (again : Bool) (r : List Word) (q : Asker) : Option Nat × State :=
  let c := s.recForm issuer again r
  if c != 0 then (some c, s)
  else if recMisl r then (some 12, s)
  else
    let w := s.walkStores d (rASID r) q (recPages r)
    (if w.1.contains .wait then none else if w.1.any Trans.typed then some 12 else if w.1.any Trans.isBad then some 13 else some 0, w.2)

/-! ## Completion (R316, R317) -/

/-- STATUS of the completion record (Table 12-9). -/
def Rec.statusWord (r : Rec) : Word :=
  let b := fun (x : Bool) (i : Nat) => if x then 2 ^ i else 0
  BitVec.ofNat 32 (1 + b r.abandoned 1 + b r.killed 2 + b (r.st = RecSt.cancelled) 3 + b r.cntErr 4 + b (r.st = RecSt.refused) 5 + 2 ^ 8 * r.code)
/-- The record has a completion record to write. -/
def Rec.writes (r : Rec) : Bool := rCR r.ws && rARGB r.ws % 16 = 0
/-- The 16 bytes of the completion record (Table 12-9). -/
def Rec.completion (r : Rec) (t : Tick) : List Byte := leBytes 4 r.status.toNat ++ leBytes 4 (min r.exited (2 ^ 32 - 1)) ++ leBytes 8 t.toNat

/-- What a write of an engine's own comes to: made, a wait, a refusal by the home of an address (R212). -/
inductive HomeRes where
  | ok (s : State)
  | wait
  | refused (pa : Nat)
/-- A drain update of `n` bytes that domain `d`'s engines make themselves at SYS scope (R104, R280, R317): at the home, or in the shadow buffer of a mapped
tile (R295); `f` gives the new bytes from the old, `rel` the release that it belongs to. -/
def State.engineUpdate (s : State) (d : Nat) (q : Asker) (pa n : Nat) (rel : Option Nat) (f : List Byte → List Byte) : HomeRes :=
  let p := s.drainHome pa
  let held := match s.shadowOf pa with | some (_, key, buf) => s.bufferHeld s.nextOp key buf | none => false
  if s.unreachable pa || s.backing q p || held then .wait
  else if s.lineRefuses p q then .refused p
  else
    let s := s.served q p
    let s := if p = pa then s.writeBack d (pa / 64) false none true else s
    let bs := f (memRead s p n)
    .ok (if p = pa then s.storeWide d .none pa bs rel.isSome rel true else s.homeWrite p bs d rel.isSome rel true)

/-- A TWAIT of warp `w` returns `x`: on a terminal record it acquires at SYS, a parked block as it resumes, and a child of the block returns its index (R323). -/
def State.twaitEnd (s : State) (b w r : Nat) (x : Word) (ended : Option (Nat × Nat)) : State :=
  let s := s.updBlock b fun y => (y.updWarp w fun wp => wp.setS r x).closeClause w
  match ended with
  | none => s
  | some (d, i) =>
    let s := match (s.block b).loc with | some l => s.acquireWide l.d | none => s.updBlock b fun y => { y with acqDue := true }
    if hwIndex i && (s.recAt d i).parent = some b then s.poolReturn d i else s
/-- Every TWAIT on a record that has ended returns its status (R316). -/
def State.wakeTwaits (s : State) (d i : Nat) : State :=
  let x := (s.recAt d i).status &&& 0xFFFF#32
  s.blocks.foldl (fun s p => (List.range p.2.warps.length).foldl (fun s w =>
    match (p.2.warp w).wait with
    | some (.twait h r _) =>
      let off := match p.2.loc with | some l => (s.core l.d l.a).stopped | none => false
      if s.named h = some (d, i) && !off then s.twaitEnd p.1 w r x (some (d, i)) else s
    | _ => s) s) s

/-! ## Tiles, subscriptions, groups -/

def Domain.tile (x : Domain) (i : Nat) : Tile := mget Tile.zero x.tiles i
def Domain.group (x : Domain) (i : Nat) : Group := mget Group.zero x.groups i
def State.tile (s : State) (d i : Nat) : Tile := (s.dom d).tile i
def State.group (s : State) (d i : Nat) : Group := (s.dom d).group i
def State.updTile (s : State) (d i : Nat) (f : Tile → Tile) : State :=
  s.updDom d fun x => { x with tiles := mset Tile.zero x.tiles i (f (x.tile i)) }
def State.updGroup (s : State) (d i : Nat) (f : Group → Group) : State :=
  s.updDom d fun x => { x with groups := mset Group.zero x.groups i (f (x.group i)) }
/-- A record's link at a position: tile home, tile index, entry (R334). -/
def recLink (ws : List Word) (pos : Nat) : Option (Nat × Nat × Nat) :=
  let l := (ws.getD (14 + pos) 0#32).toNat
  if l / 2 ^ 31 = 1 then some (l / 2 ^ 16 % 64, l % 4096, l / 4096 % 16) else none
def linkWord (d t e : Nat) : Word := BitVec.ofNat 32 (2 ^ 31 + 2 ^ 16 * d + 4096 * e + t)
def recLinks (ws : List Word) : List (Nat × Nat × Nat) := [0, 1].filterMap (recLink ws)
def State.subAt (s : State) (l : Nat × Nat × Nat) : Option Sub := mfind (s.tile l.1 l.2.1).subs l.2.2
def State.updSub (s : State) (l : Nat × Nat × Nat) (f : Sub → Sub) : State := s.updTile l.1 l.2.1 fun t => { t with subs := mupd t.subs l.2.2 f }
/-- Subscriber states (Table 13-3). -/
def sstWaiting : Nat := 1
def sstArmed : Nat := 2
def sstBound : Nat := 3
def sstIdle : Nat := 4

/-- Group handle (R327). -/
def groupHandle (dev d i : Nat) : Word := BitVec.ofNat 32 (i + 2 ^ 8 * d + 2 ^ 14 * dev)
/-- A busy subscription (R339); a run whose end is under way counts as one that runs still (log 112). -/
def State.subBusy (s : State) (t : Tile) (u : Sub) : Bool :=
  match s.named u.rh with
  | some (d, i) => match (s.recAt d i).st with
    | .waiting | .ready => !t.final
    | .running => !u.bvf
    | .done => ((s.recAt d i).fin.isSome || (s.recAt d i).refire) && !u.bvf
    | _ => false
  | none => false
/-- The member tiles of a group. -/
def State.members (s : State) (h : Word) : List Tile := s.doms.flatMap fun p => p.2.tiles.filterMap fun q => if q.2.grp = some h then some q.2 else none

/-- A decrement of a record by `m` (R302); at a record not WAITING it is stray, counted and logged (R303). -/
def State.decrement (s : State) (d i m : Nat) : State :=
  let r := s.recAt d i
  if r.st = RecSt.waiting then
    let c := r.cnt - m
    let s := s.updRec d i fun r => { r.setWord 0 (BitVec.ofNat 32 c) with under := r.under || r.cnt < m }
    if c = 0 then s.makeReady d i else s
  else (s.updDom d fun x => { x with enqStray := sat32 (x.enqStray + 1) }).logEvent 0x40 d 0xFF

/-- Recount every group, and settle those whose condition holds (R340). -/
def State.settleGroups (s : State) : State :=
  (s.doms.flatMap fun p => p.2.groups.map fun q => (p.1, q.1)).foldl (fun s p =>
    let g := s.group p.1 p.2
    if !g.val then s
    else
      let ms := s.members (groupHandle s.svc.dev p.1 p.2)
      let fin := (ms.filter (·.final)).length
      let busy := (ms.map fun t => (t.subs.filter fun u => s.subBusy t u.2).length).foldl (· + ·) 0
      -- a home whose counter is not reloaded settles at the next beacon (R422)
      let now := g.arm && g.nmem != 0 && fin = g.nmem && busy = 0 && !s.sidHeld p.1
      let s := s.updGroup p.1 p.2 fun g =>
        { g with nfin := fin, nbusy := busy, arm := g.arm && !now, set := g.set || now, tset := if now then s.sid p.1 else g.tset }
      if now then (match s.named g.tgt with | some (d, i) => s.decrement d i g.m | none => s) else s) s

/-- Re-arm a terminal record with counter `c`, or refuse it with the code of its first failing check (R326, R337); none while a walk waits. -/
def State.rearm (s : State) (d i c : Nat) : Option Nat × State :=
  match s.recCode d none true (s.recAt d i).ws (.task d i) with
  | (none, s) => (none, s)
  | (some 0, s) =>
    (some 0, (s.updRec d i fun r =>
      { Rec.free with ws := (r.setWord 0 (BitVec.ofNat 32 c)).ws, wafer := r.wafer, parent := r.parent, verin := r.verin, stale := r.stale }).arm d i)
  | (some x, s) =>
    let s := s.updRec d i fun r => { r with st := .refused, code := x, exited := 0, abandoned := false, killed := false, cancel := false, cntErr := false }
    (some x, s.updRec d i fun r => { r with status := r.statusWord, refire := false, fin := if r.writes then some .due else none })
/-- A re-fire is tried (R337): every entry of the record becomes armed, or idle where the checks refuse it; it stays due while a walk waits. -/
def State.refireTry (s : State) (d i : Nat) : State :=
  let ls := recLinks (s.recAt d i).ws
  match s.rearm d i 0 with
  | (some 0, s) => ls.foldl (fun s l => s.updSub l fun u => { u with sst := sstArmed }) s
  | (some _, s) => ls.foldl (fun s l => s.updSub l fun u => { u with sst := sstIdle }) s
  | (none, s) => s.updRec d i fun r => { r with refire := true }
/-- A re-fire; it waits for the end of the record's last run. -/
def State.refire (s : State) (d i : Nat) : State :=
  if (s.recAt d i).fin.isSome then s.updRec d i fun r => { r with refire := true } else s.refireTry d i

/-- What a completion does to the record's subscriptions (Table 13-4). -/
def State.subsEnd (s : State) (d i : Nat) : State :=
  let r := s.recAt d i
  let ls := recLinks r.ws
  if r.st = RecSt.cancelled then
    let s := ls.foldl (fun s l => s.updTile l.1 l.2.1 fun t => { t with subs := mdel t.subs l.2.2 }) s
    s.updRec d i fun r => (r.setWord 14 0#32).setWord 15 0#32
  else if r.st = RecSt.done then
    let bound := ls.filter fun l => match s.subAt l with | some u => u.sst = sstBound | none => false
    let newer := bound.any fun l => match s.subAt l with | some u => u.bv < (s.tile l.1 l.2.1).ver && !u.bvf | none => false
    let s := bound.foldl (fun s l => s.updSub l fun u => { u with sst := sstIdle }) s
    if newer && !r.killed then s.refire d i else s
  else s

/-- The end of a record is over: its waiters, its subscriptions, the groups; a child whose spawner has exited returns to the pool (R316, R321). -/
def State.finEnd (s : State) (d i : Nat) : State :=
  let s := s.updRec d i fun r => { r with fin := none }
  let s := ((s.wakeTwaits d i).subsEnd d i).settleGroups
  let r := s.recAt d i
  match r.parent with
  | some b => if r.st.terminal && r.fin.isNone && ((mfind s.blocks b).isNone || (s.block b).reported) then s.poolReturn d i else s
  | none => s
/-- A record reaches a terminal state; its completion record, if it has one, is then due, and with none its end is over at once (R316, R317). -/
def State.finishRec (s : State) (d i : Nat) (st : RecSt) : State :=
  let s := s.updDom d fun x => { x with ready := x.ready.filter (· != i) }
  let s := s.updRec d i fun r => { r with st := st }
  let s := s.updRec d i fun r => { r with status := r.statusWord, fin := some .due }
  if (s.recAt d i).writes then s.settleGroups else s.finEnd d i
/-- The next step of a record's end (R301, R317): its release at SYS, the completion record as one drain update of that release, its invalidations confirmed;
a failing page loses the record and logs. None while it must wait. DESIGN CHOICE, log 112: the tick of completion is that at which the release begins. unsafe. -/
def State.stepFin (s : State) (d i : Nat) : Option State :=
  let r := s.recAt d i
  let q := Asker.task d i
  let put := fun (s : State) (e : RecEnd) => s.updRec d i fun r => { r with fin := some e }
  match r.fin with
  | none => none
  | some .due =>
    if s.sidHeld d then none
    else match s.flush d q s.nextOp true with
      | .wait => none
      | .refused pa => some (s.refuse q pa)
      | .made t => some (put { t with nextOp := s.nextOp + 1 } (.released s.nextOp (s.sid d)))
  | some (.released n t) =>
    if s.confirming n then none
    else
      let w := s.walkStore d (rASID r.ws) (compAddr r.ws) q
      if w.1 = .wait then (if w.2 = s then none else some w.2)
      else match w.1 with
        | .ok pa ty =>
          if 2 ≤ ty then some ((w.2.logEvent 0x46 d 0xFF).finEnd d i)
          else match w.2.engineUpdate d q pa 16 (some n) fun _ => r.completion t with
            | .wait => none
            | .refused pa => some (w.2.refuse q pa)
            | .ok s => some (put s (.stored n))
        | _ => some ((w.2.logEvent 0x46 d 0xFF).finEnd d i)
  | some (.stored n) => if s.confirming n then none else some (s.finEnd d i)

/-- Install a record in place of the old content (R300, steps 2 and 3). -/
def State.installRec (s : State) (d i : Nat) (ws : List Word) (wafer : Bool) (parent : Option Nat) : State :=
  ((s.updRec d i fun _ => { Rec.free with ws := ws, wafer := wafer, parent := parent }).arm d i).settleGroups

/-! ## Enqueue windows (R300) -/

/-- A write to an enqueue window is dropped and counted. -/
def State.enqDrop (s : State) (d : Nat) : State := s.updDom d fun x => { x with enqDropped := sat32 (x.enqDropped + 1) }
/-- What a write to an enqueue window comes to: it is over, with the code of the record's checks where it was not dropped, or it must wait. -/
inductive EnqRes where
  | done (code : Option Nat) (s : State)
  | wait (s : State)
/-- The end of record `i`'s last run is still under way, or a re-fire of it. -/
def State.ending (s : State) (d i : Nat) : Bool := (s.recAt d i).fin.isSome || (s.recAt d i).refire
def RecSt.busy : RecSt → Bool | .waiting | .ready | .running => true | _ => false
/-- One 64-byte write of a record to an enqueue window. DESIGN CHOICE, log 112: it waits for the end of the record's last run. unsafe. -/
def State.windowEnq (s : State) (d : Nat) (wafer : Bool) (i : Nat) (ws : List Word) : EnqRes :=
  if ws.length != 16 || hwIndex i || (s.recAt d i).st.busy then .done none (s.enqDrop d)
  else if s.ending d i then .wait s
  else match s.recCode d none false ws (.task d i) with
    | (none, s) => .wait s
    | (some 0, s) => .done (some 0) (s.installRec d i ws wafer none)
    | (some c, s) => .done (some c) ((s.updRec d i fun _ => { Rec.free with ws := ws, wafer := wafer, code := c }).finishRec d i .refused)
/-- The record words of 64 bytes. -/
def recWords (bs : List Byte) : List Word := (List.range 16).map fun i => BitVec.ofNat 32 (leNat ((bs.drop (4 * i)).take 4))
/-- What a write comes to: it is made, or it must wait in a state that has changed or not. -/
inductive Tried where
  | ok (s : State)
  | wait (s : State)
/-- A step that must wait in state `s`: with nothing changed it is not taken. -/
def State.waiting (old s : State) : Out := if s = old then .refused .notEnabled else .next s
def Tried.out (r : Tried) (old : State) (go : State → Out) : Out :=
  match r with
  | .ok s => go s
  | .wait s => old.waiting s
/-- An enqueue window: whether it is the wafer window, and the offset in it (R300). -/
def windowOf (o : Nat) : Option (Bool × Nat) :=
  if 0x02000000 ≤ o && o < 0x02400000 then some (false, o - 0x02000000)
  else if 0x02800000 ≤ o && o < 0x02C00000 then some (true, o - 0x02800000) else none
/-- A write of one whole 64-byte sector of control space: in an enqueue window it is a record (R300). -/
def State.ctlSector (s : State) (d o : Nat) (bs : List Byte) : Tried :=
  match windowOf o with
  | some (wafer, k) =>
    if s.svc.winOpen then (match s.windowEnq d wafer (k / 64) (recWords bs) with | .done _ s => .ok s | .wait s => .wait s) else .ok (s.enqDrop d)
  | none => .ok (s.ctlWrite d o bs)

end Sys2Proof.Machine
end

