-- ==== Sys2Proof/Machine/LsEvents.lean ====
section
/-! DEFINITION. Load/store operations as they are performed, sector by sector (R32 to R35, R41, R187, R199 to R201), refusals and retries
(R212, R213), slot completion (R14), and window writes entering registers (R50). -/

namespace Sys2Proof.Machine

/-! ## Parts and order -/

def OpK.parts : OpK → List Part
  | .load _ _ _ ps | .store _ _ ps => ps
  | _ => []
def OpK.isLs : OpK → Bool
  | .load _ _ _ _ | .store _ _ _ | .fence _ _ _ | .cache _ _ _ => true
  | _ => false
/-- The sectors a part touches: two of a register row, where the base of a window is not aligned (R183, R201). -/
def Part.sectors (p : Part) : List Place := [p.pl.sector, (p.pl.add (p.n - 1)).sector].eraseDups ++ (match p.sc with | some q => [q.sector] | none => [])
/-- The pieces of a part: place and page type of the element, of the MX scale. -/
def Part.pieces (p : Part) : List (Place × Nat) := (p.pl, p.ty) :: (match p.sc with | some q => [(q, p.sty)] | none => [])
/-- Lines of global memory that a part touches; those that it touches on a page of type `ty`. -/
def Part.lines (p : Part) : List Nat := p.pieces.filterMap (·.1.line)
def Part.linesOf (p : Part) (ty : Nat) : List Nat := p.pieces.filterMap fun q => if q.2 = ty then q.1.line else none
def Part.touches (p : Part) (sec : Place) : Bool := p.sectors.contains sec
/-- The greatest effective order class of an operation: it acquires, it releases, it is SC. -/
def OpK.acquires : OpK → Bool
  | .load _ o _ ps => ordAcq o || ps.any (·.ty = 3)
  | .fence o _ _ => ordAcq o
  | _ => false
/-- The operation acquires and is not over: a load of an S page until its last part has moved the epoch (R29, R33). -/
def Op.acquires (y : Op) : Bool := y.acq || y.k.acquires
def OpK.releases : OpK → Bool
  | .store o _ ps => ordRel o || ps.any (·.ty = 3)
  | .fence o _ _ => ordRel o
  | _ => false
def OpK.sc : OpK → Bool
  | .load _ o _ ps | .store o _ ps => o = 4 || ps.any (·.ty = 3)
  | .fence o _ _ => o = 4
  | .drain _ lit _ _ _ _ => litOrd lit = 4
  | _ => false
/-- The drain opcodes that read and write memory in one step: DSTA, ATOM, ATOMC, RED. -/
def drainRmw (op : Nat) : Bool := op = 0xB1 || 0xB4 ≤ op
/-- Later accesses of the warp wait in their engines until it is performed: a DFENCE, an acquiring drain update (R283, R284). -/
def OpK.blocksLater : OpK → Bool
  | .dfence _ => true
  | .drain op lit _ _ _ _ => drainRmw op && ordAcq (litOrd lit)
  | _ => false
def OpK.isDrain : OpK → Bool | .drain _ _ _ _ _ _ => true | _ => false
def OpK.isLoad : OpK → Bool | .load _ _ _ _ => true | _ => false
def OpK.isStore : OpK → Bool | .store _ _ _ => true | _ => false
/-- The operation has still to read memory for a lane: a load of that lane or of the whole warp, a read-modify-write. -/
def OpK.loadsFor (k : OpK) (L : Nat) : Bool :=
  match k with
  | .load dst _ _ ps => (match dst with | .s _ _ | .b _ _ => !ps.isEmpty | _ => ps.any (·.lane = L))
  | .drain op _ _ _ _ es => drainRmw op && es.any (·.lane = L)
  | _ => false
/-- The operation has still to read memory for some lane. -/
def OpK.reads (k : OpK) : Bool := (List.range 32).any k.loadsFor
def OpK.isFence : OpK → Bool | .fence _ _ _ => true | _ => false
def OpK.lines : OpK → List Nat | .cache _ _ ls => ls | _ => []
/-- The lines that stores still unperformed have in the combining buffer, scale bytes included (R30). -/
def OpK.wlines (k : OpK) : List Nat := match k with | .store _ _ ps => ps.flatMap (·.linesOf 1) | _ => []

/-- Earlier operations of the same warp that are not performed, oldest first. -/
def State.earlier (s : State) (x : Op) : List Op :=
  let w := (x.ws.headD (0, 6)).1
  s.ops.filter fun y => y.id < x.id && y.bid = x.bid && y.seq = x.seq && y.ws.any (·.1 = w) && !y.performed

/-- The warp's earlier operations let the part `p` of operation `x` be performed (R30, R32 to R34, R36, R49, R199, R201). DEDUCED, log 89: a lane's
store waits for the lane's earlier loads, which keeps the union of po and reads-from acyclic. -/
def State.partMay (s : State) (x : Op) (p : Part) : Bool :=
  (s.earlier x).all fun y =>
    let k := y.k
    !k.blocksLater && !(x.k.sc && k.sc)
      -- no store before an earlier load of its lane
      && !(x.k.isStore && k.loadsFor p.lane) && (!k.isLs ||
      (
        -- one sector in issue order
        !(k.parts.any fun q => p.sectors.any fun c => q.touches c)
        && !(k.lines.any fun l => p.sectors.any fun c => c.line = some l)
        -- acquires before, releases after
        && !y.acquires
        && !(k.isFence && k.releases && !x.k.isLoad)
        && !x.k.releases
        -- D and S accesses in issue order
        && !(2 ≤ p.ty && k.parts.any fun q => 2 ≤ q.ty)
        -- the combining buffer is emptied before a load of its line, a store to another line, an order REL, AR or SC
        && !(k.wlines.any fun l => if x.k.isLoad then p.lines.contains l else p.lines.any (· != l))
        && !(!k.wlines.isEmpty && (x.k.releases || x.k.sc))))

/-- Stores to scratch that are still to be performed. -/
def OpK.scrStores (k : OpK) : Bool := k.isStore && k.parts.any fun p => match p.pl with | .scr _ _ => true | _ => false
/-- The warp's earlier operations let fence `x` be performed (R30, R199); `pth`: it makes the earlier scratch stores visible to matrix reads (R47). -/
def State.fenceMay (s : State) (x : Op) (pth : Bool) : Bool :=
  (s.earlier x).all fun y =>
    !y.k.blocksLater && !(pth && y.k.scrStores) && (!y.k.isLs || !(x.k.releases) && !(x.k.acquires && (y.k.isLoad || y.acquires)) && y.k.wlines.isEmpty)

/-- A CWB or CINV follows earlier accesses of its lines. -/
def State.cacheMay (s : State) (x : Op) : Bool :=
  (s.earlier x).all fun y => !y.k.blocksLater && !y.acquires && !(y.k.parts.any fun q => x.k.lines.any fun l => q.sectors.any fun c => c.line = some l)

/-! ## Performing -/

/-- The front buffer's physical address for a read of a mapped tile, and the pin the operation takes (R331). -/
def State.tileRead (s : State) (pins : List (Nat × Bool)) (pa : Nat) : Option (Nat × List (Nat × Bool)) :=
  match s.tileAt pa with
  | some (d, i, t, true) =>
    let key := tileKey d i
    let b := match pins.find? (·.1 = key) with | some p => p.2 | none => t.front
    some (pa + (if b then 256 * t.szu else 0), if pins.any (·.1 = key) then pins else pins ++ [(key, b)])
  | _ => none

/-! ### Who has what in its past (R34, R47) -/

/-- A place as an agent, for a release of scope, block and domain `t`. -/
def placeAgent (t : RelTag) : Place → Option Agent
  | .glob pa => some (.glob pa t)
  | .scr b o => some (.scr b o t)
  | _ => none
/-- The release whose value an agent stands for, if it is the place. -/
def Agent.relAt (pl : Place) : Agent → Option RelTag
  | .glob pa t => if pl = .glob pa then some t else none
  | .scr b o t => if pl = .scr b o then some t else none
  | _ => none
/-- The place holds another value: what it passed on is gone. -/
def ScrWrite.forget (r : ScrWrite) (pl : Place) : ScrWrite :=
  { r with kno := r.kno.filter fun x => (x.relAt pl).isNone, vis := r.vis.filter fun x => (x.relAt pl).isNone }
/-- A release, or an acquire, of scope `scp` by block `bid`, as block `b`'s records name it. -/
def State.relTag (s : State) (b bid scp : Nat) : RelTag := { scp := scp, b := agentBlock b bid, d := match (s.block bid).loc with | some l => l.d | none => 0 }
/-- A warp stores to a place: a release gives the place what the warp has in its past, any store what the warp's FENCE.RELs pass on, each at its
scope (R28, R33). -/
def Block.passed (x : Block) (t : RelTag) (w : Nat) (rel : Bool) (pl : Place) : Block :=
  x.flowBy fun
    | .fenced n v c => if n = t.b && v = w then (placeAgent { t with scp := c } pl).toList else []
    | .warp n v => if rel && n = t.b && v = w then (placeAgent t pl).toList else []
    | _ => []
def State.passTo (s : State) (bid w : Nat) (rel : Bool) (scp : Nat) (pl : Place) : State :=
  s.onScr fun b x => Block.passed { x with scrH := x.scrH.map fun (r : ScrWrite) => r.forget pl } (s.relTag b bid scp) w rel pl
/-- A warp reads a place: an acquire takes what the place has been given by a release that is mutually in scope with it; so does a later FENCE.ACQ
(R28, R33). -/
def State.takeFrom (s : State) (bid w : Nat) (acq : Bool) (scp : Nat) (pl : Place) : State :=
  s.onScr fun b x =>
    let t := s.relTag b bid scp
    x.flowBy fun a => match a.relAt pl with
      | some r => .loaded t.b w r :: (if acq && r.mutual t then [.warp t.b w] else [])
      | none => []
/-- A FENCE of a warp (R28, R33, R47). -/
def State.fenced (s : State) (bid w : Nat) (ord scp : Nat) (pth : Bool) : State :=
  s.onScr fun b x =>
    let t := s.relTag b bid scp
    let x := if pth then x.pathFenceOf (.warp t.b w) else x
    let x := if ordAcq ord then x.flowBy fun
      | .loaded n v r => if n = t.b && v = w && r.mutual t then [.warp n w] else []
      | _ => [] else x
    if ordRel ord then x.flow (.warp t.b w) (.fenced t.b w scp) else x

/-- Read `n` bytes at a place for operation `x` of domain `x.d`, on a page of type `ty`; the operation with its pins. -/
def State.readPart (s : State) (x : Op) (nt wide : Bool) (ty : Nat) (pl : Place) (n : Nat) : List Byte × Op × State :=
  match pl with
  | .glob pa =>
    if regionOf pa = .ctl then ((List.range n).map fun i => s.ctlByte ((pa - ctlBase) / 2 ^ 30) ((pa + i - ctlBase) % 2 ^ 30), x, s)
    else match s.tileRead x.pins pa with
      | some (q, pins) => (memRead s q n, { x with pins := pins }, s.homeServe x.d (q / 64))
      | none =>
        -- a line of a mapped tile is cached nowhere but at its home (R330)
        let plain := ty = 0 && (s.tileAt pa).isNone
        let r := s.loadSec x.d (if !nt && plain then some x.a else none) (wide || (s.tileAt pa).isSome) plain pa n
        (r.1, x, r.2)
  | .scr b _ | .row b _ | .acc b _ => ((s.block b).readPlace pl n, x, s)

/-- The slot a block holds. -/
def State.slotOf (s : State) (b : Nat) : Nat := match (s.block b).loc with | some l => l.k | none => 4

/-- A store to the persistent region that is not yet durable, by a core's operation `id` (R51). -/
def State.notePersist (s : State) (d a id pa : Nat) : State :=
  if regionOf pa = .persist then s.updCore d a fun c => if (mfind c.pst (pa / 64)).isSome then c else { c with pst := mput c.pst (pa / 64) id } else s
/-- A scratch store's agent in the records of block `b`. -/
def Op.agent (x : Op) (b : Nat) : Agent := .warp (agentBlock b x.bid) (x.ws.headD (0, 6)).1

/-- Write bytes of a part: release and scope as they are effective (Table 02-4, R41, R50, R51, R207); those of a line that has become a mapped tile's are
written at its home (R330). A window write to a row that no warp holds is discarded (R183). -/
def State.writePart (s : State) (x : Op) (nt rel : Bool) (scp ty : Nat) (pl : Place) (bs : List Byte) : State :=
  match pl with
  | .glob pa =>
    if regionOf pa = .ctl then s.ctlWrite ((pa - ctlBase) / 2 ^ 30) ((pa - ctlBase) % 2 ^ 30) bs
    else if 2 ≤ scp || (s.tileAt pa).isSome then
      let s := s.storeWide x.d (if nt && ty = 0 && (s.tileAt pa).isNone then .merge x.a else .none) pa bs rel (if rel then some x.id else none) (scp = 3)
      if ty = 3 && regionOf pa = .persist then { s with back := mdel s.back (pa / 64), hsec := mput s.hsec (pa / 64) .clean }
      else s.notePersist x.d x.a x.id pa
    else (s.storeDom x.d (if nt then .merge x.a else .dirty x.a (s.slotOf x.bid)) pa bs).notePersist x.d x.a x.id pa
  | .scr b o => s.updBlock b fun y => y.storeScr o bs (x.agent b)
  | .row b o => s.updBlock b fun y => { y with winq := y.winq ++ (bs.mapIdx fun i c => (o + i, c)).filter fun q => (y.rowOwner (q.1 / 128)).isSome }
  | .acc b o => s.updBlock b fun y => { y with acc := (bs.mapIdx fun i c => (i, c)).foldl (fun m p => setWordByte m (o + p.1) p.2) y.acc }

/-- Deliver a lane's bytes, and for MX the scale byte (R190, R194, R195). -/
def Block.deliver (b : Block) (w : Nat) (dst : LdDst) (L : Nat) (bs : List Byte) (sc : Byte) : Block :=
  let wp := b.warp w
  let word := fun (r : Nat) => leNat ((bs.drop (4 * r)).take 4)
  match dst with
  | .v dat sz => (List.range ((bs.length + 3) / 4)).foldl (fun b r => b.vwrite wp (dat + r) L (extWord sz (word r))) b
  | .s r sz => b.updWarp w fun wp => wp.setS r (extWord sz (word 0))
  | .b r _ => b.updWarp w fun wp => wp.setB r (BitVec.ofNat 80 (leNat bs))
  | .mx dat k =>
    let b := (List.range 8).foldl (fun b j => b.vwrite wp (dat + j) L (BitVec.ofNat 32 (word j))) b
    let v := b.vread wp (dat + 8) L
    b.vwrite wp (dat + 8) L ((v &&& ~~~(0xFF#32 <<< (8 * k))) ||| (sc.setWidth 32 <<< (8 * k)))

/-- Both sectors of an MX block are accessed at their homes where they are two and one of them is another domain's: no observer then sees the
two apart (R44). DEDUCED, log 88. -/
def Part.spread (p : Part) (d : Nat) : Bool :=
  match p.pl, p.sc with
  | .glob e, some (.glob q) => e / 64 != q / 64 && (homeOf e != d || homeOf q != d)
  | _, _ => false
/-- The scope at which operation `x` of requested scope `scp` performs a piece of a part. -/
def Part.scope (p : Part) (x : Op) (scp ty : Nat) : Nat := if p.spread x.d then max 2 (effScp scp ty) else effScp scp ty
/-- The physical addresses of a part that ask their homes. -/
def State.asked (s : State) (x : Op) (store : Bool) (scp : Nat) (p : Part) : List Nat :=
  p.pieces.filterMap fun q => match q.1 with
    | .glob pa => if regionOf pa != .ctl && s.asksHome x.d (2 ≤ p.scope x scp q.2) store pa then some pa else none
    | _ => none
/-- A part's request must wait: for a pool link or a domain's uncore, or for its next retry. -/
def State.partBlocked (s : State) (x : Op) (store : Bool) (scp : Nat) (p : Part) : Bool :=
  (s.asked x store scp p).any (fun pa => s.unreachable pa || s.backing (.op x.id) pa) ||
    p.pieces.any fun q => match q.1 with | .glob pa => s.unreachable pa && (regionOf pa = .ctl || (homeOf pa = x.d && (mfind s.hsec (pa / 64)).isNone)) | _ => false
def State.partRefused (s : State) (x : Op) (store : Bool) (scp : Nat) (p : Part) : Option Nat :=
  (s.asked x store scp p).find? fun pa => s.lineRefuses pa (.op x.id)
def State.partServed (s : State) (x : Op) (store : Bool) (scp : Nat) (p : Part) : State :=
  (s.asked x store scp p).foldl (fun s pa => s.served (.op x.id) pa) s

def opWarp (x : Op) : Nat := (x.ws.headD (0, 6)).1

/-- The parts that share sectors with the sector of a place, directly or through other parts: they are one access (R44, R187). -/
def groupOf (ps : List Part) : Nat → List Place → List Part
  | 0, secs => ps.filter fun p => p.sectors.any secs.contains
  | k + 1, secs =>
    let g := ps.filter fun p => p.sectors.any secs.contains
    let secs' := (g.flatMap Part.sectors).eraseDups
    if secs'.all secs.contains then g else groupOf ps k secs'
def OpK.group (k : OpK) (sec : Place) : List Part := groupOf k.parts 33 [sec]
/-- An operation without the parts just performed. -/
def OpK.without (k : OpK) (g : List Part) : OpK :=
  match k with
  | .load d o c ps => .load d o c (ps.filter fun p => !g.contains p)
  | .store o c ps => .store o c (ps.filter fun p => !g.contains p)
  | k => k

/-- A load has all its data: a release-acquire at WAF or SYS scope moves the epoch on (R208). -/
def State.loadDone (s : State) (x : Op) : State :=
  let done := x.k.parts.isEmpty
  let s := s.setOp { x with performed := done }
  if done && x.acq then s.acquireWide x.d else s

/-- One part of a load read and delivered; the words it brought, by register and lane. -/
def State.loadPart (s : State) (x : Op) (dst : LdDst) (ord scp : Nat) (p : Part) : Op × State × List (Nat × Word) :=
  let nt := opOf x.word = 0x88
  let a := s.readPart x nt (2 ≤ p.scope x scp p.ty) p.ty p.pl p.n
  let b := match p.sc with
    | some q => a.2.2.readPart a.2.1 nt (2 ≤ p.scope x scp p.sty) p.sty q 1
    | none => ([0#8], a.2.1, a.2.2)
  let s := (b.2.2.partServed x false scp p).updBlock x.bid fun y => y.deliver (opWarp x) dst p.lane a.1 (b.1.headD 0#8)
  let s := s.takeFrom x.bid (opWarp x) (ordAcq (effOrd ord p.ty)) (effScp scp p.ty) p.pl
  (b.2.1, s, (List.range ((p.n + 3) / 4)).map fun r => (32 * r + p.lane, BitVec.ofNat 32 (leNat ((a.1.drop (4 * r)).take 4))))

/-- The lanes of parts of one access. -/
def lanesOfParts (ps : List Part) : Mask := maskOf fun L => ps.any (·.lane = L)
/-- The domain whose home or device performs an access to a place, for an operation of domain `d` (R382). -/
def placeTarget (pl : Place) (d : Nat) : Nat :=
  match pl with
  | .glob pa => if regionOf pa = .ctl then (pa - ctlBase) / 2 ^ 30 else homeOf pa
  | _ => d
def targetsOf (ps : List Part) (d : Nat) : List Nat := (ps.map fun p => placeTarget p.pl d).eraseDups

/-- LOAD_COMPLETE: the accesses of load `o` in the sector of `pl` are performed together and delivered (R39, R44, R187, R188). -/
def execLoadComplete (o : Nat) (pl : Place) (s : State) : Out :=
  match s.op o with
  | some x =>
    match x.k with
    | .load dst ord scp parts =>
      let ps := x.k.group pl.sector
      if x.performed then .refused .notEnabled
      else if parts.isEmpty then .next (s.loadDone x)
      else if ps.isEmpty || !(ps.all (s.partMay x)) || ps.any (s.partBlocked x false scp) then .refused .notEnabled
      else match ps.findSome? (s.partRefused x false scp) with
        | some pa => .next (s.refuse (.op x.id) pa)
        | none =>
          let r := ps.foldl (fun (acc : Op × State × List (Nat × Word)) p =>
            let q := acc.2.1.loadPart acc.1 dst ord scp p
            (q.1, q.2.1, acc.2.2 ++ q.2.2)) (x, s, [])
          let k := x.k.without ps
          .next ((r.2.1.applyTagPart x.d x.a x.jent k.parts.isEmpty (lanesOfParts ps) (targetsOf ps x.d) r.2.2).loadDone { r.1 with k := k })
    | _ => .refused .notEnabled
  | none => .refused .notEnabled

/-- CWB and CINV of one line by core `a` of domain `d` (R200). -/
def State.cacheLine (s : State) (d a scp : Nat) (inv : Bool) (line : Nat) : State :=
  let secs := (List.range 4).map (4 * line + ·)
  let s := secs.foldl (fun s sec =>
    if (s.l1Dirty d a sec).isSome then (if inv then s.l1Recall d sec else s.l1Clean d a sec) else s) s
  let s := if inv then s.updCore d a fun c => { c with l1 := c.l1.filter (·.line != line) } else s
  if 2 ≤ scp && homeOf (256 * line) != d then
    secs.foldl (fun s sec =>
      let s := s.writeBack d sec false none (scp = 3)
      if inv then (s.l1Drop d sec).updDom d fun x => x.setRs sec { x.rs sec with clean := none } else s) s
  else s

/-- HFLUSH of one sector by domain `d` (R225). -/
def State.flushSector (s : State) (d : Nat) (inv sys : Bool) (sec : Nat) : State :=
  let s := s.l1Recall d sec
  if homeOf (64 * sec) = d then
    if sys && (regionOf (64 * sec) = .pool || regionOf (64 * sec) = .host) then s.pushHome sec else s
  else
    let s := s.writeBack d sec false none sys
    if inv then (s.l1Drop d sec).updDom d fun x => x.setRs sec { x.rs sec with clean := none } else s

/-- The release of operation `x` begins with the write-backs; `go` when they are confirmed. -/
def State.releasing (s : State) (x : Op) (sys : Bool) (go : Out) : Out :=
  if !x.flushed then
    match s.flush x.d (.op x.id) x.id sys with
    | .wait => .refused .notEnabled
    | .refused pa => .next (s.refuse (.op x.id) pa)
    | .made s => .next (s.setOp { x with flushed := true })
  else if s.confirming x.id then .refused .notEnabled else go

/-- Bytes of parts that cover one whole 64-byte sector of control space at `base`: one access (R187, R300). -/
def wholeSector (ps : List Part) (base : Nat) : Option (List Byte) :=
  let cell := fun (i : Nat) => (ps.reverse.findSome? fun p => match p.pl with
    | .glob pa => if pa ≤ base + i && base + i < pa + p.n then p.data[base + i - pa]? else none
    | _ => none)
  let bs := (List.range 64).filterMap cell
  if bs.length = 64 then some bs else none

/-- One part of a store performed. -/
def State.storePart (s : State) (x : Op) (ord scp : Nat) (p : Part) : State :=
  let nt := opOf x.word = 0x89
  let rel := ordRel (effOrd ord p.ty)
  let s := s.partServed x true scp p
  let s := s.writePart x nt rel (p.scope x scp p.ty) p.ty p.pl (p.data.take p.n)
  let s := match p.sc with
    | some q => s.writePart x nt rel (p.scope x scp p.sty) p.sty q (p.data.drop p.n)
    | none => s
  s.passTo x.bid (opWarp x) rel (effScp scp p.ty) p.pl

/-- The parts of one access are stored. One to an enqueue window is a record, which may have to wait, or, where it is no whole sector, is dropped and
counted once (R300). -/
def State.storeParts (s : State) (x : Op) (ord scp : Nat) (ps : List Part) : Tried :=
  let each := ps.foldl (fun s p => s.storePart x ord scp p) s
  match ps with
  | { pl := .glob pa, .. } :: _ =>
    if regionOf pa = .ctl then
      let d := (pa - ctlBase) / 2 ^ 30
      let o := (pa - ctlBase) % 2 ^ 30
      match wholeSector ps (pa / 64 * 64) with
      | some bs => s.ctlSector d (o / 64 * 64) bs
      | none => .ok (if (windowOf o).isSome then s.enqDrop d else each)
    else .ok each
  | _ => .ok each

/-- STORE_PERFORMED: the bytes of store `o` in the sector of `pl`, or the whole of a fence or cache operation, are performed. A release at
WAF or SYS scope first writes back the remote-dirty list and waits for its invalidations (R41, R210). -/
def execStorePerformed (o : Nat) (pl : Place) (s : State) : Out :=
  match s.op o with
  | none => .refused .notEnabled
  | some x =>
    if x.performed then .refused .notEnabled
    else match x.k with
      | .store ord scp parts =>
        let rel := fun (p : Part) => ordRel (effOrd ord p.ty) && 2 ≤ max (effScp scp p.ty) (effScp scp p.sty)
        let ps := x.k.group pl.sector
        if parts.isEmpty then
          if s.confirming x.id then .refused .notEnabled else .next (s.setOp { x with performed := true })
        else if ps.isEmpty || !(ps.all (s.partMay x)) || ps.any (s.partBlocked x true scp) then .refused .notEnabled
        else
          let go := match ps.findSome? (s.partRefused x true scp) with
            | some pa => Host.Outcome.next (s.refuse (.op x.id) pa)
            | none =>
              let k := x.k.without ps
              (s.storeParts x ord scp ps).out s fun s =>
                let s := s.applyTagPart x.d x.a x.jent k.parts.isEmpty (lanesOfParts ps) (targetsOf ps x.d) []
                .next (s.setOp { x with k := k, performed := k.parts.isEmpty && !s.confirming x.id })
          if x.flushed || parts.any rel then s.releasing x (scp = 3 || parts.any fun p => p.ty != 0 || p.sty != 0) go else go
      | .fence ord scp pth =>
        if !s.fenceMay x pth then .refused .notEnabled
        else
          let s' := s.setOp { x with performed := true }
          let s' := if ordAcq ord && 2 ≤ scp then s'.acquireWide x.d else s'
          let go := Host.Outcome.next (s'.fenced x.bid (opWarp x) ord scp pth)
          if ordRel ord && 2 ≤ scp then s.releasing x (scp = 3) go else go
      | .cache scp inv lines =>
        let q := Asker.op x.id
        let far := fun (l : Nat) => homeOf (256 * l) != x.d && 2 ≤ scp
        if !s.cacheMay x || lines.any (fun l => s.unreachable (256 * l) || s.backing q (256 * l)) then .refused .notEnabled
        else match lines.find? fun l => far l && s.lineRefuses (256 * l) q with
          | some l => .next (s.refuse q (256 * l))
          | none =>
            let s := lines.foldl (fun s l => (s.cacheLine x.d x.a scp inv l).served q (256 * l)) s
            .next (s.setOp { x with performed := true })
      | .flush all inv sys secs =>
        let q := Asker.op x.id
        let secs := if all then (s.dom x.d).dirtyList x.d else secs
        let far := secs.filter fun sec => homeOf (64 * sec) != x.d && (((s.dom x.d).dirtyList x.d).contains sec)
        if secs.any fun sec => s.unreachable (64 * sec) || s.backing q (64 * sec) then .refused .notEnabled
        else match far.find? fun sec => s.lineRefuses (64 * sec) q with
          | some sec => .next (s.refuse q (64 * sec))
          | none =>
            let s := secs.foldl (fun s sec => (s.flushSector x.d inv sys sec).served q (64 * sec)) s
            .next (s.setOp { x with performed := true, txn := [] })
      | _ => .refused .notEnabled

/-- HOME_RETRY: a refused requester's wait is over (R212). -/
def execHomeRetry (o : Asker × Nat) (s : State) : Out :=
  if s.retries.any fun r => r.q = o.1 && r.line = o.2 && r.back = 1 then
    .next { s with retries := s.retries.map fun r => if r.q = o.1 && r.line = o.2 then { r with back := 0 } else r }
  else .refused .notEnabled

/-- RESERVATION_LAPSE: a reserved request that has not retried for 2,048 cycles loses to the next oldest (R213). -/
def execReservationLapse (h line : Nat) (s : State) : Out :=
  match mfind s.hdir line with
  | some l =>
    match l.resv with
    | some (q, n) =>
      if homeOf (256 * line) = h && 2048 ≤ n then
        let rest := l.refused.filter (· != q)
        .next { s with hdir := mset HomeLine.zero s.hdir line { l with refused := rest, resv := rest.head?.map (·, 0) } }
      else .refused .notEnabled
    | none => .refused .notEnabled
  | none => .refused .notEnabled

/-- The stores to persistent memory that warps of core `a` have issued below number `n` become durable (R51). -/
def State.makeDurable (s : State) (d a n : Nat) : State :=
  (((s.core d a).pst.filter fun p => p.2 < n).map (·.1)).foldl (fun s sec =>
    (((s.l1Clean d a sec).writeBack d sec false none false).pushHome sec).updCore d a fun c => { c with pst := mdel c.pst sec }) s
/-- The addresses that they write back to their homes. -/
def State.durableAsks (s : State) (d a n : Nat) : List Nat := ((s.core d a).pst.filter fun p => p.2 < n).map (64 * ·.1)
/-- Some of them must wait, for requester `q`: copies that have still to complete, a home without power, a retry (R212, R248). -/
def State.durableWaits (s : State) (d a n : Nat) (q : Asker) : Bool :=
  (s.ops.any fun x => x.d = d && x.a = a && x.id < n && x.pers) || (s.durableAsks d a n).any fun pa => s.unreachable pa || s.backing q pa

/-- An operation's effect is performed; a TLBI's once the earlier operations in its reach are (R224); a PFENCE.DOM's, its cut sealed, once what it
covers can be made durable (R391). -/
def State.opDone (s : State) (x : Op) : Bool :=
  match x.k with
  | .after 3 => s.ops.all fun y => x.id ≤ y.id || !(y.seq && y.d = x.d && y.a = x.a)
  | .after r => s.ops.all fun y => x.id ≤ y.id || y.performed || (r < 2 && y.d != x.d) || (r = 0 && y.a != x.a)
  | .cancel o => (s.op o).isNone
  | .cut n false true => !s.durableWaits x.d x.a n (.op x.id)
  | .ffence => !(s.earlier x).any fun y => match y.k with | .fabric _ => true | _ => false
  | .dfence _ => !(s.earlier x).any (·.k.isDrain)
  | _ => x.performed

/-- A fabric slot that completes between a cut and its seal completes, with its status, in the image of the core that holds the block now (R413). -/
def State.imageSlots (s : State) (x : Op) : State :=
  match x.k, (s.block x.bid).loc with
  | .fabric _, some l =>
    s.updCore l.d l.a fun c =>
      match c.umb.openCut with
      | some w =>
        if x.id < c.umb.cutOp then
          let k := c.umb.bank w
          { c with umb := c.umb.setBank w { k with img := k.img.map fun m => { m with blocks := mupd m.blocks x.bid (·.freeSlots x) } } }
        else c
      | none => c
  | _, _ => s

/-- A DFENCE at SYS scope has its warp's earlier drain updates performed there: the homes write on what they hold dirty of the pool and the host
(R284). DEDUCED, log 96. -/
def State.dfenceSys (s : State) (x : Op) : State :=
  match x.k with
  | .dfence 3 =>
    (((s.block x.bid).warp (opWarp x)).far.foldl (fun s sec => s.pushHome sec) s).updWarp x.bid (opWarp x) fun wp => { wp with far := [] }
  | _ => s
def State.dfenceWaits (s : State) (x : Op) : Bool :=
  match x.k with
  | .dfence 3 => ((s.block x.bid).warp (opWarp x)).far.any fun sec => s.unreachable (64 * sec)
  | _ => false

/-- What a PFENCE.DOM does as it completes (R391), and a home that refuses a sector of it (R212). -/
def State.cutDurable (s : State) (x : Op) : State :=
  match x.k with
  | .cut n false true => (s.durableAsks x.d x.a n).foldl (fun s pa => s.served (.op x.id) pa) (s.makeDurable x.d x.a n)
  | _ => s
def State.cutRefused (s : State) (x : Op) : Option Nat :=
  match x.k with
  | .cut n false true => (s.durableAsks x.d x.a n).find? fun pa => homeOf pa != x.d && s.lineRefuses pa (.op x.id)
  | _ => none

/-- SLOT_COMPLETE: a performed operation completes its slots and writes its uniform results (R14, R382). A DFENCE goes on ordering later
accesses after earlier load/store accesses when its slot is complete (R284). -/
def execSlotComplete (o : Nat) (s : State) : Out :=
  match s.op o with
  | some x =>
    if s.opDone x && s.tagAcked x.d x.a x.jent && !s.dfenceWaits x then
      if let some pa := s.cutRefused x then .next (s.refuse (.op x.id) pa) else
      let s := (s.dfenceSys x).cutDurable x
      let rest := (match x.k with | .dfence _ => true | _ => false) && (s.earlier x).any (·.k.isLs)
      if rest && x.ws.all (·.2 = 7) then .refused .notEnabled
      else if rest then .next ((s.freeSlots x).setOp { x with ws := x.ws.map fun p => (p.1, 7) })
      else .next ((s.imageSlots x).completeOp x)
    else .refused .notEnabled
  | none => .refused .notEnabled

/-- WINDOW_WRITE_ENTRY: waiting window writes enter registers while the row's owner is at a clause boundary; whatever still waits as it begins its
next clause enters then (R50, R193). -/
def execWindowWriteEntry (b : Nat) (s : State) : Out :=
  let x := s.block b
  let y := x.enterRows fun w => (x.warp w).clause.isNone
  if y = x then .refused .notEnabled else .next (s.setBlock b y)

end Sys2Proof.Machine
end

