-- ==== Sys2Proof/Machine/Home.lean ====
section
/-! DEFINITION. The home engine: TLBI, HFLUSH, HPROBE, ATR (R223 to R227), and the steps of the caches, directories, walkers and pool links
that come of themselves (R205 to R217, R435). -/

namespace Sys2Proof.Machine

/-! ## Instructions -/

/-- The state after a word whose effect is over at issue: its operation is performed, and its results are written when its slot completes. -/
def Env.answered (e : Env) (s : State) (d : BitVec 3) (res : List (Nat × Word)) (j : Option Nat := none) : State :=
  let s := e.start s d .plain res j
  { s with ops := s.ops.map fun y => if y.id + 1 = s.nextOp then { y with performed := true } else y }
def Env.quick (e : Env) (s : State) (d : BitVec 3) (res : List (Nat × Word)) (j : Option Nat := none) : Act := .done (e.answered s d res j)

/-- TLBI's test of one entry (R224). -/
def TlbEnt.hit (e : TlbEnt) (kind asid va : Nat) : Bool :=
  if kind = 0 then (e.g || e.asid = asid) && va / 2 ^ pageBits e.size = e.vpn
  else if kind = 1 then e.asid = asid && !e.g else true

/-- TLBI (R224). -/
def execTlbi (f : SysW) (s : State) : Out :=
  issueWord (.tlbi f) f.g f.lit [] s (fun _ => true) fun e => e.slotted f.d fun e =>
    let kind := f.f.toNat % 4
    let reach := f.f.toNat / 4 % 4
    let x := e.sreg f.s.toNat
    if kind < 2 && x.toNat / 4096 != 0 then .trap .illegalOperand e.cl.run 0#80 x
    else
      let va := (e.breg f.ba.toNat).toNat
      let keep := fun (l : List TlbEnt) => l.filter fun t => !t.hit kind x.toNat va
      let near := fun (k : Nat) => reach = 2 || (k / 132 = e.loc.d && (reach = 1 || k % 132 = e.loc.a))
      let s := { e.s with
        cores := e.s.cores.map fun p => if near p.1 then (p.1, { p.2 with tlb := keep p.2.tlb }) else p,
        doms := e.s.doms.map fun p => if reach = 2 || (reach = 1 && p.1 = e.loc.d) then (p.1, { p.2 with dtlb := keep p.2.dtlb }) else p }
      .done (e.start s f.d (.after reach) [])

/-- The physical pieces of a virtual range, page by page, with their types; or the first page that fails, by its own address (R225). -/
def Env.rangePages (e : Env) (kind : Kind) : Nat → State → Nat → Nat → Except (Option (Cause × Nat)) (List (Nat × Nat × Nat)) × State
  | 0, s, _, _ => (.ok [], s)
  | k + 1, s, va, n =>
    if n = 0 then (.ok [], s)
    else match e.translate s (va / 65536 * 65536) kind 1 with
      | (.bad _ c, s) => (.error (some (codeCause c, va / 65536 * 65536)), s)
      | (.wait, s) => (.error none, s)
      | (.ok pa ty, s) =>
        let m := min n (65536 - va % 65536)
        match e.rangePages kind k s ((va + m) % 2 ^ 80) (n - m) with
        | (.ok l, s) => (.ok ((pa + va % 65536, m, ty) :: l), s)
        | r => r

/-- The sectors a domain or its home slice holds anything of. -/
def State.heldSectors (s : State) (d : Nat) : List Nat :=
  ((s.dom d).rsec.map (·.1) ++ (s.dom d).l1.map (·.1) ++ s.hsec.map (·.1)).eraseDups

/-- HFLUSH (R225): its recalls keep the lines' transactions open until it is performed (R212). On W pages the warp's combining buffer is emptied: the
word waits for the stores in it. -/
def execHflush (f : SysW) (s : State) : Out :=
  issueWord (.hflush f) f.g f.lit [] s (fun _ => true) fun e => e.slotted f.d fun e =>
    let op := f.f.toNat % 4
    let sys := f.f.getLsbD 2
    let d := e.loc.d
    let go := fun (s : State) (all : Bool) (secs : List Nat) =>
      let n := s.nextOp
      let lines := (((if all then (s.dom d).dirtyList d else secs).filter fun sec => match mfind (s.dom d).l1 sec with | some x => x.st.isDirty | none => false).map (· / 4)).eraseDups
      let s := e.start s f.d (.flush all (op = 1) sys secs) []
      Act.done { s with ops := s.ops.map fun y => if y.id = n then { y with txn := lines } else y }
    if op = 2 then go e.s true []
    else
      let va := (e.breg f.ba.toNat).toNat
      let n := (e.sreg f.s.toNat).toNat
      match e.rangePages .load 65538 e.s va n with
      | (.error (some (c, va)), s) => .trapAt s c e.cl.run (BitVec.ofNat 80 va) e.cl.word
      | (.error none, s) => e.stay s
      | (.ok ps, s) =>
        let buffered := s.ops.any fun y => y.bid = e.bid && !y.performed && y.ws.any (·.1 = e.w) && !y.k.wlines.isEmpty
        let secs := (s.heldSectors d).filter fun sec =>
          ps.any fun p => p.2.2 = 0 && p.1 / 256 ≤ sec / 4 && sec / 4 ≤ (p.1 + p.2.1 - 1) / 256
        if ps.any (fun p => p.2.2 = 1) && buffered then .stall
        else go s false (secs.filter fun sec => (s.tileAt (64 * sec)).isNone)

/-- The state code of a sector in this slice (Table 08-8, .SLICE). -/
def State.sliceCode (s : State) (d sec : Nat) : Nat :=
  if homeOf (64 * sec) = d then
    match mfind s.hsec sec with
    | none => 0
    | some .clean => 1
    | some .dirty => 2
    | some .excl => 3
  else
    let r := (s.dom d).rs sec
    let clean := ((s.dom d).cleanOf sec).isSome
    let l1d := match mfind (s.dom d).l1 sec with | some e => e.st = Moesi.m || e.st = Moesi.o | none => false
    if !r.dirty.isEmpty || l1d then (if clean then 3 else 2) else if clean then 1 else 0
/-- The state code of a sector in the L1 directory (Table 08-8, .L1). -/
def State.l1Code (s : State) (d sec : Nat) : Nat :=
  match mfind (s.dom d).l1 sec with
  | none => 0
  | some e => match e.st with | .s => 1 | .e => 2 | .o => 3 | .m => 4

/-- HPROBE's words (Table 08-8). DESIGN CHOICE, log 109: the state fields, which read 0 on a page of another type than N, are presence and the states of
sectors, the sharers, and the whole of the L1's view. unsafe. -/
def State.probe (s : State) (d view pa ty : Nat) : List Word :=
  let line := pa / 256
  let four := fun (f : Nat → Nat) (w : Nat) => (List.range 4).foldl (fun x i => x + f (4 * line + i) * 2 ^ (w * i)) 0
  match view with
    | 0 =>
      let st := if ty = 0 then four (s.sliceCode d) 2 else 0
      let h := if regionOf pa = .ctl then (pa - ctlBase) / 2 ^ 30 else homeOf pa
      [BitVec.ofNat 32 (h + (if h = d then 64 else 0) + (if st = 0 then 0 else 128) + 2 ^ 8 * st + 2 ^ 16 * ((s.dom d).epoch % 256))]
    | 1 =>
      let v := if ty = 0 then (mget HomeLine.zero s.hdir line).sharers else 0#64
      [v.setWidth 32, v.extractLsb' 32 32]
    | _ =>
      if ty != 0 then [0#32] else
      let vec := (List.range 4).foldl (fun (v : BitVec 3) i => match mfind (s.dom d).l1 (4 * line + i) with | some e => v ||| e.vec | none => v) 0#3
      [BitVec.ofNat 32 (four (s.l1Code d) 3 + 2 ^ 12 * vec.toNat + (if (mget HomeLine.zero s.hdir line).resv.isSome then 2 ^ 15 else 0))]

/-- HPROBE (R226). -/
def execHprobe (f : SysW) (s : State) : Out :=
  issueWord (.hprobe f) f.g f.lit [] s (fun _ => true) fun e => e.slotted f.d fun e =>
    let va := (e.breg f.ba.toNat).toNat
    let view := f.f.toNat % 4
    match e.translate e.s va .load 1 with
    | (.bad _ c, s) => .trapAt s (codeCause c) e.cl.run (BitVec.ofNat 80 va) e.cl.word
    | (.wait, s) => e.stay s
    | (.ok pa ty, s) =>
      let ws := s.probe e.loc.d view pa ty
      e.quick s f.d ((if view = 1 then ws.take 2 else ws.take 1).mapIdx fun i w => (f.s.toNat + i, w))

/-- ATR's words (Table 08-9). -/
def Env.atrWords (e : Env) (s : State) (va : Nat) (kind : Kind) : Option (List Word) × State :=
  let l := e.loc
  let fail := fun (lvl c : Nat) => [BitVec.ofNat 32 (lvl + 16 * c), 0xC0000000#32]
  match s.lookup l.d l.a e.blk.asid va with
  | (.wait, s) | (.refused _, s) => (none, s)
  | (.bad lvl c, s) => (some (fail lvl c), s)
  | (.ok t, s) =>
    match entryCode s t kind (!e.blk.isHandler) 1 with
    | some c => (some (fail t.size c), s)
    | none =>
      let pa := t.paOf va
      let b := fun (x : Bool) (n : Nat) => if x then 2 ^ n else 0
      let pa := if e.blk.isHandler then pa else pa % 65536
      (some [BitVec.ofNat 32 pa, BitVec.ofNat 32 (pa / 2 ^ 32 % 2 ^ 24 + 2 ^ 24 * t.ty + b t.wr 26 + b t.x 27 + b t.u 28 + b t.g 29 + 2 ^ 30 * t.size)], s)
/-- ATR (R227). -/
def execAtr (f : SysW) (s : State) : Out :=
  issueWord (.atr f) f.g f.lit [] s (fun _ => true) fun e => e.slotted f.d fun e =>
    let kind := match f.f.toNat % 4 with | 0 => Kind.load | 1 => .store | _ => .fetch
    match e.atrWords e.s (e.breg f.ba.toNat).toNat kind with
    | (none, s) => e.stay s
    | (some ws, s) => e.quick s f.d (ws.mapIdx fun i w => (f.s.toNat + i, w))

/-! ## Steps of the caches -/

def cacheable (pa : Nat) : Bool :=
  match regionOf pa with
  | .dram | .persist | .pool | .host => true
  | _ => false

/-- A request of domain `d`'s slice to a home: it waits for a link, its power or its retry, may be refused, and is served otherwise (R212, R216). -/
def State.sliceAsks (s : State) (d pa : Nat) (go : State) : Out :=
  let q := Asker.slice d
  if s.unreachable pa || s.backing q pa then .refused .notEnabled
  else if s.lineRefuses pa q then .next (s.refuse q pa) else .next (go.served q pa)

/-- L1_DIRECTORY_REQUEST: a read, a write grant or a replacement of a sector by core `a` (Table 08-2). -/
def execL1DirectoryRequest (d a : Nat) (q : L1Req) (sec : Nat) (s : State) : Out :=
  if !s.usable d a || !cacheable (64 * sec) || (s.tileAt (64 * sec)).isSome || s.unreachable (64 * sec) then .refused .notEnabled
  else match q with
    | .read =>
      let go := (s.fetched d false sec).l1Read d a sec
      if s.asksHome d false false (64 * sec) then s.sliceAsks d (64 * sec) go else .next go
    | .write => .next ((if homeOf (64 * sec) = d then s.touch sec else s).l1Write d a 0 sec)
    | .replace =>
      match (s.core d a).l1.find? fun l => l.secs.contains sec with
      | some l => .next (s.l1Evict d a l)
      | none => .refused .notEnabled

/-- REMOTE_FETCH: a slice fetches a remote sector from its home (R207). -/
def execRemoteFetch (d sec : Nat) (s : State) : Out :=
  if 64 ≤ d || !cacheable (64 * sec) || homeOf (64 * sec) = d || (s.tileAt (64 * sec)).isSome then .refused .notEnabled
  else s.sliceAsks d (64 * sec) (s.fetched d false sec)

/-- HOME_UPDATE: a home accepts a domain's write-back of a remote-dirty sector (R209, R210). -/
def execHomeUpdate (d sec : Nat) (s : State) : Out :=
  if ((s.dom d).rs sec).dirty.isEmpty then .refused .notEnabled else s.sliceAsks d (64 * sec) (s.writeBack d sec false none false)

/-- REMOTE_INVALIDATION: a domain removes the clean bytes of a sector and confirms (R208). -/
def execRemoteInvalidation (d sec : Nat) (s : State) : Out :=
  match s.pinv.find? fun p => p.d = d && p.sec = sec with
  | none => .refused .notEnabled
  | some p =>
    let s := State.updDom { s with pinv := s.pinv.erase p } d fun x => x.setRs sec { x.rs sec with clean := none }
    .next (match mfind (s.dom d).l1 sec with
      | some e => if e.st.isDirty then s else s.l1Drop d sec
      | none => s)

/-- Slice replacement of a home sector: dirty bytes go to the backing memory, and the sector is absent (R435). -/
def State.evictHome (s : State) (d sec : Nat) : State :=
  let s := s.l1Drop d sec
  { s with hsec := mdel s.hsec sec, back := mdel s.back sec }
/-- SLICE_REPLACEMENT of a line (R209, R435). -/
def execSliceReplacement (d line : Nat) (s : State) : Out :=
  let secs := (List.range 4).map (4 * line + ·)
  if 64 ≤ d || s.unreachable (256 * line) then .refused .notEnabled
  else if homeOf (256 * line) = d then .next (secs.foldl (fun s sec => s.evictHome d sec) s)
  else
    let go := secs.foldl (fun s sec =>
      let s := s.writeBack d sec false none false
      (s.l1Drop d sec).updDom d fun x => x.setRs sec RSec.empty) s
    if secs.any fun sec => ((s.dom d).dirtyList d).contains sec then s.sliceAsks d (256 * line) go else .next go

/-- Invalidations of every listed copy of a line, keeping its transaction open (R211, R212, R215). -/
def State.invalidateLine (s : State) (line : Nat) : State :=
  let l := mget HomeLine.zero s.hdir line
  let ds := (List.range 64).filter fun i => l.sharers.getLsbD i
  { s with pinv := s.pinv ++ ds.flatMap (fun i => (List.range 4).map fun k => { d := i, sec := 4 * line + k, txn := true, op := none }),
           hdir := mset HomeLine.zero s.hdir line { l with sharers := 0#64 } }

/-- DIRECTORY_ENTRY_DROP: the home first invalidates every listed copy (R211). -/
def execDirectoryEntryDrop (h line : Nat) (s : State) : Out :=
  match mfind s.hdir line with
  | some l => if homeOf (256 * line) = h && l.sharers != 0#64 then .next (s.invalidateLine line) else .refused .notEnabled
  | none => .refused .notEnabled

/-- PAGE_WALK: the domain's walker fills its TLB with a good translation (R219, R222). -/
def execPageWalk (d asid : Nat) (va : Ptr) (s : State) : Out :=
  if 64 ≤ d || 4096 ≤ asid then .refused .notEnabled
  else
    let r := walk s d asid va.toNat
    match r.1 with
    | .ok e => .next ((s.walked d 0xFF r).updDom d fun x => { x with dtlb := (e :: x.dtlb).take 16384 })
    | .bad _ 5 | .refused _ => .next (s.walked d 0xFF r)
    | _ => .refused .notEnabled

/-- A snoop from the pool or the host (R215, R217): copies invalidated, dirty data written, the sectors absent. -/
def State.snoop (s : State) (line : Nat) : State :=
  let s := (List.range 4).foldl (fun s i => s.evictHome (homeOf (256 * line)) (4 * line + i)) s
  s.invalidateLine line
/-- BACK_INVALIDATION_SNOOP (R215). -/
def execBackInvalidationSnoop (line : Nat) (s : State) : Out :=
  if regionOf (256 * line) != .pool || s.unreachable (256 * line) || s.svc.poolGone.contains (poolPort (256 * line)) then .refused .notEnabled
  else .next (s.snoop line)
/-- HOST_SNOOP (R217). -/
def execHostSnoop (line : Nat) (s : State) : Out :=
  if regionOf (256 * line) != .host then .refused .notEnabled else .next (s.snoop line)

/-- The pool's link has returned: remote-dirty bytes of its lines and dirty lines held in the home slice are written to the pool (R216). -/
def State.poolReturned (s : State) (p : Nat) : State :=
  let mine := fun (sec : Nat) => regionOf (64 * sec) = .pool && poolPort (64 * sec) = p
  let s := (List.range 64).foldl (fun s d => (((s.dom d).dirtyList d).filter mine).foldl (fun s sec => s.writeBack d sec false none true) s) s
  ((s.hsec.map (·.1)).filter mine).foldl (fun s sec => (s.l1Recall (poolDom p) sec).pushHome sec) s
/-- POOL_LINK_DOWN, POOL_LINK_UP (R216). -/
def execPoolLinkDown (p : Nat) (s : State) : Out :=
  if 8 ≤ p || s.svc.poolGone.contains p || s.svc.poolDown.contains p then .refused .notEnabled
  else .next (State.logEvent { s with svc := { s.svc with poolDown := s.svc.poolDown ++ [p] } } 0x44 (poolDom p) 0xFF)
def execPoolLinkUp (p : Nat) (s : State) : Out :=
  if !s.svc.poolDown.contains p then .refused .notEnabled
  else
    let s := State.logEvent { s with svc := { s.svc with poolDown := s.svc.poolDown.filter (· != p) } } 0x44 (poolDom p) 0xFF
    .next (s.poolReturned p)

end Sys2Proof.Machine
end

