-- ==== Sys2Proof/Machine/CopyPlan.lean ====
section
/-! DEFINITION. Copy records (R228), the checks a copy passes before it moves a byte (R233, R234), and the end of a copy. -/

namespace Sys2Proof.Machine

/-! ## Records -/

def OpK.isCopy : OpK → Bool
  | .copy _ _ _ _ _ | .tier _ _ _ _ _ _ _ | .mcast _ _ _ _ _ _ _ _ _ _ => true
  | _ => false

/-- Where an operation's copy record stands: slots 0 to 5 of a warp by 8 × warp + slot, records nothing can name by operation. -/
def Op.recKey (x : Op) : Nat :=
  match x.ws with
  | (w, d) :: _ => if x.seq || d = 6 then 128 + x.id else 8 * w + d
  | [] => 128 + x.id
def State.updCopyRec (s : State) (x : Op) (f : CopyRec → CopyRec) : State :=
  s.updBlock x.bid fun b => { b with copies := mupd b.copies x.recKey f }

/-- The sixteen words of a record as Table 09-1 lays them out, for a block in slot `k`. -/
def CopyRec.words (r : CopyRec) (k : Nat) : List Word :=
  let w := fun (x i : Nat) => BitVec.ofNat 32 (x / 2 ^ (32 * i))
  let b := fun (x : Bool) (i : Nat) => if x then 2 ^ i else 0
  [w (r.op + 2 ^ 8 * r.v + 2 ^ 11 * r.ds + 2 ^ 14 * (k % 4) + 2 ^ 16 * r.w + 2 ^ 20 * r.ord + 2 ^ 23 * r.scp + 2 ^ 25 * r.st + b r.rsm 28) 0, r.len,
    w r.dst.toNat 0, w r.dst.toNat 1, w r.dst.toNat 2, w r.src.toNat 0, w r.src.toNat 1, w r.src.toNat 2, r.sstr, r.dstr,
    w r.prom.toNat 0, w r.prom.toNat 1, w r.iss.toNat 0, w r.iss.toNat 1, r.key, BitVec.ofNat 32 r.done]

/-- Member `o` leaves its multicast groups; a group without members goes (R245). -/
def State.leaveGroups (s : State) (home o : Nat) : State :=
  s.updDom home fun x => { x with mcasts := (x.mcasts.map fun (p : Nat × Mcast) =>
    (p.1, { p.2 with members := p.2.members.filter (· != o), late := p.2.late.filter (·.1 != o) })).filter fun p => !p.2.members.isEmpty }

/-- A completed copy counts as a completed access of its warp (R248). -/
def State.slotPast (s : State) (x : Op) : State :=
  if x.seq then s else s.onScr fun b y => y.flow (.op x.id) (x.agent b)

/-- A copy ends in state `st`: DONE takes the tick, and its slot completes (R228, R235, R248). -/
def State.endCopy (s : State) (x : Op) (st : Nat) : State :=
  let s := match x.k with | .mcast h _ _ _ _ _ _ _ _ _ => s.leaveGroups h x.id | _ => s
  let s := s.updCopyRec x fun r => { r with st := st, done := (s.sid x.d).toNat % 2 ^ 32 }
  let s := if 128 ≤ x.recKey then s.updBlock x.bid fun b => { b with copies := mdel b.copies x.recKey } else s
  (s.slotPast x).completeOp x

/-- The places of an operation that copies or drains: read and written ones, and the written ones. -/
def OpK.places : OpK → List Place
  | .copy _ _ _ gs _ | .tier _ _ _ _ _ gs _ => gs.flatMap fun g => [g.dst, g.src]
  | .mcast _ _ _ _ _ _ _ _ gs _ => gs.map (·.dst)
  | .drain _ _ _ _ _ es => es.flatMap fun e => e.pl :: (match e.sc with | some q => [q] | none => [])
  | _ => []
def OpK.writes : OpK → List Place
  | .copy _ _ _ gs _ | .tier _ _ _ _ _ gs _ | .mcast _ _ _ _ _ _ _ _ gs _ => gs.map (·.dst)
  | _ => []
/-- Whether an operation writes shadow buffers (Table 13-2). -/
def OpK.shadow : OpK → Bool
  | .copy _ _ shd _ _ => shd
  | .drain op _ _ _ _ _ => op < 0xB4
  | _ => false
/-- Operation `o`, just begun, notes what it keeps busy until its slot completes (R248 to R250, R295). -/
def State.noted (s : State) (o : Nat) : State :=
  let note := fun (x : Op) =>
    { x with foot := (x.k.places.filterMap fun p => match p with | .scr b _ | .row b _ | .acc b _ => some b | .glob _ => none).eraseDups,
             shads := if x.k.shadow then
                 ((if x.k.isCopy then x.k.writes else x.k.places).filterMap fun p => match p with
                   | .glob pa => (s.tileAt pa).map fun t => tileKey t.1 t.2.1
                   | _ => none).eraseDups
               else [],
             pers := x.k.writes.any fun p => match p with | .glob pa => regionOf pa = .persist | _ => false }
  { s with ops := s.ops.map fun x => if x.id = o then note x else x }

/-! ## Checks (R234) -/

/-- For whom a copy is checked: block, core, ASID, whether the U bit is tested. -/
structure CopyCx where
  bid : Nat
  d : Nat
  a : Nat
  asid : Nat
  blk : Bool

/-- A piece of one side, of at most one sector: its place, length, page type, the address a trap names, the tile it lies in. -/
structure Piece where
  pl : Place
  n : Nat
  ty : Nat
  addr : Nat
  tile : Option Nat

inductive PieceRes where
  | ok (p : Piece)
  | bad (addr : Nat) (c : Cause)
  | wait

/-- What a side is to the copy: a source, a destination, a shadow destination (Table 13-2). -/
inductive Side where
  | src | dst | shadow
deriving DecidableEq

/-- The pieces of `n` bytes of global memory from `va` on, sector by sector. -/
def State.globalPieces (cx : CopyCx) (side : Side) : Nat → State → Nat → Nat → List PieceRes × State
  | 0, s, _, _ => ([], s)
  | k + 1, s, va, n =>
    if n = 0 then ([], s)
    else
      let m := min n (64 - va % 64)
      let r := s.translate cx.d cx.a cx.asid cx.blk va (if side = .src then .load else .tile) 1
      let one : PieceRes := match r.1 with
        | .bad _ c => .bad va (codeCause c)
        | .wait => .wait
        | .ok pa ty =>
          let p : Piece := { pl := .glob pa, n := m, ty := ty, addr := va, tile := none }
          match r.2.tileAt pa with
          | none => if side = .shadow then .bad va .protection else .ok p
          | some (d, i, _, anchor) =>
            if anchor && side != .dst then .ok { p with tile := some (tileKey d i) } else .bad va .protection
      let rest := State.globalPieces cx side k r.2 ((va + m) % 2 ^ 80) (n - m)
      (one :: rest.1, rest.2)

/-- Cut a checked place of `n` bytes into sectors. -/
def cutPlace (pl : Place) (n addr : Nat) : List PieceRes :=
  let o := pl.off
  (List.range ((o % 64 + n + 63) / 64)).map fun i =>
    let lo := if i = 0 then 0 else 64 * i - o % 64
    .ok { pl := pl.add lo, n := min (n - lo) (64 - (o + lo) % 64), ty := 0, addr := addr, tile := none }

/-- One side of a copy: rows of (displacement, length) from a global or scratch pointer. -/
def State.copySide (cx : CopyCx) (side : Side) (scr : Bool) (p : Ptr) : List (Int × Nat) → State → List PieceRes × State
  | [], s => ([], s)
  | (o, n) :: rows, s =>
    let one :=
      if scr then
        let off := (((p.toNat % 2 ^ 32 : Nat) + o) % 2 ^ 32).toNat
        match s.scratch cx.bid p off n with
        | some (b, o) => (cutPlace (.scr b o) n off, s)
        | none => ([PieceRes.bad off .protection], s)
      else State.globalPieces cx side (n / 64 + 2) s (((p.toNat : Int) + o) % 2 ^ 80).toNat n
    let rest := State.copySide cx side scr p rows one.2
    (one.1 ++ rest.1, rest.2)

/-- The window side of a CPYW (R183, R241). -/
def State.windowSide (s : State) (cx : CopyCx) (p : Ptr) (n : Nat) (write : Bool) : List PieceRes :=
  let off := p.toNat % 2 ^ 32
  if n = 0 then []
  else if (p >>> 36) != 0#80 then [.bad off .protection]
  else match s.window cx.bid (p.extractLsb' 32 4).toNat off n write with
    | .ok q => cutPlace q.1 n off
    | .error c => [.bad off c]

/-- Pair destination and source pieces byte for byte. -/
def zipSegs : Nat → List Piece → List Piece → List Seg
  | 0, _, _ => []
  | _, [], _ => []
  | _, _, [] => []
  | k + 1, d :: ds, c :: cs =>
    let n := min d.n c.n
    let ds' := if d.n = n then ds else { d with pl := d.pl.add n, n := d.n - n } :: ds
    let cs' := if c.n = n then cs else { c with pl := c.pl.add n, n := c.n - n } :: cs
    { dst := d.pl, src := c.pl, n := n, ty := d.ty } :: zipSegs k ds' cs'

/-- What the checks find: the segments with the source pieces, a trap (its info, where it is not the word), the pointers that a misaligned address,
stride or length concerns, or a wait at issue; with the state after the walks. -/
inductive PlanRes where
  | ok (segs : List Seg) (srcs : List Piece) (s : State)
  | misaligned (ps : List Ptr)
  | trap (c : Cause) (addr : Ptr) (s : State)
  | operand (x : Word)
  | wait (s : State)

/-- Steps 3 and 4 of R234 for both sides. -/
def planOf (srcs dsts : List PieceRes) (s : State) : PlanRes :=
  let all := srcs ++ dsts
  let oks := fun (l : List PieceRes) => l.filterMap fun p => match p with | .ok p => some p | _ => none
  let low := fun (l : List (Nat × Cause)) => l.foldl (fun (m : Option (Nat × Cause)) p => match m with
    | some q => if p.1 < q.1 then some p else some q
    | none => some p) none
  let tile := (oks dsts).head?.bind (·.tile)
  let bad := all.filterMap (fun p => match p with | .bad a c => some (a, c) | _ => none)
    ++ ((oks dsts).filter fun p => p.tile != tile).map fun p => (p.addr, Cause.protection)
  if all.any fun p => match p with | .wait => true | _ => false then .wait s
  else match low bad with
  | some (a, c) => .trap c (BitVec.ofNat 80 a) s
  | none =>
    match low (((oks srcs ++ oks dsts).filter fun p => 2 ≤ p.ty).map fun p => (p.addr, Cause.protection)) with
      | some (a, c) => .trap c (BitVec.ofNat 80 a) s
      | none => .ok (zipSegs ((oks srcs).length + (oks dsts).length + 1) (oks dsts) (oks srcs)) (oks srcs) s

/-- The source pieces of a tile image or of a multicast group: offsets from 0. -/
def imagePieces (n : Nat) : List PieceRes := cutPlace (.glob 0) n 0

/-- The checks of a copy, whole (R234 to R237, R240, R241). A misaligned length concerns both pointers. -/
def State.copyPlan (s : State) (cx : CopyCx) (r : CopyRec) : PlanRes :=
  let n := r.len.toNat
  let aligned := fun (l : List (Int × Int × List Ptr)) (go : PlanRes) =>
    match ((l.filter fun q => q.1 % q.2.1 != 0).flatMap (·.2.2)).eraseDups with
    | [] => go
    | ps => .misaligned ps
  let dp : Int := r.dst.toNat
  let sp : Int := r.src.toNat
  let both := fun (side : Side) (ss ds : Bool) (srows drows : List (Int × Nat)) =>
    let a := State.copySide cx .src ss r.src srows s
    let b := State.copySide cx side ds r.dst drows a.2
    planOf a.1 b.1 b.2
  let side := if r.v.testBit 2 then Side.shadow else .dst
  match r.op with
  | 0xB8 =>
    if 2 ^ 24 < n then .operand r.len
    else aligned [((n : Int), 4, [r.dst, r.src]), (dp, 4, [r.dst]), (sp, 4, [r.src])] <|
        if n = 0 then .ok [] [] s else both side (r.v.testBit 1) (r.v.testBit 0) [(0, n)] [(0, n)]
  | 0xB9 =>
    let w : Nat := n % 2 ^ 16
    let h : Nat := n / 2 ^ 16
    if 2 ^ 24 < h * w then .operand r.len
    else aligned [((w : Int), 4, [r.dst, r.src]), (r.sstr.toInt, 4, [r.src]), (r.dstr.toInt, 4, [r.dst]), (dp, 4, [r.dst]), (sp, 4, [r.src])] <|
        if h * w = 0 then .ok [] [] s
        else both side (r.v.testBit 1) (r.v.testBit 0) ((List.range h).map fun (i : Nat) => ((i : Int) * r.sstr.toInt, w))
          ((List.range h).map fun (i : Nat) => ((i : Int) * r.dstr.toInt, w))
  | 0xBA =>
    if n < 64 || 2 ^ 20 < n then .operand r.len
    else aligned [((n : Int), 64, [r.dst, r.src]), (sp, 64, [r.src]), (dp, 4, [r.dst])] <| both .dst false (r.v = 0) [(0, n)] [(0, n)]
  | 0xBB =>
    let b := State.copySide cx .dst (r.v = 2) r.dst [(0, n)] s
    planOf (imagePieces n) b.1 b.2
  | _ =>
    if 2 ^ 20 < n then .operand r.len
    else aligned [((n : Int), 4, [r.dst, r.src]), (dp, 4, [r.dst]), (sp, 4, [r.src])] <|
        let toWin := r.v % 2 = 0
        let w := s.windowSide cx r.dst n toWin
        let o := if n = 0 then ([], s)
          else if 2 ≤ r.v && (r.src >>> 32) != 0#80 then ([PieceRes.bad (r.src.toNat % 2 ^ 32) .protection], s)
          else State.copySide cx (if toWin then .src else .dst) (2 ≤ r.v) r.src [(0, n)] s
        if toWin then planOf o.1 w o.2 else planOf w o.1 o.2

/-- The scope asked for, or the default of the destination (R25, R233). -/
def State.copyScope (s : State) (cx : CopyCx) (r : CopyRec) (lit : Option Word) (segs : List Seg) : Nat :=
  let own := match segs.head? with | some g => (match g.dst with | .scr b _ => b = cx.bid | _ => false) | none => true
  let scr := match segs.head? with | some g => (match g.dst with | .scr _ _ => true | _ => false) | none => false
  let far := match s.window cx.bid (r.dst.extractLsb' 32 4).toNat (r.dst.toNat % 2 ^ 32) 1 (r.v % 2 = 0) with
    | .ok q => q.2 != cx.d
    | .error _ => false
  match lit with
  | some l => if scr && r.op != 0xBC then min 1 (litScp l) else litScp l
  | none => if r.op = 0xBC then (if far then 2 else 1) else if scr && own then 0 else 1

/-- The scope of a segment's write, and of the whole copy (Table 02-4, R233). -/
def Seg.scp (g : Seg) (scp : Nat) : Nat := match g.dst with | .glob _ => effScp scp g.ty | _ => scp
def segsScp (scp : Nat) (segs : List Seg) : Nat := segs.foldl (fun m g => max m (g.scp scp)) scp

end Sys2Proof.Machine
end

