-- ==== Sys2Proof/Machine/Tier.lean ====
section
/-! DEFINITION. Promotions and evictions of tier objects (R354 to R357). -/

namespace Sys2Proof.Machine

/-- Translation by a domain's engines for an object: in its ASID, whatever the U bit (R354). A good walk fills the domain's TLB (R222); a refused one waits (R212). -/
def State.objTrans (s : State) (d asid va : Nat) (kind : Kind) : Trans × State :=
  let go := fun (e : TlbEnt) =>
    match entryCode s e kind false 1 with
    | some c => Trans.bad e.size c
    | none => if regionOf (e.paOf va) = .ctl then .bad e.size 4 else .ok (e.paOf va) e.ty
  match (s.dom d).dtlb.find? (·.covers asid va) with
  | some e => (go e, s)
  | none =>
    let r := walk s d asid va
    let s := s.walked d 0xFF r
    match r.1 with
    | .ok e => (go e, s.updDom d fun x => { x with dtlb := (e :: x.dtlb).take 16384 })
    | .bad l c => (.bad l c, s)
    | .wait | .refused _ => (.wait, s)

/-- A T1 address: DRAM of the domain (Table 14-2). -/
def t1Ok (d pa : Nat) : Bool := regionOf pa = .dram && homeOf pa = d

/-- How a move of an object's bytes ends, and, before it, how the translation of its places does. -/
inductive Moved where
  | ok (s : State)
  | failed (s : State)
  | wait (s : State)

/-- The physical pieces of `n` bytes of an object's two places, sector by sector (T1 address, backing address, length), up to the first that fails. -/
def State.movePieces (d asid : Nat) (up : Bool) : Nat → State → Nat → Nat → Nat → List (Nat × Nat × Nat) × Moved
  | 0, s, _, _, _ => ([], .ok s)
  | k + 1, s, t1, bk, n =>
    if n = 0 then ([], .ok s)
    else
      let m := min n (min (64 - t1 % 64) (64 - bk % 64))
      let rt := s.objTrans d asid t1 (if up then .store else .load)
      let rb := rt.2.objTrans d asid bk (if up then .load else .store)
      match rt.1, rb.1 with
      | .ok t _, .ok b _ =>
        if !t1Ok d t then ([], .failed rb.2)
        else
          let r := State.movePieces d asid up k rb.2 ((t1 + m) % 2 ^ 80) ((bk + m) % 2 ^ 80) (n - m)
          ((t, b, m) :: r.1, r.2)
      | .wait, _ | _, .wait => ([], .wait rb.2)
      | _, _ => ([], .failed rb.2)
/-- One piece is copied, at SYS scope; `up`: from BVA to T1VA. -/
def State.movePiece (s : State) (d : Nat) (up : Bool) (p : Nat × Nat × Nat) : State :=
  let r := s.loadSec d none true false (if up then p.2.1 else p.1) p.2.2
  ((r.2.storeWide d .none (if up then p.1 else p.2.1) r.1 false none true).served (.slice d) p.1).served (.slice d) p.2.1
/-- The bytes of an object are copied; a failing page ends it. It waits for a pool link, for a retry, and for a line whose home refuses it (R212, R216). -/
def Obj.move (o : Obj) (s : State) (d : Nat) (up : Bool) : Moved :=
  let n := 4096 * o.size
  let r := State.movePieces d o.asid up (n / 16 + 4) s o.t1va o.bva n
  let go := fun (s : State) (fin : State → Moved) =>
    if r.1.any fun p => s.unreachable p.2.1 || s.backing (.slice d) p.1 || s.backing (.slice d) p.2.1 then .wait s
    else match (r.1.flatMap fun p => [p.1, p.2.1]).find? fun pa => s.lineRefuses pa (.slice d) with
      | some pa => .wait (s.refuse (.slice d) pa)
      | none => fin (r.1.foldl (fun s p => s.movePiece d up p) s)
  match r.2 with
  | .wait s => .wait s
  | .failed s => go s .failed
  | .ok s => go s .ok

/-- A CPYT whose request has failed: its record takes ST 5 (R240). -/
def State.tierFail (s : State) (x : Op) : State := (s.updCopyRec x fun r => { r with st := 5 }).tierPhase x 4

/-- Serve the queued promotion `i` (R356). -/
def State.servePromotion (s : State) (d i : Nat) : State :=
  (s.updObj d i fun o => { o with st := 2 }).updDom d fun x =>
    { x with promq := x.promq.filter (·.1 != i), promrun := x.promrun ++ [i] }
/-- The first queued promotion that has waited 2^20 cycles. -/
def Domain.agedPromotion (x : Domain) : Option Nat := (x.promq.find? fun p => 2 ^ 20 ≤ p.2).map (·.1)
/-- PROMOTION_SERVE: the least LAYER, in arrival order, while fewer than four run. -/
def execPromotionServe (d : Nat) (s : State) : Out :=
  let x := s.dom d
  if 4 ≤ x.promrun.length || x.agedPromotion.isSome then .refused .notEnabled
  else
    let best := x.promq.foldl (fun (m : Option Nat) p => match m with
      | none => some p.1
      | some i => if (x.obj p.1).layer < (x.obj i).layer then some p.1 else some i) none
    match best with
    | some i => .next (s.servePromotion d i)
    | none => .refused .notEnabled
/-- PROMOTION_AGING: a promotion that has waited 2^20 cycles is served next. -/
def execPromotionAging (d : Nat) (s : State) : Out :=
  match (s.dom d).agedPromotion with
  | some i => if 4 ≤ (s.dom d).promrun.length then .refused .notEnabled else .next (s.servePromotion d i)
  | none => .refused .notEnabled

/-- PROMOTION_DONE: the object is RESIDENT; a failed promotion leaves it ABSENT and its requests without effect (R354, R355, R357). -/
def execPromotionDone (d idx : Nat) (s : State) : Out :=
  let o := (s.dom d).obj idx
  if !(s.dom d).promrun.contains idx || s.sidHeld d then .refused .notEnabled
  else
    let off := fun (s : State) => s.updDom d fun x => { x with promrun := x.promrun.filter (· != idx) }
    match o.move s d true with
    | .wait t => s.waiting t
    | .ok s => .next (((off s).updObj d idx fun o => { o with st := 1, tres := s.sid d }).settleObj d idx)
    | .failed s =>
      let s := (off s).updObj d idx fun o => { o with st := 0, evh := false }
      let s := (s.tierOps d idx 0).foldl State.tierFail s
      let s := (s.tierOps d idx 1).foldl (fun s x => s.tierPhase x 3) s
      .next (s.logEvent 0x42 d 0xFF)

/-- OBJECT_EVICTION_DONE: the object is ABSENT, and a promotion queued behind it starts; a failed eviction leaves it RESIDENT (R354, R355). -/
def execObjectEvictionDone (d idx : Nat) (s : State) : Out :=
  let o := (s.dom d).obj idx
  if o.st != 3 then .refused .notEnabled
  else match (if o.wb then o.move s d false else .ok s) with
    | .wait t => s.waiting t
    | .ok s =>
      let s := s.updObj d idx fun o => { o with st := 0, prq := false }
      let s := (s.tierOps d idx 1).foldl (fun s x => s.tierPhase x 3) s
      .next (if o.prq then s.requestPromotion d idx else s)
    | .failed s =>
      let s := (s.tierOps d idx 1).foldl State.tierFail (s.updObj d idx fun o => { o with st := 1, prq := false })
      .next ((s.logEvent 0x42 d 0xFF).settleObj d idx)

/-- OBJECT_TABLE_WRITE: a word of an entry is written, or the write is dropped (R354). -/
def execObjectTableWrite (d idx wd : Nat) (x : Word) (s : State) : Out :=
  if 64 ≤ d || 16384 ≤ idx || 16 ≤ wd then .refused .notEnabled
  else .next ((s.updObj d idx fun o => o.write [(wd, x)]).seqRecheckAll d)

end Sys2Proof.Machine
end

