-- ==== Sys2Proof/Machine/Copy.lean ====
section
/-! DEFINITION. The copy engine: CPY, CPY2, CPYM, CPYT, CPYW, WAITT, TQRY, CPYC (R235 to R245) and its events (R238, R239, R246, R247). -/

namespace Sys2Proof.Machine

/-! ## Issue -/

/-- The limits of R229. -/
def Env.copyFull (e : Env) : Bool :=
  let here := e.s.ops.filter fun x => x.k.isCopy && (match (e.s.block x.bid).loc with
    | some l => l.d = e.loc.d && l.a = e.loc.a
    | none => false)
  64 ≤ here.length || 32 ≤ (here.filter (·.bid = e.bid)).length
def Env.copyCx (e : Env) : CopyCx := { bid := e.bid, d := e.loc.d, a := e.loc.a, asid := e.blk.asid, blk := !e.blk.isHandler }

/-- The record a copy word makes, its promise not yet set (Table 09-1). -/
def Env.copyRec (e : Env) (op : Nat) (f : AsyW) : CopyRec :=
  let S := f.s.toNat
  { op := op, v := f.v.toNat, w := e.w, ds := f.d.toNat, sq := e.sq, ord := (f.lit.map litOrd).getD 0, scp := 0, st := 0, late := false,
    rsm := false, len := e.sreg S, dst := if op = 0xBB && f.v.toNat < 2 then 0 else e.breg f.ba.toNat,
    src := if op = 0xBB then 0 else e.breg f.bb.toNat, sstr := if op = 0xB9 then e.sreg (S + 1) else 0,
    dstr := if op = 0xB9 then e.sreg (S + 2) else 0, prom := 0, iss := e.s.sid e.loc.d, key := if op = 0xBA then e.sreg (S + 1) else 0, done := 0 }

/-- The greatest transit issued is kept (R19). -/
def State.issued (s : State) (p : Tick) : State := { s with maxTick := if s.maxTick < p then p else s.maxTick }
/-- A promise within R231's bound: a free value (log 6). -/
def promise (now : Tick) (n : Nat) : Tick := now + 1 + BitVec.ofNat 64 (Config.freeNat n % 2 ^ 30)

/-- The physical base of each source page of a CPYM, in order (R237). -/
def sourcePages : List Piece → Option Nat → List Nat
  | [], _ => []
  | p :: ps, prev =>
    let o := p.pl.off
    if prev = some o && o % 65536 != 0 then sourcePages ps (some (o + p.n)) else o :: sourcePages ps (some (o + p.n))

def OpK.sameGroup (k : OpK) (pages : List Nat) (n : Nat) (key : Word) (scp : Nat) : Bool :=
  match k with | .mcast _ _ p m y _ c _ _ _ => p = pages && m = n && y = key && c = scp | _ => false

/-- The promise made at issue: for a CPYM the one of the first identical request that this front end has forwarded to a group still open. -/
def Env.firstPromise (e : Env) (s : State) (k : OpK) : Tick × State :=
  let now := e.s.sid e.loc.d
  let p := promise now s.fresh
  let t := { s with fresh := s.fresh + 1 }
  match k with
  | .mcast h _ pages n key _ scp _ _ _ =>
    let first := s.ops.find? fun y => y.d = e.loc.d && y.k.sameGroup pages n key scp && (match y.k with
      | .mcast _ (some g) _ _ _ _ _ _ _ _ => (match mfind (s.dom h).mcasts g with | some m => m.sent < n / 64 | none => false)
      | _ => true)
    (match first with
     | some y => (match y.k with | .mcast _ _ _ _ _ _ _ q _ _ => if now < q then (q, s) else (p, t) | _ => (p, t))
     | none => (p, t))
  | _ => (p, t)

/-- A copy takes effect: its record, its transit, its operation (R228, R230, R235). -/
def Env.startCopy (e : Env) (s : State) (d S : Nat) (r : CopyRec) (k : OpK) : State × Nat :=
  let p := e.firstPromise s k
  let s := p.2.issued p.1
  let k := match k with | .mcast h g ps n y o c _ gs got => .mcast h g ps n y o c p.1 gs got | k => k
  let o := s.nextOp
  let s := (e.start s (BitVec.ofNat 3 d) k []).noted o
  let r := { r with prom := p.1, st := match k with | .mcast _ _ _ _ _ _ _ _ _ _ => 0 | _ => 1 }
  let key := if e.sq || d = 6 then 128 + o else 8 * e.w + d
  let s := s.updBlock e.bid fun b => { b with copies := mput b.copies key r }
  (if e.sq then s else s.updWarp e.bid e.w fun wp => wp.setS S (p.1.setWidth 32), o)

/-- A copy traps MISALIGNED. DESIGN CHOICE, log 37: where the misalignment concerns several pointers, the address is a free one of them. safe. -/
def Env.copyMisaligned (e : Env) (ps : List Ptr) : Act :=
  .trapAt { e.s with fresh := e.s.fresh + 1 } .misaligned e.cl.run (ps.getD (Config.freePick e.s.fresh 0 % ps.length) 0#80) e.cl.word

/-- CPY, CPY2, CPYM and CPYW (R234 to R237, R241). -/
def Env.copy (e : Env) (op : Nat) (f : AsyW) : Act :=
  e.slotted f.d fun e =>
    let r := e.copyRec op f
    match e.s.copyPlan e.copyCx r with
    | .operand x => .trapOpen .illegalOperand (some x)
    | .misaligned ps => e.copyMisaligned ps
    | .trap c a s => .trapAt s c e.cl.run a e.cl.word
    | .wait s => e.stay s
    | .ok segs srcs s =>
      if s.sidHeld e.loc.d then e.stay s
      else if segs.isEmpty then
        let p := s.sid e.loc.d + 1#64
        let s := s.issued p
        let s := s.updBlock e.bid fun b => if e.sq then b else b.unrecord e.w f.d.toNat
        .done (if e.sq then s else s.updWarp e.bid e.w fun wp => wp.setS f.s.toNat (p.setWidth 32))
      else if e.copyFull then e.stay s
      else
        let scp := s.copyScope e.copyCx r f.lit segs
        let r := { r with scp := segsScp scp segs }
        let k := if op = 0xBA then
            let n := r.len.toNat
            .mcast (homeOf ((srcs.head?.map (·.pl.off)).getD 0)) none (sourcePages srcs none) n r.key r.ord (segsScp scp segs) 0
              (zipSegs (2 * segs.length + n) (segs.map fun g => { pl := g.dst, n := g.n, ty := g.ty, addr := 0, tile := none })
                ((imagePieces n).filterMap fun p => match p with | .ok p => some p | _ => none)) []
          else .copy r.ord scp (op != 0xBC && f.v.getLsbD 2) segs []
        .done (e.startCopy s f.d.toNat f.s.toNat r k).1

/-- CPY (R235). -/
def execCpy (f : AsyW) (s : State) : Out := issueWord (.cpy f) f.g f.lit [] s (fun _ => true) fun e => e.copy 0xB8 f
/-- CPY2 (R236). -/
def execCpy2 (f : AsyW) (s : State) : Out := issueWord (.cpy2 f) f.g f.lit [] s (fun _ => true) fun e => e.copy 0xB9 f
/-- CPYM (R237). -/
def execCpym (f : AsyW) (s : State) : Out := issueWord (.cpym f) f.g f.lit [] s (fun _ => true) fun e => e.copy 0xBA f
/-- CPYW (R241). -/
def execCpyw (f : AsyW) (s : State) : Out := issueWord (.cpyw f) f.g f.lit [] s (fun _ => true) fun e => e.copy 0xBC f

/-- Register a CPYT on object `i` and act on the table (R240, Table 14-3). -/
def Env.tierGo (e : Env) (s : State) (f : AsyW) (r : CopyRec) (i scp : Nat) (segs : List Seg) : State :=
  let d := e.loc.d
  let st := ((s.dom d).obj i).st
  let ph := if r.v = 1 then (if st = 0 then 3 else 1) else 0
  let s := (e.startCopy s f.d.toNat f.s.toNat { r with scp := segsScp scp segs } (.tier i r.v ph r.ord scp segs [])).1
  if r.v = 1 then s.requestEviction d i else (s.requestPromotion d i).settleObj d i

/-- CPYT (R240): the identifier is tested after the operands and before the destination's pages. -/
def Env.tier (e : Env) (f : AsyW) : Act :=
  e.slotted f.d fun e =>
    let id := e.sreg f.s.toNat
    match (e.s.dom e.loc.d).named id with
    | none => .trap .protection e.cl.run 0#80 id
    | some i =>
      let r := { e.copyRec 0xBB f with key := id, len := BitVec.ofNat 32 (4096 * ((e.s.dom e.loc.d).obj i).size) }
      if r.v < 2 then (if e.copyFull || e.s.sidHeld e.loc.d then .stall else .done (e.tierGo e.s f { r with len := 0 } i 1 []))
      else match e.s.copyPlan e.copyCx r with
        | .operand x => .trapOpen .illegalOperand (some x)
        | .misaligned ps => e.copyMisaligned ps
        | .trap c a s => .trapAt s c e.cl.run a e.cl.word
        | .wait s => e.stay s
        | .ok segs _ s => if e.copyFull || s.sidHeld e.loc.d then e.stay s else .done (e.tierGo s f r i (s.copyScope e.copyCx r f.lit segs) segs)

/-- CPYT.PROM (R240). -/
def execCpytProm (f : AsyW) (s : State) : Out := issueWord (.cpytProm f) f.g f.lit [] s (fun _ => true) fun e => e.tier f
/-- CPYT.EVCT (R240). -/
def execCpytEvct (f : AsyW) (s : State) : Out := issueWord (.cpytEvct f) f.g f.lit [] s (fun _ => true) fun e => e.tier f
/-- CPYT.SCR (R240). -/
def execCpytScr (f : AsyW) (s : State) : Out := issueWord (.cpytScr f) f.g f.lit [] s (fun _ => true) fun e => e.tier f
/-- CPYT.GLB (R240). -/
def execCpytGlb (f : AsyW) (s : State) : Out := issueWord (.cpytGlb f) f.g f.lit [] s (fun _ => true) fun e => e.tier f

/-- The operation that claimed slot `v` of the issuing warp, and its copy record. -/
def Env.slotOp (e : Env) (v : Nat) : Option Op := e.s.ops.find? fun x => x.bid = e.bid && !x.seq && x.ws.contains (e.w, v)
def Env.slotRec (e : Env) (v : Nat) : Option CopyRec := mfind e.blk.copies (8 * e.w + v)

/-- A transit is reached at a sidereal count (R230). -/
def reached (now : Tick) (t : Word) : Bool := 0 ≤ (now.setWidth 32 - t).toInt
/-- A missed transit: the new promise, and the trap (R231, R243). -/
def State.missTransit (s : State) (b w v S : Nat) : State :=
  let x := s.block b
  let l := x.loc.getD ⟨0, 0, 0⟩
  let now := s.sid l.d
  let q := 8 * w + v
  let r := mfind x.copies q
  let p := match r with
    | some r => (if r.prom ≤ now then now + 1#64 else r.prom) + BitVec.ofNat 64 (Config.freeNat s.fresh % 2 ^ 30)
    | none => now + 64#64
  let s := State.issued { s with fresh := s.fresh + 1 } p
  let s := s.updBlock b fun x => { x.updWarp w fun wp => wp.setS S (p.setWidth 32) with copies := mupd x.copies q fun r => { r with prom := p } }
  let run := match (x.warp w).clause with | some c => c.run | none => 0#32
  s.takeTrap b w .missedTransit run (p.setWidth 80) (BitVec.ofNat 32 (v + 16 * S))

/-- WAITT (R242). -/
def execWaitt (f : AsyW) (s : State) : Out :=
  issueWord (.waitt f) f.g f.lit [] s (fun _ => true) fun e =>
    let v := f.v.toNat
    if !e.any || !e.wp.slotBusy v then .done e.s
    else if e.s.sidHeld e.loc.d then .stall
    else if reached (e.s.sid e.loc.d) (e.sreg f.s.toNat) then .ended (e.s.missTransit e.bid e.w v f.s.toNat)
    else .wait (e.setWarp fun wp => { wp with wait := some (.waitt v ((e.sreg f.s.toNat).setWidth 64)) })

/-- TQRY (R244). -/
def execTqry (f : AsyW) (s : State) : Out :=
  issueWord (.tqry f) f.g f.lit [] s (fun _ => true) fun e => e.slotted f.d fun e =>
    let v := f.v.toNat
    let b := fun (x : Bool) (i : Nat) => if x then 2 ^ i else 0
    let over' := !e.wp.slotBusy v
    let res := match e.slotRec v with
      | some r => (BitVec.ofNat 32 (b over' 0 + 2 + b (r.st = 4) 2 + b r.late 3 + b r.rsm 4 + b (r.st = 5) 5),
          if over' then BitVec.ofNat 32 r.done else r.prom.setWidth 32)
      | none => (BitVec.ofNat 32 (b over' 0), 0#32)
    e.quick e.s f.d [(f.s.toNat, res.1), (f.s.toNat + 1, res.2)]

/-- A copy is cancelled: no further write, state 4; a pin is dropped (R245, R357). -/
def State.cancelCopy (s : State) (x : Op) : State :=
  let s := match x.k with | .tier i _ 2 _ _ _ _ => s.unpin x.d i | _ => s
  s.endCopy x 4

/-- CPYC (R245). -/
def execCpyc (f : AsyW) (s : State) : Out :=
  issueWord (.cpyc f) f.g f.lit [] s (fun _ => true) fun e => e.slotted f.d fun e =>
    let v := f.v.toNat
    let S := f.s.toNat
    match e.slotOp v with
    | none => e.quick e.s f.d [(S, 0#32)]
    | some x =>
      let may : Bool := match x.k with
        | .tier _ k ph _ _ _ _ => 2 ≤ k && ph < 3
        | k => k.isCopy
      if may && e.s.sidHeld x.d then .stall
      else if may then e.quick (e.s.cancelCopy x) f.d [(S, 1#32)]
      else .done (e.start e.s f.d (.cancel x.id) [(S, 0#32)])

/-! ## Events -/

/-- TRANSIT_TICK: the tick of a WAITT is reached with the slot pending (R242, R243). -/
def execTransitTick (b w : Nat) (s : State) : Out :=
  let x := s.block b
  let wp := x.warp w
  match x.loc, wp.wait, wp.clause with
  | some l, some (.waitt v t), some c =>
    if wp.slotBusy v && reached (s.sid l.d) (t.setWidth 32) && !s.sidHeld l.d then
      .next (s.missTransit b w v ((c.word.extractLsb' 10 4).toNat))
    else .refused .notEnabled
  | _, _, _ => .refused .notEnabled

/-- A copy goes on: none of its writes is performed before an earlier load of its warp (R36, log 89); a release first waits for the warp's earlier accesses, then writes back what is remote-dirty (R235). -/
def State.copyGo (s : State) (x : Op) (ord scp : Nat) (go : Out) : Out :=
  if (s.earlier x).any (fun y => y.k.blocksLater || y.acquires || y.k.reads || (y.k.isFence && y.k.releases)) then .refused .notEnabled
  else if ord != 2 then go
  else if (s.earlier x).any fun y => y.k.isLs || y.k.isCopy || y.k.isDrain then .refused .notEnabled
  else if scp < 2 then go
  else s.releasing x (scp = 3) go

/-- What a request for a sector comes to: its bytes with the reader's pins, a wait, or a refusal by the home of an address (R212). -/
inductive Got where
  | ok (bs : List Byte) (pins : List (Nat × Bool)) (s : State)
  | wait
  | refused (pa : Nat)

/-- Requester `q` reads a source sector for domain `d` (R246); `wide`: at its home only. -/
def State.readSector (s : State) (q : Asker) (d : Nat) (pins : List (Nat × Bool)) (wide : Bool) (pl : Place) : Got :=
  match pl with
  | .glob pa =>
    let at' := match s.tileRead pins pa with | some (p, pins) => (p, true, pins) | none => (pa, false, pins)
    if s.unreachable pa || s.backing q at'.1 then .wait
    else if s.lineRefuses at'.1 q then .refused at'.1
    else .ok (if wide || at'.2.1 then memRead s at'.1 64 else s.viewBytes d true pa 64) at'.2.2 ((s.homeServe d (at'.1 / 64)).served q at'.1)
  | .scr b _ | .row b _ | .acc b _ => .ok ((s.block b).readPlace pl 64) pins s

/-- A load at SYS scope on a page of type `ty` leaves a clean copy in the slice (R29, R207). -/
def State.keepCopy (s : State) (d ty : Nat) (pl : Place) : State :=
  match pl with
  | .glob pa => if ty = 0 && (s.tileAt pa).isNone then s.fetched d true (pa / 64) else s
  | _ => s

/-- Requester `q` reads a sector on a page of type `ty` for domain `d` at BLK scope: a copy of the slice's in place (R207). -/
def State.readNear (s : State) (q : Asker) (d ty pa : Nat) : Got :=
  if (s.tileAt pa).isSome then s.readSector q d [] false (.glob pa)
  else
    let asks := s.asksHome d false false pa
    let absent := homeOf pa = d && (mfind s.hsec (pa / 64)).isNone
    if (asks || absent) && s.unreachable pa || asks && s.backing q pa then .wait
    else if asks && s.lineRefuses pa q then .refused pa
    else
      let r := (if asks then s.served q pa else s).loadSec d none false (ty = 0) pa 64
      .ok r.1 [] r.2

/-- The physical address that a copy's write to a place asks the home of: in the shadow buffer, or at WAF or SYS scope (R207, R249). -/
def State.copyAsks (s : State) (shd : Bool) (scp : Nat) (pl : Place) : Option Nat :=
  match pl with
  | .glob pa => (match (if shd then s.shadowOf pa else none) with
    | some (q, _, _) => some q
    | none => if 2 ≤ scp then some pa else none)
  | _ => none
/-- A copy's write to a place must wait: for a pool link or a retry, or for the readers of the shadow. -/
def State.copyBlocked (s : State) (x : Op) (shd : Bool) (scp : Nat) (pl : Place) : Bool :=
  match pl with
  | .glob pa =>
    (match s.copyAsks shd scp pl with
     | some q => s.unreachable pa || s.backing (.op x.id) q
     | none => homeOf pa = x.d && s.unreachable pa && (mfind s.hsec (pa / 64)).isNone) ||
      (shd && (match s.shadowOf pa with | some (_, key, buf) => s.bufferHeld x.id key buf | none => false))
  | _ => false
def State.copyRefused (s : State) (x : Op) (shd : Bool) (scp : Nat) (pl : Place) : Option Nat :=
  match s.copyAsks shd scp pl with
  | some q => if s.lineRefuses q (.op x.id) then some q else none
  | none => none

/-- Write one segment (R247, R249). -/
def State.copyWrite (s : State) (x : Op) (shd : Bool) (scp : Nat) (g : Seg) (bs : List Byte) : State :=
  match g.dst with
  | .glob pa =>
    match (if shd then s.shadowOf pa else none) with
    | some (q, _, _) => ((s.served (.op x.id) q).homeWrite q bs x.d false none false).notePersist x.d x.a x.id q
    | none =>
      (if 2 ≤ g.scp scp then (s.served (.op x.id) pa).storeWide x.d .none pa bs false none (g.scp scp = 3) else s.storeDom x.d .none pa bs).notePersist x.d x.a x.id pa
  | .scr b o => s.updBlock b fun y => y.storeScr o bs (.op x.id)
  | .row _ _ | .acc _ _ => s.writePart x false false scp 0 g.dst bs

/-- Physical address of sector `k` of a CPYM's source (R237). -/
def sourceSector (pages : List Nat) (k : Nat) : Nat :=
  let p0 := pages.headD 0
  let room := 65536 - p0 % 65536
  if 64 * k < room then p0 + 64 * k else pages.getD (1 + (64 * k - room) / 65536) 0 + (64 * k - room) % 65536

/-- A received sector enters a member's operation. -/
def OpK.receive (k : OpK) (i : Nat) (bs : List Byte) : OpK :=
  match k with
  | .mcast h g ps n y o c p gs got => .mcast h g ps n y o c p gs (mput got i bs)
  | k => k
def State.receive (s : State) (o i : Nat) (bs : List Byte) : State :=
  { s with ops := s.ops.map fun x => if x.id = o then { x with k := x.k.receive i bs } else x }
def State.updMcast (s : State) (d g : Nat) (f : Mcast → Mcast) : State := s.updDom d fun x => { x with mcasts := mupd x.mcasts g f }

/-- What the sending of a group's sectors comes to. -/
inductive Sent where
  | ok (s : State)
  | wait
  | refused (pa : Nat)

/-- The group sends its next sectors, up to number `i`, to every member it has (R238). -/
def State.sendThrough (s : State) (d g i : Nat) : Nat → Sent
  | 0 => .ok s
  | fuel + 1 =>
    match mfind (s.dom d).mcasts g with
    | none => .ok s
    | some m =>
      if i < m.sent then .ok s
      else match s.readSector (.slice d) d m.pins true (.glob (sourceSector m.pages m.sent)) with
        | .wait => .wait
        | .refused pa => .refused pa
        | .ok bs pins s =>
          let s := m.members.foldl (fun s o => s.receive o m.sent bs) s
          State.sendThrough (s.updMcast d g fun m => { m with sent := m.sent + 1, pins := pins }) d g i fuel
/-- Sectors `i` to `n` − 1 of a group are read again and sent to operation `o` alone (R239). -/
def State.resend (s : State) (d o : Nat) (pages : List Nat) (i n : Nat) (pins : List (Nat × Bool)) : Nat → Sent × List (Nat × Bool)
  | 0 => (.ok s, pins)
  | fuel + 1 =>
    if n ≤ i then (.ok s, pins)
    else match s.readSector (.slice d) d pins true (.glob (sourceSector pages i)) with
      | .wait => (.wait, pins)
      | .refused pa => (.refused pa, pins)
      | .ok bs pins s => State.resend (s.receive o i bs) d o pages (i + 1) n pins fuel

/-- A group whose last sector has been sent and that owes no late joiner anything is over (R238, R239). -/
def State.closeGroup (s : State) (d g : Nat) : State :=
  match mfind (s.dom d).mcasts g with
  | some m => if m.n / 64 ≤ m.sent && m.late.isEmpty then s.updDom d fun x => { x with mcasts := mdel x.mcasts g } else s
  | none => s

/-- CPYM_REQUEST_ARRIVAL: a request joins the open group of its tuple, as a window member or late, or opens one (R238, R239). -/
def execCpymRequestArrival (o : Nat) (s : State) : Out :=
  match s.op o with
  | some x =>
    match x.k with
    | .mcast h none pages n key ord scp p gs got =>
      s.copyGo x ord scp <|
        let join := fun (s : State) (g : Nat) (st : Nat) =>
          (s.setOp { x with k := .mcast h (some g) pages n key ord scp p gs got }).updCopyRec x fun r => { r with st := st, late := r.late || st = 2 }
        match (s.dom h).mcasts.find? fun q => q.2.pages = pages && q.2.n = n && q.2.key = key && q.2.scp = scp && q.2.sent < n / 64 with
        | some (g, m) =>
          if m.age < 64 && !m.closed then .next (join (s.updMcast h g fun m => { m with members := m.members ++ [o] }) g 1)
          else .next (join (s.updMcast h g fun m => { m with members := m.members ++ [o], late := m.late ++ [(o, m.sent)] }) g 2)
        | none =>
          let g := ((s.dom h).mcasts.map (·.1 + 1)).foldl max 0
          let m : Mcast := { pages := pages, n := n, key := key, scp := scp, members := [o], late := [], age := 0, closed := false, sent := 0, pins := [] }
          .next (join (s.updDom h fun y => { y with mcasts := mput y.mcasts g m }) g 1)
    | _ => .refused .notEnabled
  | none => .refused .notEnabled

/-- MULTICAST_WINDOW_CLOSE (R238). -/
def execMulticastWindowClose (d g : Nat) (s : State) : Out :=
  match mfind (s.dom d).mcasts g with
  | some m => if 64 ≤ m.age && !m.closed then .next (s.updMcast d g fun m => { m with closed := true }) else .refused .notEnabled
  | none => .refused .notEnabled

/-- LATE_JOINER_RESEND: the sectors the first late joiner missed are read again and sent to it alone (R239). -/
def execLateJoinerResend (d g : Nat) (s : State) : Out :=
  match mfind (s.dom d).mcasts g with
  | some m =>
    if m.sent < m.n / 64 then .refused .notEnabled
    else match m.late with
      | [] => .refused .notEnabled
      | (o, k0) :: rest =>
        match s.resend d o m.pages 0 k0 m.pins k0 with
        | (.ok s, pins) => .next ((s.updMcast d g fun m => { m with late := rest, pins := pins }).closeGroup d g)
        | (.wait, _) => .refused .notEnabled
        | (.refused pa, _) => .next (s.refuse (.slice d) pa)
  | none => .refused .notEnabled

/-- The bytes of a segment from its source sector. -/
def Seg.bytes (g : Seg) (sec : List Byte) : List Byte := (sec.drop (g.src.off % 64)).take g.n

/-- Write the segments `gs` of one destination sector with their bytes, and enter what is left. -/
def State.sectorDone (s : State) (x : Op) (shd : Bool) (scp : Nat) (gs : List (Seg × List Byte)) (k : OpK) : State :=
  let s := gs.foldl (fun s p => s.copyWrite x shd scp p.1 p.2) s
  (s.setOp { x with k := k }).updCopyRec x fun r => { r with done := r.done + 1 }

/-- What the reading of a copy's source sectors comes to: the sectors read, the operation with its pins. -/
inductive Gathered where
  | ok (got : List (Place × List Byte)) (x : Op) (s : State)
  | wait
  | refused (pa : Nat)

/-- Every source sector the segments need, read once (R246). -/
def State.gather (s : State) (x : Op) (got : List (Place × List Byte)) : List Seg → Gathered
  | [] => .ok got x s
  | g :: gs =>
    if got.any (·.1 = g.src.sector) then s.gather x got gs
    else match s.readSector (.op x.id) x.d x.pins false g.src.sector with
      | .wait => .wait
      | .refused pa => .refused pa
      | .ok bs pins s => State.gather s { x with pins := pins } (got ++ [(g.src.sector, bs)]) gs

/-- What reading the sectors of a tile image comes to: those read, a failure, a wait, a refusal by the home of an address. -/
inductive ImageRes where
  | ok (got : List (Place × List Byte)) (s : State)
  | failed (s : State)
  | wait (s : State)
  | refused (pa : Nat) (s : State)

/-- The sectors of an object's image at virtual addresses `vas`, each read once (R240, R246). -/
def State.imageSectors (s : State) (x : Op) (asid : Nat) (got : List (Place × List Byte)) : List Nat → ImageRes
  | [] => .ok got s
  | va :: vas =>
    if got.any (·.1 = .glob va) then s.imageSectors x asid got vas
    else match s.objTrans x.d asid va .load with
      | (.wait, s) => .wait s
      | (.bad _ _, s) => .failed s
      | (.ok pa _, s) =>
        if !t1Ok x.d pa then .failed s
        else if s.backing (.op x.id) pa then .wait s
        else if s.lineRefuses pa (.op x.id) then .refused pa s
        else State.imageSectors ((s.homeServe x.d (pa / 64)).served (.op x.id) pa) x asid (got ++ [(.glob va, s.viewBytes x.d true pa 64)]) vas
/-- The virtual address of byte `i` of a segment's source in an object's image, and the sectors the segment needs. -/
def Obj.srcVa (o : Obj) (g : Seg) (i : Nat) : Nat := (o.t1va + g.src.off + i) % 2 ^ 80
def Obj.srcSectors (o : Obj) (g : Seg) : List Nat := [o.srcVa g 0 / 64 * 64, o.srcVa g (g.n - 1) / 64 * 64].eraseDups
def Obj.segBytes (o : Obj) (got : List (Place × List Byte)) (g : Seg) : List Byte :=
  (List.range g.n).map fun i =>
    let va := o.srcVa g i
    match got.find? (·.1 = .glob (va / 64 * 64)) with
    | some p => p.2.getD (va % 64) 0#8
    | none => 0#8

/-- COPY_SECTOR_WRITE: the bytes of one destination sector are read, where they have not been, and written (R235, R238, R240, R247). -/
def execCopySectorWrite (o : Nat) (pl : Place) (s : State) : Out :=
  match s.op o with
  | none => .refused .notEnabled
  | some x =>
    let mine := fun (gs : List Seg) => gs.filter fun g => g.dst.sector = pl.sector
    let rest := fun (gs : List Seg) => gs.filter fun g => g.dst.sector != pl.sector
    let may := fun (shd : Bool) (scp : Nat) (gs : List Seg) (go : Out) =>
      if gs.isEmpty || gs.any (fun g => s.copyBlocked x shd (g.scp scp) g.dst) then .refused .notEnabled
      else match gs.findSome? fun g => s.copyRefused x shd (g.scp scp) g.dst with
        | some pa => .next (s.refuse (.op x.id) pa)
        | none => go
    match x.k with
    | .copy ord scp shd segs got =>
      s.copyGo x ord (segsScp scp segs) <| may shd scp (mine segs) <|
        -- a pinned copy into its own tile finishes its reads before it writes (R331)
        let own := (mine segs).any fun g => match g.dst with
          | .glob pa => (match (if shd then s.shadowOf pa else none) with | some (_, key, buf) => x.pins.contains (key, buf) | none => false)
          | _ => false
        match s.gather x got (if own then segs else mine segs) with
        | .wait => .refused .notEnabled
        | .refused pa => .next (s.refuse (.op x.id) pa)
        | .ok got x s =>
          let bytes := fun (g : Seg) => g.bytes (((got.find? fun p => p.1 = g.src.sector).map (·.2)).getD [])
          let x := if segs.all fun g => got.any (·.1 = g.src.sector) then { x with pins := [] } else x
          .next (s.sectorDone x shd scp ((mine segs).map fun g => (g, bytes g)) (.copy ord scp shd (rest segs) got))
    | .mcast h (some g) pages n key ord scp p segs got =>
      let need := (mine segs).map fun q => q.src.off / 64
      if need.all fun i => (mfind got i).isSome then
        may false scp (mine segs) <|
          .next (s.sectorDone x false scp ((mine segs).map fun q => (q, q.bytes ((mfind got (q.src.off / 64)).getD [])))
            (.mcast h (some g) pages n key ord scp p (rest segs) got))
      else match mfind (s.dom h).mcasts g with
        | none => .refused .notEnabled
        | some m =>
          let top := need.foldl max 0
          if !m.closed || top < m.sent then .refused .notEnabled
          else match s.sendThrough h g top (top + 1) with
            | .ok s => .next (s.closeGroup h g)
            | .wait => .refused .notEnabled
            | .refused pa => .next (s.refuse (.slice h) pa)
    | .tier i v 2 ord scp segs got =>
      s.copyGo x ord (segsScp scp segs) <| may false scp (mine segs) <|
        let y := (s.dom x.d).obj i
        match s.imageSectors x y.asid got ((mine segs).flatMap y.srcSectors) with
        | .ok got s => .next (s.sectorDone x false scp ((mine segs).map fun g => (g, y.segBytes got g)) (.tier i v 2 ord scp (rest segs) got))
        | .refused pa t => .next (t.refuse (.op x.id) pa)
        | .failed t => .next (((t.unpin x.d i).logEvent 0x42 x.d 0xFF).tierFail x)
        | .wait t => s.waiting t
    | _ => .refused .notEnabled

/-- COPY_COMPLETION: the last write has been performed, and record and slot complete (R235, R240). -/
def execCopyCompletion (o : Nat) (s : State) : Out :=
  match s.op o with
  | none => .refused .notEnabled
  | some x =>
    if s.sidHeld x.d then .refused .notEnabled
    else match x.k with
    | .copy _ _ _ [] _ | .mcast _ (some _) _ _ _ _ _ _ [] _ => .next (s.endCopy x 3)
    | .tier i _ 2 _ _ [] _ => .next ((s.unpin x.d i).endCopy x 3)
    | .tier _ _ 3 _ _ _ _ => .next (s.endCopy x 3)
    | .tier _ _ 4 _ _ _ _ => .next (s.endCopy x 5)
    | _ => .refused .notEnabled

end Sys2Proof.Machine
end

