-- ==== Sys2Proof/Machine/Num.lean ====
section
/-! DEFINITION. Number formats and rounding (04): exact values, the element formats, RoundTo, exact sums, and the FP32 functions
of the vector engine. A magnitude code is the encoding without its sign; codes rise with the value, so that the two neighbours
of R92 are consecutive codes. -/

namespace Sys2Proof.Machine

/-- An exact value: NaN, an infinity, or ±m × 2^e; `more` says that the magnitude lies strictly between m and m + 1 units. -/
inductive Val where
  | nan
  | inf (neg : Bool)
  | fin (neg : Bool) (m : Nat) (e : Int) (more : Bool)
deriving DecidableEq, Repr

/-- The counted event of a RoundTo call (Table 04-5). -/
inductive NumEvent where
  | none | sat | flush | nan
deriving DecidableEq, Repr

/-- A floating format: trailing bits, exponent of the least subnormal, largest finite magnitude code, code of infinity (extended
domain), width without the sign, whether it has a sign, whether zeros keep their sign, the canonical NaN (R86 to R88). -/
structure Fmt where
  t : Nat
  qmin : Int
  maxc : Nat
  infc : Option Nat
  bits : Nat
  signed : Bool
  szero : Bool
  nanw : Nat
deriving DecidableEq, Repr

def fp32 : Fmt := ⟨23, -149, 0x7F7FFFFF, some 0x7F800000, 31, true, true, 0x7FC00000⟩
def bf16 : Fmt := ⟨7, -133, 0x7F7F, some 0x7F80, 15, true, true, 0x7FC0⟩
def fp16 : Fmt := ⟨10, -24, 0x7BFF, some 0x7C00, 15, true, true, 0x7E00⟩

/-- The binary8 format of codes 0 to 27: code = 4 (P − 1) + 2 n + x (R81, R86, R87). -/
def bin8 (code : Nat) : Fmt :=
  let t := code / 4
  let ext := code % 2 = 1
  if code / 2 % 2 = 0 then
    let w := 7 - t
    ⟨t, 1 - (2 ^ (w - 1) : Nat) - t, if ext then 0x7E else 0x7F, if ext then some 0x7F else none, 7, true, false, 0x80⟩
  else
    let w := 8 - t
    ⟨t, 1 - (2 ^ (w - 1) : Nat) - t, if ext then 0xFD else 0xFE, if ext then some 0xFE else none, 8, false, false, 0xFF⟩

/-- The format of a format code 0 to 30 (Table 03-12). -/
def fmtOf (code : Nat) : Fmt := if code = 28 then bf16 else if code = 29 then fp16 else if code = 30 then fp32 else bin8 code

/-- Whether a format code names one byte per element. -/
def fmtByte (code : Nat) : Bool := code ≤ 27 || code = 31

/-- The exponent of the units of a magnitude code. -/
def Fmt.unit (f : Fmt) (c : Nat) : Int := f.qmin + ((c / 2 ^ f.t - 1 : Nat) : Int)

/-- The significand of a magnitude code in units of `Fmt.unit`. -/
def Fmt.sig (f : Fmt) (c : Nat) : Nat := if c / 2 ^ f.t = 0 then c else 2 ^ f.t + c % 2 ^ f.t

/-- The value of an encoding (R86 to R88). -/
def Fmt.val (f : Fmt) (w : Nat) : Val :=
  if f.szero then
    let c := w % 2 ^ f.bits
    let neg := w / 2 ^ f.bits % 2 = 1
    if f.infc = some c then .inf neg
    else if c > f.infc.getD f.maxc then .nan
    else .fin neg (f.sig c) (f.unit c) false
  else if w = f.nanw then .nan
  else
    let neg := f.signed && w / 128 % 2 = 1
    let c := if f.signed then w % 128 else w
    if f.infc = some c then .inf neg else .fin neg (f.sig c) (f.unit c) false

/-- An integer as a value. -/
def Val.ofInt (i : Int) : Val := .fin (i < 0) i.natAbs 0 false

/-- The value of an element of format code 0 to 31; code 31 is I8 (R81). -/
def valOf (code w : Nat) : Val := if code = 31 then Val.ofInt (BitVec.ofNat 8 w).toInt else (fmtOf code).val w

def f32 (w : Word) : Val := fp32.val w.toNat
def zeroV : Val := .fin false 0 0 false

/-! ## Rounding -/

/-- How m × 2^(−sh) rounds: quotient, and whether the exact value lies above it, under rounding code `rnd` with draw `r` (R93, R94);
the result is the chosen neighbour. -/
def roundShift (rnd : Nat) (r : Word) (m sh : Nat) (more : Bool) : Nat :=
  let n := m >>> sh
  let exact := !more && (n <<< sh == m)
  if exact then n
  else match rnd with
    | 0 =>
      let rem2 := 2 * (m - (n <<< sh))
      if sh > Nat.log2 m + 2 then n
      else if rem2 > 2 ^ sh then n + 1
      else if rem2 < 2 ^ sh then n
      else if more then n + 1
      else if n % 2 = 1 then n + 1 else n
    | 1 => n
    | _ => if r.toNat < ((m - (n <<< sh)) * 2 ^ 32) >>> sh then n + 1 else n

/-- The magnitude code that ±m × 2^e rounds to, the exponent range unbounded above (R92). `parity` of a code is its lowest bit. -/
def Fmt.roundCode (f : Fmt) (rnd : Nat) (r : Word) (m : Nat) (e : Int) (more : Bool) : Nat :=
  let k : Int := (Nat.log2 m : Int) + e
  let u : Int := if k < f.qmin + f.t then f.qmin else k - f.t
  let base : Nat := (u - f.qmin).toNat * 2 ^ f.t
  if u ≤ e then base + m <<< (e - u).toNat
  else
    let sh := (u - e).toNat
    let n := m >>> sh
    -- the tie rule looks at the parity of the code, which for T = 0 is not that of the significand
    if f.t = 0 then
      let c := base + n
      let rem2 := 2 * (m - (n <<< sh))
      if !more && n <<< sh == m then c
      else if rnd = 0 then
        if sh > Nat.log2 m + 2 then c
        else if rem2 > 2 ^ sh then c + 1
        else if rem2 < 2 ^ sh then c
        else if more then c + 1
        else if c % 2 = 1 then c + 1 else c
      else base + roundShift rnd r m sh more
    else base + roundShift rnd r m sh more

/-- An encoding from sign and magnitude code. -/
def Fmt.enc (f : Fmt) (neg : Bool) (c : Nat) : Nat :=
  if f.signed && neg && (f.szero || c != 0) then c + 2 ^ f.bits else c

/-- RoundTo on a floating target: encoding and event (R92 to R97, Table 04-5). -/
def Fmt.round (f : Fmt) (rnd : Nat) (r : Word) (x : Val) : Nat × NumEvent :=
  match x with
  | .nan => (f.nanw, .nan)
  | .inf neg =>
    if neg && !f.signed then (0, .sat)
    else match f.infc with
      | some c => (f.enc neg c, .none)
      | none => (f.enc neg f.maxc, .sat)
  | .fin neg m e more =>
    if m = 0 && !more then (f.enc neg 0, .none)
    else if neg && !f.signed then (0, .sat)
    else
      let c := f.roundCode rnd r m e more
      if c > f.maxc then
        match f.infc with
        | some i => if rnd = 0 then (f.enc neg i, .sat) else (f.enc neg f.maxc, .sat)
        | none => (f.enc neg f.maxc, .sat)
      else if c = 0 then (f.enc neg 0, .flush)
      else (f.enc neg c, .none)

/-- RoundTo on an integer target of `w` bits (Table 04-5, R97): the encoding in `w` bits and the event. -/
def roundInt (signed : Bool) (w rnd : Nat) (r : Word) (x : Val) : Nat × NumEvent :=
  let mx : Nat := if signed then 2 ^ (w - 1) - 1 else 2 ^ w - 1
  let mn : Nat := if signed then 2 ^ (w - 1) else 0
  let enc := fun (neg : Bool) (c : Nat) => if neg && c != 0 then 2 ^ w - c else c
  match x with
  | .nan => (0, .nan)
  | .inf neg => (enc neg (if neg then mn else mx), .sat)
  | .fin neg m e more =>
    if m = 0 && !more then (0, .none)
    else if neg && !signed then (0, .sat)
    else
      let c := if 0 ≤ e then (if Nat.log2 m + e.toNat > 70 then 2 ^ 70 else m <<< e.toNat) else roundShift rnd r m (-e).toNat more
      let lim := if neg then mn else mx
      if c > lim then (enc neg lim, .sat)
      else if c = 0 then (0, .flush)
      else (enc neg c, .none)

/-- RoundTo by format code 0 to 31 (R81, R92). -/
def roundTo (code rnd : Nat) (r : Word) (x : Val) : Nat × NumEvent :=
  if code = 31 then roundInt true 8 rnd r x else (fmtOf code).round rnd r x

/-- RoundTo(FP32, 0, x, _): the FP32 bits. -/
def rn32 (x : Val) : Word := BitVec.ofNat 32 (fp32.round 0 0#32 x).1

/-- One step of the lane generator (R95). -/
def advGen (g : Word) : Word := if g.getLsbD 0 then (g >>> 1) ^^^ 0x80200003#32 else g >>> 1

/-! ## Exact arithmetic (R99, R100, R161) -/

def Val.isNaN : Val → Bool
  | .nan => true
  | _ => false
def Val.isZero : Val → Bool
  | .fin _ m _ more => m = 0 && !more
  | _ => false
def Val.sign : Val → Bool
  | .nan => false
  | .inf n => n
  | .fin n _ _ _ => n
def Val.neg : Val → Val
  | .nan => .nan
  | .inf n => .inf !n
  | .fin n m e s => .fin (!n) m e s

/-- The signed integer significand in units of 2^e0, for e0 not above the exponent. -/
def sigAt (n : Bool) (m : Nat) (e e0 : Int) : Int :=
  let x : Nat := m <<< (e - e0).toNat
  if n then -(x : Int) else x

/-- IEEE addition, exact; an exact zero of unlike terms is +0. -/
def Val.add (a b : Val) : Val :=
  match a, b with
  | .nan, _ => .nan
  | _, .nan => .nan
  | .inf n, .inf n' => if n = n' then .inf n else .nan
  | .inf n, _ => .inf n
  | _, .inf n => .inf n
  | .fin n m e _, .fin n' m' e' _ =>
    if m = 0 && m' = 0 then .fin (n && n') 0 0 false
    else if m = 0 then .fin n' m' e' false
    else if m' = 0 then .fin n m e false
    else
      let e0 := min e e'
      let x := sigAt n m e e0 + sigAt n' m' e' e0
      .fin (x < 0) x.natAbs e0 false

/-- IEEE multiplication, exact. -/
def Val.mul (a b : Val) : Val :=
  match a, b with
  | .nan, _ => .nan
  | _, .nan => .nan
  | .inf n, .inf n' => .inf (n != n')
  | .inf n, .fin n' m' _ _ => if m' = 0 then .nan else .inf (n != n')
  | .fin n m _ _, .inf n' => if m = 0 then .nan else .inf (n != n')
  | .fin n m e _, .fin n' m' e' _ => .fin (n != n') (m * m') (e + e') false

/-- A product of R99: a zero factor gives exact +0 whatever the other is. -/
def Val.prod (a b : Val) : Val := if a.isZero || b.isZero then zeroV else a.mul b

/-- The exact sum s_k of R100: NaN, then infinities, then the real sum; an exact zero is +0. -/
def sumVals (xs : List Val) : Val :=
  if xs.any Val.isNaN then .nan
  else if xs.contains (.inf true) then (if xs.contains (.inf false) then .nan else .inf true)
  else if xs.contains (.inf false) then .inf false
  else
    let es := xs.filterMap fun v => match v with | .fin _ m e _ => if m = 0 then none else some e | _ => none
    match es with
    | [] => zeroV
    | e1 :: rest =>
      let e0 := rest.foldl min e1
      let t := xs.foldl (fun (acc : Int) v => match v with | .fin n m e _ => if m = 0 then acc else acc + sigAt n m e e0 | _ => acc) 0
      .fin (t < 0) t.natAbs e0 false

/-- A value times 2^n. -/
def Val.scale (v : Val) (n : Int) : Val :=
  match v with
  | .fin neg m e s => .fin neg m (e + n) s
  | v => v

/-- An E8M0 scale applied to a value (R90): 0xFF makes NaN even of a zero. -/
def Val.mx (v : Val) (scale : Nat) : Val := if scale = 255 then .nan else v.scale ((scale : Int) - 127)

/-- floor(log2 |x|) of a non-zero finite value. -/
def Val.log2 (m : Nat) (e : Int) : Int := (Nat.log2 m : Int) + e

/-! ## FP32 operations on words (Table 06-5, R160 to R163) -/

def nan32 : Word := 0x7FC00000#32
def isNaN32 (w : Word) : Bool := (w &&& 0x7FFFFFFF#32).toNat > 0x7F800000

/-- Order key of a non-NaN encoding of a signed format with `bits` magnitude bits: −0 below +0. -/
def ordKey (bits w : Nat) : Int := if w / 2 ^ bits % 2 = 1 then -((w % 2 ^ bits : Nat) : Int) - 1 else ((w % 2 ^ bits : Nat) : Int)
/-- Value key: −0 and +0 agree. -/
def valKey (bits w : Nat) : Int := if w / 2 ^ bits % 2 = 1 then -((w % 2 ^ bits : Nat) : Int) else ((w % 2 ^ bits : Nat) : Int)

/-- FMIN or FMAX of two encodings of a wide format (Table 06-5). -/
def Fmt.minmax (f : Fmt) (mx : Bool) (a b : Nat) : Nat :=
  let na := (f.val a).isNaN
  let nb := (f.val b).isNaN
  if na && nb then f.nanw else if na then b else if nb then a
  else if mx then (if ordKey f.bits a ≥ ordKey f.bits b then a else b)
  else (if ordKey f.bits a ≤ ordKey f.bits b then a else b)

def fmin32 (a b : Word) : Word := BitVec.ofNat 32 (fp32.minmax false a.toNat b.toNat)
def fmax32 (a b : Word) : Word := BitVec.ofNat 32 (fp32.minmax true a.toNat b.toNat)
def fadd32 (a b : Word) : Word := rn32 ((f32 a).add (f32 b))
def fmul32 (a b : Word) : Word := rn32 ((f32 a).mul (f32 b))
def ffma32 (c a b : Word) : Word := rn32 ((f32 c).add ((f32 a).mul (f32 b)))
def fneg32 (a : Word) : Word := a ^^^ 0x80000000#32

/-- FRND: an FP32 value rounded to an integral one (Table 06-5). -/
def frnd32 (mode : Nat) (a : Word) : Word :=
  match f32 a with
  | .nan => nan32
  | .inf _ => a
  | .fin neg m e _ =>
    if 0 ≤ e then a
    else
      let sh := (-e).toNat
      let q := m >>> sh
      let exact := q <<< sh == m
      let n :=
        match mode with
        | 0 => roundShift 0 0#32 m sh false
        | 1 => q
        | 2 => if neg && !exact then q + 1 else q
        | _ => if !neg && !exact then q + 1 else q
      rn32 (.fin neg n 0 false)

/-- Whether a < b as FP32 numbers; false with a NaN. -/
def flt32 (a b : Word) : Bool := !isNaN32 a && !isNaN32 b && valKey 31 a.toNat < valKey 31 b.toNat

/-- FCLMP: value c into [lo, hi] (Table 06-5). -/
def fclmp32 (c lo hi : Word) : Word := if flt32 hi lo then hi else fmin32 (fmax32 c lo) hi

/-- FSCALE: a × 2^n (Table 06-5). The bound on n changes no result: beyond it every value has long passed the FP32 range. -/
def fscale32 (a n : Word) : Word :=
  match f32 a with
  | .nan => nan32
  | .inf _ => a
  | .fin neg m e _ => if m = 0 then a else rn32 (.fin neg m (e + max (-1000) (min 1000 n.toInt)) false)

/-- FEXP (Table 06-5). -/
def fexp32 (a : Word) : Word :=
  match f32 a with
  | .fin _ m e _ => if m = 0 then 0x80000000#32 else BitVec.ofInt 32 (Val.log2 m e)
  | _ => 0x7FFFFFFF#32

/-- The integer square root by Newton's iteration from above. -/
def isqrtLoop (n : Nat) : Nat → Nat → Nat
  | 0, x => x
  | k + 1, x =>
    let y := (x + n / x) / 2
    if y < x then isqrtLoop n k y else x
def isqrt (n : Nat) : Nat := if n = 0 then 0 else isqrtLoop n 60 (2 ^ (Nat.log2 n / 2 + 1))

/-- RCP (R162, Table 06-6). -/
def rcp32 (a : Word) : Word :=
  match f32 a with
  | .nan => nan32
  | .inf neg => rn32 (.fin neg 0 0 false)
  | .fin neg m e _ =>
    if m = 0 then rn32 (.inf neg)
    else
      let k := Nat.log2 m + 64
      rn32 (.fin neg (2 ^ k / m) (-(k : Int) - e) (2 ^ k % m != 0))

/-- SQRT (R162, Table 06-6). -/
def sqrt32 (a : Word) : Word :=
  match f32 a with
  | .nan => nan32
  | .inf neg => if neg then nan32 else a
  | .fin neg m e _ =>
    if m = 0 then a else if neg then nan32
    else
      let sh : Nat := 80 + (e % 2).toNat
      let x := m <<< sh
      let r := isqrt x
      rn32 (.fin false r ((e - sh) / 2) (r * r != x))

/-- RSQ (R162, Table 06-6). -/
def rsq32 (a : Word) : Word :=
  match f32 a with
  | .nan => nan32
  | .inf neg => if neg then nan32 else 0#32
  | .fin neg m e _ =>
    if m = 0 then rn32 (.inf neg) else if neg then nan32
    else
      -- 1/√(m 2^e) = √(2^k / m) 2^(−(k + e)/2) with k + e even
      let k : Nat := 160 + (e % 2).toNat
      let q := 2 ^ k / m
      let r := isqrt q
      rn32 (.fin false r (-((k : Int) + e) / 2) (r * r * m != 2 ^ k))

/-- 2^f for a fraction f = fr / 2^128 in [0, 1), in units of 2^−192: the product of 2^(2^−i) over the set bits of f. -/
def exp2Frac (fr : Nat) : Nat → Nat → Nat → Nat
  | 0, _, acc => acc
  | k + 1, c, acc =>
    -- c is 2^(2^−(128 − k)) in units of 2^−192
    exp2Frac fr k (isqrt (c * 2 ^ 192)) (if fr.testBit k then acc * c / 2 ^ 192 else acc)

/-- EXP2 (R162, Table 06-6), from 192 fraction bits. DEDUCED, log 7: that precision decides every rounding. unsafe. -/
def exp232 (a : Word) : Word :=
  match f32 a with
  | .nan => nan32
  | .inf neg => if neg then 0#32 else a
  | .fin neg m e _ =>
    if m = 0 then 0x3F800000#32
    else if Val.log2 m e ≥ 8 then (if neg then 0#32 else 0x7F800000#32)
    else
      -- x in units of 2^−128, rounded down; smaller bits only make the result inexact
      let x : Nat := if 0 ≤ e + 128 then m <<< (e + 128).toNat else m >>> (-(e + 128)).toNat
      let lost : Bool := e + 128 < 0
      let xi : Int := if neg then -(x : Int) - (if lost then 1 else 0) else x
      let n : Int := xi / 2 ^ 128
      let fr : Nat := (xi % 2 ^ 128).toNat
      if fr = 0 && !lost then rn32 (.fin false 1 n false)
      else rn32 (.fin false (exp2Frac fr 128 (isqrt (2 * 2 ^ 384)) (2 ^ 192)) (n - 192) true)

/-- The fraction bits of log2 u for u in [1, 2) in units of 2^−384, by squaring. -/
def log2Frac : Nat → Nat → Nat → Nat
  | 0, _, acc => acc
  | k + 1, u, acc =>
    let v := u * u / 2 ^ 384
    if v ≥ 2 ^ 385 then log2Frac k (v / 2) (2 * acc + 1) else log2Frac k v (2 * acc)

/-- LOG2 (R162, Table 06-6), from 128 fraction bits. DEDUCED, log 7. unsafe. -/
def log232 (a : Word) : Word :=
  match f32 a with
  | .nan => nan32
  | .inf neg => if neg then nan32 else a
  | .fin neg m e _ =>
    if m = 0 then 0xFF800000#32 else if neg then nan32
    else
      let k := Val.log2 m e
      if 2 ^ Nat.log2 m = m then rn32 (Val.ofInt k)
      else
        let y : Int := k * 2 ^ 128 + (log2Frac 128 (m <<< (384 - Nat.log2 m)) 0 : Nat)
        rn32 (if y < 0 then .fin true (-y - 1).toNat (-128) true else .fin false y.toNat (-128) true)

end Sys2Proof.Machine
end

