-- ==== Sys2Proof/Machine/Flags.lean ====
section
/-! DEFINITION. Compare conditions (Table 06-4) and the exception counters (R102, R103). -/

namespace Sys2Proof.Machine

/-- A condition of ICMP on ordered keys (Table 06-4). -/
def condHolds (cond : Nat) (lt eq : Bool) : Bool :=
  match cond with
  | 0 => eq
  | 1 => !eq
  | 2 => lt
  | 3 => lt || eq
  | 4 => !lt && !eq
  | _ => !lt
/-- ICMP (R160). -/
def icmp (unsigned : Bool) (cond : Nat) (a b : Word) : Bool :=
  condHolds cond (if unsigned then a.ult b else a.slt b) (a = b)
/-- FCMP: −0 equals +0; a NaN makes every condition false except NE and NAN (R160). -/
def fcmp (cond : Nat) (a b : Word) : Bool :=
  let nan := isNaN32 a || isNaN32 b
  match cond with
  | 6 => !nan
  | 7 => nan
  | _ =>
    if nan then cond = 1
    else condHolds cond (valKey 31 a.toNat < valKey 31 b.toNat) (valKey 31 a.toNat = valKey 31 b.toNat)

/-- Index of an event's counter in its set (R102). -/
def NumEvent.index : NumEvent → Option Nat
  | .none => Option.none
  | .sat => some 0
  | .flush => some 1
  | .nan => some 2

/-- Count events under tensor identifier `tid`; a counter stops at 2^32 − 1; the handler slot has none (R103, R125). -/
def Block.count (b : Block) (tid : Nat) (evs : List NumEvent) : Block :=
  if b.isHandler then b
  else evs.foldl (fun b ev => match ev.index with
    | some i =>
      let k := 3 * tid + i
      let c := mget 0#32 b.cnt k
      if c = 0xFFFFFFFF#32 then b else { b with cnt := mset 0#32 b.cnt k (c + 1) }
    | none => b) b

end Sys2Proof.Machine
end

