-- ==== Sys2Proof/Machine/Matrix.lean ====
section
/-! DEFINITION. The matrix engine: operand capture (R257 to R259, R263, R264), tile arithmetic (R99 to R101, R266 to R271), the rendezvous
of quartets (R261, R262), opcodes 0xA0 to 0xAB and MATRIX_COMPLETION. -/

namespace Sys2Proof.Machine

/-! ## Capture (R258) -/

/-- A lane of an absent quad (R16). -/
def Block.absent (b : Block) (w L : Nat) : Bool := rLanes b.lrec ≤ 32 * w + L / 4 * 4
/-- Registers v_r to v_(r + n − 1) in all 32 lanes, by 32 j + lane; an absent quad supplies 0. -/
def Block.laneWords (b : Block) (w r n : Nat) : AMap Word :=
  (List.range n).foldl (fun m j => (List.range 32).foldl (fun m L =>
    mset 0#32 m (32 * j + L) (if b.absent w L then 0#32 else b.vread (b.warp w) (r + j) L)) m) []

def opMul (op : Nat) : Bool := op ≤ 0xA5
/-- Registers of the A, B operand of an opcode (Table 10-4). -/
def mtxNA (op : Nat) : Nat := [8, 4, 0, 8, 8, 4, 0, 0, 8, 1, 0, 0].getD (op - 0xA0) 0
def mtxNB (op : Nat) : Nat := if opMul op && op != 0xA3 then 8 else 0
/-- The v-registers a matrix word uses (R72, R265). -/
def mtxVs (op : Nat) (f : MtxW) : List Nat :=
  let a := f.ar.toNat
  let b := f.br.toNat
  let n := if op = 0xA7 || op = 0xAA then 8 else if op = 0xAB then 1 else mtxNA op
  (List.range n).map (a + ·) ++ (List.range (if op = 0xAB then 1 else mtxNB op)).map (b + ·)
    ++ (if mSC f.lit then (if opMul op then [mSA f.lit, mSB f.lit] else [mSA f.lit]) else [])

/-- The values that a byte of scratch may read as through the matrix port for warp `w`, or the sequencer (16): those of stores that it need not see yet overwrote, and
the newest (R47). -/
def Block.portValues (b : Block) (w o : Nat) : List Byte :=
  let on := b.scrH.filter fun r => r.off ≤ o && o < r.off + r.old.length
  -- a store that is seen is newer than all that it and its forerunners overwrote
  let unseen := (on.reverse.takeWhile fun r => !r.seen w).reverse
  (unseen.filterMap fun r => r.old[o - r.off]?) ++ [mget 0#8 b.scr o]
/-- Those of `n` bytes from `o` on. -/
def Block.portImage (b : Block) (w o n : Nat) : AMap (List Byte) :=
  (List.range n).foldl (fun m i => mput m (o + i) (b.portValues w (o + i))) []

/-- The operands of warp `w`, writing tile `t`; offsets are read from the s-registers of `u`; `sq`: the sequencer replays the word. -/
def Block.capture (b : Block) (op : Nat) (f : MtxW) (w t : Nat) (u : Warp) (sq : Bool) : MtxMem :=
  let wp := b.warp w
  let sc := mSC f.lit
  let aoff := if op = 0xA2 then (u.sreg (f.ar.toNat % 16)).toNat else 0
  let boff := if op = 0xA3 then (u.sreg (f.br.toNat % 16)).toNat else 0
  { w := w, tile := t, tid := wp.tid, areg := b.laneWords w f.ar.toNat (mtxNA op), breg := b.laneWords w f.br.toNat (mtxNB op),
    sa := if sc then b.laneWords w (mSA f.lit) 1 else [],
    sb := if op = 0xAA then (List.range 32).foldl (fun m L => mset 0#32 m L (wp.lane L).gen) []
      else if sc then b.laneWords w (mSB f.lit) 1 else [],
    map := wp.spmMap, idx := wp.spmIdx, aoff := aoff, boff := boff, live := wp.contrib 0xFFFFFFFF#32, seq := sq,
    img := if op = 0xA2 then b.portImage (if sq then 16 else w) aoff 1024
      else if op = 0xA3 then b.portImage (if sq then 16 else w) (boff + 1024 * (w % 4)) 1024 else [] }

/-! ## Operand elements (Table 10-3) -/

/-- Element (r, k) of an operand whose words are `get`, by byte or by half. -/
def elemAt (byte : Bool) (get : Nat → Word) (r k : Nat) : Nat :=
  if byte then ((get (32 * (k % 32 / 4) + r + 16 * (k / 32))).extractLsb' (8 * (k % 4)) 8).toNat
  else ((get (32 * (k % 16 / 2) + r + 16 * (k / 16))).extractLsb' (16 * (k % 2)) 16).toNat
/-- Element (m, k) of the effective sparse slice (R264). -/
def sparseAt (byte : Bool) (get : Nat → Word) (map : BitVec 64) (idx : AMap (BitVec 16)) (m k : Nat) : Nat :=
  if !map.getLsbD k then 0
  else
    let c := (List.range k).countP map.getLsbD
    let i := mget 0#16 idx c
    let g := m / 4
    let val := fun (v : Nat) =>
      if byte then ((get (32 * (c / 16) + 2 * (c % 16) + v / 4)).extractLsb' (8 * (v % 4)) 8).toNat
      else ((get (32 * (c / 8) + 4 * (c % 8) + v / 2)).extractLsb' (16 * (v % 2)) 16).toNat
    if m % 4 = (i.extractLsb' (4 * g + 2) 2).toNat then val (2 * g + 1) else if m % 4 = (i.extractLsb' (4 * g) 2).toNat then val (2 * g) else 0

/-- A byte of scratch as the matrix port reads it for a member: the newest, or with draw `pick` any of the values it had or may have had since
issue (R47, R259). -/
def MtxMem.portByte (x : MtxMem) (b : Block) (pick : Option Nat) (o : Nat) : Byte :=
  match pick with
  | none => mget 0#8 b.scr o
  | some n =>
    let vs := b.portValues (if x.seq then 16 else x.w) o ++ (mfind x.img o).getD []
    vs.getD (Config.freePick n o % vs.length) 0#8
def MtxMem.portWord (x : MtxMem) (b : Block) (pick : Option Nat) (o : Nat) : Word :=
  x.portByte b pick (o + 3) ++ x.portByte b pick (o + 2) ++ x.portByte b pick (o + 1) ++ x.portByte b pick o

/-- A operand element (m, k) of a member; B operand element (k, n) of its quarter, column n mod 16. -/
def MtxMem.aAt (x : MtxMem) (b : Block) (op : Nat) (lit : Word) (pick : Option Nat) (m k : Nat) : Nat :=
  let byte := fmtByte (mFA lit)
  let reg := fun i => mget 0#32 x.areg i
  if op = 0xA2 then elemAt byte (fun i => x.portWord b pick (x.aoff + 4 * i)) m k
  else if op = 0xA1 || op = 0xA5 then sparseAt byte reg x.map x.idx m k else elemAt byte reg m k
def MtxMem.bAt (x : MtxMem) (b : Block) (op q : Nat) (lit : Word) (pick : Option Nat) (k n : Nat) : Nat :=
  let byte := fmtByte (mFB lit)
  if op = 0xA3 then elemAt byte (fun i => x.portWord b pick (x.boff + 1024 * q + 4 * i)) (n % 16) k
  else elemAt byte (fun i => mget 0#32 x.breg i) (n % 16) k
/-- A scale byte: lane 16 b + r of a scale register. -/
def scaleAt (sa : AMap Word) (bs r b : Nat) : Nat := ((mget 0#32 sa (16 * b + r)).extractLsb' (8 * bs) 8).toNat

/-! ## Tile arithmetic -/

/-- One element of a product (R99 to R101, R266): from codes by k and scales by K block. DESIGN CHOICE, log 92: a dead column or row of a sparse A
takes part as a +0 under its A scale, as in a dense A, so that a scale of 0xFF makes it a NaN. unsafe. -/
def mulCell (lit : Word) (a b : Nat → Nat) (ea eb : Nat → Nat) (old : Word) : Word × List NumEvent :=
  let c0 := if mZ lit then 0#32 else old
  if mFA lit = 31 then
    (c0 + BitVec.ofInt 32 ((List.range 64).foldl (fun (t : Int) k => t + (BitVec.ofNat 8 (a k)).toInt * (BitVec.ofNat 8 (b k)).toInt) 0), [])
  else
    let val := fun (fmt x e : Nat) => if mSC lit then (valOf fmt x).mx e else valOf fmt x
    (List.range (if fmtByte (mFA lit) then 2 else 1)).foldl (fun (acc : Word × List NumEvent) blk =>
      let s := sumVals ((List.range 32).map fun i => (val (mFA lit) (a (32 * blk + i)) (ea blk)).prod (val (mFB lit) (b (32 * blk + i)) (eb blk)))
      let t := fp32.round 0 0#32 s
      let c := fp32.round 0 0#32 ((f32 acc.1).add (f32 (BitVec.ofNat 32 t.1)))
      (BitVec.ofNat 32 c.1, acc.2 ++ [t.2, c.2])) (c0, [])

def Block.accWord (b : Block) (t m n : Nat) : Word := mget 0#32 b.acc (1024 * t + 64 * m + n)
/-- Replace the words of some columns of a tile by `f` of row, column and old word, counting under `tid` (R273). -/
def Block.tileMap (b : Block) (t : Nat) (cols : List Nat) (tid : Nat) (f : Nat → Nat → Word → Word × List NumEvent) : Block :=
  let new := (List.range 16).flatMap fun m => cols.map fun n => (1024 * t + 64 * m + n, f m n (b.accWord t m n))
  Block.count { b with acc := new.foldl (fun a p => mset 0#32 a p.1 p.2.1) b.acc } tid (new.flatMap (·.2.2))

/-- The product written to the tile of member `x` (R266, R267). -/
def Block.product (b : Block) (op : Nat) (lit : Word) (pick : Option Nat) (mems : List MtxMem) (x : MtxMem) (out : Block) : Block :=
  let cols := if op = 0xA4 || op = 0xA5 then 16 else 64
  out.tileMap x.tile (List.range cols) x.tid fun m n old =>
    let y := mems.getD (n / 16) x
    mulCell lit (x.aAt b op lit pick m) (fun k => y.bAt b op (n / 16) lit pick k n) (scaleAt x.sa (mBSA lit) m) (scaleAt y.sb (mBSB lit) (n % 16)) old

/-- ACCCV's result word j of lane L, and its events (R271). -/
def Block.cvWord (b : Block) (lit : Word) (x : MtxMem) (gens : Nat → Word) (L j : Nat) : Word × List NumEvent :=
  let byte := fmtByte (mFA lit)
  let rnd := (lit.extractLsb' 22 2).toNat
  let per := if byte then 4 else 2
  let e := scaleAt x.sa (mBSA lit) L 0
  let one := fun (t : Nat) =>
    let n := if byte then 32 * (L / 16) + 4 * j + t else 32 * mBSB lit + 16 * (L / 16) + 2 * j + t
    let w := b.accWord x.tile (L % 16) n
    let v := if lit.getLsbD 26 then Val.ofInt w.toInt else f32 w
    let v := if mSC lit then (if e = 255 then .nan else v.scale (127 - (e : Int))) else v
    roundTo (mFA lit) rnd (gens (per * j + t)) v
  (List.range per).foldl (fun (acc : Word × List NumEvent) t =>
    let r := one t
    (acc.1 ||| BitVec.ofNat 32 (r.1 * 2 ^ (32 / per * t)), acc.2 ++ [r.2])) (0#32, [])
/-- The generator after `n` draws. -/
def advGenN (g : Word) : Nat → Word
  | 0 => g
  | n + 1 => advGenN (advGen g) n

/-- Register results go to the lanes neither exited nor absent (R258). -/
def Block.resultLanes (b : Block) (w : Nat) : Mask := maskOf fun L => ((b.warp w).lane L).st != .exited && !b.absent w L

/-- What a matrix operation does when it completes (R266 to R271). -/
def Block.matrix (b : Block) (op : Nat) (lit : Word) (dst : Nat) (pick : Option Nat) (mems : List MtxMem) : Block :=
  let x := mems.headD { w := 0, tile := 0, tid := 0, areg := [], breg := [], sa := [], sb := [], map := 0, idx := [], aoff := 0, boff := 0, live := 0, img := [], seq := false }
  let t := x.tile
  let wp := b.warp x.w
  let group := fun (L j : Nat) => 16 * mBSB lit + 8 * (L / 16) + j
  match op with
  | 0xA6 => { b with acc := b.acc.filter fun p => p.1 / 1024 != t }
  | 0xA7 => (List.range 8).foldl (fun b j => b.vwriteLanes wp (dst + j) (b.resultLanes x.w) fun L => b.accWord t (L % 16) (group L j)) b
  | 0xA8 =>
    b.tileMap t ((List.range 16).map (16 * mBSB lit + ·)) x.tid fun m n old =>
      let v := mget 0#32 x.areg (32 * (n % 8) + m + 16 * (n % 16 / 8))
      if mZ lit then (v, [])
      else if mFA lit = 30 then
        let r := fp32.round 0 0#32 ((f32 old).add (f32 v))
        (BitVec.ofNat 32 r.1, [r.2])
      else (old + v, [])
  | 0xA9 =>
    b.tileMap t (List.range 64) x.tid fun m _ old =>
      let r := fp32.round 0 0#32 ((f32 old).mul (f32 (mget 0#32 x.areg m)))
      (BitVec.ofNat 32 r.1, [r.2])
  | 0xAA =>
    let y := fun (L j : Nat) => b.cvWord lit x (fun i => advGenN (mget 0#32 x.sb L) i) L j
    let ls := b.resultLanes x.w
    let b' := (List.range 8).foldl (fun b' j => b'.vwriteLanes wp (dst + j) ls fun L => (y L j).1) b
    b'.count x.tid ((lanesOf (ls &&& x.live)).flatMap fun L => (List.range 8).flatMap fun j => (y L j).2)
  | 0xAB => b
  | _ => mems.foldl (fun out x => b.product op lit pick mems x out) b

/-! ## Order and completion -/

/-- The tiles an operation reads or writes. -/
def OpK.tiles : OpK → List Nat
  | .matrix op _ _ mems => if op = 0xAB then [] else mems.map (·.tile)
  | .drain _ _ _ (some t) _ es => if es.isEmpty then [] else [t]
  | _ => []
/-- No earlier operation of the block still acts on a tile of operation `x` (R255). -/
def State.tilesFree (s : State) (x : Op) : Bool :=
  s.ops.all fun y => x.id ≤ y.id || y.bid != x.bid || y.performed || !(y.k.tiles.any x.k.tiles.contains)

/-- MATRIX_COMPLETION: the tiles or registers are written and the slots complete; `stale`: each byte of a scratch image is any of those it may read
as, and otherwise the newest (R47, R259, R266). -/
def execMatrixCompletion (o : Nat) (stale : Bool) (s : State) : Out :=
  match s.op o with
  | some x =>
    match x.k with
    | .matrix op lit dst mems =>
      if s.tilesFree x then
        let pick := if stale then some s.fresh else none
        .next ((State.updBlock { s with fresh := if stale then s.fresh + 1 else s.fresh } x.bid fun b => b.matrix op lit dst pick mems).completeOp x)
      else .refused .notEnabled
    | _ => .refused .notEnabled
  | none => .refused .notEnabled

/-! ## Issue -/

/-- The 16 instructions the engine holds (R253). -/
def State.matrixFull (s : State) (d a : Nat) : Bool :=
  16 ≤ (s.ops.filter fun x => x.d = d && x.a = a && (match x.k with | .matrix _ _ _ _ => true | _ => false)).length
/-- R260. -/
def Env.whole (e : Env) (g : BitVec 3) : Bool := g = 7#3 && e.cl.run = e.wp.present
/-- A matrix word of one warp: convergence, slot, queue, footprint (R253, R254, R260). -/
def Env.mtx (e : Env) (f : MtxW) (tile : Bool) (k : Env → Act) : Act :=
  if !e.whole f.g then .trap .illegalConvergence e.cl.run e.pcVa e.cl.word
  else e.slotted f.d fun e =>
    if e.s.matrixFull e.loc.d e.loc.a then .stall
    else if tile && rACCF e.blk.lrec ≤ f.t.toNat then .trapOpen .registerRange (some (BitVec.ofNat 32 f.t.toNat))
    else k e
/-- Accept the operation. -/
def Env.mtxGo (e : Env) (op : Nat) (f : MtxW) : Act :=
  .done (e.start e.s f.d (.matrix op f.lit f.ar.toNat [e.blk.capture op f e.w f.t.toNat e.wp e.sq]) [])
/-- MAP[63:32] of a 16-bit sparse form (R263). -/
def sparseBad (lit : Word) (map : BitVec 64) : Option Word :=
  if !fmtByte (mFA lit) && map.extractLsb' 32 32 != 0#32 then some (map.extractLsb' 32 32) else none

/-- A matrix word of one warp at issue. -/
def issueMtx (i : Instr) (op : Nat) (f : MtxW) (s : State) (act : Env → Act) : Out :=
  issueWord i f.g (some f.lit) (mtxVs op f) s (fun _ => true) act

def Env.mms (e : Env) (f : MtxW) : Act := e.mtx f true fun e => e.mtxGo 0xA4 f
/-- MMS (R267). -/
def execMms (f : MtxW) (s : State) : Out := issueMtx (.mms f) 0xA4 f s fun e => e.mms f
def Env.mmss (e : Env) (f : MtxW) : Act :=
  e.mtx f true fun e => match sparseBad f.lit e.wp.spmMap with
    | some x => .trapOpen .illegalOperand (some x)
    | none => e.mtxGo 0xA5 f
/-- MMSS (R267). -/
def execMmss (f : MtxW) (s : State) : Out := issueMtx (.mmss f) 0xA5 f s fun e => e.mmss f
def Env.mmz (e : Env) (f : MtxW) : Act := e.mtx f true fun e => e.mtxGo 0xA6 f
/-- MMZ (R268). -/
def execMmz (f : MtxW) (s : State) : Out := issueMtx (.mmz f) 0xA6 f s fun e => e.mmz f
def Env.accmv (e : Env) (f : MtxW) : Act := e.mtx f true fun e => e.mtxGo 0xA7 f
/-- ACCMV (R269). -/
def execAccmv (f : MtxW) (s : State) : Out := issueMtx (.accmv f) 0xA7 f s fun e => e.accmv f
def Env.accld (e : Env) (f : MtxW) : Act := e.mtx f true fun e => e.mtxGo 0xA8 f
/-- ACCLD (R269). -/
def execAccld (f : MtxW) (s : State) : Out := issueMtx (.accld f) 0xA8 f s fun e => e.accld f
def Env.accsc (e : Env) (f : MtxW) : Act := e.mtx f true fun e => e.mtxGo 0xA9 f
/-- ACCSC (R270). -/
def execAccsc (f : MtxW) (s : State) : Out := issueMtx (.accsc f) 0xA9 f s fun e => e.accsc f
/-- ACCCV takes its draws at issue (log 15). -/
def Env.acccv (e : Env) (f : MtxW) : Act :=
  e.mtx f true fun e => match e.mtxGo 0xAA f with
    | .done s =>
      if (f.lit.extractLsb' 22 2).toNat != 2 then .done s
      else .done (s.updWarp e.bid e.w fun wp => wp.updLanes (e.blk.resultLanes e.w) fun _ ln =>
        { ln with gen := advGenN ln.gen (if fmtByte (mFA f.lit) then 32 else 16) })
    | r => r
/-- ACCCV (R271). -/
def execAcccv (f : MtxW) (s : State) : Out := issueMtx (.acccv f) 0xAA f s fun e => e.acccv f

/-- SPLD: the pattern is checked, and SPM read by every later sparse form (R263, R272). -/
def Env.spld (e : Env) (f : MtxW) : Act :=
  e.mtx f false fun e =>
    let v := fun (r L : Nat) => if e.blk.absent e.w L then 0#32 else e.v r L
    let map : BitVec 64 := v f.br.toNat 1 ++ v f.br.toNat 0
    let n := (List.range 64).countP map.getLsbD
    let ix := fun (c : Nat) => (v f.ar.toNat (c / 2)).extractLsb' (16 * (c % 2)) 16
    match (List.range n).find? fun c => (List.range 4).any fun g => ((ix c).extractLsb' (4 * g + 2) 2).toNat ≤ ((ix c).extractLsb' (4 * g) 2).toNat with
    | some c => .trap .illegalOperand e.cl.run 0#80 (BitVec.ofNat 32 c)
    | none => match e.mtxGo 0xAB f with
      | .done s => .done (s.updWarp e.bid e.w fun wp =>
          { wp with spmMap := map, spmIdx := (List.range n).foldl (fun m c => mset 0#16 m c (ix c)) [] })
      | r => r
/-- SPLD (R272). -/
def execSpld (f : MtxW) (s : State) : Out := issueMtx (.spld f) 0xAB f s fun e => e.spld f

/-! ## Quartets (R261, R262) -/

/-- The literal-carrying word of a quartet form. -/
def mtxOf : Instr → Option MtxW
  | .mmq f | .mmqs f | .mmqx f | .mmqt f => some f
  | _ => none

/-- The image checks of R259. -/
def imageBad (off n share : Nat) : Option Cause :=
  if off % 128 != 0 then some .misaligned else if share < off + n then some .protection else none

/-- Step 6 of R261 for one member, on tile `t` with scale and offset registers of `u`: cause, address and info where they are named (log 19). -/
def Block.memberBad (b : Block) (op : Nat) (f : MtxW) (w t : Nat) (u : Warp) : Option (Cause × Option Ptr × Option Word) :=
  let off := (u.sreg (f.ar.toNat % 16)).toNat
  let img := if op = 0xA2 then imageBad off 1024 b.share else none
  match img with
  | some c => some (c, none, none)
  | none =>
    if rACCF b.lrec ≤ t then some (.registerRange, none, some (BitVec.ofNat 32 t))
    else if op = 0xA1 then (sparseBad f.lit (b.warp w).spmMap).map fun x => (.illegalOperand, none, some x) else none

/-- The member stands at its quartet word. -/
def Block.atQuartet (b : Block) (w : Nat) : Bool :=
  let wp := b.warp w
  match wp.clause with
  | some cl => w < b.warps.length && !wp.parked && wp.wait.isNone && cl.idx = 1 && quartetFirst cl.hdr cl.ibuf
  | none => false
def quartetWarps (q : Nat) : List Nat := [4 * q, 4 * q + 1, 4 * q + 2, 4 * q + 3]

/-- Step 4 of R261: the checks of R79 and R260 on a member's word. -/
def Block.memberCheck (b : Block) (w : Nat) : Except Cause (Nat × MtxW) :=
  let wp := b.warp w
  match wp.clause with
  | none => .error .illegalConvergence
  | some cl =>
    if !wp.placeOk cl cl.word (hdrN cl.hdr) then .error .illegalClause
    else match decode (cl.ibuf.take 2) with
      | .error .illegalClause => .error .illegalClause
      | .error .illegalOpcode => .error .illegalOpcode
      | .error .illegalOperand => .error .illegalOperand
      | .ok (i, _) => match mtxOf i with
        | none => .error .illegalOpcode
        | some f =>
          if !fieldsOk i then .error .illegalOperand
          else if !(mtxVs i.opcode f).all (· < wp.vcnt) then .error .registerRange
          else if f.g != 7#3 || cl.run != wp.present then .error .illegalConvergence
          else .ok (i.opcode, f)

/-- The QUARTET_MISMATCH info (R262). -/
def mismatchInfo (present differ : Nat) (partner : Bool) : Word := BitVec.ofNat 32 (present + 16 * differ + (if partner then 256 else 0))
/-- The words that a member's clause has first. -/
def Block.quartetWords (b : Block) (w : Nat) : List Word := match (b.warp w).clause with | some c => c.ibuf.take 2 | none => []
/-- The members among `ws` whose word, literal or MMQT offset differs from that of the lowest of them (R261, R262). -/
def Block.differing (b : Block) (ws : List Nat) : Nat :=
  let w0 := ws.headD 0
  let word := (b.quartetWords w0).headD 0#32
  let off := fun (w : Nat) => (b.warp w).sreg ((word.extractLsb' 2 4).toNat)
  let same := fun (w : Nat) => b.quartetWords w = b.quartetWords w0 && (opOf word != 0xA3 || off w = off w0)
  (ws.filter fun w => !same w).foldl (fun n w => n + 2 ^ (w % 4)) 0
/-- Members trap: each with its own cause, address and info, or QUARTET_MISMATCH. -/
def State.quartetTrap (s : State) (b : Nat) (ws : List Nat) (own : Nat → Option (Cause × Option Ptr × Option Word)) (info : Word) : State :=
  ws.foldl (fun s w =>
    let x := s.block b
    match (x.warp w).clause with
    | none => s
    | some cl =>
      let s := s.updWarp b w fun wp => { wp with rdv := false }
      match own w with
      | some (c, a, i) =>
        State.takeTrap { s with fresh := s.fresh + 1 } b w c cl.run (a.getD (Config.freePtr s.fresh)) (i.getD (Config.freeWord s.fresh))
      | none => s.takeTrap b w .quartetMismatch cl.run (x.cbAddr cl.wordPc) info) s

/-- Accept a quartet operation: operands of all four, slot `d` of each; `seq`: the sequencer's one slot instead, offsets from `u` (R266, R361). -/
def State.quartetOp (s : State) (b : Nat) (l : Loc) (q op : Nat) (f : MtxW) (word : Word) (driver : Option Nat) : State :=
  let x := s.block b
  let ws := quartetWarps q
  let mems := ws.mapIdx fun i w => x.capture op f w (f.t.toNat + i) (x.warp (driver.getD w)) driver.isSome
  let y : Op := { id := s.nextOp, bid := b, ws := match driver with | some w => [(w, f.d.toNat)] | none => ws.map (·, f.d.toNat), d := l.d, a := l.a,
                  word := word, seq := driver.isSome, k := .matrix op f.lit 0 mems, res := [], performed := false, flushed := false, acq := false,
                  txn := [], jent := none, pins := [], foot := [], shads := [], pers := false }
  let s := match driver with
    | some _ => s
    | none => s.updBlock b fun x => ws.foldl (fun x w => (x.updWarp w (·.claim f.d.toNat)).unrecord w f.d.toNat) x
  { s with ops := s.ops ++ [y], nextOp := s.nextOp + 1 }

/-- Settle a rendezvous at which all four stand (R261, R262). DESIGN CHOICE, log 107: the lowest member whose literal cannot be fetched takes the fetch's
cause and the others QUARTET_MISMATCH, and a literal not yet fetched differs from one that has been. unsafe. -/
def State.settle (s : State) (b q : Nat) : Out :=
  let x := s.block b
  let l := x.loc.getD ⟨0, 0, 0⟩
  let ws := quartetWarps q
  let clauseOf := fun (w : Nat) => (x.warp w).clause
  let ibuf := fun (w : Nat) => match clauseOf w with | some c => c.ibuf | none => []
  let wordOf := fun (w : Nat) => (ibuf w).headD 0#32
  let pcOf := fun (w : Nat) => match clauseOf w with | some c => x.cbAddr c.wordPc | none => 0#80
  let differ := x.differing ws
  let partner := mismatchInfo 15 differ true
  -- a literal still to be fetched
  match ws.find? fun w => (ibuf w).length < 2 && (match clauseOf w with | some c => 2 ≤ hdrN c.hdr | none => false) with
  | some w =>
    match clauseOf w with
    | none => .refused .notEnabled
    | some cl =>
      let pc := cl.pc + 8#32
      match s.fetchAt b pc with
      | (.word y, s) => .next (s.updWarp b w fun wp => { wp with clause := some { cl with ibuf := cl.ibuf ++ [y] } })
      | (.bad c, s) =>
        .next (s.quartetTrap b ws (fun v => if v = w then some (c, some (x.cbAddr pc), none) else none) partner)
      | (.wait, t) => s.waiting t
  | none =>
    let r := fun (w : Nat) => x.memberCheck w
    let bad := fun (w : Nat) => match r w with
      | .error c => some (c, some (pcOf w), some (wordOf w))
      | .ok _ => none
    if ws.any fun w => (bad w).isSome then .next (s.quartetTrap b ws bad partner)
    else match r (4 * q) with
      | .error _ => .refused .notEnabled
      | .ok (op, f) =>
        if differ != 0 then .next (s.quartetTrap b ws (fun _ => none) (mismatchInfo 15 differ false))
        else if (f.d != 6#3 && ws.any fun w => (x.warp w).slotBusy f.d.toNat) || s.matrixFull l.d l.a
            || !(ws.all fun w => x.channelsServe (x.warp w) (ibuf w)) then .refused .notEnabled
        else
          let off := ((x.warp (4 * q)).sreg (f.br.toNat % 16)).toNat
          match (if op = 0xA3 then imageBad off 4096 x.share else none) with
          | some c => .next (s.quartetTrap b ws (fun _ => some (c, some (BitVec.ofNat 80 off), none)) partner)
          | none =>
            let bad := fun (w : Nat) => x.memberBad op f w (f.t.toNat + w % 4) (x.warp w)
            if ws.any fun w => (bad w).isSome then .next (s.quartetTrap b ws bad partner)
            else
              let s := (s.updBlock b fun x => x.enterRows ws.contains).quartetOp b l q op f (wordOf (4 * q)) none
              .next (ws.foldl (fun s w =>
                ((s.begun l.d l.a (b, w)).updWarp b w fun wp => { wp.updLanes (match wp.clause with | some c => c.gang | none => 0#32) (fun _ ln => { ln with lat := [] })
                  with rdv := false }).retire b w 2) s)

/-- A member that stands or arrives where a partner is missing, or has wholly exited: every waiting member traps (steps 2 and 3 of R261). -/
def State.quartetBroken (s : State) (b q : Nat) : Option State :=
  let x := s.block b
  let here := (quartetWarps q).filter fun w => w < x.warps.length && (x.warp w).rdv
  let present := here.foldl (fun n w => n + 2 ^ (w % 4)) 0
  if here.isEmpty then none
  else if x.warps.length ≤ 4 * q + 3 then some (s.quartetTrap b here (fun _ => none) (mismatchInfo present (x.differing here) false))
  else if (quartetWarps q).any fun w => (x.warp w).exited then some (s.quartetTrap b here (fun _ => none) (mismatchInfo present (x.differing here) true))
  else none

/-- QUARTET_RENDEZVOUS: the rendezvous is settled, or a missing partner breaks it (R261). -/
def execQuartetRendezvous (b q : Nat) (s : State) : Out :=
  let x := s.block b
  if x.loc.isNone || 4 ≤ q then .refused .notEnabled
  else match s.quartetBroken b q with
    | some s => .next s
    | none =>
      if (quartetWarps q).all x.atQuartet && (quartetWarps q).any (fun w => (x.warp w).rdv) then s.settle b q else .refused .notEnabled

/-- A quartet form that comes to issue in a member that was resumed at it: it arrives, and with its partners there is settled (R261, R262). -/
def issueQuartet (i : Instr) (s : State) : Out :=
  match s.focus with
  | none => .fault .noIssuingWarp
  | some (b, w) =>
    match ((s.block b).warp w).clause with
    | none => .fault .noIssuingWarp
    | some cl =>
      let s := (s.updWarp b w fun wp => { wp with rdv := true, clause := some { cl with ibuf := encode i ++ cl.ibuf.drop 2 } }).leavePort b w
      let q := w / 4
      match s.quartetBroken b q with
      | some s => .next s
      | none =>
        if (quartetWarps q).all (s.block b).atQuartet then
          (match s.settle b q with
           | .next t => .next t
           | _ => .next s)
        else .next s

/-- MMQ (R266). -/
def execMmq (f : MtxW) (s : State) : Out := issueQuartet (.mmq f) s
/-- MMQS (R264, R266). -/
def execMmqs (f : MtxW) (s : State) : Out := issueQuartet (.mmqs f) s
/-- MMQX (R259, R266). -/
def execMmqx (f : MtxW) (s : State) : Out := issueQuartet (.mmqx f) s
/-- MMQT (R259, R266). -/
def execMmqt (f : MtxW) (s : State) : Out := issueQuartet (.mmqt f) s

end Sys2Proof.Machine
end

