-- ==== Sys2Proof/Machine/Vector.lean ====
section
/-! DEFINITION. Meanings of the vector opcodes 0x30 to 0x77 (06, R154 to R177). -/

namespace Sys2Proof.Machine

/-! ## Shapes (R155) -/

/-- One source. -/
def vec1 (i : Instr) (f : RegW) (s : State) (x : Word → Word) : Out := issueResult i f s fun e L => x (e.src f.a L)
/-- Two sources. -/
def vec2 (i : Instr) (f : RegW) (s : State) (x : Word → Word → Word) : Out :=
  issueResult i f s fun e L => x (e.src f.a L) (e.src f.b L)
/-- Three sources, the third first. -/
def vec3 (i : Instr) (f : RegW) (s : State) (x : Word → Word → Word → Word) : Out :=
  issueResult i f s fun e L => x (e.third i.opcode f L) (e.src f.a L) (e.src f.b L)

/-- A result by counted RoundTo calls: `x` gives, from the lane's draw, the result and the events. Lanes draw under stochastic rounding only;
live lanes of the run count (R94, R103, R156). -/
def vecCounted (i : Instr) (f : RegW) (s : State) (stochastic : Bool) (x : Env → Nat → Word → Word × List NumEvent) : Out :=
  issueReg i f s fun e =>
    let y := fun L => x e L (e.lane L).gen
    let s := e.setBlk fun b => b.writeResult e.w (if regFBit i.opcode then 0#1 else f.nw) f.dst e.g fun L => (y L).1
    let s := if stochastic then s.updWarp e.bid e.w fun wp => wp.updLanes e.g fun _ ln => { ln with gen := advGen ln.gen } else s
    .done (s.updBlock e.bid fun b => b.count e.wp.tid ((lanesOf e.contrib).flatMap fun L => (y L).2))

/-! ## Integer and bit operations (R158, R159) -/

def shl32 (a n : Word) : Word := if n.toNat < 32 then a <<< n.toNat else 0#32
def shr32 (a n : Word) : Word := if n.toNat < 32 then a >>> n.toNat else 0#32
def shra32 (a n : Word) : Word := a.sshiftRight (min n.toNat 32)
def clz32 (a : Word) : Word := BitVec.ofNat 32 (if a = 0#32 then 32 else 31 - Nat.log2 a.toNat)
def popc32 (a : Word) : Word := BitVec.ofNat 32 ((List.range 32).countP fun i => a.getLsbD i)
def brev32 (a : Word) : Word := maskOf fun i => a.getLsbD (31 - i)
/-- Byte `i` of a word. -/
def byteOf (a : Word) (i : Nat) : Byte := a.extractLsb' (8 * i) 8
def setByte (c : Word) (i : Nat) (x : Byte) : Word := (c &&& ~~~(0xFF#32 <<< (8 * i))) ||| (x.setWidth 32 <<< (8 * i))
def setHalf (c : Word) (i : Nat) (x : BitVec 16) : Word := (c &&& ~~~(0xFFFF#32 <<< (16 * i))) ||| (x.setWidth 32 <<< (16 * i))
def bfPos (ctl : Word) : Nat := ctl.toNat % 32
def bfLen (ctl : Word) : Nat := min (ctl.toNat / 256 % 64) (32 - bfPos ctl)
def bfe (a ctl : Word) : Word :=
  let len := bfLen ctl
  let v := (a >>> bfPos ctl) &&& BitVec.ofNat 32 (2 ^ len - 1)
  if ctl.getLsbD 16 && 0 < len && v.getLsbD (len - 1) then v ||| ~~~(BitVec.ofNat 32 (2 ^ len - 1)) else v
def bfi (c a ctl : Word) : Word :=
  let m := BitVec.ofNat 32 (2 ^ bfLen ctl - 1) <<< bfPos ctl
  (c &&& ~~~m) ||| ((a <<< bfPos ctl) &&& m)
/-- One result byte of BYMIX from its 6-bit field. -/
def bymixByte (a b : Word) (k : Nat) : Byte :=
  let x := if k % 8 < 4 then byteOf a (k % 8) else byteOf b (k % 8 - 4)
  let x := if k / 8 % 2 = 1 then ~~~x else x
  match k / 16 with
  | 0 => x
  | 1 => 0#8
  | 2 => if x.getLsbD 7 then 0xFF#8 else 0#8
  | _ => x.reverse
def bymix (c a b : Word) : Word :=
  bymixByte a b (c.toNat / 2 ^ 18 % 64) ++ bymixByte a b (c.toNat / 2 ^ 12 % 64) ++ bymixByte a b (c.toNat / 2 ^ 6 % 64)
    ++ bymixByte a b (c.toNat % 64)
def isad (c a b : Word) : Word := c + BitVec.ofNat 32 (a.toInt - b.toInt).natAbs
def idot4 (c a b : Word) : Word :=
  (List.range 4).foldl (fun acc i => acc + BitVec.ofInt 32 ((byteOf a i).toInt * (byteOf b i).toInt)) c
/-- The signed sum a + b saturated to 32 bits (R163). -/
def satAdd (a b : Word) : Word := BitVec.ofInt 32 (max (-(2 ^ 31)) (min (2 ^ 31 - 1) (a.toInt + b.toInt)))
def imin32 (a b : Word) : Word := if b.slt a then b else a
def imax32 (a b : Word) : Word := if a.slt b then b else a

/-- IADD (R158). -/
def execIadd (f : RegW) (s : State) : Out := vec2 (.iadd f) f s <| fun a b => a + b
/-- ISUB (R158). -/
def execIsub (f : RegW) (s : State) : Out := vec2 (.isub f) f s <| fun a b => a - b
/-- IMUL (R158). -/
def execImul (f : RegW) (s : State) : Out := vec2 (.imul f) f s <| fun a b => a * b
/-- IMULH (R158). -/
def execImulh (f : RegW) (s : State) : Out := vec2 (.imulh f) f s <| fun a b => BitVec.ofInt 32 ((a.toInt * b.toInt) / 2 ^ 32)
/-- IMAD (R158). -/
def execImad (f : RegW) (s : State) : Out := vec3 (.imad f) f s <| fun c a b => c + a * b
/-- IMIN (R158). -/
def execImin (f : RegW) (s : State) : Out := vec2 (.imin f) f s imin32
/-- IMAX (R158). -/
def execImax (f : RegW) (s : State) : Out := vec2 (.imax f) f s imax32
/-- IABS (R158). -/
def execIabs (f : RegW) (s : State) : Out := vec1 (.iabs f) f s <| fun a => if a.msb then -a else a
/-- AND (R158). -/
def execAnd (f : RegW) (s : State) : Out := vec2 (.and f) f s <| fun a b => a &&& b
/-- OR (R158). -/
def execOr (f : RegW) (s : State) : Out := vec2 (.or f) f s <| fun a b => a ||| b
/-- XOR (R158). -/
def execXor (f : RegW) (s : State) : Out := vec2 (.xor f) f s <| fun a b => a ^^^ b
/-- NOT (R158). -/
def execNot (f : RegW) (s : State) : Out := vec1 (.not f) f s <| fun a => ~~~a
/-- SHL (R158). -/
def execShl (f : RegW) (s : State) : Out := vec2 (.shl f) f s shl32
/-- SHR (R158). -/
def execShr (f : RegW) (s : State) : Out := vec2 (.shr f) f s shr32
/-- SHRA (R158). -/
def execShra (f : RegW) (s : State) : Out := vec2 (.shra f) f s shra32
/-- ROT (R158). -/
def execRot (f : RegW) (s : State) : Out := vec2 (.rot f) f s <| fun a b => a.rotateLeft (b.toNat % 32)
/-- POPC (R158). -/
def execPopc (f : RegW) (s : State) : Out := vec1 (.popc f) f s popc32
/-- CLZ (R158). -/
def execClz (f : RegW) (s : State) : Out := vec1 (.clz f) f s clz32
/-- BREV (R158). -/
def execBrev (f : RegW) (s : State) : Out := vec1 (.brev f) f s brev32
/-- BFE (R159). -/
def execBfe (f : RegW) (s : State) : Out := vec2 (.bfe f) f s bfe
/-- BFI (R159). -/
def execBfi (f : RegW) (s : State) : Out := vec3 (.bfi f) f s bfi
/-- BYMIX (R159). -/
def execBymix (f : RegW) (s : State) : Out := vec3 (.bymix f) f s bymix
/-- SEL (R158). -/
def execSel (f : RegW) (s : State) : Out := vec3 (.sel f) f s <| fun c a b => if c != 0#32 then a else b
/-- MOV (R158). -/
def execMov (f : RegW) (s : State) : Out := vec1 (.mov f) f s <| fun a => a
/-- IACC (R158). -/
def execIacc (f : RegW) (s : State) : Out := vec3 (.iacc f) f s <| fun c a b => c + a + b
/-- ISAD (R158). -/
def execIsad (f : RegW) (s : State) : Out := vec3 (.isad f) f s isad
/-- IDOT4 (R158). -/
def execIdot4 (f : RegW) (s : State) : Out := vec3 (.idot4 f) f s idot4
/-- PACK (R158). -/
def execPack (f : RegW) (s : State) : Out := vec2 (.pack f) f s <| fun a b => b.extractLsb' 0 16 ++ a.extractLsb' 0 16
/-- ADDMIN (R163). -/
def execAddmin (f : RegW) (s : State) : Out := vec3 (.addmin f) f s <| fun c a b => imin32 c (satAdd a b)
/-- ADDMAX (R163). -/
def execAddmax (f : RegW) (s : State) : Out := vec3 (.addmax f) f s <| fun c a b => imax32 c (satAdd a b)
/-- MOVI: the sign-extended 14-bit immediate (R158). -/
def execMovi (f : RegW) (s : State) : Out := issueResult (.movi f) f s fun _ _ => (f.a ++ f.b).signExtend 32

/-! ## Compares (R160) -/

/-- Set the predicate of a compare in every executing lane with a true guard. -/
def vecCompare (i : Instr) (f : RegW) (s : State) (x : Word → Word → Bool) : Out :=
  issueReg i f s fun e =>
    .done (e.setWarp fun wp => wp.updLanes e.g fun L ln => ln.setPred (f.dst.toNat % 8) (x (e.src f.a L) (e.src f.b L)))
/-- ICMP (R160). -/
def execIcmp (f : RegW) (s : State) : Out := vecCompare (.icmp f) f s (icmp (f.nw = 1#1) (f.dst.toNat / 8))
/-- FCMP (R160). -/
def execFcmp (f : RegW) (s : State) : Out := vecCompare (.fcmp f) f s (fcmp (f.dst.toNat / 8))

/-! ## FP32 (R161 to R163, R169) -/

/-- SCMAX (R169). -/
def scmax32 (c a b : Word) : Word :=
  if isNaN32 c || isNaN32 a || isNaN32 b then nan32
  else BitVec.ofNat 32 (max (c.toNat % 2 ^ 31) (max (a.toNat % 2 ^ 31) (b.toNat % 2 ^ 31)))

/-- FADD (R161). -/
def execFadd (f : RegW) (s : State) : Out := vec2 (.fadd f) f s fadd32
/-- FSUB (R161). -/
def execFsub (f : RegW) (s : State) : Out := vec2 (.fsub f) f s <| fun a b => fadd32 a (fneg32 b)
/-- FMUL (R161). -/
def execFmul (f : RegW) (s : State) : Out := vec2 (.fmul f) f s fmul32
/-- FFMA (R161). -/
def execFfma (f : RegW) (s : State) : Out := vec3 (.ffma f) f s ffma32
/-- FMIN (R161). -/
def execFmin (f : RegW) (s : State) : Out := vec2 (.fmin f) f s fmin32
/-- FMAX (R161). -/
def execFmax (f : RegW) (s : State) : Out := vec2 (.fmax f) f s fmax32
/-- FCLMP (R161). -/
def execFclmp (f : RegW) (s : State) : Out := vec3 (.fclmp f) f s fclmp32
/-- FSCALE (R161). -/
def execFscale (f : RegW) (s : State) : Out := vec2 (.fscale f) f s fscale32
/-- FEXP (R161). -/
def execFexp (f : RegW) (s : State) : Out := vec1 (.fexp f) f s fexp32
/-- RCP (R162). -/
def execRcp (f : RegW) (s : State) : Out := vec1 (.rcp f) f s rcp32
/-- RSQ (R162). -/
def execRsq (f : RegW) (s : State) : Out := vec1 (.rsq f) f s rsq32
/-- SQRT (R162). -/
def execSqrt (f : RegW) (s : State) : Out := vec1 (.sqrt f) f s sqrt32
/-- EXP2 (R162). -/
def execExp2 (f : RegW) (s : State) : Out := vec1 (.exp2 f) f s exp232
/-- LOG2 (R162). -/
def execLog2 (f : RegW) (s : State) : Out := vec1 (.log2 f) f s log232
/-- SCMAX (R169). -/
def execScmax (f : RegW) (s : State) : Out := vec3 (.scmax f) f s scmax32
/-- FRND (R161). -/
def execFrnd (f : RegW) (s : State) : Out := vec1 (.frnd f) f s (frnd32 (f.b.toNat % 4))

/-! ## Packed 16-bit and dot products (R164, R165) -/

def half (a : Word) (j : Nat) : Nat := a.toNat / 2 ^ (16 * j) % 65536
/-- The 16-bit format of a format bit (R164). -/
def hfmt (f : RegW) : Fmt := if f.nw = 1#1 then fp16 else bf16
/-- Two elements, each with one counted RoundTo. -/
def packed (i : Instr) (f : RegW) (s : State) (x : Val → Val → Val → Val) : Out :=
  let m := hfmt f
  vecCounted i f s false fun e L _ =>
    let a := e.src f.a L
    let b := e.src f.b L
    let c := e.third i.opcode f L
    let r := fun j => m.round 0 0#32 (x (m.val (half c j)) (m.val (half a j)) (m.val (half b j)))
    (BitVec.ofNat 32 ((r 0).1 + 65536 * (r 1).1), [(r 0).2, (r 1).2])
/-- HADD2 (R164). -/
def execHadd2 (f : RegW) (s : State) : Out := packed (.hadd2 f) f s fun _ a b => a.add b
/-- HMUL2 (R164). -/
def execHmul2 (f : RegW) (s : State) : Out := packed (.hmul2 f) f s fun _ a b => a.mul b
/-- HFMA2 (R164). -/
def execHfma2 (f : RegW) (s : State) : Out := packed (.hfma2 f) f s fun c a b => c.add (a.mul b)
def packedMinmax (m : Fmt) (mx : Bool) (a b : Word) : Word :=
  BitVec.ofNat 32 (m.minmax mx (half a 0) (half b 0) + 65536 * m.minmax mx (half a 1) (half b 1))
/-- HMIN2 (R164). -/
def execHmin2 (f : RegW) (s : State) : Out := vec2 (.hmin2 f) f s (packedMinmax (hfmt f) false)
/-- HMAX2 (R164). -/
def execHmax2 (f : RegW) (s : State) : Out := vec2 (.hmax2 f) f s (packedMinmax (hfmt f) true)
/-- DOT2 (R165). -/
def execDot2 (f : RegW) (s : State) : Out :=
  let m := hfmt f
  vec3 (.dot2 f) f s fun c a b => rn32 (sumVals (f32 c :: (List.range 2).map fun j => (m.val (half a j)).prod (m.val (half b j))))
/-- DOT4 (R165). -/
def execDot4 (f : RegW) (s : State) : Out :=
  let m := bin8 (if f.nw = 1#1 then 9 else 13)
  vec3 (.dot4 f) f s fun c a b =>
    rn32 (sumVals (f32 c :: (List.range 4).map fun j => (m.val (byteOf a j).toNat).prod (m.val (byteOf b j).toNat)))

/-! ## Conversions (R166 to R169) -/

/-- CVT by kind with rounding code and draw (Table 06-8): the result and the event. -/
def cvt (kind rnd : Nat) (r a : Word) : Word × NumEvent :=
  let ofInt := fun (signed : Bool) (w : Nat) (v : Val) =>
    let p := roundInt signed w rnd r v
    (if signed then (BitVec.ofNat w p.1).signExtend 32 else BitVec.ofNat 32 p.1, p.2)
  let ofFmt := fun (m : Fmt) (v : Val) => let p := m.round rnd r v; (BitVec.ofNat 32 p.1, p.2)
  let i := Val.ofInt a.toInt
  let n := Val.ofInt a.toNat
  match kind with
  | 0 => ofInt true 32 (f32 a)
  | 1 => ofInt false 32 (f32 a)
  | 2 => ofFmt fp32 i
  | 3 => ofFmt fp32 n
  | 4 => ofInt true 16 (f32 a)
  | 5 => ofInt false 16 (f32 a)
  | 6 => ofInt true 8 (f32 a)
  | 7 => ofInt false 8 (f32 a)
  | 8 => ofFmt bf16 (f32 a)
  | 9 => ofFmt fp16 (f32 a)
  | 10 => (rn32 (bf16.val (half a 0)), .none)
  | 11 => (rn32 (fp16.val (half a 0)), .none)
  | 12 => ofInt true 16 i
  | 13 => ofInt true 8 i
  | 14 => ofInt false 16 n
  | 15 => ofInt false 8 n
  | 16 => ofFmt bf16 i
  | 17 => ofFmt fp16 i
  | 18 => ofFmt fp16 (bf16.val (half a 0))
  | _ => ofFmt bf16 (fp16.val (half a 0))
/-- CVT (R166). -/
def execCvt (f : RegW) (s : State) : Out :=
  let rnd := f.b.toNat / 32
  vecCounted (.cvt f) f s (rnd = 2) fun e L r => let p := cvt (f.b.toNat % 32) rnd r (e.src f.a L); (p.1, [p.2])
/-- PKCV (R167). -/
def execPkcv (f : RegW) (s : State) : Out :=
  let l := (f.lit.getD 0#32).toNat
  let fmt := l % 32
  let rnd := l / 32 % 4
  let pos := l / 128 % 4
  vecCounted (.pkcv f) f s (rnd = 2) fun e L r =>
    let p := roundTo fmt rnd r (f32 (e.src f.a L))
    let c := e.third 0x66 f L
    (if fmt ≤ 27 then setByte c pos (BitVec.ofNat 8 p.1) else setHalf c (pos / 2) (BitVec.ofNat 16 p.1), [p.2])
/-- XPCV (R168). -/
def execXpcv (f : RegW) (s : State) : Out :=
  let l := (f.lit.getD 0#32).toNat
  let fmt := l % 32
  let pos := l / 128 % 4
  vecCounted (.xpcv f) f s false fun e L _ =>
    let a := e.src f.a L
    let v := if fmt = 28 || fmt = 29 then valOf fmt (half a (pos / 2)) else valOf fmt (byteOf a pos).toNat
    if l / 512 % 2 = 1 then
      let p := fp32.round 0 0#32 (v.mx (byteOf (e.third 0x67 f L) (l / 1024 % 4)).toNat)
      (BitVec.ofNat 32 p.1, [p.2])
    else (rn32 v, [])
/-- floor(log2) of the greatest finite value of a binary8 format. -/
def emaxOf (fmt : Nat) : Int :=
  match (bin8 fmt).val (bin8 fmt).maxc with
  | .fin _ m e _ => Val.log2 m e
  | _ => 0
/-- The E8M0 scale that maps an amax onto a format (R169). -/
def scext (fmt : Nat) (a : Word) : Word :=
  match f32 a with
  | .nan => 0xFF#32
  | .inf _ => 254#32
  | .fin _ m e _ => if m = 0 then 127#32 else BitVec.ofInt 32 (max 0 (min 254 (Val.log2 m e - emaxOf fmt + 127)))
/-- SCEXT (R169). -/
def execScext (f : RegW) (s : State) : Out := vec1 (.scext f) f s (scext (f.b.toNat % 32))
/-- SCINS (R169). -/
def execScins (f : RegW) (s : State) : Out :=
  issueResult (.scins f) f s fun e L => setByte (e.third 0x69 f L) (f.b.toNat % 4) (byteOf (e.src f.a L) 0)

/-! ## Quad and lane exchange (R170 to R174) -/

/-- What lane `M` supplies of a source (R170). -/
def Env.supply (e : Env) (f : BitVec 7) (M : Nat) : Word :=
  if e.cl.gang.getLsbD M then e.src f M
  else if (e.lane M).st = .exited then 0#32
  else if 72 ≤ f.toNat && f.toNat < 76 then 0#32
  else e.src f M
/-- QXCH (R171). -/
def execQxch (f : RegW) (s : State) : Out :=
  issueResult (.qxch f) f s fun e L => e.supply f.a (L / 4 * 4 + ((L % 4) ^^^ (f.b.toNat % 4)))
/-- QBC (R171). -/
def execQbc (f : RegW) (s : State) : Out := issueResult (.qbc f) f s fun e L => e.supply f.a (L / 4 * 4 + f.b.toNat % 4)
/-- QSUM (R171). -/
def execQsum (f : RegW) (s : State) : Out :=
  let op := fun (a b : Word) => if f.b.getLsbD 0 then a + b else fadd32 a b
  issueResult (.qsum f) f s fun e L =>
    let v := fun i => e.supply f.a (L / 4 * 4 + i)
    op (op (v 0) (v 1)) (op (v 2) (v 3))
/-- A lane instruction whose srcB is uniform (R73, R172). -/
def vecLane (i : Instr) (f : RegW) (s : State) (x : Env → Word → Nat → Word) : Out :=
  issueReg i f s fun e =>
    if !e.uniform (e.src f.b) then .trap .uniformMismatch e.cl.run e.pcVa e.cl.word
    else .done (e.setBlk fun b => b.writeResult e.w f.nw f.dst e.g (x e (e.uni f.b)))
/-- LSHF (R172). -/
def execLshf (f : RegW) (s : State) : Out :=
  vecLane (.lshf f) f s fun e n L =>
    let j : Int := (L : Int) - n.toInt
    if 0 ≤ j && j ≤ 31 then e.supply f.a j.toNat else e.third 0x70 f L
/-- LROT (R172). -/
def execLrot (f : RegW) (s : State) : Out :=
  vecLane (.lrot f) f s fun e n L => e.supply f.a (((L : Int) - n.toInt) % 32).toNat
/-- LBC (R172). -/
def execLbc (f : RegW) (s : State) : Out := vecLane (.lbc f) f s fun e k _ => e.supply f.a (k.toNat % 32)
/-- LIDX (R172). -/
def execLidx (f : RegW) (s : State) : Out :=
  issueResult (.lidx f) f s fun e L => e.supply f.a ((e.src f.b L).toNat % 32)
/-- The operations of Table 06-10. -/
def redOp (op : Nat) (a b : Word) : Word :=
  match op with
  | 0 => a + b
  | 1 => imin32 a b
  | 2 => imax32 a b
  | 3 => fadd32 a b
  | 4 => fmin32 a b
  | 5 => fmax32 a b
  | 6 => a &&& b
  | 7 => a ||| b
  | _ => a ^^^ b
/-- Their identities. -/
def redId (op : Nat) : Word :=
  match op with
  | 1 => 0x7FFFFFFF#32
  | 2 => 0x80000000#32
  | 4 => 0x7F800000#32
  | 5 => 0xFF800000#32
  | 6 => 0xFFFFFFFF#32
  | _ => 0#32
/-- Comb of R173. -/
def comb (op : Nat) (x y : Option Word) : Option Word :=
  match x, y with
  | none, y => y
  | x, none => x
  | some a, some b => some (redOp op a b)
/-- One level of the tree: neighbours combine. -/
def redLevel (op : Nat) : List (Option Word) → List (Option Word)
  | x :: y :: rest => comb op x y :: redLevel op rest
  | xs => xs
/-- WRED (R173). -/
def execWred (f : RegW) (s : State) : Out :=
  let op := f.b.toNat % 16
  issueReg (.wred f) f s fun e =>
    let xs := (List.range 32).map fun L => if e.contrib.getLsbD L then some (e.src f.a L) else none
    let r := ((List.range 5).foldl (fun xs _ => redLevel op xs) xs).headD none
    .done (e.setBlk fun b => b.writeResult e.w f.nw f.dst e.g fun _ => r.getD (redId op))
/-- WSCAN (R174). -/
def execWscan (f : RegW) (s : State) : Out :=
  let op := f.b.toNat % 16
  issueResult (.wscan f) f s fun e L =>
    let ls := (lanesOf e.contrib).filter fun i => if f.b.getLsbD 4 then i < L else i ≤ L
    (ls.foldl (fun acc i => comb op acc (some (e.src f.a i))) none).getD (redId op)

/-! ## Random numbers (R175, R176) -/

/-- RNDS (R175). -/
def execRnds (f : RegW) (s : State) : Out :=
  issueReg (.rnds f) f s fun e =>
    .done (e.setWarp fun wp => wp.updLanes e.g fun L ln =>
      let g := e.src f.a L ^^^ (e.src f.b L * 0x9E3779B9#32)
      { ln with gen := if g = 0#32 then 1#32 else g })
/-- RND (R176). -/
def execRnd (f : RegW) (s : State) : Out :=
  issueReg (.rnd f) f s fun e =>
    let x := fun L =>
      let r := (e.lane L).gen
      if f.b.getLsbD 0 then rn32 (.fin false (r.toNat / 256) (-24) false) else r
    let s := e.setBlk fun b => b.writeResult e.w f.nw f.dst e.g x
    .done (s.updWarp e.bid e.w fun wp => wp.updLanes e.g fun _ ln => { ln with gen := advGen ln.gen })

end Sys2Proof.Machine
end

