-- ==== Sys2Proof/Machine/Drain.lean ====
section
/-! DEFINITION. The drain engine: opcodes 0xB0 to 0xB7 and DRAIN_UPDATE_APPLY (11, R276 to R295). -/

namespace Sys2Proof.Machine

/-! ## Element values (R286 to R291) -/

/-- A tile or register word converted as DST converts it. -/
def drainConv (fmt rnd : Nat) (draw w : Word) : Nat × List NumEvent :=
  if fmt = 30 then (w.toNat, [])
  else if fmt = 31 then let p := roundInt true 8 0 0#32 (Val.ofInt w.toInt); (p.1, [p.2])
  else let p := roundTo fmt rnd draw (f32 w); (p.1, [p.2])
/-- Bytes of an element of a format code. -/
def fmtBytes (fmt : Nat) : Nat := if fmtByte fmt then 1 else if fmt = 30 then 4 else 2

/-- DSTA on a destination element `d` and a tile word (Table 11-4). -/
def drainAdd (fmt rnd op : Nat) (draw x : Word) (d : Nat) : Nat × List NumEvent :=
  let dv := valOf fmt d
  let rd := fun (v : Val) => let p := roundTo fmt rnd draw v; (p.1, [p.2])
  match op with
  | 0 => rd (dv.add (f32 x))
  | 1 => ((BitVec.ofNat 32 d + x).toNat, [])
  | op =>
    let dk := ordKey 31 (rn32 dv).toNat
    let xk := ordKey 31 x.toNat
    if dv.isNaN then rd (f32 x)
    else if isNaN32 x || (if op = 2 then xk ≤ dk else dk ≤ xk) then (d, [])
    else rd (f32 x)

/-- The new word of ATOM and RED (Table 11-5). -/
def atomOp (op : Nat) (w a : Word) : Word :=
  match op with
  | 0 => w + a
  | 1 => fadd32 w a
  | 2 => imin32 w a
  | 3 => imax32 w a
  | 4 => if a.ult w then a else w
  | 5 => if w.ult a then a else w
  | 6 => w &&& a
  | 7 => w ||| a
  | 8 => w ^^^ a
  | 9 => a
  | 10 => fmin32 w a
  | 11 => fmax32 w a
  | _ => BitVec.ofNat 32 (min (w.toNat + a.toNat) (2 ^ 32 - 1))

/-- The new value of one element with present value `d`: stores, DSTA, atomics. Its tile word travels with an update that has outlived its
core (R380). -/
def Block.drainEl (b : Block) (op : Nat) (lit : Word) (tile : Option Nat) (e : DElem) (d : Nat) : Nat × List NumEvent :=
  let word := match tile with | some t => b.accWord t e.lane e.col | none => BitVec.ofNat 32 e.x
  match op with
  | 0xB0 => drainConv (dFMT lit) (dRND lit) e.draw word
  | 0xB1 => drainAdd (dFMT lit) (dRND lit) (dOP lit) e.draw word d
  | 0xB3 => (e.x, [])
  | 0xB5 => (if d = e.cmp then e.x else d, [])
  | _ => ((atomOp (dOP lit) (BitVec.ofNat 32 d) (BitVec.ofNat 32 e.x)).toNat, [])

/-- One MX block of DSTM: its 32 bytes, its scale, its events, the generator after its draws (R288). -/
def mxBlock (fmt rnd : Nat) (a : List Word) (g : Word) : List Byte × Byte × List NumEvent × Word :=
  if a.any isNaN32 then
    (List.replicate 32 (BitVec.ofNat 8 (fmtOf fmt).nanw), 0xFF#8, a.map fun w => if isNaN32 w then .nan else .none, g)
  else
    let e := scext fmt (BitVec.ofNat 32 ((a.map fun w => w.toNat % 2 ^ 31).foldl max 0))
    let r := a.foldl (fun (acc : List Byte × List NumEvent × Word) w =>
      let p := roundTo fmt rnd acc.2.2 ((f32 w).scale (127 - (e.toNat : Int)))
      (acc.1 ++ [BitVec.ofNat 8 p.1], acc.2.1 ++ [p.2], if rnd = 2 then advGen acc.2.2 else acc.2.2)) ([], [], g)
    (r.1, e.setWidth 8, r.2.1, r.2.2)

/-! ## Issue -/

/-- The 32 drain instructions a core's engine holds (R285). -/
def Env.drainFull (e : Env) : Bool :=
  32 ≤ (e.s.ops.filter fun x => x.d = e.loc.d && x.a = e.loc.a && (match x.k with | .drain _ _ _ _ _ _ | .dfence _ => true | _ => false)).length

/-- The checks of one destination of `n` bytes (R279): alignment, translation, page type, mapped tiles (R330), scratch. `o` is its
displacement from the pointer. -/
def Env.drainCheck (e : Env) (lit : Word) (ba : Nat) (store rmw : Bool) (s : State) (o : Int) (n align : Nat) : LaneRes (Place × Nat) × State :=
  let p := e.breg ba
  if dSP lit then
    let off := (((p.toNat % 2 ^ 32 : Nat) + o) % 2 ^ 32).toNat
    if off % align != 0 then (.bad .misaligned off, s)
    else match s.scratch e.bid p off n with
      | some (b, o) => (.ok (.scr b o, 0), s)
      | none => (.bad .protection off, s)
  else
    let va := ((p.toNat + o) % 2 ^ 80).toNat
    match e.checkGlobal s va n align (if rmw then .rmw else .tile) store with
    | (.ok (pa, ty), s) => if 2 ≤ ty then (.bad .protection va, s) else (.ok (.glob pa, ty), s)
    | (.bad c a, s) => (.bad c a, s)
    | (.wait, s) => (.wait, s)

/-- The scope a drain instruction acts at (R25, Table 02-4). -/
def drainScope (lit : Word) (es : List DElem) : Nat :=
  if dSP lit then min 1 (litScp lit)
  else es.foldl (fun c e => max c (max (effScp (litScp lit) e.ty) (effScp (litScp lit) e.sty))) (litScp lit)

/-- Accept a drain update: journalled if it is non-idempotent (R54, R294); `adv` takes its draws, once, and `wr` restores values an earlier issue
returned. -/
def Env.drainGo (e : Env) (s : State) (op : Nat) (f : DrnW) (tile : Option Nat) (mask : Mask) (tgt : Nat) (es : List DElem)
    (adv : State → State) (wr : List (Nat × Word) → State → State) : Act :=
  let go := fun (j : Option Nat) (s : State) => Act.done ((e.start (adv s) f.d (.drain op f.lit f.v.toNat tile e.wp.tid es) [] j).noted s.nextOp)
  if drainRmw op then e.journal s tgt mask (fun data s => wr data (adv s)) go else go none s

/-- ROW(m) of a tile form (R277). -/
def Env.drainRow (e : Env) (f : DrnW) (size m : Nat) : Int :=
  if f.idx = 31#5 then 64 * size * m else if e.blk.absent e.w m then 0 else (e.v f.idx.toNat m).toInt

/-- The rows, columns and displacements of a tile form's elements, in row-major order; for DSTM each block's first column. -/
def Env.tileElems (e : Env) (op : Nat) (f : DrnW) : List (Nat × Nat × Int) :=
  let size := fmtBytes (dFMT f.lit)
  let cols := if op = 0xB2 then ((List.range 2).filter f.v.getLsbD).map (32 * ·) else (List.range 64).filter fun n => f.v.getLsbD (n / 16)
  (List.range 16).flatMap fun m => cols.map fun n => (m, n, (dDISP f.lit).toInt + e.drainRow f size m + (n * (if op = 0xB2 then 1 else size) : Nat))

/-- Draws of the elements of a row from its lane's generator, in ascending column. -/
def drawRow (g : Word) : List DElem → List DElem
  | [] => []
  | x :: xs => { x with draw := g } :: drawRow (advGen g) xs

/-- Bytes of one destination of a tile form. -/
def tileSize (op : Nat) (f : DrnW) : Nat := if op = 0xB2 then 32 else fmtBytes (dFMT f.lit)
/-- Row, column and displacement of element `i`. -/
def Env.tileItem (e : Env) (op : Nat) (f : DrnW) (i : Nat) : Nat × Nat × Int := (e.tileElems op f).getD i (0, 0, 0)
/-- The address a trap names for a displacement from the pointer: of global memory, or the offset in scratch (R279). -/
def Env.drainAddr (e : Env) (lit : Word) (ba : Nat) (o : Int) : Nat :=
  let p := (e.breg ba).toNat
  if dSP lit then (((p % 2 ^ 32 : Nat) + o) % 2 ^ 32).toNat else ((p + o) % 2 ^ 80).toNat
/-- Stochastic rounding of a tile form fails in the rows whose lane is absent (R279). -/
def Env.tileAbsent (e : Env) (f : DrnW) (m : Nat) : Bool := dRND f.lit = 2 && e.blk.absent e.w m
/-- The checks of element `i` of a tile form (R279, R288); of a DSTM block also those of its scale byte. -/
def Env.tileCheck (e : Env) (op : Nat) (f : DrnW) (s : State) (i : Nat) : LaneRes ((Place × Nat) × Option (Place × Nat)) × State :=
  let o := (e.tileItem op f i).2.2
  let done := fun (r : (Place × Nat) × Option (Place × Nat)) =>
    if e.tileAbsent f (e.tileItem op f i).1 then LaneRes.bad .illegalOperand (e.drainAddr f.lit f.ba.toNat o) else .ok r
  if op = 0xB2 && o % 32 != 0 then (.bad .misaligned (e.drainAddr f.lit f.ba.toNat o), s)
  else match e.drainCheck f.lit f.ba.toNat true (op = 0xB1) s o (tileSize op f) (tileSize op f) with
  | (.ok q, s) =>
    if op != 0xB2 then (done (q, none), s)
    else match e.drainCheck f.lit (f.ba.toNat + 1) true false s (o / 32) 1 1 with
      | (.ok c, s) => (done (q, some c), s)
      | (.bad c a, s) => (.bad c a, s)
      | (.wait, s) => (.wait, s)
  | (.bad c a, s) => (.bad c a, s)
  | (.wait, s) => (.wait, s)
/-- DST and DSTA draw at issue under stochastic rounding (log 15); DST of FMT 30 copies words and makes no draw (R94, R286). -/
def tileDraws (op : Nat) (f : DrnW) : Bool := dRND f.lit = 2 && op != 0xB2 && (op = 0xB1 || dFMT f.lit != 30)
/-- The elements of a tile form from the places its checks gave. -/
def Env.tileOps (e : Env) (op : Nat) (f : DrnW) (rs : List (Nat × (Place × Nat) × Option (Place × Nat))) : List DElem :=
  let es := rs.map fun r => ({ lane := (e.tileItem op f r.1).1, col := (e.tileItem op f r.1).2.1, pl := r.2.1.1, n := tileSize op f, x := 0, cmp := 0,
                               draw := 0, sc := r.2.2.map (·.1), ty := r.2.1.2, sty := (r.2.2.map (·.2)).getD 0 } : DElem)
  if tileDraws op f then (List.range 16).flatMap fun m => drawRow (e.lane m).gen (es.filter (·.lane = m)) else es
/-- The generators of the sixteen rows after `n` elements. -/
def Env.tileAdvance (e : Env) (op : Nat) (f : DrnW) (n : Nat) (s : State) : State :=
  if tileDraws op f then s.updWarp e.bid e.w fun wp => wp.updLanes 0xFFFF#32 fun _ ln => { ln with gen := advGenN ln.gen (n / 16) } else s

/-- DST, DSTA and DSTM at issue (R277 to R279, R286 to R288). -/
def Env.drainTile (e : Env) (op : Nat) (f : DrnW) : Act :=
  e.slotted f.d fun e =>
    let t := f.t.toNat
    if rACCF e.blk.lrec ≤ t then .trapOpen .registerRange (some (BitVec.ofNat 32 t))
    else if e.drainFull then .stall
    else
      e.itemsChecked (List.range (e.tileElems op f).length) (fun i => (e.tileItem op f i).1) (e.tileCheck op f) fun rs s =>
        if (List.range 16).any (e.tileAbsent f) then .trapOpen .illegalOperand (some e.cl.word)
        else
          let es := e.tileOps op f rs
          let tgt := ((e.breg f.ba.toNat).toNat + (e.tileItem op f 0).2.2).toNat % 2 ^ 80
          e.drainGo s op f (some t) 0xFFFFFFFF#32 tgt es (e.tileAdvance op f es.length) fun _ s => s

/-- DST (R286). -/
def Env.dst (e : Env) (f : DrnW) : Act := e.drainTile 0xB0 f
/-- DSTA (R287). -/
def Env.dsta (e : Env) (f : DrnW) : Act := e.drainTile 0xB1 f
/-- DSTM (R288). -/
def Env.dstm (e : Env) (f : DrnW) : Act := e.drainTile 0xB2 f

/-- The checks of lane `L`'s element of `n` bytes. -/
def Env.laneCheck (e : Env) (op : Nat) (f : DrnW) (n : Nat) (s : State) (L : Nat) : LaneRes (Place × Nat) × State :=
  e.drainCheck f.lit f.ba.toNat (op = 0xB3) (op != 0xB3) s (e.idx f.idx L + (dDISP f.lit).toInt) n n
/-- The elements of the lanes from the places their checks gave; `x` gives a lane's operand, comparand and events. -/
def laneOps (n : Nat) (x : Nat → Nat × Nat × List NumEvent) (rs : List (Nat × Place × Nat)) : List DElem :=
  rs.map fun r => { lane := r.1, col := 0, pl := r.2.1, n := n, x := (x r.1).1, cmp := (x r.1).2.1, draw := 0, sc := none, ty := r.2.2, sty := 0 }
/-- A DSTV's conversions are counted, and its generators advance, those of helper lanes too, at issue (log 15); those of FMT 30 make no draw (R94,
R289). -/
def Env.laneAdvance (e : Env) (op : Nat) (f : DrnW) (x : Nat → Nat × Nat × List NumEvent) (s : State) : State :=
  let s := s.updBlock e.bid fun b => b.count e.wp.tid ((lanesOf e.contrib).flatMap fun L => (x L).2.2)
  if op = 0xB3 && dRND f.lit = 2 && dFMT f.lit != 30 then s.updWarp e.bid e.w fun wp => wp.updLanes e.g fun _ ln => { ln with gen := advGen ln.gen } else s

/-- DSTV, ATOM, ATOMC and RED at issue, on elements of `n` bytes. -/
def Env.drainLanes (e : Env) (op : Nat) (f : DrnW) (n : Nat) (x : Nat → Nat × Nat × List NumEvent) : Act :=
  e.slotted f.d fun e =>
    if e.contrib = 0#32 then
      (if e.drainFull then .stall else .done ((e.laneAdvance op f x e.s).updBlock e.bid fun b => b.unrecord e.w f.d.toNat))
    else if e.drainFull then .stall
    else
      e.itemsChecked (lanesOf e.contrib) (fun L => L) (e.laneCheck op f n) fun rs s =>
        let tgt := ((e.breg f.ba.toNat).toNat + (e.idx f.idx (lowLane e.contrib) + (dDISP f.lit).toInt)).toNat % 2 ^ 80
        e.drainGo s op f none e.contrib tgt (laneOps n x rs) (e.laneAdvance op f x) fun data s =>
          if op = 0xB6 then s else e.restoreV f.v.toNat (n / 4) 5 data s

/-- DSTV (R289). -/
def Env.dstv (e : Env) (f : DrnW) : Act :=
  e.drainLanes 0xB3 f (fmtBytes (dFMT f.lit)) fun L =>
    let p := drainConv (dFMT f.lit) (dRND f.lit) (e.lane L).gen (e.v f.v.toNat L)
    (p.1, 0, p.2)
/-- ATOM (R290). -/
def Env.atom (e : Env) (f : DrnW) : Act := e.drainLanes 0xB4 f 4 fun L => ((e.v f.v.toNat L).toNat, 0, [])
/-- ATOMC (R291). -/
def Env.atomc (e : Env) (f : DrnW) : Act :=
  let v := fun (j L : Nat) => (e.v (f.v.toNat + j) L).toNat
  if dOP f.lit = 0 then e.drainLanes 0xB5 f 4 fun L => (v 1 L, v 0 L, [])
  else e.drainLanes 0xB5 f 8 fun L => (v 3 L * 2 ^ 32 + v 2 L, v 1 L * 2 ^ 32 + v 0 L, [])
/-- RED (R292). -/
def Env.red (e : Env) (f : DrnW) : Act := e.drainLanes 0xB6 f 4 fun L => ((e.v f.v.toNat L).toNat, 0, [])
/-- DFENCE (R284). -/
def Env.dfence (e : Env) (f : DrnW) : Act :=
  e.slotted f.d fun e => if e.drainFull then .stall else .done (e.start e.s f.d (.dfence (litScp f.lit)) [])

/-- The v-registers a drain word uses (R72). -/
def drnVs (op : Nat) (f : DrnW) : List Nat :=
  let v := f.v.toNat
  (if op = 0xB7 || f.idx = 31#5 then [] else [f.idx.toNat])
    ++ (match op with
      | 0xB3 | 0xB4 | 0xB6 => [v]
      | 0xB5 => (List.range (if dOP f.lit = 0 then 2 else 4)).map (v + ·)
      | _ => [])
/-- A drain word at issue. -/
def issueDrn (i : Instr) (op : Nat) (f : DrnW) (s : State) (act : Env → Act) : Out :=
  issueWord i f.g (some f.lit) (drnVs op f) s (fun _ => true) act

/-- DST (R286). -/
def execDst (f : DrnW) (s : State) : Out := issueDrn (.dst f) 0xB0 f s fun e => e.dst f
/-- DSTA (R287). -/
def execDsta (f : DrnW) (s : State) : Out := issueDrn (.dsta f) 0xB1 f s fun e => e.dsta f
/-- DSTM (R288). -/
def execDstm (f : DrnW) (s : State) : Out := issueDrn (.dstm f) 0xB2 f s fun e => e.dstm f
/-- DSTV (R289). -/
def execDstv (f : DrnW) (s : State) : Out := issueDrn (.dstv f) 0xB3 f s fun e => e.dstv f
/-- ATOM (R290). -/
def execAtom (f : DrnW) (s : State) : Out := issueDrn (.atom f) 0xB4 f s fun e => e.atom f
/-- ATOMC (R291). -/
def execAtomc (f : DrnW) (s : State) : Out := issueDrn (.atomc f) 0xB5 f s fun e => e.atomc f
/-- RED (R292). -/
def execRed (f : DrnW) (s : State) : Out := issueDrn (.red f) 0xB6 f s fun e => e.red f
/-- DFENCE (R284). -/
def execDfence (f : DrnW) (s : State) : Out := issueDrn (.dfence f) 0xB7 f s fun e => e.dfence f

/-! ## The update (R280 to R283) -/

/-- The sectors an update touches: their bytes, and which of them it has written. -/
abbrev SecBuf := List (Place × List (Byte × Bool))
def SecBuf.read (m : SecBuf) (pl : Place) (n : Nat) : List Byte :=
  match m.find? fun q => q.1 = pl.sector with
  | some q => ((q.2.drop (pl.off % 64)).take n).map (·.1)
  | none => []
def SecBuf.write (m : SecBuf) (pl : Place) (bs : List Byte) : SecBuf :=
  let lo := pl.off % 64
  m.map fun q => if q.1 = pl.sector then
      (q.1, q.2.mapIdx fun i c => if lo ≤ i && i < lo + bs.length then (bs.getD (i - lo) 0#8, true) else c)
    else q
/-- The runs of written bytes of a sector from offset `i` on. -/
def secRuns : Nat → List (Byte × Bool) → List (Nat × List Byte)
  | _, [] => []
  | i, (b, w) :: rest =>
    match w, secRuns (i + 1) rest with
    | true, (j, bs) :: more => if j = i + 1 then (i, b :: bs) :: more else (i, [b]) :: (j, bs) :: more
    | true, [] => [(i, [b])]
    | false, r => r

/-- The places an element writes. -/
def DElem.places (e : DElem) : List Place := e.pl :: e.sc.toList
def drainSectors (es : List DElem) : List Place := ((es.flatMap DElem.places).map Place.sector).eraseDups

/-- The warp's earlier operations let drain update `x` be applied (R30, R36, R283, R284, log 89). -/
def State.drainMay (s : State) (x : Op) (lit : Word) (es : List DElem) : Bool :=
  let secs := drainSectors es
  (s.earlier x).all fun y =>
    !y.k.blocksLater && !y.acquires && !y.k.reads && !(y.k.isFence && y.k.releases) && !(x.k.sc && y.k.sc)
    && !(y.k.isLs && (ordRel (litOrd lit) || y.k.parts.any (fun q => secs.any q.touches)
          || y.k.lines.any (fun l => secs.any fun c => c.line = some l)
          || y.k.wlines.any (fun l => secs.any fun c => c.line = some l)))
    && (match y.k with | .drain _ _ _ _ _ fs => !(drainSectors fs).any secs.contains | _ => true)

/-- A sector must wait: its pool link, its next retry, a reader of the shadow buffer. -/
def State.drainBlocked (s : State) (x : Op) (sec : Place) : Bool :=
  match sec with
  | .glob pa => s.unreachable pa || s.backing (.op x.id) (s.drainHome pa) ||
      (match s.shadowOf pa with | some (_, key, buf) => s.bufferHeld x.id key buf | none => false)
  | _ => false

/-- Before the update the issuing domain writes back its dirty bytes of a touched sector and drops its clean copies (R280). -/
def State.drainPrepare (s : State) (x : Op) (sys : Bool) (sec : Place) : State :=
  match sec with
  | .glob pa =>
    let s := s.served (.op x.id) (s.drainHome pa)
    if (s.shadowOf pa).isSome then s else ((s.writeBack x.d (pa / 64) false none sys).l1Drop x.d (pa / 64)).homeServe x.d (pa / 64)
  | _ => s
def State.drainRead (s : State) (sec : Place) : List Byte :=
  match sec with
  | .glob pa => memRead s (s.drainHome pa) 64
  | .scr b _ | .row b _ | .acc b _ => (s.block b).readPlace sec 64
/-- Write one run of a sector. -/
def State.drainWrite (s : State) (x : Op) (rel sys : Bool) (sec : Place) (r : Nat × List Byte) : State :=
  match sec with
  | .glob pa =>
    let s' := (s.homeWrite (s.drainHome pa + r.1) r.2 x.d rel (if rel then some x.id else none) sys).notePersist x.d x.a x.id (s.drainHome pa)
    let s' := if !sys && (regionOf pa = .pool || regionOf pa = .host) then
        s'.updWarp x.bid (opWarp x) fun wp => if wp.far.contains (pa / 64) then wp else { wp with far := pa / 64 :: wp.far }
      else s'
    if (s.shadowOf pa).isSome then s' else s'.updDom x.d fun y => y.setRs (pa / 64) RSec.empty
  | .scr b o => s.updBlock b fun y => y.storeScr (o + r.1) r.2 (.op x.id)
  | .row _ _ | .acc _ _ => s

/-- Apply the elements in order: the sectors, the events, the old values by lane, the generators of DSTM's rows. -/
def Block.drainElems (b : Block) (op : Nat) (lit : Word) (tile : Option Nat) (w : Nat) (es : List DElem) (m : SecBuf) :
    SecBuf × List NumEvent × List (Nat × Nat) × List (Nat × Word) :=
  es.foldl (fun (acc : SecBuf × List NumEvent × List (Nat × Nat) × List (Nat × Word)) e =>
    let (m, evs, old, gens) := acc
    if op = 0xB2 then
      let g := match gens.find? (·.1 = e.lane) with | some p => p.2 | none => ((b.warp w).lane e.lane).gen
      let r := mxBlock (dFMT lit) (dRND lit) ((List.range 32).map fun i => b.accWord (tile.getD 0) e.lane (e.col + i)) g
      let m := m.write e.pl r.1
      let m := match e.sc with | some q => m.write q [r.2.1] | none => m
      (m, evs ++ r.2.2.1, old, (e.lane, r.2.2.2) :: gens.filter (·.1 != e.lane))
    else
      let d := leNat (m.read e.pl e.n)
      let r := b.drainEl op lit tile e d
      (m.write e.pl (leBytes e.n r.1), evs ++ r.2, old ++ [(e.lane, d)], gens)) (m, [], [], [])

/-- The domain whose home or scratch port applies a sector's part. -/
def State.drainTarget (s : State) (d : Nat) (sec : Place) : Nat :=
  match sec with
  | .glob pa => homeOf pa
  | .scr b _ | .row b _ | .acc b _ => match (s.block b).loc with | some l => l.d | none => d

/-- What an element's access passes on (R33, R34): a read-modify-write goes on with what its place has been given. -/
def State.drainPass (s : State) (x : Op) (op ord scp : Nat) (pl : Place) : State :=
  let w := opWarp x
  if !drainRmw op then s.passTo x.bid w (ordRel ord) scp pl
  else (s.takeFrom x.bid w (ordAcq ord) scp pl).onScr fun b y => y.passed (s.relTag b x.bid scp) w (ordRel ord) pl

/-- Every update of a drain is applied together: homes are prepared, elements computed and written, results and the drain count entered (R280 to R283, R287). -/
def State.drainApply (s : State) (x : Op) (op : Nat) (lit : Word) (reg : Nat) (tile : Option Nat) (tid : Nat) (es : List DElem) : State :=
  let scp := drainScope lit es
  let rel := ordRel (litOrd lit)
  let secs := drainSectors es
  let w := opWarp x
  let s := secs.foldl (fun s c => s.drainPrepare x (scp = 3) c) s
  let b := s.block x.bid
  let r := b.drainElems op lit tile w es (secs.map fun c => (c, (s.drainRead c).map fun y => (y, false)))
  let s := es.foldl (fun s e => s.drainPass x op (litOrd lit) scp e.pl) s
  let s := r.1.foldl (fun s q => (secRuns 0 q.2).foldl (fun s p => s.drainWrite x rel (scp = 3) q.1 p) s) s
  let wide := op = 0xB5 && dOP lit = 1
  let data := r.2.2.1.flatMap fun p =>
    (p.1, BitVec.ofNat 32 p.2) :: (if wide then [(32 + p.1, BitVec.ofNat 32 (p.2 / 2 ^ 32))] else [])
  let s := s.updBlock x.bid fun b =>
    let b := if op = 0xB4 || op = 0xB5 then
        data.foldl (fun (b : Block) q => b.vwrite (b.warp w) (reg + q.1 / 32) (q.1 % 32) q.2) b
      else b
    let b := b.updWarp w fun wp => r.2.2.2.foldl (fun (wp : Warp) q => wp.updLanes (BitVec.twoPow 32 q.1) fun _ ln => { ln with gen := q.2 }) wp
    b.count tid r.2.1
  let s := s.applyTag x.d x.a x.jent (secs.map (s.drainTarget x.d)).eraseDups (if op = 0xB4 || op = 0xB5 then data else [])
  let s := if drainRmw op && ordAcq (litOrd lit) && 2 ≤ scp then s.acquireWide x.d else s
  s.setOp { x with k := .drain op lit reg tile tid [], performed := !s.confirming x.id, txn := [] }

/-- The lines of an update are taken: at one home at once; at several, the homes open transactions in ascending order, one home an event, and refuse
other requests until all the parts are applied (R212, R281). -/
def State.drainTake (s : State) (x : Op) (secs : List Place) (go : Out) : Out :=
  let asks := secs.filterMap fun c => match c with | .glob pa => some (s.drainHome pa) | _ => none
  let ask := fun (l : List Nat) (go : Out) => match l.find? fun pa => s.lineRefuses pa (.op x.id) with
    | some pa => .next (s.refuse (.op x.id) pa)
    | none => go
  if (asks.map homeOf).eraseDups.length ≤ 1 then ask asks go
  else
    let rest := asks.filter fun pa => !x.txn.contains (pa / 256)
    match (rest.map homeOf).min? with
    | none => go
    | some h =>
      let l := rest.filter fun pa => homeOf pa = h
      ask l (.next ((l.foldl (fun s pa => s.served (.op x.id) pa) s).setOp { x with txn := x.txn ++ (l.map (· / 256)).eraseDups }))

/-- The elements of an update as it travels on without its core: DST's and DSTM's bytes are made, a DSTA keeps its tile words (R280, R287, R380). -/
def Block.strayElems (b : Block) (op : Nat) (lit : Word) (tile w : Nat) (es : List DElem) : List DElem :=
  match op with
  | 0xB0 => es.map fun e => { e with x := (b.drainEl op lit (some tile) e 0).1 }
  | 0xB1 => es.map fun e => { e with x := (b.accWord tile e.lane e.col).toNat }
  | _ => (es.foldl (fun (acc : List DElem × List (Nat × Word)) e =>
      let g := match acc.2.find? (·.1 = e.lane) with | some p => p.2 | none => ((b.warp w).lane e.lane).gen
      let r := mxBlock (dFMT lit) (dRND lit) ((List.range 32).map fun i => b.accWord tile e.lane (e.col + i)) g
      (acc.1 ++ { e with x := leNat r.1, sc := none } ::
          (match e.sc with | some q => [{ e with pl := q, n := 1, x := r.2.1.toNat, ty := e.sty, sc := none }] | none => []),
        (e.lane, r.2.2.2) :: acc.2.filter (·.1 != e.lane))) ([], [])).1
/-- A drain update that has left a core which fails (R380): it is no block's, and its elements no tile's. None where it has not left: it asks no home
yet and is in no journal, or an earlier operation of its warp holds it back. DESIGN CHOICE, log 56. unsafe. -/
def State.strayDrain (s : State) (x : Op) (bid : Nat) : Option Op :=
  match x.k with
  | .drain op lit reg tile tid es =>
    let own := x.foot.any fun b => match (s.block b).loc with | some l => l.d = x.d && l.a = x.a | none => true
    let asked := x.flushed || !x.txn.isEmpty || x.jent.isSome || s.retries.any fun r => r.q = .op x.id
    if es.isEmpty || own || !asked || !s.drainMay x lit es || !s.tilesFree x then none
    else
      let k := match tile with
        | some t => .drain (if op = 0xB1 then op else 0xB3) lit reg none tid ((s.block x.bid).strayElems op lit t (opWarp x) es)
        | none => x.k
      some { x with bid := bid, k := k, seq := false }
  | _ => none

/-- DRAIN_UPDATE_APPLY: the whole update in one step; a release first writes back the remote-dirty list, and is performed when its
invalidations are confirmed (R280 to R283, R287, R290, R291, R293). -/
def execDrainUpdateApply (o : Nat) (s : State) : Out :=
  match s.op o with
  | none => .refused .notEnabled
  | some x =>
    match x.k with
    | .drain op lit reg tile tid es =>
      let scp := drainScope lit es
      let secs := drainSectors es
      let go := s.drainTake x secs (.next (s.drainApply x op lit reg tile tid es))
      if x.performed then .refused .notEnabled
      else if es.isEmpty then (if s.confirming x.id then .refused .notEnabled else .next (s.setOp { x with performed := true }))
      else if !s.drainMay x lit es || !s.tilesFree x || secs.any (s.drainBlocked x) then .refused .notEnabled
      else if ordRel (litOrd lit) && 2 ≤ scp then s.releasing x (scp = 3) go else go
    | _ => .refused .notEnabled

end Sys2Proof.Machine
end

