-- ==== Sys2Proof/Machine/Task.lean ====
section
/-! DEFINITION. The task instructions 0xC0 to 0xC7 (R318 to R326) and the enqueue windows (R300). -/

namespace Sys2Proof.Machine

/-! ## Shared -/

/-- Value `k` of a restored uniform result. -/
def restored (data : List (Nat × Word)) (k : Nat) : Word := ((data.find? fun p => p.1 = k).map (·.2)).getD 0xFFFFFFFF#32
/-- A release of the issuing warp at a scope: its accesses are performed, the remote-dirty list is written back, and the homes have confirmed
their invalidations (R33, R41, R199, R210). The number of a release that has begun stands in the warp, or in the sequencer. -/
def Env.release (e : Env) (s : State) (scp : Nat) (k : State → Act) : Act :=
  if !e.sq && s.lsBusy e.bid e.w false then .stall
  else if scp < 2 then k s
  else
    let mark := fun (s : State) (r : Option Nat) =>
      if e.sq then s.updSeq e.loc.d e.loc.a fun q => { q with rel := r } else s.updWarp e.bid e.w fun wp => { wp with rel := r }
    match (if e.sq then (s.seqOf e.loc.d e.loc.a).rel else e.wp.rel) with
    | some n => if s.confirming n then .stall else k (mark s none)
    | none =>
      match s.flush e.loc.d (.slice e.loc.d) s.nextOp (scp = 3) with
      | .wait => .stall
      | .refused pa => e.stay (s.refuse (.slice e.loc.d) pa)
      | .made t =>
        let t := { t with nextOp := s.nextOp + 1 }
        if t.confirming s.nextOp then e.stay (mark t (some s.nextOp)) else k t
/-- A journalled uniform operation on a record or tile (R54): `res` names the register of the result, `go` performs it and gives the
result. -/
def Env.uniformOp (e : Env) (s : State) (d : BitVec 3) (tgt : Word) (dom res : Nat) (go : State → Word × State) : Act :=
  e.journal s tgt.toNat 0xFFFFFFFF#32 (fun data s => s.updWarp e.bid e.w fun wp => wp.setS res (restored data 0)) fun j s =>
    let r := go s
    e.quick (r.2.applyTag e.loc.d e.loc.a j [dom] [(0, r.1)]) d [(res, r.1)] j
def Env.useRec (e : Env) (s : State) (h : Word) : Option (Nat × Nat) := s.usableRec e.blk.asid e.blk.isHandler h
/-- A record that TDEC, TINC and TCANCEL may change: a hardware index only by the block that spawned it (R319). -/
def Env.changeRec (e : Env) (s : State) (h : Word) : Option (Nat × Nat) :=
  match e.useRec s h with
  | some (d, i) => if hwIndex i && (s.recAt d i).parent != some e.bid then none else some (d, i)
  | none => none
/-- The domain a handle names, for the operation's TAG. -/
def handleDom (h : Word) : Nat := h.toNat / 2 ^ 16 % 64
def issueAsy (i : Instr) (f : AsyW) (s : State) (act : Env → Act) : Out :=
  issueWord i f.g f.lit [] s (fun _ => true) act

/-! ## ENQ and SPAWN -/

/-- Read and check the record at b[BA] (R320): translate, release at SYS, the checks of R301. -/
def Env.readRecord (e : Env) (ba : Nat) (always : Bool) (k : List Word → State → Act) : Act :=
  let va := (e.breg ba).toNat
  if va % 64 != 0 then .trap .misaligned e.cl.run (BitVec.ofNat 80 va) e.cl.word
  else match e.translate e.s va .load 64 with
    | (.bad _ c, s) => .trapAt s (codeCause c) e.cl.run (BitVec.ofNat 80 va) e.cl.word
    | (.wait, s) => e.stay s
    | (.ok pa ty, s) =>
      match s.tileAt pa with
      | some (_, _, _, false) => .trapAt s .protection e.cl.run (BitVec.ofNat 80 va) e.cl.word
      | _ => e.release s 3 fun s =>
        match s.readSector (.slice e.loc.d) e.loc.d [] false (.glob pa) with
        | .wait => .stall
        | .refused pa => e.stay (s.refuse (.slice e.loc.d) pa)
        | .ok bs _ s =>
          let ws := recWords bs
          match (s.keepCopy e.loc.d ty (.glob pa)).recCode e.loc.d (if e.blk.isHandler && !always then none else some e.blk.asid) false ws
              (.core e.loc.d e.loc.a) with
          | (none, s) => e.stay s
          | (some 0, s) => k ws s
          | (some c, s) => .trapAt s .footprint e.cl.run (BitVec.ofNat 80 va) (BitVec.ofNat 32 c)

/-- ENQ's outcome at the record `h` names: 3 not usable, 1 busy, 0 installed. -/
def Env.enqNow (e : Env) (h : Word) (ws : List Word) (wafer : Bool) (s : State) : Word × State :=
  match e.useRec s h with
  | none => (3#32, s)
  | some (d, i) =>
    if hwIndex i then (3#32, s)
    else match (s.recAt d i).st with
      | .waiting | .ready | .running => (1#32, s)
      | _ => (0#32, s.installRec d i ws wafer none)
/-- The handle ENQ acts on: of its own domain for a WAFER launch. -/
def Env.enqHandle (e : Env) (f : AsyW) (s : State) : Word :=
  if f.v.getLsbD 0 then recHandle s.svc.dev e.loc.d ((e.sreg f.s.toNat).toNat % 2 ^ 16) else e.sreg f.s.toNat
/-- The end of the last run of the record that `h` names is under way: an operation that arms it again waits (log 112). -/
def Env.recEnding (e : Env) (s : State) (h : Word) : Bool := match e.useRec s h with | some (d, i) => !hwIndex i && s.ending d i | none => false
/-- ENQ (R320). -/
def execEnq (f : AsyW) (s : State) : Out :=
  issueAsy (.enq f) f s fun e => e.slotted f.d fun e => e.readRecord f.ba.toNat false fun ws s =>
    let h := e.enqHandle f s
    if e.recEnding s h then e.stay s else
    e.uniformOp s f.d h (handleDom h) f.s.toNat (e.enqNow h ws (f.v.getLsbD 0))

/-- Install a child of block `b` (R321): its handle. -/
def State.spawnNow (s : State) (b d : Nat) (ws : List Word) (wafer : Bool) : Option (Word × State) :=
  let x := s.dom d
  match x.freeHw with
  | some i =>
    if x.levelRoom (rPRI ws) then
      let h := recHandle s.svc.dev d i
      let ws := recPut ws 4 28 (rDEPTH (s.block b).lrec + 1)
      some (h, (s.installRec d i ws wafer (some b)).updBlock b fun y => { y with children := y.children ++ [h] })
    else none
  | none => none

/-- SPAWN (R321): with no room it stands at the blocking point; an operation the journal holds is not issued again. -/
def execSpawn (f : AsyW) (s : State) : Out :=
  issueAsy (.spawn f) f s fun e => e.slotted f.d fun e => e.readRecord f.ba.toNat true fun ws s =>
    let S := f.s.toNat
    let wafer := f.v.getLsbD 0
    let va := e.breg f.ba.toNat
    let wait := fun (s : State) => Act.wait (s.updWarp e.bid e.w fun wp => { wp with wait := some (.spawn ws wafer S f.d.toNat) })
    if rDEPTH e.blk.lrec = 8 then .trapAt s .nestingLimit e.cl.run va 8#32
    else if e.oldEntry.isNone && (s.spawnNow e.bid e.loc.d ws wafer).isNone then wait s
    else
      e.journal s va.toNat 0xFFFFFFFF#32 (fun data s => s.updWarp e.bid e.w fun wp => wp.setS S (restored data 0)) fun j s =>
        match s.spawnNow e.bid e.loc.d ws wafer with
        | none => wait s
        | some (h, s) => e.quick (s.applyTag e.loc.d e.loc.a j [e.loc.d] [(0, h)]) f.d [(S, h)] j

/-- A SPAWN that waits is served when there is room and the journal lets it go (R321, R381). -/
def State.serveSpawn (s : State) (b w : Nat) : State :=
  let x := s.block b
  let wp := x.warp w
  match wp.wait, x.loc, wp.clause with
  | some (.spawn ws wafer S d), some l, some c =>
    if x.evicting || (s.spawnNow b l.d ws wafer).isNone then s
    else match s.journalNow l 0xC0 w c.wordPc 0xFFFFFFFF#32 (wp.breg (c.word.extractLsb' 7 3).toNat).toNat with
      | .error s => s
      | .ok (j, s) =>
        match s.spawnNow b l.d ws wafer with
        | none => s
        | some (h, s) =>
          let s := s.applyTag l.d l.a j [l.d] [(0, h)]
          let o : Op := { id := s.nextOp, bid := b, ws := [(w, d)], d := l.d, a := l.a, word := c.word, seq := false, k := .plain,
                          res := [(S, h)], performed := true, flushed := false, acq := false, txn := [], jent := j, pins := [], foot := [], shads := [], pers := false }
          State.updBlock { s with ops := s.ops ++ [o], nextOp := s.nextOp + 1 } b fun y => ((y.updWarp w (·.claim d)).unrecord w d).closeClause w
  | _, _, _ => s
def State.serveSpawns (s : State) : State :=
  s.blocks.foldl (fun s p => (List.range p.2.warps.length).foldl (fun s w =>
    match (p.2.warp w).wait with
    | some (.spawn _ _ _ _) => s.serveSpawn p.1 w
    | _ => s) s) s

/-! ## Counters -/

/-- m of TDEC and TINC: 1 without a literal. -/
def stepOf (l : Option Word) : Nat := match l with | some m => m.toNat | none => 1
/-- The outcome of TDEC and TINC: all ones where the record may not be changed, is not WAITING or would overflow; else the new count. -/
def Env.changeNow (e : Env) (h : Word) (m : Nat) (inc : Bool) (s : State) : Word × State :=
  match e.changeRec s h with
  | none => (0xFFFFFFFF#32, s)
  | some (d, i) =>
    let r := s.recAt d i
    if r.st != RecSt.waiting || (inc && 2 ^ 32 ≤ r.cnt + m) then (0xFFFFFFFF#32, s)
    else if inc then (BitVec.ofNat 32 (r.cnt + m), s.updRec d i fun r => r.setWord 0 (BitVec.ofNat 32 (r.cnt + m)))
    else (BitVec.ofNat 32 (r.cnt - m), (s.decrement d i m).settleGroups)
/-- TDEC and TINC (R302, R322). -/
def Env.change (e : Env) (f : AsyW) (inc : Bool) : Act :=
  e.slotted f.d fun e =>
    let h := e.sreg f.s.toNat
    let body := fun (s : State) => e.uniformOp s f.d h (handleDom h) (f.s.toNat + 1) (e.changeNow h (stepOf f.lit) inc)
    if inc then body e.s else e.release e.s 3 body
/-- TDEC (R322). -/
def execTdec (f : AsyW) (s : State) : Out := issueAsy (.tdec f) f s fun e => e.change f false
/-- TINC (R322). -/
def execTinc (f : AsyW) (s : State) : Out := issueAsy (.tinc f) f s fun e => e.change f true

/-! ## Waiting and state -/

/-- TWAIT (R323). A record whose completion is still to be written wakes it when that is over (R316, log 112). -/
def execTwait (f : AsyW) (s : State) : Out :=
  issueAsy (.twait f) f s fun e =>
    let S := f.s.toNat
    let h := e.sreg S
    let put := fun (s : State) (x : Word) => s.updWarp e.bid e.w fun wp => wp.setS S x
    if !e.any then .done e.s
    else match e.useRec e.s h with
      | none => .done (put e.s 0x00020000#32)
      | some (d, i) =>
        let r := e.s.recAt d i
        let t := e.sreg (S + 1)
        if r.st.terminal && r.fin.isNone then
          let s := put (e.s.acquireWide e.loc.d) (r.status &&& 0xFFFF#32)
          .done (if hwIndex i && r.parent = some e.bid then s.poolReturn d i else s)
        else if f.v.getLsbD 0 && e.s.sidHeld e.loc.d then .stall
        else if f.v.getLsbD 0 && !r.st.terminal && reached (e.s.sid e.loc.d) t then .done (put e.s 0x00010000#32)
        else .wait (e.setWarp fun wp => { wp with wait := some (.twait h S (if f.v.getLsbD 0 then some (t.setWidth 64) else none)) })

/-- TWAIT_DEADLINE: a TWAIT.T times out (R323); a record that has ended decides first. -/
def execTwaitDeadline (b w : Nat) (s : State) : Out :=
  let x := s.block b
  match x.loc, (x.warp w).wait with
  | some l, some (.twait h r (some t)) =>
    let ended := match s.named h with | some (d, i) => (s.recAt d i).st.terminal | none => false
    if reached (s.sid l.d) (t.setWidth 32) && !s.sidHeld l.d && !ended then .next (s.twaitEnd b w r 0x00010000#32 none) else .refused .notEnabled
  | _, _ => .refused .notEnabled

/-- TSTAT (R324). -/
def execTstat (f : AsyW) (s : State) : Out :=
  issueAsy (.tstat f) f s fun e => e.slotted f.d fun e =>
    let S := f.s.toNat
    let b := fun (x : Bool) (i : Nat) => if x then 2 ^ i else 0
    match e.useRec e.s (e.sreg S) with
    | none => e.quick e.s f.d [(S, 128#32), (S + 1, 0#32)]
    | some (d, i) =>
      let r := e.s.recAt d i
      let x := r.st.code + b r.under 4 + b ((e.s.dom d).deferred i) 5 + b r.wafer 6 + 2 ^ 8 * r.code + 2 ^ 16 * rPRI r.ws
      e.quick e.s f.d [(S, BitVec.ofNat 32 x), (S + 1, BitVec.ofNat 32 r.cnt)]

/-- The blocks of a running grid that are not yet placed are dropped (R325). -/
def State.cancelRun (s : State) (d i : Nat) : State :=
  let mine := fun (r : Rec) => match r.kind with | .range od oi => od = d && oi = i | _ => false
  let s := { s with doms := s.doms.map fun (p : Nat × Domain) => (p.1, { p.2 with
    recs := p.2.recs.map fun (q : Nat × Rec) => if mine q.2 && q.2.st != RecSt.free then (q.1, { q.2 with placed := true, st := .running }) else q,
    ready := p.2.ready.filter fun j => !mine (p.2.recOf j) }) }
  let s := s.updDom d fun x => { x with ready := x.ready.filter (· != i) }
  s.updRec d i fun r =>
    let out := ((List.range 64).filter fun t => r.wafer && r.cursor.testBit t).length
    { r with cancel := true, placed := true, ranges := r.ranges - out, cursor := if r.wafer then 0 else r.cursor }

/-- TCANCEL's outcome: all ones where the record may not be changed, else the state it was in; a record that had not started ends CANCELLED, a
running one places no more blocks. -/
def Env.cancelNow (e : Env) (h : Word) (s : State) : Word × State :=
  match e.changeRec s h with
  | none => (0xFFFFFFFF#32, s)
  | some (d, i) =>
    let st := (s.recAt d i).st
    (BitVec.ofNat 32 st.code, match st with
      | .waiting | .ready => s.finishRec d i .cancelled
      | .running => s.cancelRun d i
      | _ => s)
/-- TCANCEL (R325). -/
def execTcancel (f : AsyW) (s : State) : Out :=
  issueAsy (.tcancel f) f s fun e => e.slotted f.d fun e =>
    let h := e.sreg f.s.toNat
    e.uniformOp e.s f.d h (handleDom h) f.s.toNat (e.cancelNow h)

/-- The record TREARM acts on. -/
def Env.rearmAt (e : Env) (s : State) (h : Word) : Option (Nat × Nat) :=
  match e.useRec s h with
  | some (d, i) => if hwIndex i then none else some (d, i)
  | none => none
/-- What keeps TREARM waiting: the end of the record's last run, a walk of its checks; in the state it then waits in. -/
def State.rearmReady (s : State) (at' : Option (Nat × Nat)) : Tried :=
  match at' with
  | some (d, i) =>
    if !(s.recAt d i).st.terminal then .ok s
    else if s.ending d i then .wait s
    else match s.recCode d none true (s.recAt d i).ws (.task d i) with
      | (none, s) => .wait s
      | (some _, s) => .ok s
  | none => .ok s
/-- TREARM's outcome: 3 no such record, 1 not ended, 0 armed again, 4 + 256 × code refused. -/
def State.rearmNow (at' : Option (Nat × Nat)) (c : Nat) (s : State) : Word × State :=
  match at' with
  | none => (3#32, s)
  | some (d, i) =>
    if !(s.recAt d i).st.terminal then (1#32, s)
    else match s.rearm d i c with
      | (some 0, s) => (0#32, s.settleGroups)
      | (some x, s) => (BitVec.ofNat 32 (4 + 256 * x), if (s.recAt d i).fin.isSome then s.settleGroups else s.finEnd d i)
      | (none, s) => (1#32, s)
/-- TREARM (R326). -/
def execTrearm (f : AsyW) (s : State) : Out :=
  issueAsy (.trearm f) f s fun e => e.slotted f.d fun e => e.release e.s 3 fun s =>
    let h := e.sreg f.s.toNat
    let at' := e.rearmAt s h
    match s.rearmReady at' with
    | .wait s => e.stay s
    | .ok s => e.uniformOp s f.d h (handleDom h) f.s.toNat (State.rearmNow at' e.lit.toNat)

/-! ## Enqueue windows (R300) -/

/-- ENQUEUE_WINDOW_WRITE (R300, R301): before the windows are open it is dropped and counted (R414). -/
def execEnqueueWindowWrite (d : Nat) (wafer : Bool) (idx : Nat) (r : List Word) (s : State) : Out :=
  if 64 ≤ d || 65536 ≤ idx then .refused .notEnabled
  else if !s.svc.winOpen then .next (s.enqDrop d)
  else match s.windowEnq d wafer idx r with
    | .done _ s => .next s
    | .wait t => s.waiting t
/-- ENQDROP_WRITE: any write clears both counts (R297). -/
def execEnqdropWrite (d : Nat) (s : State) : Out :=
  if 64 ≤ d then .refused .notEnabled else .next (s.updDom d fun x => { x with enqDropped := 0, enqStray := 0 })

end Sys2Proof.Machine
end

