-- ==== Sys2Proof/Machine/Publish.lean ====
section
/-! DEFINITION. The publish instructions 0xC8 to 0xCF (13, R332 to R348): publishes with their subscriber actions (Table 13-4), supersede
events (R338), bindings (R336), groups and mappings. -/

namespace Sys2Proof.Machine

/-! ## Handles -/

/-- The domain and index of a tile handle of this device. -/
def State.tileNamed (s : State) (h : Word) : Option (Nat × Nat) :=
  let h := h.toNat
  if h / 2 ^ 24 = 0 && h / 2 ^ 18 % 64 = s.svc.dev then some (h / 2 ^ 12 % 64, h % 4096) else none
/-- The usable tile a handle names for an issuer (R332). -/
def State.usableTile (s : State) (asid : Nat) (sup : Bool) (h : Word) : Option (Nat × Nat) :=
  match s.tileNamed h with
  | some (d, i) =>
    let t := s.tile d i
    if t.mapped && (sup || t.asid = asid) then some (d, i) else none
  | none => none
/-- The usable group a handle names: ASID counts for a valid one only. -/
def State.usableGroup (s : State) (asid : Nat) (sup : Bool) (h : Word) : Option (Nat × Nat) :=
  let x := h.toNat
  let d := x / 2 ^ 8 % 64
  let g := s.group d (x % 256)
  if x / 2 ^ 20 = 0 && x / 2 ^ 14 % 64 = s.svc.dev && (!g.val || sup || g.asid = asid) then some (d, x % 256) else none
def Env.useTile (e : Env) (s : State) (h : Word) : Option (Nat × Nat) := s.usableTile e.blk.asid e.blk.isHandler h
def Env.useGroup (e : Env) (s : State) (h : Word) : Option (Nat × Nat) := s.usableGroup e.blk.asid e.blk.isHandler h

/-- The tile state word (R342). -/
def State.tileWord (s : State) (d i : Nat) (refused : Bool) : Word :=
  let t := s.tile d i
  let b := fun (x : Bool) (k : Nat) => if x then 2 ^ k else 0
  let set := match t.grp with
    | some h => (s.group (h.toNat / 2 ^ 8 % 64) (h.toNat % 256)).set
    | none => false
  BitVec.ofNat 32 (t.ver + b t.final 16 + b t.stop 17 + b t.lost 18 + b set 19 + b refused 31)

/-! ## Bindings and supersede events -/

/-- VERIN and STALE of a run change: those of its record, and of each of its blocks (R335, R349). -/
def State.updRun (s : State) (d i : Nat) (f : Word × Word → Word × Word) : State :=
  let s := s.updRec d i fun r => { r with verin := (f (r.verin, r.stale)).1, stale := (f (r.verin, r.stale)).2 }
  { s with blocks := s.blocks.map fun (p : Nat × Block) =>
      if p.2.rdom = d && p.2.ridx = i && !p.2.isHandler then
        (p.1, { p.2 with verin := (f (p.2.verin, p.2.stale)).1, stale := (f (p.2.verin, p.2.stale)).2 })
      else p }
/-- The first block of a run is placed: every subscription is bound, VERIN and STALE are written (R336). -/
def State.bindRun (s : State) (d i : Nat) : State :=
  let ls := [0, 1].filterMap fun pos => (recLink (s.recAt d i).ws pos).map fun l => (pos, l)
  let s := s.updRun d i fun _ => (0#32, 0#32)
  (ls.foldl (fun s p =>
    let t := s.tile p.2.1 p.2.2.1
    let s := s.updSub p.2 fun u => { u with bv := t.ver, bvf := t.final, sst := sstBound }
    s.updRun d i fun v => (v.1 ||| BitVec.ofNat 32 (t.ver * 2 ^ (16 * p.1)), v.2 ||| (if t.final then BitVec.twoPow 32 (2 + p.1) else 0#32))) s).settleGroups

/-- A supersede event for every warp of the run's blocks that has a lane in ST 0 or 1 (R338). -/
def State.supersede (s : State) (d i : Nat) (evpc : Word) : State :=
  { s with blocks := s.blocks.map fun (p : Nat × Block) =>
      if p.2.rdom = d && p.2.ridx = i && !p.2.isHandler then
        (p.1, { p.2 with warps := p.2.warps.map fun (wp : Warp) => if wp.exited then wp else { wp with ev := wp.ev ++ [evpc] } })
      else p }

/-- SUPERSEDE_EVENT: a warp at a clause boundary enters EVPC, or logs that a call stack is full; of several events the oldest is taken first, all at
one boundary (R338). -/
def execSupersedeEvent (b w : Nat) (s : State) : Out :=
  let x := s.block b
  let wp := x.warp w
  match x.loc, wp.ev with
  | some l, pc :: rest =>
    if !wp.evDue || wp.exited || wp.parked then .refused .notEnabled
    else
      let s := s.updWarp b w fun wp => { wp with ev := rest, evDue := !rest.isEmpty }
      if (lanesOf wp.present).any fun L => 8 ≤ (wp.lane L).calls.length then .next (s.logEvent 0x51 l.d l.a)
      else .next (s.updWarp b w fun wp => (wp.updLanes wp.present fun _ ln =>
        { ln with calls := (ln.pc, ln.fb) :: ln.calls, fb := ln.loops.length, pc := pc }).mergeDef)
  | _, _ => .refused .notEnabled

/-! ## Publishes -/

/-- The action of Table 13-4 at entry `k` of a tile that has just been published. -/
def State.subPublish (s : State) (d i k : Nat) : State :=
  let t := s.tile d i
  match mfind t.subs k with
  | none => s
  | some u =>
    match s.named u.rh with
    | none => s
    | some (rd, ri) =>
      let put := fun (s : State) (x : Nat) => s.updSub (d, i, k) fun u => { u with sst := x }
      if u.sst = sstWaiting then (if u.minv ≤ t.ver then (put s sstArmed).decrement rd ri 1 else s)
      else if u.sst = sstBound then
        if t.ver ≤ u.bv then s
        else
          let was := (s.recAt rd ri).stale.getLsbD u.pos
          let s := s.updRun rd ri fun v => (v.1, v.2 ||| BitVec.twoPow 32 u.pos)
          if u.ev && !was then s.supersede rd ri u.evpc else s
      else if u.sst = sstIdle && !u.bvf && (s.recAt rd ri).st.terminal then
        let s := s.refire rd ri
        if (s.recAt rd ri).st.terminal then s else put s sstArmed
      else s

/-- One publish at the tile's home: the swap, the subscribers, the groups (R343). -/
def State.publish (s : State) (d i : Nat) (final : Bool) : State :=
  let s := s.updTile d i fun t =>
    { t with front := !t.front, ver := t.ver + 1, tpub := s.sid d, lost := false, final := final || t.stop }
  ((List.range 16).foldl (fun s k => s.subPublish d i k) s).settleGroups

/-- A shadow copy or drain write of the block to the tile has still to complete (R343). -/
def Env.shadowBusy (e : Env) (s : State) (d i : Nat) : Bool := s.ops.any fun x => x.bid = e.bid && x.shads.contains (tileKey d i)

/-- SCP of a VPOST or VERQ literal, WAF without one (R341). -/
def scpOf (l : Option Word) : Nat := match l with | some x => x.toNat / 2 ^ 27 % 4 | none => 2

/-- The outcome of a publish by an issuer that may use the tile: the publish unless the tile is FINAL, and its state word. -/
def State.publishNow (d i : Nat) (final : Bool) (s : State) : Word × State :=
  let t := s.tile d i
  let s := if t.final then s else s.publish d i final
  (s.tileWord d i t.final, s)
/-- VPOST and VPOSTF (R343): the warp is held at the word until the home has decided, and while the home's counter is not reloaded (R422). -/
def Env.vpost (e : Env) (f : AsyW) (final : Bool) : Act :=
  e.slotted f.d fun e =>
    let S := f.s.toNat + 1
    let h := e.sreg f.s.toNat
    let full := fun (s : State) => match e.useTile s h with | some (d, i) => !(s.tile d i).final && (s.tile d i).ver = 65535 | none => false
    let body := fun (s : State) =>
      if e.oldEntry.isNone && full s then .trapAt s .versionOverflow e.cl.run 0#80 h else
      e.journal s h.toNat 0xFFFFFFFF#32 (fun data s => if e.sq then s else s.updWarp e.bid e.w fun wp => wp.setS S (restored data 0)) fun j s =>
        match e.useTile s h with
        | none => e.quick (s.applyTag e.loc.d e.loc.a j [e.loc.d] [(0, 0xFFFFFFFF#32)]) f.d [(S, 0xFFFFFFFF#32)] j
        | some (d, i) =>
          if full s then .trapAt s .versionOverflow e.cl.run 0#80 h
          else
            let r := State.publishNow d i final s
            e.quick (r.2.applyTag e.loc.d e.loc.a j [d] [(0, r.1)]) f.d [(S, r.1)] j
    match e.useTile e.s h with
    | none => if e.oldEntry.isSome then body e.s else e.quick e.s f.d [(S, 0xFFFFFFFF#32)]
    | some (d, i) => e.release e.s (scpOf f.lit) fun s => if e.shadowBusy s d i || s.sidHeld d then e.stay s else body s
/-- VPOST (R343). -/
def execVpost (f : AsyW) (s : State) : Out := issueAsy (.vpost f) f s fun e => e.vpost f false
/-- VPOSTF (R343). -/
def execVpostf (f : AsyW) (s : State) : Out := issueAsy (.vpostf f) f s fun e => e.vpost f true

/-! ## SUBS, VERQ, RSTOP, SSACK -/

/-- The lowest free subscriber entry. -/
def Tile.freeSub (t : Tile) : Option Nat := (List.range 16).find? fun k => (mfind t.subs k).isNone
/-- SUBS: the outcome and the state (R344). -/
def Env.subscribe (e : Env) (s : State) (h r n : Word) (pos : Nat) (ev : Bool) (evpc : Word) : Word × State :=
  match e.useTile s h, e.useRec s r with
  | some (d, i), some (rd, ri) =>
    let t := s.tile d i
    let x := s.recAt rd ri
    if hwIndex ri || n.toNat = 0 || 65535 < n.toNat then (0xFFFFFFFF#32, s)
    else if x.st != RecSt.waiting then (0x80000001#32, s)
    else if (recLink x.ws pos).isSome then (0x80000002#32, s)
    else match t.freeSub with
      | none => (0x80000003#32, s)
      | some k =>
        let later := t.ver < n.toNat
        if later && x.cnt = 2 ^ 32 - 1 then (0x80000004#32, s)
        else
          let u : Sub := { rh := r, bv := 0, bvf := false, ev := ev, pos := pos, sst := if later then sstWaiting else sstArmed, minv := n.toNat, evpc := evpc }
          let s := s.updTile d i fun t => { t with subs := mput t.subs k u }
          let s := s.updRec rd ri fun x =>
            let x := x.setWord (14 + pos) (linkWord d i k)
            if later then x.setWord 0 (BitVec.ofNat 32 (x.cnt + 1)) else x
          (if later then 0#32 else 1#32, s.settleGroups)
  | _, _ => (0xFFFFFFFF#32, s)
/-- SUBS (R344). -/
def execSubs (f : AsyW) (s : State) : Out :=
  issueAsy (.subs f) f s fun e => e.slotted f.d fun e =>
    let S := f.s.toNat
    let r := e.subscribe e.s (e.sreg S) (e.sreg (S + 1)) (e.sreg (S + 2)) (if f.v.getLsbD 1 then 1 else 0) (f.v.getLsbD 0) e.lit
    e.quick r.2 f.d [(S + 2, r.1)]

/-- VERQ (R345). -/
def execVerq (f : AsyW) (s : State) : Out :=
  issueAsy (.verq f) f s fun e => e.slotted f.d fun e =>
    let S := f.s.toNat
    match e.useTile e.s (e.sreg S) with
    | none => e.quick e.s f.d [(S + 1, 0xFFFFFFFF#32)]
    | some (d, i) =>
      let s := if 2 ≤ scpOf f.lit then e.s.acquireWide e.loc.d else e.s
      e.quick s f.d [(S + 1, s.tileWord d i false)]

/-- RSTOP (R345). -/
def execRstop (f : AsyW) (s : State) : Out :=
  issueAsy (.rstop f) f s fun e => e.slotted f.d fun e =>
    let S := f.s.toNat
    match e.useTile e.s (e.sreg S) with
    | none => e.quick e.s f.d [(S + 1, 0xFFFFFFFF#32)]
    | some (d, i) => e.quick (e.s.updTile d i fun t => { t with stop := true }) f.d [(S + 1, e.s.tileWord d i false)]

/-- SSACK (R348). -/
def execSsack (f : AsyW) (s : State) : Out :=
  issueAsy (.ssack f) f s fun e => e.slotted f.d fun e =>
    let S := f.s.toNat
    let pos := if f.v.getLsbD 0 then 1 else 0
    let rd := e.blk.rdom
    let ri := e.blk.ridx
    match (if e.blk.isHandler then none else recLink (e.s.recAt rd ri).ws pos) with
    | none => e.quick e.s f.d [(S, 0xFFFFFFFF#32)]
    | some l =>
      let s := e.s.acquireWide e.loc.d
      let t := s.tile l.1 l.2.1
      let s := s.updSub l fun u => { u with bv := t.ver, bvf := t.final }
      let s := s.updRun rd ri fun v =>
        ((v.1 &&& ~~~(0xFFFF#32 <<< (16 * pos))) ||| BitVec.ofNat 32 (t.ver * 2 ^ (16 * pos)),
          (v.2 &&& ~~~(BitVec.twoPow 32 pos ||| BitVec.twoPow 32 (2 + pos))) ||| (if t.final then BitVec.twoPow 32 (2 + pos) else 0#32))
      e.quick s.settleGroups f.d [(S, BitVec.ofNat 32 (t.ver + if t.final then 65536 else 0))]

/-! ## GRPSET -/

/-- GRPSET's results. -/
def grpWrong : Word := 0x80000001#32
def grpTile : Word := 0x80000002#32
def grpFull : Word := 0x80000003#32
def grpBad : Word := 0xFFFFFFFF#32

/-- The four outcomes of GRPSET at group `i` of domain `d`: NEW, ADD, ARM, FREE with operand `x` (R346). -/
def Env.grpNew (e : Env) (m d i : Nat) (x : Word) (s : State) : Word × State :=
  if (e.useRec s x).isNone then (grpBad, s)
  else if (s.group d i).val then (grpWrong, s)
  else (0#32, s.updGroup d i fun _ => { Group.zero with val := true, tgt := x, m := m, asid := e.blk.asid })
def Env.grpAdd (e : Env) (d i : Nat) (x : Word) (s : State) : Word × State :=
  match e.useTile s x with
  | none => (grpBad, s)
  | some (td, ti) =>
    if !(s.group d i).val || (s.group d i).arm then (grpWrong, s)
    else if (s.tile td ti).grp.isSome then (grpTile, s)
    else if 255 ≤ (s.group d i).nmem then (grpFull, s)
    else
      let s := s.updTile td ti fun t => { t with grp := some (groupHandle s.svc.dev d i) }
      (0#32, (s.updGroup d i fun g => { g with nmem := g.nmem + 1 }).settleGroups)
def State.grpArm (d i : Nat) (s : State) : Word × State :=
  let g := s.group d i
  if !g.val || g.nmem = 0 || g.arm then (grpWrong, s)
  else (0#32, (s.updGroup d i fun g => { g with arm := true, set := false }).settleGroups)
def State.grpFree (d i : Nat) (s : State) : Word × State :=
  let g := s.group d i
  if !g.val || g.arm then (grpWrong, s)
  else
    let h := some (groupHandle s.svc.dev d i)
    let s := (s.doms.flatMap fun p => p.2.tiles.map fun q => (p.1, q.1)).foldl (fun s p =>
      if (s.tile p.1 p.2).grp = h then s.updTile p.1 p.2 fun t => { t with grp := none } else s) s
    (0#32, s.updGroup d i fun _ => Group.zero)
/-- One GRPSET: `go` decides on the home and index of a usable group and the operand (R346). -/
def Env.grpset (e : Env) (f : AsyW) (go : Nat → Nat → Word → State → Word × State) : Act :=
  e.slotted f.d fun e =>
    let S := f.s.toNat
    let r := match e.useGroup e.s (e.sreg S) with
      | none => (grpBad, e.s)
      | some (d, i) => go d i (e.sreg (S + 1)) e.s
    e.quick r.2 f.d [(S + 1, r.1)]

/-- GRPSET.NEW. -/
def execGrpsetNew (f : AsyW) (s : State) : Out := issueAsy (.grpsetNew f) f s fun e => e.grpset f (e.grpNew (stepOf f.lit))
/-- GRPSET.ADD. -/
def execGrpsetAdd (f : AsyW) (s : State) : Out := issueAsy (.grpsetAdd f) f s fun e => e.grpset f e.grpAdd
/-- GRPSET.ARM. -/
def execGrpsetArm (f : AsyW) (s : State) : Out := issueAsy (.grpsetArm f) f s fun e => e.grpset f fun d i _ => State.grpArm d i
/-- GRPSET.FREE. -/
def execGrpsetFree (f : AsyW) (s : State) : Out := issueAsy (.grpsetFree f) f s fun e => e.grpset f fun d i _ => State.grpFree d i

/-! ## SHMAP (R347) -/

/-- A sector's bytes return to its home from every cache (R330: lines of a mapped tile are cached nowhere else). -/
def State.recall (s : State) (sec : Nat) : State :=
  s.doms.foldl (fun s p =>
    let s := if homeOf (64 * sec) = p.1 then s else s.writeBack p.1 sec false none false
    let s := s.l1Drop p.1 sec
    s.updDom p.1 fun x => x.setRs sec RSec.empty) s

/-- SHMAP without FREE: its recalls wait, and are refused, as any request for a line is (R212, R216). -/
def execShmap (f : AsyW) (s : State) : Out :=
  issueAsy (.shmap f) f s fun e => e.slotted f.d fun e =>
    let S := f.s.toNat
    let h := e.sreg S
    let va := (e.breg f.ba.toNat).toNat
    let n := 2 * e.lit.toNat
    let trap := fun (s : State) c => Act.trapAt s c e.cl.run (BitVec.ofNat 80 va) e.cl.word
    if va % 256 != 0 then trap e.s .misaligned
    else match e.s.lookup e.loc.d e.loc.a e.blk.asid va with
      | (.wait, s) | (.refused _, s) => e.stay s
      | (.bad _ c, s) => trap s (codeCause c)
      | (.ok t, s) =>
        match entryCode s t .store (!e.blk.isHandler) n with
        | some c => trap s (codeCause c)
        | none =>
          let pa := t.paOf va
          if t.ty != 0 || va / 2 ^ pageBits t.size != (va + n - 1) / 2 ^ pageBits t.size then trap s .protection
          else if pa / 65536 != (pa + n - 1) / 65536 then trap s .misaligned
          else
            let answer := fun (x : Word) => e.quick s f.d [(S + 1, x)]
            match s.tileNamed h with
            | none => answer 0xFFFFFFFF#32
            | some (d, i) =>
              if (s.tile d i).mapped then answer 0x80000001#32
              else if (List.range (n / 256)).any fun k => homeOf (pa + 256 * k) != d then answer 0x80000002#32
              else if s.doms.any fun p => p.2.tiles.any fun q => q.2.mapped && q.2.base < pa + n && pa < q.2.base + 512 * q.2.szu then
                answer 0x80000003#32
              else
              let q := Asker.slice d
              let lines := (List.range (n / 256)).map fun k => pa + 256 * k
              if lines.any fun p => s.unreachable p || s.backing q p then e.stay s
              else match lines.find? fun p => s.lineRefuses p q with
              | some p => e.stay (s.refuse q p)
              | none =>
                let s := lines.foldl (fun s p => (s.served q p)) ((List.range (n / 64)).foldl (fun s k => s.recall (pa / 64 + k)) s)
                let s := s.updTile d i fun _ => { Tile.zero with mapped := true, base := pa, szu := e.lit.toNat / 256, asid := e.blk.asid }
                e.quick s f.d [(S + 1, 0#32)]

/-- SHMAP.FREE: it waits for the reads pinned to the tile. -/
def execShmapFree (f : AsyW) (s : State) : Out :=
  issueAsy (.shmapFree f) f s fun e => e.slotted f.d fun e =>
    let S := f.s.toNat
    let answer := fun (s : State) (x : Word) => e.quick s f.d [(S + 1, x)]
    match e.s.tileNamed (e.sreg S) with
    | none => answer e.s 0xFFFFFFFF#32
    | some (d, i) =>
      let t := e.s.tile d i
      if !e.blk.isHandler && t.asid != e.blk.asid then answer e.s 0xFFFFFFFF#32
      else if !t.subs.isEmpty || t.grp.isSome then answer e.s 0x80000001#32
      else if [false, true].any fun b => e.s.bufferHeld e.s.nextOp (tileKey d i) b then .stall
      else answer (e.s.updTile d i fun _ => Tile.zero) 0#32

end Sys2Proof.Machine
end

