-- ==== Sys2Proof/Machine/Sequencer.lean ====
section
/-! DEFINITION. The layer sequencer (14): states, transitions and timers (R358 to R366), the replay of words (R361, R362), opcodes 0xD0 to
0xD7 (R367 to R372). -/

namespace Sys2Proof.Machine

/-! ## The claim (R358) -/

/-- Block `b` holds the sequencer of its core. -/
def Seq.heldBy (q : Seq) (b : Nat) : Bool := q.holder = some b
/-- The claim ends: words in flight keep no slot, and the holder's QWAITs return with NOTHELD in their status (R358, R371). -/
def State.seqRelease (s : State) (d a : Nat) : State :=
  match (s.seqOf d a).holder with
  | none => s
  | some b =>
    let s := s.seqStop d a
    let q := s.seqOf d a
    let s := { s with ops := s.ops.map fun (x : Op) => if x.seq && x.d = d && x.a = a then { x with ws := x.ws.map fun (p : Nat × Nat) => (p.1, 7) } else x }
    let s := s.updSeq d a fun _ => Seq.empty
    (List.range (s.block b).warps.length).foldl (fun s w =>
      match ((s.block b).warp w).wait with
      | some (.qwait i r) => (s.qwaitJoin b w).updBlock b fun x => (x.updWarp w fun wp => wp.setS r (q.status i ||| 8#32)).closeClause w
      | _ => s) s

/-! ## States (R364) -/

/-- Promotion of the object an identifier names is requested. -/
def State.seqPromote (s : State) (d : Nat) (id : Word) : State :=
  match (s.dom d).named id with
  | some i => (s.requestPromotion d i).settleObj d i
  | none => s
/-- enter(i): the state's identifiers are tested, promotions requested, and the pin of POBJ taken where it is RESIDENT (R362, R364). -/
def State.seqEnter (s : State) (d a i : Nat) : State :=
  let s := s.updSeq d a fun q =>
    let q := { q with cur := i, t0 := s.sid d, wix := 0, pinned := false }
    { q with phase := if q.pov then 0 else 1 }
  let s := s.seqRecheck d a
  let q := s.seqOf d a
  if !q.running then s
  else
    let s := if q.pfv then s.seqPromote d q.pfobj else s
    if q.pov then s.seqPromote d q.pobj else s

/-- The tests set in CTL and CND hold (Table 14-6). -/
def State.seqTests (s : State) (d a : Nat) : Bool :=
  let q := s.seqOf d a
  let resident := match (s.dom d).named q.objId with | some i => ((s.dom d).obj i).st = 1 | none => false
  let version := match s.tileNamed q.tile with | some (td, ti) => (q.entWord 12).toNat % 65536 ≤ (s.tile td ti).ver | none => false
  (List.range 8).all (fun i => !(q.cnd 0 8).testBit i || mget 0#32 q.q i = 0#32)
    && (List.range 6).all (fun i => !(q.cnd 8 6).testBit i || !q.sd.getLsbD i)
    && q.cnd 16 8 &&& q.sig.toNat = q.cnd 16 8
    && (!q.idl || q.sd = 0#6) && (!q.res || resident) && (!q.vpb || version)
/-- The counter QOP acts on after it, and whether it comes to zero. -/
def Seq.qop (q : Seq) : Option (Nat × Word) :=
  let i := q.ctl 19 3
  let x := mget 0#32 q.q i
  match q.ctl 22 2 with
  | 1 => some (i, x - if x = 0#32 then 0#32 else 1#32)
  | 2 => some (i, if x = 0xFFFFFFFF#32 then x else x + 1#32)
  | 3 => some (i, BitVec.ofNat 32 ((q.entWord 12).toNat / 65536))
  | _ => none
def Seq.qopZero (q : Seq) : Bool := match q.qop with | some (i, x) => x = 0#32 && mget 0#32 q.q i != 0#32 | none => false
/-- The holder is parked. -/
def State.seqParked (s : State) (d a : Nat) : Bool := match (s.seqOf d a).holder with | some b => (s.block b).loc.isNone | none => false
/-- The core runs. -/
def State.coreRuns (s : State) (d a : Nat) : Bool := s.coreOn d a && !s.sidHeld d

/-- The sequencer slots a condition tests (Table 14-6). -/
def Seq.tested (q : Seq) : List Nat := (List.range 6).filter fun i => q.idl || (q.cnd 8 6).testBit i
/-- Words replayed after a test of slots are ordered after what the slots' operations wrote (R363). -/
def State.seqAwait (s : State) (d a : Nat) (is : List Nat) : State :=
  match (s.seqOf d a).holder with
  | some b => s.awaitSlots b 16 is fun n => .seq n
  | none => s

/-- SEQ_TRANSITION: the tests hold, and the next state is entered; while the holder is parked no counter is brought to zero (R364, R365). The claim of a
killed holder ends once the words it has replayed have completed (R358). DESIGN CHOICE, log 110: as an event of its own. unsafe. -/
def execSeqTransition (d a : Nat) (s : State) : Out :=
  let q := s.seqOf d a
  if q.ending then (if s.ops.any fun x => x.seq && x.d = d && x.a = a then .refused .notEnabled else .next (s.seqRelease d a))
  else if !s.coreRuns d a || !q.running || q.phase != 2 || !s.seqTests d a || (s.seqParked d a && q.qopZero) then .refused .notEnabled
  else
    let s := (s.seqAwait d a q.tested).updSeq d a fun q =>
      { q with sig := q.sig &&& ~~~(BitVec.ofNat 8 (q.cnd 16 8)), q := match q.qop with | some (i, x) => mset 0#32 q.q i x | none => q.q }
    let s := s.seqUnpin d a
    let s := if q.halt then s.updSeq d a fun q => { q with mode := 1 } else s.seqEnter d a q.next
    .next (s.qwaitServe d a)

/-- SEQ_TIMEOUT (R364): in phases 0 and 2, while the tests do not hold. -/
def execSeqTimeout (d a : Nat) (s : State) : Out :=
  let q := s.seqOf d a
  if !s.coreRuns d a || !q.running || !q.ten || q.phase = 1 || s.sid d < q.t0 + BitVec.ofNat 64 q.tout || (q.phase = 2 && s.seqTests d a) then
    .refused .notEnabled
  else
    let s := (s.updSeq d a fun q => { q with tev := true }).logEvent 0x32 d a
    if q.tnext = q.cur then .next (s.updSeq d a fun q => { q with t0 := s.sid d })
    else .next ((s.seqUnpin d a).seqEnter d a q.tnext)

/-! ## Replay (R361, R362) -/

/-- The word slot that replays next: its number, word and literal. -/
def Seq.nextWord (q : Seq) : Option (Nat × Word × Word) :=
  ((List.range 4).find? fun k => q.wix ≤ k && q.entWord (2 * k) != 0#32).map fun k => (k, q.entWord (2 * k), q.entWord (2 * k + 1))
/-- The words of a table slot as the decoder takes them. -/
def seqWords (w lit : Word) : List Word := if takesLiteral w then [w, lit] else [w]

/-- The context of a word replayed by the driver. DESIGN CHOICE, log 25: a journal entry of a replayed word has PC 64 × state + 8 × word + 1,
which no instruction word has. -/
def State.seqEnv (s : State) (b : Nat) (q : Seq) (k : Nat) (w lit : Word) : Env :=
  let blk := s.block b
  let wp := blk.warp q.drv
  let run := wp.present
  let cl : Clause := { hdr := w, pc := BitVec.ofNat 32 (64 * q.cur + 8 * k + 1), ibuf := [lit], idx := 0, nres := 0, run := run,
                       exits := wp.helpersOf run, setpc := 0#32, many := false, rpt := false }
  { s := s, bid := b, w := q.drv, blk := blk, wp := wp, cl := cl, g := cl.gang, gr := run, lit := lit, row := none, sq := true }

/-- The v-registers a replayable word uses. -/
def seqVs (i : Instr) : List Nat :=
  match i.parts with
  | some (op, .mtx f) => mtxVs op.toNat f
  | some (op, .drn f) => drnVs op.toNat f
  | _ => []
/-- The engine's own effect of a replayable word but a quartet form; none if it cannot be replayed (R360). -/
def Env.replay (e : Env) (i : Instr) : Option Act :=
  match i.parts with
  | some (op, .mtx f) =>
    match op.toNat with
    | 0xA4 => some (e.mms f)
    | 0xA5 => some (e.mmss f)
    | 0xA6 => some (e.mmz f)
    | 0xA7 => some (e.accmv f)
    | 0xA8 => some (e.accld f)
    | 0xA9 => some (e.accsc f)
    | 0xAA => some (e.acccv f)
    | 0xAB => some (e.spld f)
    | _ => none
  | some (op, .drn f) =>
    match op.toNat with
    | 0xB0 => some (e.dst f)
    | 0xB1 => some (e.dsta f)
    | 0xB2 => some (e.dstm f)
    | 0xB3 => some (e.dstv f)
    | 0xB4 => some (e.atom f)
    | 0xB5 => some (e.atomc f)
    | 0xB6 => some (e.red f)
    | _ => some (e.dfence f)
  | some (op, .asy f) =>
    match op.toNat with
    | 0xB8 | 0xB9 | 0xBA | 0xBC => some (e.copy op.toNat f)
    | 0xBB => some (e.tier f)
    | 0xC8 => some (e.vpost f false)
    | 0xC9 => some (e.vpost f true)
    | _ => none
  | _ => none

/-- A quartet form for quartet QD, operands at replay, offsets of the driver; no rendezvous (R361, R362). -/
def Env.replayQuartet (e : Env) (q : Nat) (op : Nat) (f : MtxW) : Act :=
  let x := e.blk
  let ws := quartetWarps q
  let off := (e.sreg (f.br.toNat % 16)).toNat
  let bad := ws.findSome? fun w => x.memberBad op f w (f.t.toNat + w % 4) e.wp
  if x.warps.length ≤ 4 * q + 3 || ws.any fun w => (x.warp w).exited then .trapOpen .quartetMismatch none
  else if ws.any fun w => !(mtxVs op f).all (· < (x.warp w).vcnt) then .trapOpen .registerRange none
  else match (if op = 0xA3 then imageBad off 4096 x.share else none), bad with
    | some c, _ => .trapOpen c none
    | none, some (c, _, _) => .trapOpen c none
    | none, none =>
      if (f.d != 6#3 && e.slotBusy f.d.toNat) || e.s.matrixFull e.loc.d e.loc.a then .stall
      else .done (e.claim (e.s.quartetOp e.bid e.loc q op f e.cl.word (some e.w)) f.d.toNat)

/-- SEQ_WORD_REPLAY: the next word of the current state, once a word without a slot has completed; past the last one the condition is
tested. No word is replayed while the holder is parked or the core takes a cut (R361, R364, R365). -/
def execSeqWordReplay (d a : Nat) (s : State) : Out :=
  let q := s.seqOf d a
  match q.holder with
  | none => .refused .notEnabled
  | some b =>
    if !s.coreRuns d a || !q.running || q.phase != 1 then .refused .notEnabled
    else match q.nextWord with
      | none => .next ((s.updSeq d a fun q => { q with phase := 2 }).seqRecheck d a)
      | some (k, w, lit) =>
        if s.seqParked d a || (s.core d a).cutting || (s.core d a).moving || s.ops.any fun x => x.seq && x.bid = b && x.ws.any (·.2 = 6) then .refused .notEnabled
        else
          let s := s.seqAwait d a [6]
          let e := s.seqEnv b q k w lit
          let faultAt := fun (s : State) (c : Cause) => Host.Outcome.next (s.seqFault d a c.code k 0)
          let fault := faultAt s
          match decode (seqWords w lit) with
          | .error _ => fault .illegalOperand
          | .ok (i, _) =>
            let act := match mtxOf i with
              | some f => some (e.replayQuartet q.qd i.opcode f)
              | none =>
                if e.wp.exited then some (.trapOpen .illegalConvergence none)
                else if !e.vsOk (seqVs i) then some (.trapOpen .registerRange none)
                else e.replay i
            match act with
            | some (.done s) => .next (s.updSeq d a fun q => { q with wix := k + 1 })
            | some (.trap c _ _ _) => fault c
            | some (.trapAt t c _ _ _) => faultAt t c
            | some (.trapOpen c _) => fault c
            | some (.ended t) => s.waiting t
            | some (.wait _) => .refused .notEnabled
            | some .stall => .refused .notEnabled
            | none => fault .illegalOperand

/-! ## SEQLD (R359, R360, R368) -/

/-- An opcode the sequencer replays. -/
def seqOpcode (op : Nat) : Bool := (0xA0 ≤ op && op ≤ 0xAB) || (0xB0 ≤ op && op ≤ 0xBC) || op = 0xC8 || op = 0xC9
/-- The byte of a word slot that holds D's first bit, by the word's format (Tables 03-7, 03-8). -/
def seqDByte (op : Nat) : Nat := if op < 0xB8 then 1 else 2
/-- A word of a table with its literal passes the checks of R360: opcode, guard, D, fields, literal. -/
def seqWordOk (w lit : Word) : Bool :=
  let d := if seqDByte (opOf w) = 1 then w.extractLsb' 14 3 else w.extractLsb' 17 3
  seqOpcode (opOf w) && w.extractLsb' 21 3 = 7#3 && d != 7#3 && (takesLiteral w || lit = 0#32)
    && (match decode (seqWords w lit) with | .ok (i, _) => fieldsOk i | .error _ => false)
/-- The bytes of a word slot, but for its opcode, a change of which alone makes it pass. -/
def seqFailing (w lit : Word) : List Nat :=
  [0, 1, 2, 4, 5, 6, 7].filter fun j => (List.range 256).any fun v =>
    let put := fun (x : Word) (i : Nat) => (x &&& ~~~(0xFF#32 <<< (8 * i))) ||| (BitVec.ofNat 32 v <<< (8 * i))
    if j < 4 then seqWordOk (put w j) lit else seqWordOk w (put lit (j - 4))
/-- The offset within an entry of the first byte that fails; `n` states. DESIGN CHOICE, log 95: where the fields of a word slot fail together, the byte
is the one whose change could mend it; `draw` picks where there are several, and among all eight where there is none; a field of two bytes fails in its
first. safe. -/
def seqEntryBad (draw n : Nat) (ws : List Word) : Option Nat :=
  let word := fun (k : Nat) => ws.getD k 0#32
  let bad := fun (k : Nat) =>
    let w := word (2 * k)
    let lit := word (2 * k + 1)
    let dByte := seqDByte (opOf w)
    let d := if dByte = 1 then w.extractLsb' 14 3 else w.extractLsb' 17 3
    let ok := match decode (seqWords w lit) with | .ok (i, _) => fieldsOk i | .error _ => false
    let stray := lit != 0#32 && (w = 0#32 || !takesLiteral w)
    if w != 0#32 && !seqOpcode (opOf w) then some (8 * k + 3)
    else if w != 0#32 && w.extractLsb' 21 3 != 7#3 then some (8 * k + 2)
    else if w != 0#32 && d = 7#3 then some (8 * k + dByte)
    else if w != 0#32 && !ok then
      let l := match seqFailing w lit with | [] => List.range 8 | l => l
      some (8 * k + l.getD (Config.freeNat draw % l.length) 0)
    else if stray then some (8 * k + 4 + ((List.range 4).find? fun i => lit.extractLsb' (8 * i) 8 != 0#8).getD 0) else none
  match (List.range 4).findSome? bad with
  | some o => some o
  | none =>
    let ctl := (word 8).toNat
    let cnd := (word 9).toNat
    if n ≤ ctl % 64 then some 32
    else if n ≤ ctl / 64 % 64 then some 33
    else if ctl / 2 ^ 24 != 0 then some 35
    else if cnd / 2 ^ 14 % 4 != 0 then some 37
    else if cnd / 2 ^ 24 != 0 then some 39
    else if ctl.testBit 16 && (word 11).toNat / 2 ^ 24 != 0 then some 47
    else none
def seqTableBad (draw n : Nat) (tab : List (List Word)) : Option Nat :=
  (List.range tab.length).findSome? fun i => (seqEntryBad draw n (tab.getD i [])).map (64 * i + ·)

/-- What reading a table comes to: its entries, a trap at an address, a wait, a refusal by a home (R212). -/
inductive TableRes where
  | ok (tab : List (List Word)) (s : State)
  | bad (c : Cause) (va : Nat) (s : State)
  | wait (s : State)
  | refused (pa : Nat) (s : State)
/-- `k` 64-byte sectors from `va` on, as words (R368). -/
def Env.readTable (e : Env) : Nat → Nat → State → TableRes
  | 0, _, s => .ok [] s
  | k + 1, va, s =>
    match e.checkGlobal s va 64 64 .load true with
    | (.bad c v, s) => .bad c v s
    | (.wait, s) => .wait s
    | (.ok (pa, ty), s) =>
      match s.readNear (.slice e.loc.d) e.loc.d ty pa with
      | .wait => .wait s
      | .refused pa => .refused pa s
      | .ok bs _ s =>
        match e.readTable k ((va + 64) % 2 ^ 80) s with
        | .ok l s => .ok (recWords bs :: l) s
        | r => r

def issueSys (i : Instr) (f : SysW) (s : State) (act : Env → Act) : Out :=
  issueWord i f.g f.lit [] s (fun _ => true) fun e => e.slotted f.d act

/-- SEQLD (R368). DEDUCED, log 26: HOLD cannot name the handler slot, so its SEQLD finds the sequencer not to be had. -/
def execSeqld (f : SysW) (s : State) : Out :=
  issueSys (.seqld f) f s fun e =>
    let S := f.s.toNat
    let n := (e.sreg S).toNat
    let va := (e.breg f.ba.toNat).toNat
    let l := e.loc
    if n = 0 || 64 < n then .trap .illegalOperand e.cl.run 0#80 (e.sreg S)
    else if e.core.seq.ending then .stall
    else match e.readTable n va e.s with
      | .bad c v s => .trapAt s c e.cl.run (BitVec.ofNat 80 v) e.cl.word
      | .wait s => e.stay s
      | .refused pa s => e.stay (s.refuse (.slice l.d) pa)
      | .ok tab s =>
        let q := s.seqOf l.d l.a
        if l.k = 4 || (q.hold.isSome && !q.heldBy e.bid) then e.quick s f.d [(S, 1#32)]
        else if q.running then e.quick s f.d [(S, 2#32)]
        else match seqTableBad s.fresh n tab with
          | some o => .trapAt { s with fresh := s.fresh + 1 } .illegalOperand e.cl.run (Config.freePtr s.fresh) (BitVec.ofNat 32 o)
          | none =>
            let s := s.updSeq l.d l.a fun q => { q with hold := some (l.k, e.bid), tab := tab, mode := 1 }
            e.quick s f.d [(S, 0#32)]

/-! ## The other instructions -/

/-- An instruction of the holder; another slot's writes 0xFFFF_FFFF to its result, if it has one (R367). -/
def Env.asHolder (e : Env) (d : BitVec 3) (res : Option Nat) (k : Seq → Act) : Act :=
  let q := e.core.seq
  if q.heldBy e.bid then k q else e.quick e.s d (match res with | some S => [(S, 0xFFFFFFFF#32)] | none => [])

/-- SEQGO (R369). While the claim of a killed holder is ending, SEQLD and SEQGO wait (R358, log 110). -/
def execSeqgo (f : SysW) (s : State) : Out :=
  issueSys (.seqgo f) f s fun e =>
    let S := f.s.toNat
    let l := e.loc
    if e.core.seq.ending then .stall else
    e.asHolder f.d (some S) fun q =>
      let x := (e.sreg S).toNat
      let answer := fun (w : Word) => e.quick e.s f.d [(S, w)]
      let quartet := q.tab.any fun ent => (List.range 4).any fun k => ent.getD (2 * k) 0#32 != 0#32 && opQuartet (opOf (ent.getD (2 * k) 0#32))
      if x / 2 ^ 10 != 0 || x / 2 ^ 6 % 4 != 0 then answer 0xFFFFFFFF#32
      else if q.mode = 0 then answer 0x80000001#32
      else if q.running then answer 0x80000002#32
      else if q.tab.length ≤ x % 64 then answer 0x80000003#32
      else if quartet && e.blk.warps.length ≤ 4 * (x / 256) + 3 then answer 0x80000004#32
      else
        let s := e.s.updSeq l.d l.a fun q => { q with drv := e.w, qd := x / 256, frec := 0#32, mode := 2 }
        e.quick (s.seqEnter l.d l.a (x % 64)) f.d [(S, 0#32)]

/-- SEQQ's first word for an issuer that holds or does not (R372). -/
def Seq.word (q : Seq) (mine : Bool) : Word :=
  let b := fun (x : Bool) (i : Nat) => if x then 2 ^ i else 0
  BitVec.ofNat 32 (q.cur + 2 ^ 6 * q.mode + b mine 8 + b q.hold.isSome 9 + b q.tev 10 + 2 ^ 11 * q.phase + 2 ^ 13 * q.sd.toNat + 2 ^ 19 * q.sig.toNat)
/-- SEQSTOP (R369). -/
def execSeqstop (f : SysW) (s : State) : Out :=
  issueSys (.seqstop f) f s fun e =>
    let S := f.s.toNat
    let l := e.loc
    e.asHolder f.d (some S) fun q =>
      let s := e.s.seqStop l.d l.a
      let s := if f.f.getLsbD 0 then s.seqRelease l.d l.a else s
      .done (e.start s f.d (.after 3) [(S, q.word true)])

/-- QSET, QDEC and SEQSIG first act as FENCE.REL.BLK with the path bit, for the words the sequencer then replays (R363). -/
def Env.signal (e : Env) (k : State → Act) : Act :=
  if e.s.lsBusy e.bid e.w false then .stall
  else k (e.s.onScr fun c y => (y.pathFenceOf (.warp (agentBlock c e.bid) e.w)).flow (.warp (agentBlock c e.bid) e.w) (.seq (agentBlock c e.bid)))
/-- QSET (R370). -/
def execQset (f : SysW) (s : State) : Out :=
  issueSys (.qset f) f s fun e => e.asHolder f.d none fun _ => e.signal fun s =>
    let l := e.loc
    let s := s.updSeq l.d l.a fun q => { q with q := mset 0#32 q.q f.f.toNat (e.sreg f.s.toNat) }
    e.quick (s.qwaitServe l.d l.a) f.d []
/-- QDEC (R370). -/
def execQdec (f : SysW) (s : State) : Out :=
  issueSys (.qdec f) f s fun e =>
    let S := f.s.toNat
    let l := e.loc
    e.asHolder f.d (some S) fun q => e.signal fun s =>
      let x := BitVec.ofNat 32 ((mget 0#32 q.q f.f.toNat).toNat - stepOf f.lit)
      let s := s.updSeq l.d l.a fun q => { q with q := mset 0#32 q.q f.f.toNat x }
      e.quick (s.qwaitServe l.d l.a) f.d [(S, x)]
/-- SEQSIG (R370). -/
def execSeqsig (f : SysW) (s : State) : Out :=
  issueSys (.seqsig f) f s fun e => e.asHolder f.d none fun _ => e.signal fun s =>
    e.quick (s.updSeq e.loc.d e.loc.a fun q => { q with sig := q.sig ||| e.lit.setWidth 8 }) f.d []

/-- QWAIT (R371). -/
def execQwait (f : SysW) (s : State) : Out :=
  issueWord (.qwait f) f.g f.lit [] s (fun _ => true) fun e =>
    let S := f.s.toNat
    let i := f.f.toNat
    let l := e.loc
    let q := e.core.seq
    if !e.any then .done e.s
    else if !q.heldBy e.bid then .done (e.setWarp fun wp => wp.setS S 8#32)
    else if mget 0#32 q.q i = 0#32 || q.mode = 3 then
      .done (((e.s.qwaitJoin e.bid e.w).updWarp e.bid e.w fun wp => wp.setS S (q.status i)).updSeq l.d l.a fun q => { q with tev := false })
    else .wait (e.setWarp fun wp => { wp with wait := some (.qwait i S) })

/-- SEQQ (R372). -/
def execSeqq (f : SysW) (s : State) : Out :=
  issueSys (.seqq f) f s fun e =>
    let S := f.s.toNat
    let l := e.loc
    let q := e.core.seq
    let mine := q.heldBy e.bid
    let s := if mine then e.s.updSeq l.d l.a fun q => { q with tev := false } else e.s
    e.quick s f.d [(S, q.word mine), (S + 1, q.frec)]

end Sys2Proof.Machine
end

