-- ==== Sys2Proof/Machine/Reissue.lean ====
section
/-! DEFINITION. Copies that are issued again as a block resumes from an image (R252). -/

namespace Sys2Proof.Machine

/-- The slot of a recorded copy is claimed: the warp's, or the sequencer's. -/
def State.claimRec (s : State) (b d a : Nat) (r : CopyRec) : State :=
  if r.sq then s.updSeq d a fun q => { q with sd := if r.ds < 6 then q.sd ||| BitVec.twoPow 6 r.ds else q.sd } else s.updWarp b r.w (·.claim r.ds)
/-- A copy of the block in flight at the cut. -/
def Block.inFlight (x : Block) : AMap CopyRec := x.copies.filter fun (p : Nat × CopyRec) => p.2.st < 3
/-- The checks of a copy that is issued again fail: its record says so, an event is logged, its slot completes, that of a D = 6 copy too. -/
def State.reissueFail (s : State) (b d a key : Nat) (r : CopyRec) : State :=
  let s := s.updBlock b fun x =>
    let x := { x with copies :=
      if 128 ≤ key then mdel x.copies key else mput x.copies key { r with st := 5, rsm := true, done := (s.sid d).toNat % 2 ^ 32 } }
    if r.sq then x else (x.updWarp r.w (·.release r.ds)).wakeWaitt r.w
  let s := if r.sq then s.updSeq d a fun q => { q with sd := q.sd &&& ~~~(BitVec.twoPow 6 r.ds) } else s
  (s.settleClaims b).logEvent 0x45 d a
/-- A copy of a block with its slot claimed starts again: its record afresh but for its transit, its operation. -/
def State.reissueGo (s : State) (b d a key : Nat) (r : CopyRec) (k : OpK) : State :=
  let o := s.nextOp
  let x : Op := { id := o, bid := b, ws := [(r.w, r.ds)], d := d, a := a, word := BitVec.ofNat 32 (r.op * 2 ^ 24), seq := r.sq, k := k, res := [],
                  performed := false, flushed := false, acq := false, txn := [], jent := none, pins := [], foot := [], shads := [], pers := false }
  let s := s.updBlock b fun y =>
    { y with copies := mput (mdel y.copies key) (if 128 ≤ key then 128 + o else key) { r with rsm := true, late := false, st := if r.op = 0xBA then 0 else 1, done := 0 } }
  State.noted { s with ops := s.ops ++ [x], nextOp := o + 1 } o

/-- A captured copy whose slot is claimed is issued again whole, a CPYT for the size its object now has (R252); none while a walk waits for a pool
link. DEDUCED, log 98: its scope is the one its record holds. -/
def State.reissue (s : State) (b d a key : Nat) (r : CopyRec) : Option State :=
  let shd := r.op != 0xBC && r.op != 0xBB && r.v.testBit 2
  let obj := if r.op = 0xBB then (s.dom d).named r.key else none
  let r := match obj with | some i => if r.v < 2 then r else { r with len := BitVec.ofNat 32 (4096 * ((s.dom d).obj i).size) } | none => r
  let tierGo := fun (s : State) (i : Nat) (segs : List Seg) =>
    let ph := if r.v = 1 then (if ((s.dom d).obj i).st = 0 then 3 else 1) else 0
    let s := s.reissueGo b d a key r (.tier i r.v ph r.ord r.scp segs [])
    if r.v = 1 then s.requestEviction d i else (s.requestPromotion d i).settleObj d i
  let plan := fun (go : List Seg → List Piece → State → State) =>
    match s.copyPlan { bid := b, d := d, a := a, asid := (s.block b).asid, blk := true } r with
    | .wait _ => none
    | .operand _ => some (s.reissueFail b d a key r)
    | .misaligned _ => some (s.reissueFail b d a key r)
    | .trap _ _ t => some (t.reissueFail b d a key r)
    | .ok segs srcs s => some (go segs srcs s)
  if r.op = 0xBB then
    match obj with
    | none => some (s.reissueFail b d a key r)
    | some i => if r.v < 2 then some (tierGo s i []) else plan fun segs _ s => tierGo s i segs
  else plan fun segs srcs s =>
    if r.op = 0xBA then
      let n := r.len.toNat
      s.reissueGo b d a key r (.mcast (homeOf ((srcs.head?.map (·.pl.off)).getD 0)) none (sourcePages srcs none) n r.key r.ord (segsScp r.scp segs) r.prom
        (zipSegs (2 * segs.length + n) (segs.map fun g => { pl := g.dst, n := g.n, ty := g.ty, addr := 0, tile := none })
          ((imagePieces n).filterMap fun p => match p with | .ok p => some p | _ => none)) [])
    else s.reissueGo b d a key r (.copy r.ord r.scp shd segs [])
/-- The copies of a block recorded in flight claim their slots. -/
def State.claimAll (s : State) (b d a : Nat) : State := (s.block b).inFlight.foldl (fun s p => s.claimRec b d a p.2) s
/-- They are issued again. -/
def State.reissueAll (s : State) (b d a : Nat) : Option State :=
  (s.block b).inFlight.foldl (fun s p => s.bind fun s => s.reissue b d a p.1 p.2) (some s)

end Sys2Proof.Machine
end

