-- ==== Sys2Proof/Machine/Placement.lean ====
section
/-! DEFINITION. The dispatchers (12): distribution of WAFER records (R306), placement, partitions and draining (R307 to R309), block start
(R310), eviction, parking, wake and resume (R311 to R314), block exit and grid completion (R138, R315 to R317). -/

namespace Sys2Proof.Machine

/-! ## Homes of a WAFER record's blocks (R306) -/

/-- Mesh hops between two domains of the 8 by 8 mesh (R9). -/
def hops (d e : Nat) : Nat := (d % 8 - e % 8) + (e % 8 - d % 8) + (d / 8 - e / 8) + (e / 8 - d / 8)
/-- The nearest domain that lists a cluster of `csz` cores. -/
def State.redirect (s : State) (csz d : Nat) : Nat :=
  ((List.range 64).filter fun e => csz ≤ s.largestCluster e).foldl (fun (m : Option Nat) e => match m with
    | none => some e
    | some x => if hops d e < hops d x then some e else some x) none |>.getD d
/-- The first index of domain `d`'s share of `n` blocks (EN = 0). -/
def State.shareStart (s : State) (n d : Nat) : Nat :=
  n * ((List.range d).map s.domainCores).foldl (· + ·) 0 / ((List.range 64).map s.domainCores).foldl (· + ·) 0
/-- The domain the pattern of HINT names for a block (EN = 1). -/
def patternHome (r : List Word) (lin : Nat) : Nat :=
  let h := rHINT r
  let x := lin % rGRDX r
  let y := lin / rGRDX r % rGRDY r
  let z := lin / rGRDX r / rGRDY r
  let c := [x, y, z, lin].getD (h / 2 ^ 6 % 4) 0
  let ndom := h / 2 ^ 13 % 64
  (h % 64 + h / 2 ^ 19 % 64 * (c / 2 ^ (h / 2 ^ 8 % 32) % (if ndom = 0 then 64 else ndom))) % 64
def rPattern (r : List Word) : Bool := rHINT r / 2 ^ 25 % 2 = 1
/-- The first constellation at or after index `i`, a multiple of CSZ, whose home is `t`, by the pattern. -/
def State.nextPattern (s : State) (r : List Word) (t : Nat) : Nat → Nat → Option Nat
  | 0, _ => none
  | k + 1, i =>
    if rBlocks r ≤ i then none
    else if s.redirect (rCSZ r) (patternHome r i) = t then some i else s.nextPattern r t k (i + rCSZ r)
/-- The first index of the first constellation at or after `i` whose home is `t`: every block takes the home of its rank-0 block. -/
def State.nextHomed (s : State) (r : List Word) (t i : Nat) : Option Nat :=
  let c := rCSZ r
  let up := fun (x : Nat) => (x + c - 1) / c * c
  let n := rBlocks r
  if rPattern r then s.nextPattern r t (n / c + 1) (up i)
  else
    ((List.range 64).filter fun d => s.redirect c d = t).foldl (fun (m : Option Nat) d =>
      let lo := max (up i) (up (s.shareStart n d))
      if lo < s.shareStart n (d + 1) then some (match m with | some x => min x lo | none => lo) else m) none

/-- The map under which a launch's blocks were given their homes (R306). -/
def State.launchMap (s : State) (r : Rec) : State := { s with svc := { s.svc with unusable := r.unus } }

/-! ## Units: what a READY record would place next -/

/-- Members of a constellation, by linear index or, for a resume, by block number; PART; the core each member must have, the cores they
prefer (R307, R314). -/
structure PUnit where
  single : Bool
  lins : List Nat
  bids : List Nat
  part : Nat
  pins : List (Option Nat)
  pref : List Nat
deriving Repr
def PUnit.count (u : PUnit) : Nat := max u.lins.length u.bids.length

/-- The other blocks of a block's constellation and itself (R17). -/
def State.mates (s : State) (b : Nat) : List Nat :=
  let x := s.block b
  if x.isHandler then [b]
  else ((s.blocks.filter fun (p : Nat × Block) => p.2.rdom = x.rdom && p.2.ridx = x.ridx && !p.2.isHandler &&
    p.2.lin / rCSZ p.2.lrec = x.lin / rCSZ x.lrec).map (·.1))
/-- The logical position that serves the core a park record names. -/
def State.parkCore (s : State) (d i : Nat) : Option Nat :=
  match (s.recAt d i).kind with
  | .park b _ _ => if s.usable d (s.block b).left then some (s.block b).left else none
  | _ => none
def parkSeqc (r : List Word) : Bool := recBits r 20 5 1 = 1

/-- The unit of fresh blocks that starts at index `i`. -/
def freshUnit (r : List Word) (i : Nat) : PUnit :=
  { single := rCSZ r = 1, lins := (List.range (min (rCSZ r) (rBlocks r - i))).map (i + ·), bids := [], part := rPART r, pins := [], pref := [] }
/-- The next unit of a record, and how many units are left, counted up to 132. -/
def State.unitOf (s : State) (d i : Nat) : Option (PUnit × Nat) :=
  let r := s.recAt d i
  match r.kind with
  | .launch => if rBlocks r.ws ≤ r.cursor then none else some (freshUnit r.ws r.cursor, min 132 ((rBlocks r.ws - r.cursor + rCSZ r.ws - 1) / rCSZ r.ws))
  | .range _ _ =>
    let rest := (List.range 132).foldl (fun (l : List Nat) _ =>
      match (s.launchMap r).nextHomed r.ws d (match l with | [] => r.cursor | x :: _ => x + rCSZ r.ws) with
      | some x => x :: l
      | none => l) []
    match rest.getLast? with
    | some x => some (freshUnit r.ws x, rest.eraseDups.length)
    | none => none
  | .park b _ _ =>
    let bs := (s.mates b).filter fun m => (s.block m).parkIdx.isSome
    let recOf := fun (m : Nat) => ((s.block m).parkIdx.map fun p => (s.recAt p.1 p.2).ws).getD []
    let left := fun (m : Nat) => (s.block m).parkIdx.bind fun p => s.parkCore p.1 p.2
    let x := (s.block b).lrec
    some ({ single := rCSZ x = 1, lins := [], bids := bs, part := rPART x,
            pins := bs.map fun m => if parkSeqc (recOf m) then some ((left m).getD 132) else none, pref := bs.filterMap left }, 1)

/-! ## Cores that can take a block (R307, R308) -/

/-- The domain's cores are marked for power-off, or off (R423). -/
def State.offMarked (s : State) (d : Nat) : Bool := (s.dom d).coff || (s.dom d).reqC = 3
/-- The lowest free context slot of a core. DESIGN CHOICE, log 27: the spec does not say which free slot is taken. -/
def Core.freeSlot (c : Core) : Option Nat := (List.range 4).find? fun k => (mfind c.slots k).isNone && !c.retired.contains k
def Core.occupied (c : Core) : Nat := (c.slots.filter fun p => p.1 < 4).length
/-- The core can take a block. -/
def State.takes (s : State) (d part a : Nat) : Bool :=
  let c := s.core d a
  s.coreRuns d a && !s.offMarked d && c.freeSlot.isSome && c.part = part && c.drain.isNone
/-- Or it is empty and not chosen for another waiting record. -/
def State.eligible (s : State) (d i part a : Nat) : Bool :=
  let c := s.core d a
  s.takes d part a ||
    (s.coreRuns d a && !s.offMarked d && c.freeSlot.isSome && c.occupied = 0 && (match c.drain with | none => true | some j => j = i))
/-- The position of fewest occupied slots, the first of equals. -/
def State.fewest (s : State) (d : Nat) (l : List Nat) : Option Nat :=
  l.foldl (fun (m : Option Nat) a => match m with
    | none => some a
    | some x => if (s.core d a).occupied < (s.core d x).occupied then some a else some x) none
def clusterPos (c : Nat) : List Nat := (List.range 44).map (44 * c + ·)
/-- Give each member its pinned core, or the next of `free`. -/
def assign : List (Option Nat) → List Nat → List Nat
  | [], _ => []
  | some a :: ps, l => a :: assign ps l
  | none :: ps, a :: l => a :: assign ps l
  | none :: _, [] => []
/-- The positions a unit is bound to, among cores for which `ok` holds; the cores it left come first where they can take it (R314). -/
def State.choose (s : State) (d : Nat) (u : PUnit) (ok : Nat → Bool) : Option (List Nat) :=
  let pinned := u.pins.filterMap id
  let n := u.count
  if u.single then
    match pinned with
    | a :: _ => if ok a then some [a] else none
    | [] => match u.pref with
      | a :: _ => if ok a && s.takes d u.part a then some [a] else (s.fewest d ((List.range 132).filter ok)).map ([·])
      | [] => (s.fewest d ((List.range 132).filter ok)).map ([·])
  else if u.pref.length = n && n != 0 && u.pref.all (fun a => ok a && s.takes d u.part a) then some u.pref
  else
    (List.range 3).findSome? fun c =>
      let cs := (clusterPos c).filter ok
      if n ≤ cs.length && pinned.all cs.contains then
        some (assign (if u.pins.isEmpty then List.replicate n none else u.pins) (cs.filter fun a => !pinned.contains a))
      else none

/-- Repartition an empty core (R309): on growth the ways of the banks that leave the L1 are written back and emptied; freed banks are empty ways. -/
def State.repartition (s : State) (d part a : Nat) : State :=
  let c := s.core d a
  let s := (c.l1.filter fun l => 20 - part / 16 ≤ l.way).foldl (fun s l => s.l1Evict d a l) s
  s.updCore d a fun c => { c with part := part, drain := none }

/-! ## Block start (R16, R95, R310) -/

/-- Lane `l` of a block at its start. -/
def Lane.atStart (r : List Word) (lin l : Nat) : Lane :=
  let n := rLanes r
  let g := 0x9E3779B9#32 ^^^ BitVec.ofNat 32 (512 * lin + l)
  { Lane.start (BitVec.ofNat 32 (rENTRY r)) (if g = 0#32 then 1#32 else g) with
    st := if l < n then .live else if l / 4 * 4 < n then .launchHelper else .exited }
/-- Warp `w` of a block at its start. -/
def Warp.atStart (r : List Word) (lin w : Nat) : Warp :=
  let wp : Warp := { Warp.zero with
    lanes := (List.range 32).map fun L => Lane.atStart r lin (32 * w + L), role := rROLE r w, rows := (List.range (rVR r)).map (rVR r * w + ·) }
  wp.setB 0 (BitVec.ofNat 80 (rARGB r))
/-- The block enters slot `k` of a core; its warps enter the active set (R113). -/
def State.occupy (s : State) (b d a k : Nat) : State :=
  let x := s.block b
  let ws := (List.range x.warps.length).filter fun w => !(x.warp w).exited
  let s := s.updBlock b fun x => { x with placedCut := (s.core d a).umb.cutNo, cid := s.cid d a }
  s.updCore d a fun c => ws.foldl (fun (c : Core) w => c.enter (b, w)) { c with slots := mput c.slots k b }
/-- The window descriptors of a slot that a block leaves stay its own (R183). -/
def State.keepWins (s : State) (b : Nat) : State :=
  match (s.block b).loc with
  | some l => s.updCore l.d l.a fun c =>
      { c with wins := (s.block b).wins.foldl (fun m p => mset 0 m (16 * l.k + p.1) p.2) (c.wins.filter fun p => p.1 / 16 != l.k) }
  | none => s
/-- A block of a run starts on a core: its number is the next one. -/
def State.startBlock (s : State) (ws : List Word) (rd ri qd qi lin d a : Nat) : State :=
  let k := (s.core d a).freeSlot.getD 0
  let b := s.nextBid
  let x : Block := { Block.zero with loc := some ⟨d, a, k⟩, lrec := recPut ws 4 0 0, rdom := rd, ridx := ri, qdom := qd, qidx := qi, lin := lin,
                                     verin := (s.recAt rd ri).verin, stale := (s.recAt rd ri).stale, warps := (List.range ((rLanes ws + 31) / 32)).map (Warp.atStart ws lin) }
  State.occupy { s with blocks := mput s.blocks b x, nextBid := b + 1 } b d a k

/-! ## Parked blocks -/

/-- The address of park image `p` of a core area, of frame `f` of a domain's DRAM park area (R313, R374). -/
def imageAddr (d a p : Nat) : Nat := umbraBase + 2 ^ 30 * d + 0x43E000 * a + 0x21E000 + 0x44000 * p
def frameAddr (d f : Nat) : Nat := dramSize * d + 0x5C0000000 + 0x44000 * f
/-- The images in use: record, its address, its tick. -/
def Domain.parkImages (x : Domain) : List (Nat × Nat × Tick) :=
  x.recs.filterMap fun (p : Nat × Rec) => match p.2.kind with | .park _ img t => if p.2.st = RecSt.free then none else some (p.1, img, t) | _ => none
def Domain.imageUsed (x : Domain) (img : Nat) : Bool := x.parkImages.any fun p => p.2.1 = img
def State.freeImage (s : State) (d a : Nat) : Option Nat := (List.range 8).find? fun p => !(s.dom d).imageUsed (imageAddr d a p)
def State.freeFrame (s : State) (d : Nat) : Option Nat := (List.range 3855).find? fun f => !(s.dom d).imageUsed (frameAddr d f)
/-- Words 10 and 11 of a park record: the location of the image (log 28). -/
def imgWords (ws : List Word) (img : Nat) : List Word :=
  let x := if regionOf img = .park then img + 1 else img
  (ws.set 10 (BitVec.ofNat 32 x)).set 11 (BitVec.ofNat 32 (x / 2 ^ 32))
/-- The image of park record `i` moves. -/
def State.moveFrame (s : State) (d i img : Nat) : State :=
  s.updRec d i fun r => { r with ws := imgWords r.ws img, kind := match r.kind with | .park b _ t => .park b img t | k => k }
/-- The oldest of some images. -/
def oldestImage (l : List (Nat × Nat × Tick)) : Option (Nat × Nat × Tick) :=
  l.foldl (fun (m : Option (Nat × Nat × Tick)) p => match m with
    | none => some p
    | some q => if p.2.2 < q.2.2 then some p else some q) none
/-- An umbra image of position `a` has come free: the oldest image of that position in a DRAM frame moves back into it (R313). DESIGN CHOICE, log 97:
the spec names the move and not its time. unsafe. -/
def State.refillImage (s : State) (d a : Nat) : State :=
  match s.freeImage d a, oldestImage ((s.dom d).parkImages.filter fun p => regionOf p.2.1 = .park && (match ((s.dom d).recOf p.1).kind with
    | .park b _ _ => (s.block b).left = a
    | _ => false)) with
  | some p, some (i, _, _) => s.moveFrame d i (imageAddr d a p)
  | _, _ => s
/-- The index of a block's park record returns to the pool, and its image is free. -/
def State.unpark (s : State) (b : Nat) : State :=
  match (s.block b).parkIdx with
  | some (d, i) =>
    let a := (s.block b).left
    (((s.updRec d i fun _ => Rec.free).updDom d fun x => { x with ready := x.ready.filter (· != i) }).updBlock b fun x => { x with parkIdx := none }).refillImage d a
  | none => s
/-- A parked block resumes on a core (R40, R314, R323): `far` when in another domain, whose releases have been made; none while a copy that it
issues again waits for a link (R252). -/
def State.resumeBlock (s : State) (b d a : Nat) : Option State :=
  let x := s.block b
  let far := (x.parkIdx.map (·.1)).any (· != d)
  let s := if far || x.acqDue then s.acquireWide d else s
  let k := (s.core d a).freeSlot.getD 0
  let s := (s.unpark b).updBlock b fun x =>
    { x with loc := some ⟨d, a, k⟩, idle := 0, rel := none, park := none, acqDue := false, redo := false, warps := x.warps.map fun (wp : Warp) =>
        { wp with evDue := !wp.ev.isEmpty && wp.clause.isNone && wp.wait.isNone && wp.reprun = 0#32 } }
  let s := s.updSeq d a fun q => if q.heldBy b then { q with hold := some (k, b) } else q
  let s := s.occupy b d a k
  if x.redo then s.reissueAll b d a else some s

/-! ## The end of a block -/

/-- Units of slots that were occupied are retired once their slot is free: they enter the retirement store, and are logged (R425). -/
def State.settlePend (s : State) : State :=
  let busy := fun (d y x k : Nat) => match s.positionOf d y x with | some a => (mfind (s.core d a).slots k).isSome | none => false
  s.svc.pend.foldl (fun s u =>
    let free := fun (d y x k : Nat) =>
      if busy d y x k then s
      else State.logEvent { s with svc := { s.svc with pend := s.svc.pend.erase u, retired := s.svc.retired ++ [u] } } 0x20 d ((s.positionOf d y x).getD 0xFF)
    match u with
    | .slot d y x k => free d y x k
    | .bank d y x b => free d y x (b / 2)
    | _ => s) s
/-- A block leaves its slot and the machine. -/
def State.removeBlock (s : State) (b : Nat) : State :=
  let x := s.block b
  let s := match x.loc with
    | some l => (s.keepWins b).updCore l.d l.a fun c => (List.range x.warps.length).foldl (fun c w => c.dropWarp (b, w)) { c with slots := mdel c.slots l.k }
    | none => s.unpark b
  State.settlePend { s with blocks := mdel s.blocks b, focus := if s.focus.any (·.1 = b) then none else s.focus }
/-- The accounting of a block that has ended, in its range record and its launch (R315 to R317). -/
def Rec.account (r : Rec) (x : Block) (own : Bool) : Rec :=
  { r with live := if own then r.live - 1 else r.live, exited := r.exited + 1, abandoned := r.abandoned || x.abandoned, killed := r.killed || x.killed,
           cntErr := r.cntErr || x.cntErr }
/-- The exit report of a block (R138, R321): its records, the children whose index is still out; the slots of a constellation whose last
member has reported are freed (R17). -/
def State.exitReport (s : State) (b : Nat) : State :=
  let x := s.block b
  let s := s.updRec x.qdom x.qidx fun r => r.account x true
  let s := if (x.qdom, x.qidx) = (x.rdom, x.ridx) then s else s.updRec x.rdom x.ridx fun r => r.account x false
  let s := (s.childrenEnd b).updBlock b fun y => { y with reported := true, exiting := true }
  let ms := s.mates b
  if ms.all fun m => (s.block m).reported then ms.foldl State.removeBlock s else s

/-- A block ends as if killed while it holds no slot (R152, R387, R431). -/
def State.endParked (s : State) (b : Nat) : State :=
  let x := s.block b
  let s := (s.updBlock b fun y => { y with killed := true })
  let s := match x.parkIdx with
    | some (d, _) => if (s.seqOf d x.left).heldBy b then s.seqRelease d x.left else s
    | none => s
  (s.unpark b).exitReport b

/-- The park image at an address fails the checks of R384: a covered byte reads as an uncorrectable error (R380, R388). -/
def State.imageBad (s : State) (img : Nat) : Bool :=
  s.poison.any fun q => (img ≤ 8 * q && 8 * q < img + 64) || (img + 0xFC0 ≤ 8 * q && 8 * q < img + 0xFC8) || (img + 0x1000 ≤ 8 * q && 8 * q < img + 0x44000)
/-- A parked block has no image to resume from: MAGIC, FMT or the CRC is wrong, or it cannot be read (R384, R388). -/
def State.parkBad (s : State) (b : Nat) : Bool :=
  let h := (s.block b).pimg
  match (s.block b).parkIdx with
  | some (d, i) => match (s.recAt d i).kind with | .park _ img _ => s.imageBad img || !h.ok || !h.known || h.hseq != h.fseq | _ => false
  | none => false

/-! ## Placement -/

/-- Parked blocks resume on cores of domain `d`; one without an image ends as R387 has it, and the others wait on (R388). -/
def State.resumeUnit (s : State) (u : PUnit) (d : Nat) (as : List Nat) : Option State :=
  let bad := u.bids.filter s.parkBad
  if bad.isEmpty then (u.bids.zip as).foldl (fun s p => s.bind fun s => s.resumeBlock p.1 d p.2) (some s) else some (bad.foldl State.endParked s)
/-- Place a unit of record `i` on the chosen cores: repartition, bind the run with its first block, start or resume (R304, R309, R336). -/
def State.placeUnit (s : State) (d i : Nat) (u : PUnit) (as : List Nat) : Option State :=
  let r := s.recAt d i
  let s := as.foldl (fun s a => if (s.core d a).part = u.part && (s.core d a).drain.isNone then s else s.repartition d u.part a) s
  match r.kind with
  | .park _ _ _ =>
    s.resumeUnit u d as
  | _ =>
    let run := match r.kind with | .range od oi => (od, oi) | _ => (d, i)
    let wide := run != (d, i)
    let first := if wide then (s.recAt run.1 run.2).live = 0 else r.st != RecSt.running
    let s := if first then s.bindRun run.1 run.2 else s
    let s := if wide then s.updRec run.1 run.2 fun x => { x with live := 1 } else s
    let s := ((u.lins.zip as).foldl (fun s p => s.startBlock (s.recAt run.1 run.2).ws run.1 run.2 d i p.1 d p.2) s).acquireWide d
    let next := match u.lins.getLast? with | some x => x + 1 | none => r.cursor
    let s := s.updRec d i fun x => { x with st := .running, cursor := next, live := x.live + u.lins.length }
    match s.unitOf d i with
    | some _ => some s
    | none => some ((s.updRec d i fun x => { x with placed := true }).updDom d fun x => { x with ready := x.ready.filter (· != i) })

/-- The cores of a domain marked for record `i`. -/
def State.marksOf (s : State) (d i : Nat) : List Nat := (List.range 132).filter fun a => (s.core d a).drain = some i
/-- Mark one core for a waiting unit, if one may be (R308). -/
def State.markOne (s : State) (d i : Nat) (u : PUnit) : Option State :=
  let pinned := u.pins.filterMap id
  let may := fun (a : Nat) => let c := s.core d a
    s.coreRuns d a && !s.offMarked d && c.drain.isNone && !s.eligible d i u.part a && c.retired.length < 4
  let pick :=
    if u.single then s.fewest d ((if pinned.isEmpty then List.range 132 else pinned).filter may)
    else match (List.range 3).find? fun c => u.count ≤ (s.clusterCores d c).length && pinned.all (clusterPos c).contains with
      | some c => s.fewest d ((clusterPos c).filter may)
      | none => none
  pick.map fun a => s.updCore d a fun c => { c with drain := some i }
/-- A record keeps at most one mark for each of its `n` units that wait; surplus marks are withdrawn, lowest CID first. -/
def State.trimMarks (s : State) (d i n : Nat) : State :=
  let ms := s.marksOf d i
  (ms.take (ms.length - n)).foldl (fun s a => s.updCore d a fun c => { c with drain := none }) s
/-- A mark for each waiting unit that has none. -/
def State.markUp (s : State) (d i : Nat) (u : PUnit) (n : Nat) : State :=
  (List.range (n - (s.marksOf d i).length)).foldl (fun s _ => (s.markOne d i u).getD s) s
/-- A marked core that has emptied, of a waiting constellation, is repartitioned and unmarked: it counts as eligible, and the search is made again
(R308). -/
def State.settleMark (s : State) (d a : Nat) : State :=
  match (s.core d a).drain with
  | some i =>
    if (s.core d a).occupied != 0 || !s.coreRuns d a then s
    else match s.unitOf d i with
      | some (u, _) => if u.single then s else s.repartition d u.part a
      | none => s
  | none => s

/-- The READY records in the order in which they are served (R305). -/
def Domain.queue (x : Domain) : List Nat := (List.range 8).reverse.flatMap x.level
/-- A WAFER launch is split: its range records are on their way, homed under the map as it now is (R306). -/
def State.split (s : State) (d i : Nat) : State :=
  let r := s.recAt d i
  let ts := (List.range 64).filter fun t => (s.nextHomed r.ws t 0).isSome
  (s.updRec d i fun x => { x with st := .running, cursor := ts.foldl (fun m t => m + 2 ^ t) 0, ranges := ts.length, placed := true, unus := s.svc.unusable }).updDom d
    fun x => { x with ready := x.ready.filter (· != i) }
/-- A unit of record `i` has been placed: as many marks go on as units wait. -/
def State.unmarkPlaced (s : State) (d i n : Nat) : State := s.trimMarks d i (if (s.dom d).ready.contains i then n - 1 else 0)
/-- Serve the queue in its order: the first unit that cores can take is placed on them (R307). -/
def State.serveQueue (d : Nat) : List Nat → State → Option State
  | [], _ => none
  | i :: is, s =>
    let r := s.recAt d i
    if r.wafer && r.kind.isLaunch then some (s.split d i)
    else match s.unitOf d i with
      | none => some ((s.updRec d i fun x => { x with st := .running, placed := true }).updDom d fun x => { x with ready := x.ready.filter (· != i) })
      | some (u, n) =>
        match (s.choose d u (s.takes d u.part)).bind (s.placeUnit d i u) with
        | some s => some (s.unmarkPlaced d i n)
        | none => State.serveQueue d is s
/-- Serve what waits, the oldest first: it takes eligible cores, or marks one (R308). -/
def State.serveWaiting (d : Nat) : List Nat → State → State
  | [], s => s
  | i :: is, s =>
    match s.unitOf d i with
    | none => State.serveWaiting d is s
    | some (u, n) =>
      match (s.choose d u (s.eligible d i u.part)).bind (s.placeUnit d i u) with
      | some s => s.unmarkPlaced d i n
      | none => State.serveWaiting d is ((s.trimMarks d i n).markUp d i u n)

/-- DISPATCH_PLACEMENT (R307, R308): marks for records no longer READY go, emptied cores of waiting constellations are unmarked, and the queue is
served. -/
def execDispatchPlacement (d : Nat) (s : State) : Out :=
  if 64 ≤ d then .refused .notEnabled
  else
    let t := (List.range 132).foldl (fun s a =>
      match (s.core d a).drain with
      | some i => if (s.dom d).queue.contains i && !s.offMarked d then s.settleMark d a else s.updCore d a fun c => { c with drain := none }
      | none => s) s
    match State.serveQueue d (s.dom d).queue t with
    | some t => .next t
    | none =>
      let t := State.serveWaiting d (s.dom d).ready t
      if t != s then .next t else .refused .notEnabled

/-- RANGE_RECORD_ARRIVAL (R306): `n` = (65,536 × domain + index of the launch) × 64 + target domain. -/
def execRangeRecordArrival (n : Nat) (s : State) : Out :=
  let t := n % 64
  let i := n / 64 % 65536
  let d := n / 64 / 65536
  let r := s.recAt d i
  if 64 ≤ d || !r.wafer || r.st != RecSt.running || !r.cursor.testBit t then .refused .notEnabled
  else match (s.dom t).freeHw with
    | none => .refused .notEnabled
    | some j =>
      let s := s.updRec d i fun x => { x with cursor := x.cursor - 2 ^ t }
      let s := s.updRec t j fun _ => { Rec.free with ws := recPut r.ws 4 0 1, kind := .range d i, unus := r.unus, cursor := ((s.launchMap r).nextHomed r.ws t 0).getD 0 }
      .next (s.makeReady t j)

/-! ## Blocking points (R311) -/

/-- The place is homed in another domain than `d`: a line, or the target of a window or peer access; a pool line whose link is down counts too (R216). -/
def State.placeRemote (s : State) (d : Nat) (pl : Place) : Bool :=
  match pl with
  | .glob pa => homeOf pa != d || (regionOf pa = .pool && s.svc.poolDown.contains (poolPort pa))
  | .scr c _ | .row c _ | .acc c _ => (s.block c).loc.any (·.d != d)
/-- What the warp waits at, if it stands at a blocking point: the bits of WAKE (Tables 12-7, 12-8). -/
def State.blockPoint (s : State) (b w : Nat) : Option Nat :=
  let x := s.block b
  let wp := x.warp w
  match x.loc with
  | none => none
  | some l =>
    if wp.parked then none
    else match wp.wait with
      | some (.barrier _ _ _ _) | some (.chput _ _ _ _) | some (.chget _ _ _ _ _ _) => some 0
      | some (.regclaim _) => if wp.settled then some 0 else none
      | some .sleep => none
      | some (.waitt _ _) => some 5
      | some (.spawn _ _ _ _) => some 8
      | some (.twait _ _ dl) => some (if dl.isSome then 6 else 2)
      | some (.qwait _ _) => some 16
      | none =>
        if wp.rdv then (if x.rdvWaits w then some 0 else none)
        else if wp.clause.isSome || wp.evDue || wp.exitPend then none
        else
          let run := if wp.reprun = 0#32 then wp.headRun else wp.reprun
          match s.fetchAt b (wp.lane (lowLane run)).pc with
          | (.word h, _) =>
            let mine := s.ops.filter fun y => y.bid = b && !y.seq && y.ws.any fun p => p.1 = w && (p.2 = 6 || (p.2 < 6 && (hdrWait h).getLsbD p.2))
            let remote := fun (y : Op) => y.k.isLoad && y.k.parts.any fun p => s.placeRemote l.d p.pl
            if !mine.isEmpty then (if mine.all remote then some 1 else none)
            else if hdrSD h && s.storesOut b w then none
            else if hdrOk h && !x.channelsServe wp (s.fetchRun b ((wp.lane (lowLane run)).pc + 4#32) (hdrN h)).1 then some 0
            else none
          | _ => none
/-- Every warp of the block that has not wholly exited stands at a blocking point. -/
def State.allBlocked (s : State) (b : Nat) : Bool :=
  let x := s.block b
  (List.range x.warps.length).all fun w => (x.warp w).exited || (s.blockPoint b w).isSome

/-! ## Eviction (R312, R313) -/

/-- An image address for a block that leaves position `a`: a free image, or that of the oldest, which moves to a free frame. -/
def State.takeImage (s : State) (d a : Nat) : Option (Nat × State) :=
  match s.freeImage d a with
  | some p => some (imageAddr d a p, s)
  | none =>
    match oldestImage ((s.dom d).parkImages.filter fun p => (List.range 8).any fun q => p.2.1 = imageAddr d a q), s.freeFrame d with
    | some (i, img, _), some f => some (img, s.moveFrame d i (frameAddr d f))
    | _, _ => none

/-- A copy in flight reads or writes the block's slot, until it has completed (R250). -/
def State.copyTouches (s : State) (b : Nat) : Bool := s.ops.any fun x => x.k.isCopy && x.foot.contains b
/-- The in-flight work a context save waits for has finished (R202, R250, R275, R294, R366). -/
def State.saveReady (s : State) (b : Nat) : Bool :=
  !(s.ops.any fun x => x.bid = b && (x.seq || x.k.isLs || (match x.k with | .matrix _ _ _ _ | .drain _ _ _ _ _ _ | .dfence _ => true | _ => false)))
    && !s.copyTouches b && (s.block b).winq.isEmpty
/-- The lines that a slot wrote are written back and leave the L1 (R40, R179). -/
def State.flushSlot (s : State) (d a k : Nat) : State :=
  ((s.core d a).l1.filter fun l => l.ws = k).foldl (fun s l => s.l1Evict d a l) s
/-- The tick that a 32-bit tick names as seen from `now` (R230). -/
def tickNear (now : Tick) (t : Word) : Tick := now + (t - now.setWidth 32).signExtend 64
/-- The earliest deadline among the block's TICK waits, and the first handle it waits on. -/
def Block.wdl (x : Block) (now : Tick) : Option Tick :=
  (x.warps.filterMap fun (wp : Warp) => match wp.wait with
    | some (.waitt _ t) => some (tickNear now (t.setWidth 32))
    | some (.twait _ _ (some t)) => some (tickNear now (t.setWidth 32))
    | _ => none).foldl (fun (m : Option Tick) t => match m with | none => some t | some u => some (if t < u then t else u)) none
def Block.whnd (x : Block) : Word := (x.warps.findSome? fun (wp : Warp) => match wp.wait with | some (.twait h _ _) => some h | _ => none).getD 0#32

/-- The park record of a block but for its image (Table 12-8), for the waits its warps stand at now; `ready`: as a converted image it waits for
nothing (R389). -/
def State.parkWords (s : State) (ready : Bool) (b : Nat) : List Word :=
  let x := s.block b
  let l := x.loc.getD ⟨0, 0, 0⟩
  let wake := (List.range x.warps.length).foldl (fun m w => m ||| ((s.blockPoint b w).getD 0)) 0
  let seqc := (s.seqOf l.d l.a).heldBy b
  let wake := if ready then 0 else if seqc then wake ||| 16 else wake
  let k := match s.serve l.d l.a with | some (y, c, _) => 144 * l.d + 12 * y + c | none => 144 * l.d + 12 * (l.a / 11) + l.a % 11
  let r := x.lrec
  let lin := x.lin
  let dl := ((x.wdl (s.sid l.d)).getD 0#64).toNat
  [0, 2 + 2 ^ 2 * rPRI r + 2 ^ 5 * x.rank, (recHandle s.svc.dev x.qdom x.qidx).toNat, lin % rGRDX r,
    lin / rGRDX r % rGRDY r + 2 ^ 16 * (lin / rGRDX r / rGRDY r), wake + (if seqc then 32 else 0), dl, dl / 2 ^ 32, x.whnd.toNat,
    k + 2 ^ 14 * l.k, 0, 0, 0, 0, 0, 0].map (BitVec.ofNat 32)
def parkWake (ws : List Word) : Nat := recBits ws 20 0 5

/-- The units in which two contexts of a slot differ (R376): register rows from 0, scratch sectors from 1024, accumulator rows from 2048. -/
def Block.unitsChanged (x y : Block) : List Nat :=
  let diff := fun {α : Type} [BEq α] (l m : List (Nat × α)) => ((l.filter fun p => !m.contains p) ++ (m.filter fun p => !l.contains p)).map (·.1)
  ((diff x.rf y.rf).map (· / 32) ++ (diff x.scr y.scr).map (fun k => 1024 + k / 64) ++ (diff x.acc y.acc).map (fun k => 2048 + k / 64)).eraseDups
/-- 64-byte units of the changed ones. -/
def unitCount (l : List Nat) : Nat := (l.map fun u => if u % 4096 < 1024 then 2 else if u % 4096 < 2048 then 1 else 4).foldl (· + ·) 0
/-- NSEC of a delta that holds the units in `l` and some of `states` state units. DESIGN CHOICE, log 13: which state units have changed is free. safe. -/
def nsecOf (states : Nat) (l : List Nat) (n : Nat) : Nat := unitCount l + Config.freeNat n % (states + 1)
/-- The context of a block in the core's newest sealed bank. -/
def Umbra.sealedBlock (u : Umbra) (b : Nat) : Option Block := (u.newest.bind fun w => (u.bank w).img).bind fun m => mfind m.blocks b
/-- Header and footer of the park image of a block that leaves its core (R374, R388). DEDUCED, log 13: SEQ continues the series of the core's banks. -/
def State.parkHead (s : State) (l : Loc) (b : Nat) : ImgHead :=
  let u := (s.core l.d l.a).umb
  let q := max (max u.bankA.hseq u.bankA.fseq) (max u.bankB.hseq u.bankB.fseq) + 1
  let old := u.sealedBlock b
  { ImgHead.empty with magic := 0x00554D42, fmt := 1, hseq := q, fseq := q, kind := 3, whole := old.isNone, tick := s.sid l.d, pos := l.d + 64 * l.a, mapgen := s.svc.mapgen,
                       nsec := if old.isNone then 4288 else nsecOf 192 ((s.block b).unitsChanged (old.getD Block.zero)) s.fresh, crc := Config.freeWord s.fresh }

/-- One block is parked: its L1 data flushed, its image taken, its park record written, its slot freed. -/
def State.parkBlock (s : State) (ready : Bool) (b : Nat) : Option State :=
  let x := s.block b
  match x.loc with
  | none => none
  | some l =>
    match s.takeImage l.d l.a, (s.dom l.d).freeHw with
    | some (img, s), some i =>
      let words := x.park.getD (s.parkWords ready b)
      let s := (s.flushSlot l.d l.a l.k).keepWins b
      let s := s.updRec l.d i fun _ => { Rec.free with ws := imgWords words img, kind := .park b img s.tick, st := .waiting }
      let head := s.parkHead l b
      let s := State.updBlock { s with fresh := s.fresh + 1 } b fun x =>
        { x with loc := none, parkIdx := some (l.d, i), left := l.a, idle := 0, evicting := false, pimg := head }
      let s := s.updCore l.d l.a fun c => (List.range x.warps.length).foldl (fun c w => c.dropWarp (b, w)) { c with slots := mdel c.slots l.k }
      some (State.settlePend (if ready then s.makeReady l.d i else if parkWake words = 0 then s.logEvent 0x31 l.d l.a else s))
    | _, _ => none
def State.parkAll (s : State) (ready : Bool) : List Nat → Option State
  | [] => some s
  | b :: bs => (s.parkBlock ready b).bind fun s => s.parkAll ready bs

/-- The sequencer waits for its parked holder: a word is due, or a counter would come to zero (R365). -/
def State.seqDue (s : State) (d a b : Nat) : Bool :=
  let q := s.seqOf d a
  q.heldBy b && q.running && ((q.phase = 1 && q.nextWord.isSome) || (q.phase = 2 && q.qopZero && s.seqTests d a))
/-- An event in WAKE has occurred for the parked block: a wait has ended, a tick is reached (R230, R323), room for a SPAWN, SEQ (R365). DEDUCED,
log 99: a transit wait wakes by its slot or its tick, as Table 12-7 has it. -/
def State.woken (s : State) (d i b : Nat) : Bool :=
  let r := s.recAt d i
  let a := (s.parkCore d i).getD 0
  let t := s.updBlock b fun x => { x with loc := some ⟨d, a, recBits r.ws 36 14 2⟩ }
  let x := s.block b
  r.st = RecSt.waiting && parkWake r.ws != 0 &&
    (!t.allBlocked b
      || (x.warps.any fun (wp : Warp) => match wp.wait with
        | some (.waitt _ t) => reached (s.sid d) (t.setWidth 32) && !s.sidHeld d
        | some (.twait _ _ (some t)) => reached (s.sid d) (t.setWidth 32) && !s.sidHeld d
        | some (.spawn ws w _ _) => (s.spawnNow b d ws w).isSome
        | _ => false)
      || s.seqDue d a b)
/-- A park record is READY, and with it its whole constellation. -/
def State.wakePark (s : State) (d i b : Nat) : State :=
  ((s.mates b).foldl (fun s m => match (s.block m).parkIdx with
    | some (e, j) => s.updRec e j fun r => { r with st := .ready }
    | none => s) s).makeReady d i

/-- The member has reached its core's threshold, or has wholly exited (R311). -/
def State.mayEvict (s : State) (b : Nat) : Bool :=
  let x := s.block b
  match x.loc with
  | none => false
  | some l =>
    let c := s.core l.d l.a
    let out := x.warps.all Warp.exited
    l.k < 4 && s.coreRuns l.d l.a && (!x.exiting || x.reported)
      && (out || (c.evth != 0 && c.evth ≤ x.idle && s.allBlocked b)) && ((s.freeImage l.d l.a).isSome || (s.freeFrame l.d).isSome)
/-- EVICTION: a block with its constellation begins to leave, or leaves once its work in flight is finished (R311 to R313). -/
def execEviction (b : Nat) (s : State) : Out :=
  let x := s.block b
  let ms := (s.mates b).filter fun m => (s.block m).loc.isSome
  if (mfind s.blocks b).isNone || x.loc.isNone then .refused .notEnabled
  else if !x.evicting then
    if ms.all s.mayEvict && ms.any (fun m => !(s.block m).warps.all Warp.exited) then
      .next (ms.foldl (fun s m => s.updBlock m fun y => { y with evicting := true, park := some (s.parkWords false m) }) s)
    else .refused .notEnabled
  else if ms.all s.saveReady then
    match s.parkAll false ms with
    -- an event since the blocking began: READY at once (R312)
    | some s => .next (ms.foldl (fun s m => match (s.block m).parkIdx with | some (d, i) => if s.woken d i m then s.wakePark d i m else s | none => s) s)
    | none => .refused .notEnabled
  else .refused .notEnabled

/-! ## Wake and resume (R312, R314) -/

/-- PARK_RECORD_WAKE: the record is READY, and with it the whole constellation. -/
def execParkRecordWake (d idx : Nat) (s : State) : Out :=
  match (s.recAt d idx).kind with
  | .park b _ _ => if d < 64 && s.woken d idx b then .next (s.wakePark d idx b) else .refused .notEnabled
  | _ => .refused .notEnabled

/-- A release in domain `d` that blocks begin as they exit or move: write-backs first, `go` once they are confirmed (R40, R41, R210). -/
def State.blockRelease (s : State) (d : Nat) (bs : List Nat) (sys : Bool) (go : Out) : Out :=
  match bs.findSome? fun b => (s.block b).rel with
  | some n => if s.confirming n then .refused .notEnabled else go
  | none =>
    match s.flush d (.slice d) s.nextOp sys with
    | .wait => .refused .notEnabled
    | .refused pa => .next (s.refuse (.slice d) pa)
    | .made t => .next (bs.foldl (fun (t : State) b => t.updBlock b fun y => { y with rel := some s.nextOp }) { t with nextOp := s.nextOp + 1 })

/-- The mesh neighbours of a domain, ascending. -/
def neighbours (d : Nat) : List Nat :=
  (if 8 ≤ d then [d - 8] else []) ++ (if d % 8 != 0 then [d - 1] else []) ++ (if d % 8 != 7 then [d + 1] else []) ++ (if d < 56 then [d + 8] else [])
/-- PARK_NEIGHBOUR_OFFER: a woken record that has waited 65,536 cycles and that no core of its domain can take resumes in the first neighbour that
can take it at once, after the release of its domain (R40, R314). -/
def execParkNeighbourOffer (d idx : Nat) (s : State) : Out :=
  let r := s.recAt d idx
  match r.kind with
  | .park _ _ _ =>
    if 64 ≤ d || r.st != RecSt.ready || r.waited < 65536 || !(s.dom d).ready.contains idx then .refused .notEnabled
    else match s.unitOf d idx with
      | none => .refused .notEnabled
      | some (u, _) =>
        if u.pins.any Option.isSome || (s.choose d u (s.takes d u.part)).isSome || (s.choose d u (s.eligible d idx u.part)).isSome then .refused .notEnabled
        else
          let u := { u with pref := [] }
          match (neighbours d).findSome? fun t => (s.choose t u (s.takes t u.part)).map fun as => (t, as) with
          | some (t, as) =>
            s.blockRelease d u.bids false <|
              match s.resumeUnit u t as with
              | some s => .next s
              | none => .refused .notEnabled
          | none => .refused .notEnabled
  | _ => .refused .notEnabled

/-! ## Exit and completion -/

/-- What one addition into the launch's counter area comes to: made, no room in the journal, a failing page, a wait. -/
inductive AddRes where
  | ok (s : State)
  | full (s : State)
  | failed (s : State)
  | wait (s : State)
/-- One addition of a counter, as a drain tile update (R45, R104): journalled, saturating, at SYS scope, into a mapped tile's shadow (R295); one that
the journal shows applied is not made again (R385). -/
def State.counterAdd (s : State) (b : Nat) (l : Loc) (area : Nat) (p : Nat × Word) : AddRes :=
  let va := (area + 16 * (p.1 / 3) + 4 * (p.1 % 3)) % 2 ^ 80
  let q := Asker.core l.d l.a
  let w := s.walkStore l.d (s.block b).asid va q
  let counted := fun (s : State) => AddRes.ok (s.updBlock b fun x => { x with cnt := mdel x.cnt p.1 })
  match w.1 with
  | .bad _ _ => .failed w.2
  | .wait => .wait w.2
  | .ok pa ty =>
    if 2 ≤ ty then .failed w.2
    else match w.2.exitEntry l 0xB6 va 0xFFFFFFFF#32 with
      | none => .full w.2
      | some (none, s) => counted s
      | some (some j, s) =>
        match s.engineUpdate l.d q pa 4 none fun old => leBytes 4 (min (2 ^ 32 - 1) (leNat old + p.2.toNat)) with
        | .wait => .wait w.2
        | .refused pa => .wait (w.2.refuse q pa)
        | .ok t => counted (t.applyTag l.d l.a (some j) [homeOf (s.drainHome pa)] [])
def exitCut (b : Nat) : CutReq := { kind := 2, warp := none, exit := some b }
/-- Write out what is left: the state, and whether it is over. -/
def State.writeOut (s : State) (b : Nat) (l : Loc) (area : Nat) : List (Nat × Word) → State × Bool
  | [] => (s, true)
  | p :: ps =>
    match s.counterAdd b l area p with
    | .ok s => s.writeOut b l area ps
    | .full s => (s.askCut l.d l.a (exitCut b), false)
    | .failed s => (s.updBlock b fun x => { x with cntErr := true, cnt := [] }, true)
    | .wait s => (s, false)

/-- BLOCK_EXIT (R138, R104, R386). First the block asks for its cut, and a sequencer it holds stops; then, in the armed epoch that cut began, the
counters are written out, what the block wrote is released at SYS scope, and the exit is reported. DEDUCED, log 29: the journal entries of an exit
carry OP 0xB6 and 0, warp 0 and PC 0. -/
def execBlockExit (b : Nat) (s : State) : Out :=
  let x := s.block b
  match x.loc with
  | none => .refused .notEnabled
  | some l =>
    let u := (s.core l.d l.a).umb
    let mine := (s.seqOf l.d l.a).heldBy b
    if (mfind s.blocks b).isNone || 4 ≤ l.k || x.reported || !s.coreRuns l.d l.a || !x.warps.all Warp.exited then .refused .notEnabled
    else if !x.exiting then
      if s.ops.any fun y => y.bid = b && !y.seq then .refused .notEnabled
      else
        let s := if mine then s.seqStop l.d l.a else s
        .next ((s.updBlock b fun y => { y with exiting := true, evicting := false, rel := none }).askCut l.d l.a (exitCut b))
    else if u.openCut.isSome || u.reqs.any (fun r => r.exit = some b) || s.ops.any (fun y => y.bid = b) || (s.mates b).any s.copyTouches
        || (u.journal.any (!·.matched) && s.travelling l.d l.a) then
      .refused .notEnabled
    else
      let r := match (if x.killed then none else rCounters x.lrec) with
        | some area => s.writeOut b l area x.cnt
        | none => (s, true)
      if !r.2 then s.waiting r.1
      else if r.1 != s && x.rel.isNone then .next r.1
      else s.blockRelease l.d [b] true <|
        match s.exitEntry l 0 (recHandle s.svc.dev x.qdom x.qidx).toNat 0xFFFFFFFF#32 with
        | none => .next (s.askCut l.d l.a (exitCut b))
        | some (j, s) =>
          let s := s.applyTag l.d l.a j [x.qdom] []
          let s := if mine then s.seqRelease l.d l.a else s
          .next ((s.updBlock b fun y => { y with rel := none }).exitReport b)

/-- GRID_COMPLETION (R315, R316): the record reaches its end, or a step of that end is taken (R317), or a re-fire that is due is tried again (R337). -/
def execGridCompletion (d idx : Nat) (s : State) : Out :=
  let r := s.recAt d idx
  if 64 ≤ d || s.sidHeld d || (s.dom d).uoff || !s.svc.powered then .refused .notEnabled
  else if r.fin.isSome then (match s.stepFin d idx with | some t => .next t | none => .refused .notEnabled)
  else if r.refire then s.waiting (s.refireTry d idx).settleGroups
  else if r.st != RecSt.running || !r.placed || (s.dom d).ready.contains idx then .refused .notEnabled
  else match r.kind with
    | .park _ _ _ => .refused .notEnabled
    | .range od oi =>
      if r.live != 0 then .refused .notEnabled
      else .next ((s.updRec od oi fun x => { x with ranges := x.ranges - 1 }).updRec d idx fun _ => Rec.free)
    | .launch =>
      if (if r.wafer then r.ranges != 0 || r.cursor != 0 else r.live != 0) then .refused .notEnabled
      else .next (s.finishRec d idx (if r.cancel then .cancelled else .done))

end Sys2Proof.Machine
end

