-- ==== Sys2Proof/Machine/Umbra.lean ====
section
/-! DEFINITION. The umbra engine (15): cuts and their banks (R377 to R379), PFENCE, CHKS, UMQ and UMSET (R390 to R394), acknowledgements
of the journal (R382), power failure of a compute island (R380), resume (R384 to R387). -/

namespace Sys2Proof.Machine

def State.updUmbra (s : State) (d a : Nat) (f : Umbra → Umbra) : State := s.updCore d a fun c => { c with umb := f c.umb }
/-- The blocks in the context slots of a core. -/
def Core.held (c : Core) : List (Nat × Nat) := c.slots.filter fun p => p.1 < 4

/-! ## Cuts -/

/-- PERIODIC_CUT: the timer has run PER cycles (R377). -/
def execPeriodicCut (d a : Nat) (s : State) : Out :=
  let c := s.core d a
  let u := c.umb
  if s.coreRuns d a && u.per != 0 && u.per ≤ u.timer && (!c.held.isEmpty || c.seq.hold.isSome) && u.openCut.isNone
      && !u.reqs.any (fun r => r.kind = 0) then
    .next (s.updUmbra d a fun u => { u with reqs := u.reqs ++ [{ kind := 0, warp := none, exit := none }] })
  else .refused .notEnabled

/-- The bank that the next cut goes to, true for B (R379). -/
def Umbra.nextBank (u : Umbra) : Bool :=
  if !u.bankA.valid then false else if !u.bankB.valid then true else u.bankB.hseq < u.bankA.hseq
/-- The greatest SEQ in any header or footer. -/
def Umbra.maxSeq (u : Umbra) : Nat := max (max u.bankA.hseq u.bankA.fseq) (max u.bankB.hseq u.bankB.fseq)

/-- Warp `w` stands where a cut can take it: at a clause boundary, a blocking point, parked or asleep (R61, R377). -/
def Block.cuttable (x : Block) (w : Nat) : Bool :=
  let wp := x.warp w
  wp.exited || wp.parked || wp.wait.isSome || x.rdvWaits w || (wp.clause.isNone && !wp.cutDone)
/-- An operation of core `a`: of a block in one of its slots, or of one that has gone from it. -/
def State.coreOp (s : State) (d a : Nat) (x : Op) : Bool :=
  match mfind s.blocks x.bid with
  | some y => y.loc.any fun l => l.d = d && l.a = a
  | none => x.d = d && x.a = a
/-- An operation the cut instant waits for: any of the core's, its handler's and its sequencer's included, but for copies, whose records are
captured (R252), and fabric messages, which the seal waits for (R413). -/
def State.cutWaits (s : State) (d a : Nat) (x : Op) : Bool :=
  s.coreOp d a x && !(x.k.isCopy || (match x.k with | .cancel _ | .fabric _ | .ffence => true | _ => false))
/-- An exit whose cut has sealed has still to be reported in the epoch of that cut (R386). -/
def State.exitOpen (s : State) (u : Umbra) (b : Nat) : Bool :=
  let x := s.block b
  x.exiting && !x.reported && !u.reqs.any fun r => r.exit = some b
/-- The clause at a warp's header holds a PFENCE with a true guard (R381). -/
def State.armsAt (s : State) (b w : Nat) : Bool :=
  let wp := (s.block b).warp w
  let run := if wp.reprun = 0#32 then wp.headRun else wp.reprun
  let pc := (wp.lane (lowLane run)).pc
  match s.fetchAt b pc with
  | (.word h, _) =>
    (clauseInstrs 15 (s.fetchRun b (pc + 4#32) (hdrN h)).1).any fun w => opOf w = 0xD8 && wp.guard (w.extractLsb' 21 3) run != 0#32
  | _ => false
/-- The warp that the header names: the first that asked and still stands in a context slot. -/
def State.pfWarp (s : State) (d a : Nat) (u : Umbra) : Option (Nat × Nat × Nat) :=
  u.reqs.findSome? fun r => match r.warp with
    | some (b, w) => ((s.core d a).held.find? fun p => p.2 = b).map fun p => (p.1, b, w)
    | none => none
/-- The units of the core's slots that the epoch now ending has changed since its image (R376): 4096 × slot + unit. -/
def State.unitsNow (s : State) (d a : Nat) : List Nat :=
  let u := (s.core d a).umb
  let was := fun (b : Nat) => ((u.base.bind fun w => (u.bank w).img).bind fun m => mfind m.blocks b).getD Block.zero
  (s.core d a).held.flatMap fun p => ((s.block p.2).unitsChanged (was p.2)).map (4096 * p.1 + ·)
/-- The cut that the clause at a warp's header asked for has been taken: its number, its SEQ, the first operation after it (R378, R391, R392). -/
def Block.markCut (x : Block) (w : Nat) (cut : Nat × Nat × Nat) : Block := x.updWarp w fun wp => { wp with cutDone := true, cut := cut }

/-- CUT_INSTANT: every warp of the core stands at its boundary; the bank's header is written and the state captured (R375, R377 to R379). -/
def execCutInstant (d a : Nat) (s : State) : Out :=
  let c := s.core d a
  let u := c.umb
  if !s.coreRuns d a || u.reqs.isEmpty || u.openCut.isSome || !(c.slots.all fun p => let x := s.block p.2; (List.range x.warps.length).all x.cuttable)
      || s.ops.any (s.cutWaits d a) || c.held.any (fun p => s.exitOpen u p.2) then .refused .notEnabled
  else
    let which := u.nextBank
    let old := u.bank which
    let pf := s.pfWarp d a u
    let arm := u.reqs.any fun r => match r.warp with | some (b, w) => s.armsAt b w | none => r.kind = 2
    let now := s.unitsNow d a
    let cut := (u.cutNo + 1, u.maxSeq + 1, s.nextOp)
    let blocks := s.blocks.filter fun (p : Nat × Block) => c.held.any fun q => q.2 = p.1
    let img : Image := { no := u.cutNo + 1, blocks := (match pf with | some (_, b, w) => mupd blocks b (·.markCut w cut) | none => blocks),
                         slots := c.held, seq := c.seq, hq := c.hq, hent := c.hent, evth := c.evth }
    let bank : Bank :=
      { old with magic := 0x00554D42, fmt := 1, bank := which, hseq := u.maxSeq + 1, kind := (u.reqs.map (·.kind)).foldl max 0, arm := arm, whole := !old.valid, tick := s.sid d, pos := d + 64 * a,
                 mapgen := s.svc.mapgen, nsec := if old.valid then nsecOf 768 (now ++ u.dirty).eraseDups s.fresh else 17152, pfw := pf.map fun q => handleOf q.1 q.2.2,
                 pfpc := (match pf with
                   | some (_, b, w) =>
                     let wp := (s.block b).warp w
                     (wp.lane (lowLane (if wp.reprun = 0#32 then wp.headRun else wp.reprun))).pc
                   | none => 0#32),
                 jn := [], img := some img }
    let s := u.reqs.foldl (fun (s : State) r => match r.warp with | some (b, w) => s.updBlock b (·.markCut w cut) | none => s) s
    .next (State.updUmbra { s with fresh := s.fresh + 1 } d a fun u =>
      { u.setBank which bank with per := u.perNext, timer := 0, since := 0, reqs := [], openCut := some which, cutNo := u.cutNo + 1,
                                  cutOp := s.nextOp, armed := arm, base := some which, dirty := now })

/-! ## Seals (R203, R379, R413) -/

/-- The core's dirty L1 sectors are written back to the slice and stay, clean. -/
def State.coreWriteBack (s : State) (d a : Nat) : State := ((s.core d a).l1.flatMap (·.secs)).foldl (fun s sec => s.l1Clean d a sec) s
/-- The open cut of a core can seal: the fabric messages issued before it are acknowledged. -/
def State.sealReady (s : State) (d a : Nat) : Bool :=
  let u := (s.core d a).umb
  u.openCut.isSome && !s.ops.any fun x => s.coreOp d a x && x.id < u.cutOp && (match x.k with | .fabric _ => true | _ => false)
/-- An operation that waits for the seal of a cut whose first later operation is number `n`: PFENCE.CORE and CHKS.W are performed, PFENCE.DOM goes on
to wait until what it covers is durable (R391, R392). -/
def Op.atSeal (x : Op) (n : Nat) : Op :=
  match x.k with
  | .cut _ true true => { x with k := .cut n false true }
  | .cut _ true false => { x with performed := true }
  | _ => x
/-- The footer is written, with the CRC of what the bank covers (log 13). -/
def State.sealed (s : State) (d a : Nat) : State :=
  let s := s.coreWriteBack d a
  let n := (s.core d a).umb.cutOp
  let f := s.fresh1
  State.updUmbra { f.2 with ops := f.2.ops.map fun x => if x.d = d && x.a = a then x.atSeal n else x } d a fun u =>
    match u.openCut with
    | some w => { u.setBank w { u.bank w with fseq := (u.bank w).hseq, ok := true, crc := f.1 } with openCut := none, sealedNo := u.cutNo }
    | none => u
/-- JOURNAL_ACK: the acknowledgement with its values reaches the core, and the entry's ST is 2 (R382). -/
def execJournalAck (d a i : Nat) (s : State) : Out :=
  match (s.core d a).umb.journal[i]? with
  | some e =>
    if s.coreRuns d a && e.st = 1 && e.ack.isSome then .next (s.updJournal d a fun l => l.modify i fun e => { e with st := 2 }) else .refused .notEnabled
  | none => .refused .notEnabled

/-! ## Instructions (R390 to R394) -/

/-- PFENCE and CHKS.W: complete once the cut that the clause asked for is sealed, whatever other cut has been taken since. -/
def Env.awaitSeal (e : Env) (d : BitVec 3) (dom : Bool) (res : List (Nat × Word)) : Act :=
  let c := e.wp.cut
  if c.1 ≤ e.core.umb.sealedNo then (if dom then .done (e.start e.s d (.cut c.2.2 false true) res) else e.quick e.s d res)
  else .done (e.start e.s d (.cut c.1 true dom) res)
/-- PFENCE (R391). -/
def execPfence (f : SysW) (s : State) : Out := issueSys (.pfence f) f s fun e => e.awaitSeal f.d (f.f.getLsbD 0) []
/-- CHKS (R392). -/
def execChks (f : SysW) (s : State) : Out :=
  issueSys (.chks f) f s fun e =>
    let res := [(f.s.toNat, BitVec.ofNat 32 e.wp.cut.2.1)]
    if f.f.getLsbD 0 then e.awaitSeal f.d false res else e.quick e.s f.d res

/-- UMQ.RES of a block's last resume (Table 15-6). -/
def ResumeInfo.word (r : ResumeInfo) : Word :=
  let b := fun (x : Bool) (i : Nat) => if x then 2 ^ i else 0
  BitVec.ofNat 32 (b r.resumed 0 + b r.bank 1 + b r.otherTorn 2 + b r.armed 3 + 2 ^ 4 * (r.matched % 32) + 2 ^ 9 * (r.reissued % 32) + b r.lost 14
    + b r.restarted 15 + 2 ^ 16 * r.resumes)
/-- The next cut is written whole: while one is unsealed, the next goes to the other bank unless that is the newer (R379). -/
def Umbra.nextWhole (u : Umbra) : Bool := !(u.bank (match u.openCut with | some w => !w | none => u.nextBank)).valid
/-- Journal entries used in the epoch. -/
def Umbra.used (u : Umbra) : Nat := if u.armed && u.openCut.isNone then u.journal.length else 0
/-- UMQ (R393). -/
def execUmq (f : SysW) (s : State) : Out :=
  issueSys (.umq f) f s fun e =>
    let S := f.s.toNat
    let u := e.core.umb
    let r := match f.f.toNat % 4 with
      | 0 => (e.blk.umq.word, BitVec.ofNat 32 e.blk.umq.seq)
      | 1 =>
        let q := match u.newest with | some w => (u.bank w).hseq | none => 0
        (BitVec.ofNat 32 q, BitVec.ofNat 32 (q / 2 ^ 32))
      | _ =>
        let b := fun (x : Bool) (i : Nat) => if x then 2 ^ i else 0
        (BitVec.ofNat 32 (min u.since (2 ^ 32 - 1)),
          BitVec.ofNat 32 (b u.armed 0 + 2 * u.used + b u.openCut.isSome 6 + b u.nextWhole 7))
    e.quick e.s f.d [(S, r.1), (S + 1, r.2)]
/-- UMSET (R394). -/
def execUmset (f : SysW) (s : State) : Out :=
  issueSys (.umset f) f s fun e =>
    let x := (e.sreg f.s.toNat).toNat
    if x % 4096 != 0 || 2 ^ 24 < x then .trapOpen .illegalOperand (some (BitVec.ofNat 32 x))
    else e.quick (e.s.updUmbra e.loc.d e.loc.a fun u => { u with perNext := x }) f.d []

/-! ## Power failure of a compute island (R380) -/

/-- The operations of a core that fails: copies are cancelled, fabric messages and the drain updates that have left travel on for nobody, and what has not
been performed is lost. Blocks that have left the core keep theirs. -/
def State.dropCoreOps (s : State) (d a : Nat) : State :=
  let mine := s.ops.filter (s.coreOp d a)
  let s := mine.foldl (fun s x => if x.k.isCopy then s.cancelCopy x else s) s
  { s with ops := s.ops.filterMap (fun (x : Op) =>
             if mine.all (·.id != x.id) then some x
             else match x.k with
               | .fabric _ => some { x with bid := s.nextBid + x.bid, seq := false }
               | _ => s.strayDrain x (s.nextBid + x.bid)),
           nextBid := 2 * s.nextBid + 1,
           retries := s.retries.filter fun r => mine.all fun x => r.q != .op x.id || (s.strayDrain x 0).isSome }
/-- The core leaves its L1: dirty data have gone to the slice. -/
def State.coreEmptyL1 (s : State) (d a : Nat) : State := (s.coreWriteBack d a).updCore d a fun c => { c with l1 := [] }
/-- The core at a position loses power: its open cut may still seal, its handler run ends, nothing of it issues. -/
def State.coreFail (s : State) (d a : Nat) (finish : Bool) : State :=
  let s := s.coreEmptyL1 d a
  let s := if finish && s.sealReady d a then s.sealed d a else s
  let s := (s.endHandler d a).dropCoreOps d a
  s.updCore d a fun c => { c with stopped := true, tlb := [], ports := [] }
/-- COMPUTE_ISLAND_POWER_FAIL: `finish` names the positions whose open cut seals within the hold-up (R380). -/
def execComputeIslandPowerFail (d : Nat) (finish : List Nat) (s : State) : Out :=
  if 64 ≤ d || !s.svc.powered || (s.dom d).coff || (s.dom d).uoff then .refused .notEnabled
  else
    let here := (List.range 132).filter fun a => s.coreRuns d a
    if here.isEmpty then .refused .notEnabled
    else
      let s := here.foldl (fun s a => s.coreFail d a (finish.contains a)) s
      let s := s.updDom d fun x => { x with l1 := [] }
      .next { s with focus := match s.focus with
        | some (b, w) => (match (s.block b).loc with | some l => if l.d = d then none else some (b, w) | none => none)
        | none => none }

/-! ## Resume (R384 to R387) -/

/-- A covered byte of a bank reads as an uncorrectable error (R380, Table 15-3). -/
def State.bankPoisoned (s : State) (d a : Nat) (w : Bool) : Bool :=
  let b := umbraBase + 2 ^ 30 * d + 0x43E000 * a + if w then 0x10F000 else 0
  s.poison.any fun q => (b ≤ 8 * q && 8 * q < b + 64) || (b + 0xFC0 ≤ 8 * q && 8 * q < b + 0x1000) || (b + 0x3000 ≤ 8 * q && 8 * q < b + 0x10F000)
/-- The cause of Table 15-11 for a bank of position `p`. -/
def Bank.cause (b : Bank) (p : Nat) : Nat :=
  if b.hseq = 0 && b.fseq = 0 then 1 else if !b.known || b.pos != p then 4 else if b.valid then 0 else if b.hseq != b.fseq then 2 else 3
/-- DATA of event 0x0010. -/
def Umbra.resumeData (u : Umbra) (p : Nat) : BitVec 64 :=
  let w := u.newest.getD false
  let x := u.bank w
  let y := u.bank !w
  BitVec.ofNat 64 ((if w then 1 else 0) + (if u.newest.isNone then 2 else 0) + 2 ^ 2 * u.bankA.cause p + 2 ^ 5 * u.bankB.cause p
    + 2 ^ 8 * (x.hseq % 2 ^ 20) + 2 ^ 28 * (y.hseq % 2 ^ 18) + 2 ^ 46 * (y.fseq % 2 ^ 18))

/-- A warp as the image gives it: no slot is pending, for what was in flight has completed or is issued again; no word of it waits at issue. -/
def Warp.restored (wp : Warp) : Warp := { wp with pend := 0#6, d6 := 0, held := false, rel := none }
/-- The block in a slot on resume from image `m` (R385, R387): as captured, or at its start where it was placed after the cut; `cid` is its core's
CID now (R12). -/
def Block.resumed (x : Block) (m : Image) (b cid : Nat) (r : ResumeInfo) : Block :=
  let again := { r with resumes := min 65535 (x.umq.resumes + 1) }
  match (if x.placedCut < m.no then mfind m.blocks b else none) with
  | some y => { y with loc := x.loc, placedCut := x.placedCut, children := x.children, parkIdx := none, evicting := false, reported := false,
                       idle := 0, warps := y.warps.map Warp.restored, umq := again, cid := cid, rel := none, park := none, acqDue := false,
                       redo := false, pimg := x.pimg }
  | none => { Block.zero with loc := x.loc, lrec := x.lrec, rdom := x.rdom, ridx := x.ridx, qdom := x.qdom, qidx := x.qidx, lin := x.lin,
                              warps := (List.range x.warps.length).map (Warp.atStart x.lrec x.lin), children := x.children,
                              placedCut := x.placedCut, umq := { ResumeInfo.zero with restarted := true, resumes := x.umq.resumes },
                              cid := cid, verin := x.verin, stale := x.stale, pimg := x.pimg }

/-- Waits whose event came while the core was off end now: a WAITT on a completed slot, a TWAIT on a record that has ended. -/
def State.wakeRestored (s : State) (b : Nat) : State :=
  (List.range (s.block b).warps.length).foldl (fun s w =>
    let s := s.updBlock b fun x => x.wakeWaitt w
    match ((s.block b).warp w).wait with
    | some (.twait h r _) =>
      match s.named h with
      | some (d, i) => if (s.recAt d i).st.terminal && (s.recAt d i).fin.isNone then s.twaitEnd b w r ((s.recAt d i).status &&& 0xFFFF#32) (some (d, i)) else s
      | none => s
    | _ => s) s

/-- The pin of the resumed sequencer agrees with the object table: the one it held is kept, dropped or taken again; in PHASE 0 it goes on waiting for
its object, a promotion being requested, and takes the pin where the object is there (R364, R366). Its identifiers are tested again (R362). -/
def State.settlePin (s : State) (d a : Nat) (q : Seq) : State :=
  let live := s.seqOf d a
  let s :=
    if live.pinned && q.pinned && live.pobj = q.pobj then s.updSeq d a fun _ => q
    else
      let s := (s.seqUnpin d a).updSeq d a fun _ => { q with pinned := false }
      match (if q.pinned then (s.dom d).named q.pobj else none) with
      | some i => if ((s.dom d).obj i).st = 1 then (s.updObj d i fun o => { o with pin := o.pin + 1 }).updSeq d a fun q => { q with pinned := true } else s
      | none => s
  let s := if q.running then s.seqRecheck d a else s
  if (s.seqOf d a).running && q.phase = 0 && q.pov then
    match (s.dom d).named q.pobj with
    | some i => (s.requestPromotion d i).settleObj d i
    | none => s
  else s

/-- A core without an image: every block it held ends as if by KILL (R387). -/
def State.resumeEmpty (s : State) (d a : Nat) : State :=
  let s := s.seqRelease d a
  let bs := ((s.core d a).held.map (·.2)).filter fun b => !(s.block b).reported
  let s := s.updCore d a fun c =>
    { c with hq := [], hent := 0#32, evth := 4096, active := [], pending := [], rr := [], begun := none, stopped := false, moving := false,
             umb := { c.umb with reqs := [], openCut := none, sealedNo := c.umb.cutNo, armed := false, base := none } }
  bs.foldl (fun s b => (s.updBlock b fun x => { x with killed := true }).exitReport b) s
/-- A core resumes from its newest sealed bank (R385, R387): captured copies claim their slots, and are issued again, or, where its blocks go into
park images at once, as those resume (R252, R389). -/
def State.resumeFrom (s : State) (d a : Nat) (w : Bool) (m : Image) : Option State :=
  let u := (s.core d a).umb
  let k := u.bank w
  let other := u.bank !w
  let r : ResumeInfo :=
    { ResumeInfo.zero with resumed := true, bank := w, otherTorn := !other.valid && other.cause (d + 64 * a) != 1, armed := k.arm, seq := k.hseq }
  let held := (s.core d a).held.filter fun p => !(s.block p.2).reported
  let bs := held.map (·.2)
  let back := held.filter fun p => (s.block p.2).placedCut < m.no && (mfind m.blocks p.2).isSome
  let s := held.foldl (fun s p => s.updBlock p.2 fun x => x.resumed m p.2 (s.cid d a) r) s
  let keepSeq := match m.seq.holder with
    | some b => (mfind s.blocks b).isSome && ((s.block b).loc.isNone || back.any fun p => p.2 = b)
    | none => false
  let parked := fun (h : Nat) => back.any fun p => p.1 = h / 16 && ((s.block p.2).warp (h % 16)).parked
  let s := s.updCore d a fun c =>
    let c := { c with hq := m.hq.filter parked, hent := m.hent, evth := m.evth, active := [], pending := [], rr := [], begun := none, stopped := false, moving := false,
                      umb := { c.umb.setBank w { k with jn := k.jn.map fun e => { e with matched := false } } with
                                 reqs := [], openCut := none, sealedNo := c.umb.cutNo, armed := k.arm, base := some w } }
    held.foldl (fun (c : Core) p =>
      ((List.range (s.block p.2).warps.length).filter fun w => !((s.block p.2).warp w).exited).foldl (fun (c : Core) w => c.enter (p.2, w)) c) c
  let s := s.settlePin d a (if keepSeq then { m.seq with sd := 0#6, rel := none, ending := false } else Seq.empty)
  let s := bs.foldl (fun s b => s.claimAll b d a) s
  let s := if s.usable d a then bs.foldl (fun (s : Option State) b => s.bind fun s => s.reissueAll b d a) (some s)
    else some (bs.foldl (fun s b => s.updBlock b fun x => { x with redo := true }) s)
  s.map fun s => (bs.foldl (fun s b => (s.wakeRestored b).settleClaims b) s).qwaitServe d a

/-- The banks of a position as a resume reads them, and the event that says so (R380, R384). -/
def State.readBanks (s : State) (d a : Nat) : State :=
  let fix := fun (w : Bool) (k : Bank) => { k with ok := k.ok && k.pos = (if k.hseq = 0 then k.pos else d + 64 * a) && !s.bankPoisoned d a w }
  let s := s.updUmbra d a fun u => { u with bankA := fix false u.bankA, bankB := fix true u.bankB }
  let u := (s.core d a).umb
  let s := s.logData 0x10 d a (u.resumeData (d + 64 * a))
  match u.newest with
  | some w => s.updUmbra d a fun u => if (u.bank !w).valid then u else u.setBank (!w) { u.bank !w with ok := false }
  | none => s
/-- A core settles what its newest bank holds: it goes on from it (R384, R385), or, where no core serves the position any more, its blocks become park
records that wait for nothing (R389). None while that must wait: for a link, or for a copy that reads or writes one of its slots (R250). -/
def State.settleCore (s : State) (d a : Nat) : Option State :=
  let s := s.readBanks d a
  let u := (s.core d a).umb
  match u.newest.bind fun w => (u.bank w).img.map fun m => (w, m) with
  | none => some (s.resumeEmpty d a)
  | some (w, m) =>
    (s.resumeFrom d a w m).bind fun s =>
      let bs := ((s.core d a).held.map (·.2)).filter fun b => !(s.block b).reported
      if s.usable d a then some s else if bs.any s.copyTouches then none else s.parkAll true bs
/-- CORE_RESUME: a stopped core whose power is back chooses a bank (R384); the image of a stopped one whose position nothing serves any more is converted
(R389). -/
def execCoreResume (d a : Nat) (s : State) : Out :=
  let c := s.core d a
  let may := if s.usable d a then !(s.dom d).coff else !c.held.isEmpty || c.seq.hold.isSome
  if !c.stopped || !may || !s.svc.powered || (s.dom d).uoff then .refused .notEnabled
  else match s.settleCore d a with
    | some s => .next s
    | none => .refused .notEnabled

/-! ## Sealing, and moving to another physical core (R379, R389, R418) -/

/-- The core whose cut has just sealed leaves its physical core: nothing has been issued since the cut. -/
def State.moveCore (s : State) (d a : Nat) : Option State :=
  State.settleCore ((((s.coreEmptyL1 d a).endHandler d a).dropCoreOps d a).updCore d a fun c => { c with tlb := [], ports := [] }) d a
/-- BANK_SEAL (R379). -/
def execBankSeal (d a : Nat) (s : State) : Out :=
  if !s.coreRuns d a || !s.sealReady d a then .refused .notEnabled
  else if !(s.core d a).moving then .next (s.sealed d a)
  else match (s.sealed d a).moveCore d a with
    | some s => .next s
    | none => .refused .notEnabled

end Sys2Proof.Machine
end

