-- ==== Sys2Proof/Machine/Fabric.lean ====
section
/-! DEFINITION. The fabric engine (16): routes and apertures (R396 to R399), FSEND, FENQ, FSIG and FFENCE (R407 to R412), the order in which
messages are sent (R401), what a receiver does with them (R400, R402, R403), refusals and port loss (R404, R405). -/

namespace Sys2Proof.Machine

/-! ## Routes and apertures -/

/-- How a device is reached: its primary port, or locally; none: unreachable (R396, R397). -/
inductive Route where
  | gone
  | here
  | port (p : Nat)
def State.fabWord (s : State) (d i : Nat) : Word := mget 0#32 (s.dom d).fab i
def State.route (s : State) (d dev : Nat) : Route :=
  let ports := s.fabWord d (2048 + 2 * dev)
  let x := s.fabWord d (2049 + 2 * dev)
  if !x.getLsbD 0 then .gone
  else if x.getLsbD 1 then (if dev = s.svc.dev then .here else .gone)
  else match (List.range 32).find? fun p => ports.getLsbD p && s.portLive p with
    | some p => .port p
    | none => .gone
def Route.portOf : Route → Option Nat
  | .port p => some p
  | _ => none

/-- An aperture of domain `t`'s copy (R398): WR, SG, SRCM, PBASE, LIMIT. DEDUCED, log 31: a base or limit that is no multiple of 256 makes the
entry read as V = 0. safe. -/
def State.aperture (s : State) (t apr : Nat) : Option (Bool × Bool × Nat × Nat × Nat) :=
  let w := fun (i : Nat) => (s.fabWord t (8 * apr + i)).toNat
  let base := w 4 + 2 ^ 32 * (w 5 % 2 ^ 24)
  let lim := w 6 + 2 ^ 32 * (w 7 % 2 ^ 8)
  let g := segOf base
  if w 0 % 2 = 0 || 8 ≤ w 0 || w 1 != 0 || w 5 / 2 ^ 24 != 0 || w 7 / 2 ^ 8 != 0 || base % 256 != 0 || lim % 256 != 0
      || !(g.1 = Region.dram || g.1 = Region.persist) || g.2 < base + lim then none
  else some (w 0 / 2 % 2 = 1, w 0 / 4 % 2 = 1, w 2 + 2 ^ 32 * w 3, base, lim)
/-- The physical base of a range that device `src` may write through aperture `apr` of domain `t`'s table (Table 16-7, code 0x02). -/
def State.admits (s : State) (t src apr off n : Nat) (sig : Bool) : Option Nat :=
  match s.aperture t apr with
  | some (wr, sg, m, base, lim) => if m.testBit src && (if sig then sg else wr) && off + n ≤ lim then some (base + off) else none
  | none => none

/-! ## Fabric pointers (R399) -/

def fpDev (p : Ptr) : Nat := (p.extractLsb' 74 6).toNat
def fpApr (p : Ptr) : Nat := (p.extractLsb' 66 8).toNat
def fpRes (p : Ptr) : Bool := p.extractLsb' 40 26 != 0#26
def fpOff (p : Ptr) : Nat := (p.extractLsb' 0 40).toNat

/-! ## Issue (R408) -/

/-- The message class (Table 16-4). -/
def bodyClass : FabBody → Nat
  | .enq _ _ _ _ => 0
  | .data _ _ _ _ _ _ => 1
  | _ => 2
/-- C0, C2 and tagged C1 messages carry an identifier (R400). -/
def bodyNamed : FabBody → Bool
  | .data _ _ _ _ _ t => t.isSome
  | _ => true

/-- A message leaves the core, or its destination is unreachable: status 0x01 (R397, R381). -/
def Env.sendMsg (e : Env) (s : State) (f : SysW) (dev tgt : Nat) (rel : Bool) (srcs : List Nat) (body : FabBody) : Act :=
  let l := e.loc
  let S := f.s.toNat
  let lost := match s.route l.d dev with | .gone => true | _ => false
  if e.oldEntry.isNone && lost then e.quick s f.d [(S, 1#32)]
  else
    e.journal s tgt 0xFFFFFFFF#32 (fun data s => s.updWarp e.bid e.w fun wp => wp.setS S ((data.find? fun p => p.1 = 0).elim 0xFFFFFFFF#32 (·.2)))
      fun j s =>
        if lost then e.quick (s.applyTag l.d l.a j [] [(0, 1#32)]) f.d [(S, 1#32)] j
        else
          let no := (s.dom l.d).sentNo
          let id : FabId := { dev := s.svc.dev, dom := l.d, num := no % 2 ^ 52 }
          let s := if bodyNamed body then s.updDom l.d fun x => { x with sentNo := no + 1 } else s
          let jt := match j with
            | some i => ((s.core l.d l.a).umb.journal[i]?).map fun x => (coreKey l.d l.a, x.tag)
            | none => none
          let m : FabOut := { dev := dev, port := (s.route l.d dev).portOf, rel := rel, srcs := srcs, sent := [], code := 0, ended := none, tries := 0, back := 0,
                              msg := { src := s.svc.dev, id := id, port := none, op := some s.nextOp, jtag := jt, body := body } }
          .done (e.start s f.d (.fabric m) [(S, 0#32)] j)

/-- The physical sectors of an FSEND's source with their page types (R408, R409), or the first sector's page that fails. -/
def Env.sendSectors (e : Env) : Nat → Nat → State → Except (Option (Cause × Nat)) (List (Nat × Nat)) × State
  | 0, _, s => (.ok [], s)
  | k + 1, va, s =>
    match e.translate s va .load 64 with
    | (.bad _ c, s) => (.error (some (codeCause c, va)), s)
    | (.wait, s) => (.error none, s)
    | (.ok pa ty, s) =>
      match s.tileAt pa with
      | some (_, _, _, false) => (.error (some (.protection, va)), s)
      | _ => match e.sendSectors k ((va + 64) % 2 ^ 80) s with
        | (.ok l, s) => (.ok ((pa, ty) :: l), s)
        | r => r

/-- FSEND (R409). -/
def execFsend (f : SysW) (s : State) : Out :=
  issueSys (.fsend f) f s fun e =>
    let n := (e.sreg f.s.toNat).toNat
    let p := e.breg f.ba.toNat
    let q := e.breg (f.ba.toNat + 1)
    let tag := if f.f.getLsbD 0 then some (e.sreg (f.s.toNat + 1)) else none
    let badTag := match tag with
      | some h => if h.toNat / 2 ^ 28 != 0 || h.toNat / 2 ^ 22 % 64 != fpDev p then some h else none
      | none => none
    if n % 64 != 0 || n = 0 || 2 ^ 24 < n then .trapOpen .illegalOperand (some (e.sreg f.s.toNat))
    else match badTag with
      | some h => .trapOpen .illegalOperand (some h)
      | none =>
        if fpRes p || 2 ^ 40 < fpOff p + n then .trap .protection e.cl.run p e.cl.word
        else if fpOff p % 64 != 0 then .trap .misaligned e.cl.run p e.cl.word
        else if q.toNat % 64 != 0 then .trap .misaligned e.cl.run q e.cl.word
        else match e.sendSectors (n / 64) q.toNat e.s with
          | (.error (some (c, va)), s) => .trapAt s c e.cl.run (BitVec.ofNat 80 va) e.cl.word
          | (.error none, s) => e.stay s
          | (.ok ps, s) => e.sendMsg s f (fpDev p) p.toNat (f.f.getLsbD 1) (ps.map (·.1)) (.data (fpApr p) (fpOff p) (n / 64) 0 [] tag)

/-- An acquire of the warp that its later fabric accesses wait for is outstanding (R33, R283, R284). -/
def Env.acquiring (e : Env) (s : State) : Bool :=
  s.ops.any fun y => y.bid = e.bid && !y.seq && y.ws.any (·.1 = e.w) && !y.performed && (y.k.blocksLater || y.acquires)
/-- FENQ (R410). -/
def execFenq (f : SysW) (s : State) : Out :=
  issueSys (.fenq f) f s fun e =>
    let h := e.sreg f.s.toNat
    let va := (e.breg f.ba.toNat).toNat
    if h.toNat / 2 ^ 28 != 0 then .trapOpen .illegalOperand (some h)
    else if va % 64 != 0 then .trap .misaligned e.cl.run (BitVec.ofNat 80 va) e.cl.word
    else match e.sendSectors 1 va e.s with
      | (.error (some (c, va)), s) => .trapAt s c e.cl.run (BitVec.ofNat 80 va) e.cl.word
      | (.error none, s) => e.stay s
      | (.ok ps, s) =>
        e.release s 3 fun s =>
          if e.acquiring s then .stall else
          let pa := ps.headD (0, 0)
          match s.readSector (.core e.loc.d e.loc.a) e.loc.d [] false (.glob pa.1) with
          | .wait => .stall
          | .refused pa => e.stay (s.refuse (.core e.loc.d e.loc.a) pa)
          | .ok bs _ s =>
            let ws := recWords bs
            e.sendMsg (s.keepCopy e.loc.d pa.2 (.glob pa.1)) f (h.toNat / 2 ^ 22 % 64) h.toNat true [] (.enq (handleDom h) (h.toNat % 2 ^ 16) (f.f.getLsbD 0) ws)

/-- FSIG (R411). -/
def execFsig (f : SysW) (s : State) : Out :=
  issueSys (.fsig f) f s fun e =>
    let x := e.sreg (f.s.toNat + 1)
    let p := e.breg f.ba.toNat
    if f.f = 2#5 then
      if x.toNat / 2 ^ 28 != 0 then .trapOpen .illegalOperand (some x)
      else e.sendMsg e.s f (x.toNat / 2 ^ 22 % 64) x.toNat true [] (.dec x)
    else if fpRes p || 2 ^ 40 < fpOff p + 4 then .trap .protection e.cl.run p e.cl.word
    else if fpOff p % 4 != 0 then .trap .misaligned e.cl.run p e.cl.word
    else e.sendMsg e.s f (fpDev p) p.toNat true [] (if f.f = 0#5 then .set (fpApr p) (fpOff p) x else .add (fpApr p) (fpOff p) x)

/-- FFENCE (R412). -/
def execFfence (f : SysW) (s : State) : Out := issueSys (.ffence f) f s fun e => .done (e.start e.s f.d .ffence [])

/-! ## Sending order (R401, R405) -/

/-- The lines of the fabric pointer space that a message still has to write. -/
def FabOut.lines (m : FabOut) : List (Nat × Nat) :=
  match m.msg.body with
  | .data apr off _ _ _ _ => ((List.range m.srcs.length).filter fun k => !m.sent.contains k).map fun k => (apr, (off + 64 * k) / 256)
  | _ => []
/-- The messages and the releases that operation `x` has to wait for are behind it: `line`, the one its next packet writes. -/
def State.fabOrdered (s : State) (x : Op) (m : FabOut) (line : Option (Nat × Nat)) : Bool :=
  !x.performed && m.ended.isNone && (s.earlier x).all fun y => match y.k with
    | .ffence => false
    | .fabric n =>
      if n.dev != m.dev then true
      else (match bodyClass n.msg.body, bodyClass m.msg.body with
        | 1, 1 => (match line with | some l => !n.lines.contains l | none => !n.lines.any m.lines.contains)
        | 2, 1 | 0, 1 | 0, 2 => true
        | _, _ => false)
    | k => !(k.blocksLater || y.acquires || (k.isFence && k.releases)) && (!m.rel || !(k.isLs || k.isCopy || k.isDrain))
/-- The message goes now, once its release has made its write-backs and they are confirmed (R404, R409 to R411). -/
def State.fabGo (s : State) (x : Op) (m : FabOut) (line : Option (Nat × Nat)) (go : Out) : Out :=
  if m.back != 0 || !s.fabOrdered x m line then .refused .notEnabled
  else if m.rel then s.releasing x true go
  else go
/-- The message is in flight: it has left its source engine. -/
def State.fabSent (s : State) (x : Op) (m : FabOut) : Bool := s.fabOrdered x m none && (!m.rel || (x.flushed && !s.confirming x.id))

/-! ## At the receiver -/

def Domain.inboxOf (x : Domain) (id : FabId) : Option Word := (x.inbox.find? fun p => p.1 = id).map (·.2)
/-- One message, however often it arrives. DESIGN CHOICE, log 63: an untagged C1 message of another device, which carries no identifier, is told from its
others by the number in `id` all the same. unsafe. -/
def sameMsg (m n : FabMsg) : Bool := m.src = n.src && m.op = n.op && m.id = n.id && bodyNamed m.body = bodyNamed n.body
/-- The message is under way at a domain. -/
def State.fabEntry (s : State) (m : FabMsg) : Option (Nat × FabIn) :=
  s.doms.findSome? fun p => (p.2.fabIn.find? fun e => sameMsg e.msg m).map fun e => (p.1, e)
def Domain.putFab (x : Domain) (e : FabIn) : Domain := { x with fabIn := x.fabIn.map fun f => if sameMsg f.msg e.msg then e else f }
/-- A message has ended with a status at domain `t`: its identifier enters the filter, FDISC counts it (R400, Table 16-1), and a local sender's TAG is
applied, its acknowledgement on its way. -/
def State.fabEnd (s : State) (t : Nat) (m : FabMsg) (status : Word) : State :=
  let s := s.updDom t fun x =>
    let c := status.toNat % 256
    { x with inbox := if bodyNamed m.body then x.inbox ++ [(m.id, status)] else x.inbox, fabIn := x.fabIn.filter fun e => !sameMsg e.msg m,
             fdiscEnded := if c = 2 || c = 3 || c = 7 then sat32 (x.fdiscEnded + 1) else x.fdiscEnded }
  match m.op.bind s.op with
  | some x =>
    let s := s.applyTag x.d x.a x.jent (if bodyNamed m.body then [t] else []) [(0, status)]
    { s with ops := s.ops.map fun y => match y.k with | .fabric f => if y.id = x.id then { y with k := .fabric { f with ended := some status } } else y | _ => y }
  | none => s
/-- The domain has no place for a message (R404): its filter is full, for C0 the inbound queue of 64, for C2 the signal queue of 256. DESIGN CHOICE, log 113:
once a message has been refused 32 times, the last free place of each of them is kept for the oldest refused. unsafe. -/
def State.fabFull (s : State) (t : Nat) (m : FabMsg) : Bool :=
  let x := s.dom t
  let c := bodyClass m.body
  let under := fun (c : Nat) => (x.fabIn.filter fun e => bodyClass e.msg.body = c).length
  let kept := x.fabRef.any (fun r => 32 ≤ r.2) && !(x.fabRef.head?.any fun r => r.1 = m.id)
  let full := fun (used size : Nat) => size ≤ used || (kept && size ≤ used + 1)
  bodyNamed m.body && (full (x.inbox.length + (x.fabIn.filter fun e => bodyNamed e.msg.body).length) 4096
    || (c = 0 && full (under 0) 64) || (c = 2 && full (under 2) 256))
/-- A refusal: FDISC, the count of the message's refusals, and its sender waits min(64 × 2^(k − 1), 8,192) cycles (R404). -/
def State.fabRefuse (s : State) (t : Nat) (m : FabMsg) : State :=
  let s := s.updDom t fun x =>
    { x with fdiscRefused := sat32 (x.fdiscRefused + 1),
             fabRef := if x.fabRef.any (·.1 = m.id) then x.fabRef.map fun r => if r.1 = m.id then (r.1, r.2 + 1) else r else x.fabRef ++ [(m.id, 1)] }
  { s with ops := s.ops.map fun y => match y.k with
      | .fabric f => if some y.id = m.op then { y with k := .fabric { f with tries := f.tries + 1, back := min (64 * 2 ^ f.tries) 8192 + 1 } } else y
      | _ => y }
/-- Who asks a home for what a message writes: its operation, or the port by which it came. -/
def fabAsker (m : FabMsg) : Asker := match m.op with | some o => .op o | none => .port (m.port.getD 0)
/-- What a write of a message comes to at its target: done with a code, a wait, a refusal by the home of an address (R212). -/
inductive FabRes where
  | ok (code : Nat) (s : State)
  | wait
  | refused (pa : Nat)
/-- One sector or word from the fabric is written at its home as a WAF-scope store, in a release where `rel` names one, durable at once in a persistent
region; in a mapped tile it is discarded, code 0x03 (R402, R330). -/
def State.fabStore (s : State) (q : Asker) (pa : Nat) (rel : Option Nat) (bs : State → List Byte) : FabRes :=
  let t := homeOf pa
  if (s.tileAt pa).isSome then .ok 3 (s.logEvent 0x41 t 0xFF)
  else if (s.dom t).uoff || s.backing q pa then .wait
  else if s.lineRefuses pa q then .refused pa
  else
    let s := (s.served q pa).storeWide t .none pa (bs s) rel.isSome rel false
    .ok 0 (if regionOf pa = .persist then s.pushHome (pa / 64) else s)
/-- A decrement from the fabric (R403, Table 16-7): its code. -/
def State.fabDec (s : State) (h : Word) : Nat × State :=
  match s.named h with
  | none => (7, s)
  | some (d, i) => if hwIndex i then (7, s) else (if (s.recAt d i).st = RecSt.waiting then 0 else 6, s.decrement d i 1)
/-- The range of lines that a message writes, and whether as a signal. -/
def bodyRange : FabBody → Option (Nat × Nat × Nat × Bool)
  | .data apr off n _ _ _ => some (apr, off, 64 * n, false)
  | .set apr off _ | .add apr off _ => some (apr, off, 4, true)
  | _ => none
/-- The physical base of the range, where the aperture table of domain `tbl` admits it (R396, Table 16-7, code 0x02). -/
def State.fabBase (s : State) (tbl : Nat) (m : FabMsg) : Option Nat :=
  (bodyRange m.body).bind fun r => s.admits tbl m.src r.1 r.2.1 r.2.2.1 r.2.2.2
/-- The target domain (R400): that of the record, or the home of the lines, all of one domain; of a range that is not admitted, the domain of the table. -/
def State.fabTarget (s : State) (tbl : Nat) (m : FabMsg) : Nat :=
  match m.body with
  | .enq t _ _ _ => t
  | .dec h => handleDom h
  | _ => ((s.fabBase tbl m).map homeOf).getD tbl

/-- A C0 or C2 message that domain `t` has accepted goes on as far as it can (R402): a record is applied as a window write, a decrement is made; a store or
an addition is a drain tile update of the target domain, of order REL at WAF scope: what the domain holds dirty for others is written back first, and it
ends when its release is confirmed (R41, R210, R283). -/
def State.fabStep (s : State) (t : Nat) (e : FabIn) : State :=
  let q := fabAsker e.msg
  let fin := fun (s : State) (code : Nat) => s.fabEnd t e.msg (BitVec.ofNat 32 code)
  let put := fun (s : State) (e : FabIn) => s.updDom t (·.putFab e)
  let word := fun (x : Nat → Nat) =>
    match e.base, e.rel with
    | none, _ => fin s 2
    | some pa, some n =>
      if s.confirming n then s
      else if e.made then fin s e.code
      else (match s.fabStore q pa (some n) fun s => leBytes 4 (x (memNat s pa 4) % 2 ^ 32) with
        | .wait => s
        | .refused pa => s.refuse q pa
        | .ok c s => put s { e with made := true, code := c })
    | some pa, none =>
      if (s.tileAt pa).isSome then fin (s.logEvent 0x41 t 0xFF) 3
      else (match s.flush t q s.nextOp false with
        | .wait => s
        | .refused pa => s.refuse q pa
        | .made u => put { u with nextOp := s.nextOp + 1 } { e with rel := some s.nextOp })
  match e.msg.body with
  | .enq t i wafer ws =>
    if !s.svc.winOpen then fin (s.enqDrop t) 4
    else (match s.windowEnq t wafer i ws with
      | .done none s => fin s 4
      | .done (some 0) s => fin s 0
      | .done (some c) s => fin s (5 + 256 * c)
      | .wait s => s)
  | .dec h => let r := s.fabDec h; fin r.2 r.1
  | .set _ _ x => word fun _ => x.toNat
  | .add _ _ x => word fun w => w + x.toNat
  | .data _ _ _ _ _ _ => s
/-- A message from another device may arrive: by a port that is up, under its own device's identifier. -/
def State.fabFrom (s : State) (m : FabMsg) : Option Nat :=
  match m.op, m.port with
  | none, some p =>
    if s.svc.powered && s.portLive p && m.src < 64 && m.src != s.svc.dev && m.id.dev = m.src && !(s.dom (portDomain p)).uoff then some (portDomain p) else none
  | _, _ => none
/-- The sending operation of a local message. -/
def State.fabSender (s : State) (m : FabMsg) : Option (Op × FabOut) :=
  match m.op.bind s.op with
  | some x => match x.k with
    | .fabric f => if f.port.isNone && f.ended.isNone && f.msg.id = m.id && f.msg.src = m.src && f.msg.jtag = m.jtag && m.port.isNone then some (x, f) else none
    | _ => none
  | none => none
/-- A message arrives for the first time (R400, R404): it is known, refused, or accepted by its target domain, which goes on with it. -/
def State.fabAccept (s : State) (tbl : Nat) (m : FabMsg) (got : List Nat) (code : Nat) (go : State → Nat → FabIn → Out) : Out :=
  let t := s.fabTarget tbl m
  let misfit := match bodyRange m.body with | some r => r.2.1 % (if r.2.2.2 then 4 else 64) != 0 || r.2.2.1 = 0 | none => false
  if 64 ≤ t || (s.dom t).uoff || misfit then .refused .notEnabled
  else if m.op.isNone && bodyNamed m.body && ((s.dom t).inboxOf m.id).isSome then .next s
  else if s.fabFull t m then .next (s.fabRefuse t m)
  else
    let e : FabIn := { msg := m, tbl := tbl, base := s.fabBase tbl m, got := got, code := if (bodyRange m.body).isSome && (s.fabBase tbl m).isNone then 2 else code,
                       rel := none, made := false }
    go (s.updDom t fun x => { x with fabIn := x.fabIn ++ [e], fabRef := x.fabRef.filter fun r => r.1 != m.id }) t e
/-- Arrival of a C0 or C2 message, or the next step of one under way. -/
def State.fabArrive (s : State) (m : FabMsg) : Out :=
  match s.fabEntry m with
  | some (t, e) => if (s.dom t).uoff then .refused .notEnabled else s.waiting (s.fabStep t e)
  | none =>
    let go := fun (s : State) (t : Nat) (e : FabIn) => Host.Outcome.next (s.fabStep t e)
    match s.fabSender m with
    | some (x, f) => if f.msg.body != m.body then .refused .notEnabled else s.fabGo x f none (s.fabAccept x.d m [] 0 go)
    | none =>
      match s.fabFrom m with
      | none => .refused .notEnabled
      | some tbl => s.fabAccept tbl m [] 0 go
/-- FABRIC_C0_ARRIVAL (R410). -/
def execFabricC0Arrival (m : FabMsg) (s : State) : Out := if bodyClass m.body = 0 then s.fabArrive m else .refused .notEnabled
/-- FABRIC_C2_ARRIVAL (R411). -/
def execFabricC2Arrival (m : FabMsg) (s : State) : Out := if bodyClass m.body = 2 then s.fabArrive m else .refused .notEnabled

/-! ## C1 messages (R402, R403, R409) -/

/-- The sectors of one packet, from number `k` on, are performed: where the range is not admitted, nothing is written. -/
def State.fabSectors (q : Asker) (base : Option Nat) : Nat → List (List Byte) → Nat → State → FabRes
  | _, [], c, s => .ok c s
  | k, bs :: l, c, s =>
    match base with
    | none => State.fabSectors q base (k + 1) l c s
    | some pa => match s.fabStore q (pa + 64 * k) none fun _ => bs with
      | .ok c' s => State.fabSectors q base (k + 1) l (max c c') s
      | r => r
def chunks64 : Nat → List Byte → List (List Byte)
  | 0, _ => []
  | k + 1, bs => bs.take 64 :: chunks64 k (bs.drop 64)
/-- A packet of a C1 message under way at domain `t`. With the message's last sector its tag is applied and it ends, with the greatest of its codes; one that
is not admitted decrements nothing. -/
def State.fabPacket (s : State) (t : Nat) (e : FabIn) (n k : Nat) (bytes : List Byte) (tag : Option Word) : FabRes :=
  let ks := (List.range (bytes.length / 64)).map (k + ·)
  let got := e.got ++ ks.filter fun i => !e.got.contains i
  let last := n ≤ got.length
  if last && tag.any (fun h => (s.dom (handleDom h)).uoff) then .wait
  else match State.fabSectors (fabAsker e.msg) e.base k (chunks64 ks.length bytes) e.code s with
    | .ok c s =>
      if !last then .ok c (s.updDom t (·.putFab { e with got := got, code := c }))
      else
        let r := match (if e.base.isSome then tag else none) with | some h => s.fabDec h | none => (0, s)
        .ok (max c r.1) (r.2.fabEnd t e.msg (BitVec.ofNat 32 (max c r.1)))
    | r => r
/-- Sector `k` of a local FSEND is read once, as a copy reads (R246), and arrives. -/
def State.fabSector (s : State) (x : Op) (f : FabOut) (t : Nat) (e : FabIn) (n k : Nat) (bytes : List Byte) (tag : Option Word) : Out :=
  match s.readSector (.op x.id) x.d x.pins true (.glob (f.srcs.getD k 0)) with
  | .wait => .refused .notEnabled
  | .refused pa => .next (s.refuse (.op x.id) pa)
  | .ok bs pins u =>
    if bs != bytes then .refused .notEnabled
    else
      let u := u.setOp { x with k := .fabric { f with sent := f.sent ++ [k] }, pins := pins }
      match u.fabPacket t e n k bytes tag with
      | .ok _ s => .next s
      | .wait => .refused .notEnabled
      | .refused pa => .next (s.refuse (.op x.id) pa)
/-- FABRIC_C1_ARRIVAL (R402): a packet of whole sectors; of a local message, one sector. -/
def execFabricC1Arrival (m : FabMsg) (s : State) : Out :=
  match m.body with
  | .data apr off n k bytes tag =>
    let w := bytes.length / 64
    if bytes.length != 64 * w || w = 0 || n < k + w then .refused .notEnabled
    else
      (match s.fabSender m with
       | some (x, f) =>
         if f.msg.body != .data apr off n 0 [] tag || f.sent.contains k || w != 1 then .refused .notEnabled
         else
           s.fabGo x f (some (apr, (off + 64 * k) / 256)) (match s.fabEntry m with
             | some (t, e) => if (s.dom t).uoff then .refused .notEnabled else s.fabSector x f t e n k bytes tag
             | none => s.fabAccept x.d m f.sent f.code fun s t e => s.fabSector x f t e n k bytes tag)
       | none =>
         let go := fun (s : State) (t : Nat) (e : FabIn) => match s.fabPacket t e n k bytes tag with
           | .ok _ s => Host.Outcome.next s
           | .wait => .refused .notEnabled
           | .refused pa => .next (s.refuse (fabAsker m) pa)
         match s.fabFrom m with
         | none => .refused .notEnabled
         | some tbl => match s.fabEntry m with
           | some (t, e) =>
             if (s.dom t).uoff || (match e.msg.body with | .data a o l _ _ g => a != apr || o != off || l != n || g != tag | _ => true) then .refused .notEnabled
             else go s t e
           | none => s.fabAccept tbl m [] 0 go)
  | _ => .refused .notEnabled

/-! ## Acknowledgements, re-sending, ports -/

/-- A status word another device may answer a message with (Table 16-7). -/
def statusOk (b : FabBody) (st : Word) : Bool :=
  let c := st.toNat % 256
  let ok := match b with
    | .enq _ _ _ _ => c = 0 || c = 4 || c = 5 || c = 7
    | .data _ _ _ _ _ t => c = 0 || c = 2 || c = 3 || (t.isSome && (c = 6 || c = 7))
    | .dec _ => c = 0 || c = 6 || c = 7
    | _ => c = 0 || c = 2 || c = 3
  ok && st.toNat / 2 ^ 16 = 0 && (c = 5) = (st.toNat / 256 != 0) && st.toNat / 256 ≤ 13
/-- A message's acknowledgement reaches the core. -/
def State.fabAcked (s : State) (x : Op) (st : Word) : State := s.setOp { x with performed := true, res := x.res.map fun r => (r.1, st) }
/-- The source sectors of a message to another device are read once, as a copy reads (R246, R409). -/
def State.fabReads (q : Asker) (d : Nat) : List Nat → List (Nat × Bool) → State → Got
  | [], pins, s => .ok [] pins s
  | pa :: l, pins, s => match s.readSector q d pins true (.glob pa) with
    | .ok _ pins s => State.fabReads q d l pins s
    | r => r
/-- FABRIC_ACK: of a local message the status it ended with; of one to another device what that device answers once all of it has been read and sent
(R397, R400, R409). -/
def execFabricAck (o : Nat) (status : Word) (s : State) : Out :=
  match s.op o with
  | some x => (match x.k with
    | .fabric f =>
      if x.performed then .refused .notEnabled
      else (match f.port with
        | none => if f.ended = some status then .next (s.fabAcked x status) else .refused .notEnabled
        | some p =>
          if !s.portLive p || !statusOk f.msg.body status then .refused .notEnabled
          else s.fabGo x f none (match State.fabReads (.op x.id) x.d f.srcs x.pins s with
            | .wait => .refused .notEnabled
            | .refused pa => .next (s.refuse (.op x.id) pa)
            | .ok _ _ s => .next ((s.applyTag x.d x.a x.jent [] [(0, status)]).fabAcked x status)))
    | _ => .refused .notEnabled)
  | none => .refused .notEnabled

/-- FABRIC_RESEND: the wait before a re-send has ended (R404, R405). -/
def execFabricResend (o : Nat) (s : State) : Out :=
  match s.op o with
  | some x => (match x.k with
    | .fabric f =>
      if f.back = 1 && (match f.port with | some p => s.portLive p | none => true) then .next (s.setOp { x with k := .fabric { f with back := 0 } }) else .refused .notEnabled
    | _ => .refused .notEnabled)
  | none => .refused .notEnabled

/-- Rewriting the topology table moves TGEN on to its next even value (R419). -/
def State.retable (s : State) : State := { s with svc := { s.svc with tgen := (s.svc.tgen + 2) % 2 ^ 32 } }
/-- ACKNOWLEDGEMENT_RECEIPT_CONFIRMED: the target forgets a message whose acknowledgement its source has, in the journal if it was journalled
(R400). -/
def execAcknowledgementReceiptConfirmed (d : Nat) (id : FabId) (s : State) : Out :=
  let mine := fun (x : Op) => match x.k with | .fabric f => f.msg.id = id | _ => false
  if 64 ≤ d || ((s.dom d).inboxOf id).isNone || (id.dev = s.svc.dev && s.ops.any mine) then .refused .notEnabled
  else .next (s.updDom d fun x => { x with inbox := x.inbox.filter fun p => p.1 != id })

/-- A message whose primary port is gone: the lowest-numbered remaining port takes its place; with none, one that was still unsent in state `old` ends with
status 0x01, and one in flight waits (R397, R405). -/
def State.reroute (old s : State) (x : Op) : State :=
  match x.k with
  | .fabric f =>
    (match f.port with
     | none => s
     | some p =>
       if x.performed || s.portLive p then s
       else match s.route x.d f.dev with
         | .port q => s.setOp { x with k := .fabric { f with port := some q, back := max f.back 1 } }
         | _ =>
           if old.fabSent x f then s.setOp { x with k := .fabric { f with back := max f.back 1 } }
           else (s.applyTag x.d x.a x.jent [] [(0, 1#32)]).fabAcked x 1#32)
  | _ => s
/-- Ports have gone since state `old`: their messages are sent again by others. -/
def State.portsGone (s old : State) : State := s.ops.foldl (fun s x => State.reroute old s x) s
/-- Ports have returned: the messages in flight that wait for one take it. -/
def State.portsBack (s : State) : State :=
  s.ops.foldl (fun s x => match x.k with
    | .fabric f => (match f.port with
      | some q => if x.performed || s.portLive q then s else (match s.route x.d f.dev with | .port q => s.setOp { x with k := .fabric { f with port := some q } } | _ => s)
      | none => s)
    | _ => s) s
/-- PORT_DOWN (R405). -/
def execPortDown (p : Nat) (s : State) : Out :=
  if !s.portLive p then .refused .notEnabled
  else .next (State.portsGone { s with svc := { s.svc with portDown := s.svc.portDown ++ [p] } } s).retable
/-- PORT_UP (R405). -/
def execPortUp (p : Nat) (s : State) : Out :=
  if !s.svc.portDown.contains p then .refused .notEnabled
  else .next (State.portsBack { s with svc := { s.svc with portDown := s.svc.portDown.filter (· != p) } }).retable
/-- FABRIC_MANAGEMENT: C3 traffic assigns the device number (R395, R419). -/
def execFabricManagement (dev : Nat) (s : State) : Out :=
  if 64 ≤ dev then .refused .notEnabled else .next (State.retable { s with svc := { s.svc with dev := dev } })
/-- FDISC_WRITE: any write clears both counts (Table 16-1). -/
def execFdiscWrite (d : Nat) (s : State) : Out :=
  if 64 ≤ d then .refused .notEnabled else .next (s.updDom d fun x => { x with fdiscEnded := 0, fdiscRefused := 0 })
/-- CONTROL_REGISTER_WRITE: a word is written in a domain's control space (R20). -/
def execControlRegisterWrite (d off : Nat) (x : Word) (s : State) : Out :=
  if 64 ≤ d || 2 ^ 30 ≤ off || off % 4 != 0 then .refused .notEnabled else .next (s.ctlWrite d off (leBytes 4 x.toNat))

end Sys2Proof.Machine
end

