-- ==== Sys2Proof/Machine/Service.lean ====
section
/-! DEFINITION. The service engine (17): opcodes 0xE4 to 0xE9 (R430 to R434), retirement and map changes (R418, R425, R426), clocks (R421),
power (R422 to R424), errors; loss and return of power of an uncore island and of the module (R52, R414). -/

namespace Sys2Proof.Machine

/-! ## Retirement (R418, R425, R426) -/

/-- The slots of a position that are retired follow the retirement store. -/
def State.syncSlots (s : State) (d a : Nat) : State :=
  let r := if s.usable d a then (List.range 4).filter (s.slotRetired d a) else []
  if (s.core d a).retired = r then s else s.updCore d a fun c => { c with retired := r }
/-- A position is served by another core from now on, or by none: it moves at a cut; a stopped one goes on from its last image as it resumes (R418). -/
def State.remove (s : State) (d a : Nat) : State :=
  let c := s.core d a
  if c.stopped then s
  else if c.held.isEmpty && c.seq.hold.isNone then ((s.coreEmptyL1 d a).endHandler d a).updCore d a fun c => { c with tlb := [] }
  else (s.updCore d a fun c => { c with moving := true }).askCut d a { kind := 0, warp := none, exit := none }
/-- The grade vector is computed anew: SLOTS, and BG, whose setting is logged (R426). -/
def State.settleGrade (s : State) (d : Nat) : State :=
  let low := s.belowGrade
  let s := if low && !s.svc.bg then s.logEvent 0x22 d 0xFF else s
  { s with svc := { s.svc with bg := low, slots := s.slotCount } }
/-- The map of a domain is built anew: MAPGEN, the topology table, the below-grade flag, clock choices, moved positions (R416, R418, R426). -/
def State.remap (old s : State) (d : Nat) : State :=
  let g := (s.svc.mapgen + 1) % 2 ^ 32
  let s := { s with svc := { s.svc with unusable := s.svc.unusable.filter (· / 132 != d) ++ s.unusableOf d, mapgen := if g = 0 then 1 else g } }
  let s := State.retable { s with cores := s.cores.map fun (p : Nat × Core) => (p.1, { p.2 with cksrc := 0 }) }
  let s := s.logEvent 0x21 d 0xFF
  let s := s.settleGrade d
  let same := fun (a : Nat) => (old.serve d a).map (fun p => (p.1, p.2.1)) = (s.serve d a).map fun p => (p.1, p.2.1)
  State.settlePend ((List.range 132).foldl (fun s a => let s := s.syncSlots d a; if same a then s else s.remove d a) s)
/-- Retire the core that serves a position. -/
def State.retireCore (s : State) (d a : Nat) : State :=
  match s.serve d a with
  | none => s
  | some (y, x, _) => s.remap (State.logEvent { s with svc := { s.svc with retired := s.svc.retired ++ [.core d y x] } } 0x20 d a) d
/-- Retire a context slot, or a register-file bank with the slot it serves: it is offered no more at once, and retired once it is empty; a core that offers
no slot is retired whole. -/
def State.retireUnit (s : State) (d a : Nat) (u : Nat → Nat → RetUnit) : State :=
  match s.serve d a with
  | none => s
  | some (y, x, _) =>
    let s := (State.settlePend { s with svc := { s.svc with pend := s.svc.pend ++ [u y x] } }).retable.syncSlots d a
    if s.slotsOffered d a = 0 then s.retireCore d a else s
/-- Retire a unit of a position: 0 done, 1 already retired, 2 no such unit (R431). -/
def State.retireAt (s : State) (d y x kind i : Nat) : Word × State :=
  let a := 11 * y + x
  if 64 ≤ d || 12 ≤ y || 11 ≤ x || !s.usable d a || (kind = 1 && 4 ≤ i) then (2#32, s)
  else if kind = 0 then (0#32, s.retireCore d a)
  else
    let u : Nat → Nat → RetUnit := fun y x => if kind = 1 then .slot d y x i else .bank d y x i
    match s.serve d a with
    | none => (2#32, s)
    | some (py, px, _) =>
      if (s.svc.retired ++ s.svc.pend).contains (u py px) || (kind = 1 && s.slotRetired d a i) then (1#32, s) else (0#32, s.retireUnit d a u)
/-- A unit that is no part of a core enters the retirement store, and the grade vector is computed anew (R425, R426); none where it is there already. -/
def State.retireOther (s : State) (u : RetUnit) (d : Nat) (ok : Bool) (f : State → State) : Option State :=
  if !ok || s.svc.retired.contains u then none
  else some ((f (State.logEvent { s with svc := { s.svc with retired := s.svc.retired ++ [u] } } 0x20 d 0xFF)).settleGrade d).retable
/-- A pool port is retired: what it homes is written to the pool where its link is up, and every TLB entry of the device goes first (R216). -/
def State.poolRetired (s : State) (p : Nat) : State :=
  let s := if s.svc.poolDown.contains p then s else s.poolReturned p
  { s with cores := s.cores.map fun (q : Nat × Core) => (q.1, { q.2 with tlb := [] }),
           doms := s.doms.map fun (q : Nat × Domain) => (q.1, { q.2 with dtlb := [] }),
           svc := { s.svc with poolGone := s.svc.poolGone ++ [p], poolDown := s.svc.poolDown.filter (· != p) } }
/-- A physical core that was retired is repaired, with its slots and banks: the map of its domain is built anew (R418); none where it is not retired. DESIGN
CHOICE, log 114. unsafe. -/
def State.repair (s : State) (d y x : Nat) : Option State :=
  let of := fun (u : RetUnit) => match u with
    | .core d' y' x' | .slot d' y' x' _ | .bank d' y' x' _ => d' = d && y' = y && x' = x
    | _ => false
  if s.svc.retired.contains (.core d y x) then
    some (State.remap s { s with svc := { s.svc with retired := s.svc.retired.filter (!of ·), pend := s.svc.pend.filter (!of ·) } } d)
  else none
/-- UNIT_RETIREMENT: the service engine retires a unit of a position, of a domain's memory, or a port, after errors, or a core is repaired (R418, R425,
R426). -/
def execUnitRetirement (u : RetUnit) (s : State) : Out :=
  let core := fun (r : Word × State) => if r.1 = 0#32 then some r.2 else none
  match (match u with
    | .core d y x => core (s.retireAt d y x 0 0)
    | .slot d y x k => core (s.retireAt d y x 1 k)
    | .bank d y x b => if 8 ≤ b then none else core (s.retireAt d y x 2 b)
    | .dram d g => s.retireOther u d (d < 64 && g < 24) id
    | .umbra d m => s.retireOther u d (d < 64 && m < 1024) id
    | .port p => s.retireOther u (portDomain p) (s.portPresent p) fun t => t.portsGone s
    | .pool p => s.retireOther u (poolDom p) (p < 8 && !s.svc.poolGone.contains p) fun s => s.poolRetired p
    | .repaired d y x => s.repair d y x) with
  | some s => .next s
  | none => .refused .notEnabled

/-! ## Power points (R422 to R424) -/

/-- A requested point is recorded (R431): raising a compute island from P3 powers it on with its cores empty. -/
def State.setPoint (s : State) (d : Nat) (uncore : Bool) (p : Nat) : State :=
  if uncore then (s.updDom d fun x => { x with reqU := p, effU := max p (if x.reqU < x.effU then x.effU else 0) }).retable
  else if p = 3 then s.updDom d fun x => { x with reqC := 3 }
  else
    let off := (s.dom d).coff
    let s := s.updDom d fun x => { x with reqC := p, coff := false, effC := if off then p else max p (if x.reqC < x.effC then x.effC else 0) }
    let s := if off then (List.range 132).foldl (fun s a => s.updCore d a fun c => { c with stopped := false }) s else s
    s.retable
/-- ISLAND_POWER_OFF: a compute island requested at P3 whose last slot is empty powers off (R423). -/
def execIslandPowerOff (d : Nat) (s : State) : Out :=
  let idle := fun (a : Nat) => let c := s.core d a; c.slots.isEmpty && c.umb.openCut.isNone && c.umb.reqs.isEmpty
  if 64 ≤ d || (s.dom d).reqC != 3 || (s.dom d).coff || !(List.range 132).all idle || s.ops.any (fun x => x.d = d) then .refused .notEnabled
  else
    let s := (List.range 132).foldl (fun s a => (s.coreEmptyL1 d a).updCore d a fun c => { c with stopped := true, tlb := [] }) s
    .next (s.updDom d fun x => { x with coff := true, effC := 3, l1 := [] }).retable
/-- Whether an island runs below its requested point. -/
def Domain.throttledAt (x : Domain) (uncore : Bool) : Bool := if uncore then x.reqU < x.effU else x.reqC < x.effC
def Domain.throttled (x : Domain) : Bool := x.throttledAt false || x.throttledAt true
/-- POWER_LIMIT_STEP: an effective point goes one step down while a limit is exceeded, never to P3, or one step back up. -/
def execPowerLimitStep (d isl : Nat) (lower : Bool) (s : State) : Out :=
  let x := s.dom d
  let un := isl = 1
  let eff := if un then x.effU else x.effC
  let set := fun (e : Nat) => s.updDom d fun x => if un then { x with effU := e } else { x with effC := e }
  if 64 ≤ d || 2 ≤ isl || (if un then x.uoff else x.coff) then .refused .notEnabled
  else if lower then
    if 2 ≤ eff then .refused .notEnabled
    else .next (if x.throttledAt un then set (eff + 1) else (set (eff + 1)).logEvent 0x60 d 0xFF).retable
  else if x.throttledAt un then .next (set (eff - 1)).retable
  else .refused .notEnabled
/-- SUPPLY_DROOP: counted per island (R424). -/
def execSupplyDroop (d isl : Nat) (s : State) : Out :=
  if 64 ≤ d || 2 ≤ isl then .refused .notEnabled
  else .next (s.updDom d fun x => if isl = 1 then { x with droopU := sat32 (x.droopU + 1) } else { x with droopC := sat32 (x.droopC + 1) })
/-- CORRECTED_ERROR: a corrected error, or an uncorrectable one, of a word of physical memory where it names one (R425, R433). -/
def execCorrectedError (d : Nat) (ue : Option Nat) (s : State) : Out :=
  if 64 ≤ d then .refused .notEnabled
  else match ue with
    | none => .next (s.updDom d fun x => { x with ce := sat32 (x.ce + 1) })
    | some w =>
      let s := s.updDom d fun x => { x with ue := sat32 (x.ue + 1) }
      .next { s with poison := if s.poison.contains w then s.poison else s.poison ++ [w] }

/-! ## Clocks (R420, R421) -/

/-- The source a core's clock comes from: 0 CK1, 1 CK2, 2 its ring oscillator. -/
def State.clockSource (s : State) (d a : Nat) : Nat := if (s.clockDirs d a).isEmpty then 2 else (s.core d a).cksrc
/-- CLOCK_SOURCE_FAIL: the core takes CK2, or stays on its ring oscillator. -/
def execClockSourceFail (d a : Nat) (s : State) : Out :=
  if !s.usable d a || s.clockSource d a = 2 then .refused .notEnabled
  else
    let last := (s.core d a).cksrc = 1 || (s.clockDirs d a).length < 2
    let s := s.updCore d a fun c => { c with cksrc := if last then 2 else 1, cksw := min 255 (c.cksw + 1), cktick := s.sid d }
    .next ((if last then s.logEvent 0x02 d a else s).logEvent 0x01 d a)

/-! ## Instructions -/

/-- A function of the handler slot only: elsewhere PROTECTION, address 0, info the word (R430). -/
def Env.handlerOnly (e : Env) (k : Act) : Act := if e.blk.isHandler then k else .trap .protection e.cl.run 0#80 e.cl.word
/-- The operand's fields above bit `n` are zero, or ILLEGAL_OPERAND (R430). -/
def Env.operand (e : Env) (r n : Nat) (k : Nat → Act) : Act :=
  let x := e.sreg r
  if x.toNat / 2 ^ n != 0 then .trapOpen .illegalOperand (some x) else k x.toNat
/-- SVC.VF (R431). -/
def execSvcVf (f : SysW) (s : State) : Out :=
  issueSys (.svcVf f) f s fun e => e.handlerOnly <| e.operand f.s.toNat 9 fun x =>
    let d := x % 64
    let un := x / 64 % 2 = 1
    let p := x / 128
    if un && p = 3 then e.quick e.s f.d [(f.s.toNat, 1#32)] else e.quick (e.s.setPoint d un p) f.d [(f.s.toNat, 0#32)]
/-- SVC.RETIRE (R431). -/
def execSvcRetire (f : SysW) (s : State) : Out :=
  issueSys (.svcRetire f) f s fun e => e.handlerOnly <| e.operand f.s.toNat 19 fun x =>
    let kind := x / 2 ^ 14 % 4
    if kind = 3 then .trapOpen .illegalOperand (some (BitVec.ofNat 32 x))
    else
      let r := e.s.retireAt (x % 64) (x / 2 ^ 6 % 16) (x / 2 ^ 10 % 16) kind (x / 2 ^ 16)
      if (mfind r.2.blocks e.bid).isNone then .ended r.2 else e.quick r.2 f.d [(f.s.toNat, r.1)]
/-- SVC.PKILL (R431). -/
def execSvcPkill (f : SysW) (s : State) : Out :=
  issueSys (.svcPkill f) f s fun e => e.handlerOnly <|
    let S := f.s.toNat
    match e.s.named (e.sreg S) with
    | some (d, i) =>
      let r := e.s.recAt d i
      (match r.kind with
       | .park b _ _ => if r.st = RecSt.free then e.quick e.s f.d [(S, 1#32)] else e.quick (e.s.endParked b) f.d [(S, 0#32)]
       | _ => e.quick e.s f.d [(S, 1#32)])
    | none => e.quick e.s f.d [(S, 1#32)]

/-- Physical places of a buffer of `n` bytes in pieces of at most 64, or the first that fails; `only0`: on pages of type N only. -/
def Env.buffer (e : Env) (only0 : Bool) : Nat → Nat → Nat → State → Except (Option (Cause × Nat)) (List (Nat × Nat)) × State
  | 0, _, _, s => (.ok [], s)
  | k + 1, va, n, s =>
    if n = 0 then (.ok [], s)
    else
      let m := min n 64
      match e.translate s va .store m with
      | (.bad _ c, s) => (.error (some (codeCause c, va)), s)
      | (.wait, s) => (.error none, s)
      | (.ok pa ty, s) =>
        if (only0 && ty != 0) || (s.tileAt pa).isSome then (.error (some (.protection, va)), s)
        else match e.buffer only0 k ((va + m) % 2 ^ 80) (n - m) s with
          | (.ok l, s) => (.ok ((pa, m) :: l), s)
          | r => r
/-- Store bytes at the places of a buffer, at SYS scope. -/
def State.storeBuffer (s : State) (d : Nat) : List (Nat × Nat) → List Byte → State
  | [], _ => s
  | (pa, m) :: ps, bs => (s.storeWide d .none pa (bs.take m) false none true).storeBuffer d ps (bs.drop m)
/-- The homes of a buffer are asked for it: the word waits, meets a refusal, or goes on (R212, R216). -/
def Env.toBuffer (e : Env) (s : State) (ps : List (Nat × Nat)) (go : State → Act) : Act :=
  let q := Asker.core e.loc.d e.loc.a
  if ps.any fun p => s.unreachable p.1 || s.backing q p.1 then e.stay s
  else match ps.find? fun p => s.lineRefuses p.1 q with
    | some p => e.stay (s.refuse q p.1)
    | none => go (ps.foldl (fun s p => s.served q p.1) s)

/-- The first 256 bytes of a quote (Table 17-9). -/
def State.quoteHead (s : State) (d : Nat) (nonce : List Byte) : List Byte :=
  leBytes 4 0x51544F51 ++ leBytes 4 1 ++ leBytes 8 (s.sid d).toNat ++ nonce ++ (List.range 32).flatMap (fun i => leBytes 4 (idWord i).toNat)
    ++ (List.range 8).flatMap (fun i => leBytes 4 (s.gradeWord i).toNat) ++ ((List.range 32).map fun i => (Config.sha256 (Config.firmware s.svc.fw)).getD i 0#8) ++ List.replicate 16 0#8
/-- SVC.QUOTE (R431): the snapshot, and its signature (log 8). -/
def execSvcQuote (f : SysW) (s : State) : Out :=
  issueSys (.svcQuote f) f s fun e =>
    let va := (e.breg f.ba.toNat).toNat
    if va % 256 != 0 then .trap .misaligned e.cl.run (BitVec.ofNat 80 va) e.cl.word
    else match e.buffer true 258 va 16480 e.s with
      | (.error (some (c, va)), s) => .trapAt s c e.cl.run (BitVec.ofNat 80 va) e.cl.word
      | (.error none, s) => e.stay s
      | (.ok ps, s) => e.toBuffer s ps fun s =>
          let d := e.loc.d
          let nonce := s.viewBytes d true ((ps.headD (0, 0)).1 + 16) 32
          let q := s.quoteHead d nonce ++ (List.range 16224).map (Config.signature (s.quoteHead d nonce) s.fresh)
          e.quick (State.storeBuffer { s with fresh := s.fresh + 1 } d ps q) f.d [(f.s.toNat, 16480#32)]

/-- The shortfall mask of a capability record (R427, R432). -/
def State.shortfall (s : State) (w : Nat → Nat) : Word :=
  let g := fun (i : Nat) => (s.gradeWord i).toNat
  let b := fun (x : Bool) (i : Nat) => if x then 2 ^ i else 0
  if 2 ≤ w 6 || w 7 != 0 then 0x80#32
  else
    BitVec.ofNat 32 (b (g 0 < w 0) 0 + b (g 1 < w 1) 1 + b (g 2 < w 2) 2 + b (s.presentPorts < w 3) 3 + b (g 4 < w 4) 4
      + b (w 5 != 0 && w 5 != g 5) 5 + b (w 6 = 1 && g 6 % 2 = 1) 6)
/-- CAPQ (R432). -/
def execCapq (f : SysW) (s : State) : Out :=
  issueSys (.capq f) f s fun e =>
    let S := f.s.toNat
    let x := (e.sreg S).toNat
    match f.f.toNat % 4 with
    | 0 => if 8 ≤ x then .trapOpen .illegalOperand (some (e.sreg S)) else e.quick e.s f.d [(S, e.s.gradeWord x)]
    | 1 => if 32 ≤ x then .trapOpen .illegalOperand (some (e.sreg S)) else e.quick e.s f.d [(S, idWord x)]
    | 2 =>
      let va := (e.breg f.ba.toNat).toNat
      if va % 32 != 0 then .trap .misaligned e.cl.run (BitVec.ofNat 80 va) e.cl.word
      else (match e.translate e.s va .load 32 with
        | (.bad _ c, s) => .trapAt s (codeCause c) e.cl.run (BitVec.ofNat 80 va) e.cl.word
        | (.wait, s) => e.stay s
        | (.ok pa ty, s) =>
          match s.tileAt pa with
          | some (_, _, _, false) => .trapAt s .protection e.cl.run (BitVec.ofNat 80 va) e.cl.word
          | _ =>
            (match s.readSector (.core e.loc.d e.loc.a) e.loc.d [] false (.glob (pa / 64 * 64)) with
             | .wait => e.stay s
             | .refused pa => e.stay (s.refuse (.core e.loc.d e.loc.a) pa)
             | .ok bs _ s => e.quick (s.keepCopy e.loc.d ty (.glob pa)) f.d [(S, s.shortfall fun i => leNat ((bs.drop (pa % 64 + 4 * i)).take 4))]))
    | _ => e.operand S 8 fun x =>
      let d := x % 64
      let c := x / 64
      let cs := e.s.clusterCores d c
      e.quick e.s f.d [(S, if c = 3 then 0x80000000#32
        else BitVec.ofNat 32 (cs.length + 2 ^ 8 * ((cs.map (e.s.slotsOffered d)).foldl (· + ·) 0)))]
/-- PWRQ (R433). The module's power and the junction temperatures are free values (log 32). -/
def execPwrq (f : SysW) (s : State) : Out :=
  issueSys (.pwrq f) f s fun e =>
    let S := f.s.toNat
    let i := (e.sreg S).toNat
    let x := e.s.dom (i % 64)
    let un := i / 64 % 2 = 1
    let s := { e.s with fresh := e.s.fresh + 1 }
    let b := fun (x : Bool) (i : Nat) => if x then 2 ^ i else 0
    match f.f.toNat % 4 with
    | 0 => e.quick e.s f.d [(S, BitVec.ofNat 32 ((if un then x.reqU else x.reqC) + 4 * (if un then x.effU else x.effC) + b (x.throttledAt un) 4))]
    | 1 => e.quick s f.d [(S, BitVec.ofNat 32 (Config.freeNat e.s.fresh % 2 ^ 16 + 2 ^ 16 * 25000))]
    | 2 => e.quick e.s f.d [(S, BitVec.ofNat 32 (if un then x.droopU else x.droopC))]
    | _ => e.quick s f.d [(S, Config.freeWord e.s.fresh)]
/-- CLKQ (R433). -/
def execClkq (f : SysW) (s : State) : Out :=
  issueSys (.clkq f) f s fun e =>
    let S := f.s.toNat
    let l := e.loc
    let ck := if e.blk.isHandler then e.s.clocks l.d l.a else (0, 0)
    e.quick e.s f.d [(S, BitVec.ofNat 32 (e.s.clockSource l.d l.a + 4 * ck.1 + 16 * ck.2 + 2 ^ 8 * e.core.cksw)), (S + 1, e.core.cktick.setWidth 32)]
/-- EVLOG.PUT (R434). -/
def execEvlogPut (f : SysW) (s : State) : Out :=
  issueSys (.evlogPut f) f s fun e =>
    let S := f.s.toNat
    let x := e.sreg S
    if x.toNat / 2 ^ 16 != 0 || x.toNat < 0x8000 then .trapOpen .illegalOperand (some x)
    else
      let s := e.s.logData x.toNat e.loc.d e.loc.a ((e.sreg (S + 1)).setWidth 64)
      e.quick s f.d [(S, BitVec.ofNat 32 s.log.length)]
/-- EVLOG.GET (R434). -/
def execEvlogGet (f : SysW) (s : State) : Out :=
  issueSys (.evlogGet f) f s fun e => e.handlerOnly <|
    let S := f.s.toNat
    let q := (e.sreg S).toNat + 2 ^ 32 * (e.sreg (S + 1)).toNat
    let va := (e.breg f.ba.toNat).toNat
    if va % 32 != 0 then .trap .misaligned e.cl.run (BitVec.ofNat 80 va) e.cl.word
    else match e.buffer false 1 va 32 e.s with
      | (.error (some (c, va)), s) => .trapAt s c e.cl.run (BitVec.ofNat 80 va) e.cl.word
      | (.error none, s) => e.stay s
      | (.ok ps, s) =>
        let n := s.log.length
        if q = 0 || n < q then e.quick s f.d [(S, 2#32)]
        else if q + 65536 ≤ n then e.quick s f.d [(S, 1#32)]
        else match s.log[q - 1]? with
          | some x => e.toBuffer s ps fun s => e.quick (s.storeBuffer e.loc.d ps (leBytes 32 (logNat q x))) f.d [(S, 0#32)]
          | none => e.quick s f.d [(S, 2#32)]
/-- HSTAT (R433). DEDUCED, log 32: a number above 63 that is not all ones names an absent domain. -/
def execHstat (f : SysW) (s : State) : Out :=
  issueSys (.hstat f) f s fun e =>
    let S := f.s.toNat
    let i := e.sreg S
    let d := if i = 0xFFFFFFFF#32 then e.loc.d else i.toNat
    let x := e.s.dom d
    let here := d < 64
    let b := fun (x : Bool) (i : Nat) => if x then 2 ^ i else 0
    let ret := (e.s.svc.retired.filter fun u => match u with
      | .core k _ _ | .slot k _ _ _ | .bank k _ _ _ | .dram k _ | .umbra k _ => k = d
      | .port p => portDomain p = d
      | .pool p => poolDom p = d
      | .repaired _ _ _ => false).length
    let r := match f.f.toNat % 4 with
      | 0 => if here then x.ce else 0
      | 1 => if here then x.ue else 0
      | 2 => if here then ret else 0
      | _ => b e.s.svc.bg 0 + b (here && x.throttled) 1 + b (!here) 2
    e.quick e.s f.d [(S, BitVec.ofNat 32 r)]

/-! ## Loss and return of power (R52, R214, R350, R388, R414) -/

/-- Memory after the loss of the uncore islands of the domains `ds`: what their DRAM held is undefined, every byte of it a free value from here on
(log 9); a persistent sector not listed in `keep`, and a pool or host sector, holds what its backing memory does. -/
def State.loseMemory (s : State) (ds keep : List Nat) : State :=
  let here := fun (sec : Nat) => ds.contains (homeOf (64 * sec))
  let gone := fun (sec : Nat) => here sec && backed sec && !(regionOf (64 * sec) = .persist && keep.contains sec)
  let t : State := { s with mem := s.mem.filter fun p => !(p.1 < 64 * dramSize && ds.contains (p.1 / dramSize)),
                            lost := ds.foldl (fun m d => mput m d s.fresh) s.lost, fresh := s.fresh + 1 }
  let t := s.back.foldl (fun (t : State) p => if gone p.1 then t.memPut (64 * p.1) p.2 else t) t
  { t with back := s.back.filter fun p => !here p.1, hsec := s.hsec.filter fun p => !here p.1, hdir := s.hdir.filter fun p => !here (4 * p.1),
           pinv := s.pinv.filter (fun p => !here p.sec && !ds.contains p.d), retries := s.retries.filter fun r => !here (4 * r.line) }
/-- What a domain keeps without power: the tables of its umbra region, the counts of its service data. Mapped tiles are LOST (R350). -/
def Domain.unpowered (x : Domain) : Domain :=
  { Domain.reset with recs := x.recs, ready := x.ready, groups := x.groups, filter := x.filter, sentNo := x.sentNo, ce := x.ce, ue := x.ue,
                      tiles := x.tiles.map fun (p : Nat × Tile) => (p.1, if p.2.mapped then { p.2 with lost := true } else p.2),
                      reqC := x.reqC, effC := x.effC, coff := x.coff, reqU := x.reqU, effU := 3, uoff := true, lag := x.lag,
                      droopC := x.droopC, droopU := x.droopU }
/-- The acknowledgements a domain holds for journals are lost (R385). -/
def Bank.unacked (b : Bank) (lost : Nat → Bool) : Bank := { b with jn := b.jn.map fun e => if e.ack.any lost then { e with ack := none } else e }
/-- A core stops with its L1 lost. -/
def State.coreStop (s : State) (d a : Nat) : State :=
  ((s.endHandler d a).dropCoreOps d a).updCore d a fun c => { c with stopped := true, tlb := [], ports := [], l1 := [] }
/-- The uncore islands of a set of domains lose power. -/
def State.loseUncore (s : State) (ds keep : List Nat) : State :=
  let lost := fun (d : Nat) => ds.contains d
  let s := s.cores.foldl (fun (s : State) p => if lost (p.1 / 132) && !p.2.stopped then s.coreStop (p.1 / 132) (p.1 % 132) else s) s
  let s := { s with cores := s.cores.map fun (p : Nat × Core) =>
    (p.1, { p.2 with umb := { p.2.umb with bankA := p.2.umb.bankA.unacked lost, bankB := p.2.umb.bankB.unacked lost } }) }
  let tiles := fun (s : State) (d : Nat) => (s.dom d).tiles.filter fun p => p.2.mapped
  let s := ds.foldl (fun s d => (tiles s d).foldl (fun s _ => s.logEvent 0x43 d 0xFF) (s.updDom d Domain.unpowered)) (s.loseMemory ds keep)
  let away := s.blocks.filterMap fun (p : Nat × Block) => match p.2.parkIdx with
    | some (d, i) => (match (s.recAt d i).kind with | .park _ img _ => if lost d && regionOf img = .park then some p.1 else none | _ => none)
    | none => none
  let s := away.foldl State.endParked s
  { s with focus := if s.focus.any (fun q => match (s.block q.1).loc with | some l => lost l.d | none => true) then none else s.focus }
/-- UNCORE_ISLAND_POWER_LOSS: `keep` lists the persistent sectors that keep a value stored since they were durable (R52). -/
def execUncoreIslandPowerLoss (d : Nat) (keep : List Nat) (s : State) : Out :=
  if 64 ≤ d || !s.svc.powered || (s.dom d).uoff then .refused .notEnabled
  else
    .next (((List.range 132).foldl (fun s a => s.updCore d a fun c => { c with stopped := true }) (s.loseUncore [d] keep)).portsGone s).retable
/-- UNCORE_ISLAND_POWER_RETURN: the slice starts empty; the counter's copy is reloaded at the next beacon (R422). -/
def execUncoreIslandPowerReturn (d : Nat) (s : State) : Out :=
  if 64 ≤ d || !s.svc.powered || !(s.dom d).uoff then .refused .notEnabled
  else .next (s.updDom d fun x => { x with uoff := false, effU := x.reqU, sidHeld := true }).portsBack.retable

/-- A slice before the service engine powers its uncore island off: the remote-dirty list and the dirty home lines of the pool and the host are
written back, and the home directory drops every entry (R211, R214). -/
def State.uncoreFlush (s : State) (d : Nat) : State :=
  let up := fun (sec : Nat) => !s.unreachable (64 * sec)
  let s := (((s.dom d).dirtyList d).filter up).foldl (fun s sec => s.writeBack d sec false none true) s
  let mine := fun (sec : Nat) => homeOf (64 * sec) = d && (regionOf (64 * sec) = .pool || regionOf (64 * sec) = .host) && up sec
  let s := ((s.hsec.map (·.1)).filter mine).foldl (fun s sec => (s.l1Recall d sec).pushHome sec) s
  ((s.hdir.map (·.1)).filter fun l => homeOf (256 * l) = d).foldl (fun s l => s.invalidateLine l) s
/-- The module loses power. -/
def State.powerOff (s : State) (keep : List Nat) : State :=
  let s := s.loseUncore (List.range 64) keep
  { s with svc := { s.svc with powered := false, winOpen := false, tripped := false }, ops := [], pinv := [], retries := [], focus := none,
           cores := s.cores.map fun (p : Nat × Core) => (p.1, { p.2 with stopped := true }) }
/-- MODULE_POWER_LOSS (R52). -/
def execModulePowerLoss (keep : List Nat) (s : State) : Out := if !s.svc.powered then .refused .notEnabled else .next (s.powerOff keep)
/-- THERMAL_TRIP: every core is taken to a cut and sealed; then the module loses power (R424). DEDUCED, log 100: this is the module shutdown of Table
17-5, in which the service engine powers the uncore islands off (R214). -/
def execThermalTrip (s : State) : Out :=
  if !s.svc.powered then .refused .notEnabled
  else if !s.svc.tripped then
    let s := (List.range 8448).foldl (fun (s : State) k =>
      if s.coreOn (k / 132) (k % 132) then s.askCut (k / 132) (k % 132) { kind := 0, warp := none, exit := none } else s) s
    .next (State.logEvent { s with svc := { s.svc with tripped := true } } 0x61 0 0xFF)
  else if s.cores.any fun p => !p.2.stopped && (p.2.umb.openCut.isSome || !p.2.umb.reqs.isEmpty) then .refused .notEnabled
  else .next (((List.range 64).foldl (fun s d => s.uncoreFlush d) s).powerOff [])

/-- The greatest tick in a sealed image or an issued transit (R19). -/
def State.lastTick (s : State) : Nat :=
  s.cores.foldl (fun (m : Nat) (p : Nat × Core) =>
    let t := fun (b : Bank) => if b.valid then b.tick.toNat else 0
    max m (max (t p.2.umb.bankA) (t p.2.umb.bankB))) (max s.maxTick.toNat s.tick.toNat)
/-- The units that fail their test in a bring-up with draw `n` (Table 17-1, step 4): GiB of DRAM from number 0 on, MiB of umbra from 24 on. -/
def State.failing (s : State) (n : Nat) : List (Nat × RetUnit) :=
  (List.range 64).flatMap fun d => ((List.range 1048).filter (Config.failsTest n d)).filterMap fun i =>
    let u := if i < 24 then RetUnit.dram d i else .umbra d (i - 24)
    if s.svc.retired.contains u then none else some (d, u)
/-- They are retired. -/
def State.testUnits (s : State) (n : Nat) : State :=
  (s.failing n).foldl (fun s p => State.logEvent { s with svc := { s.svc with retired := s.svc.retired ++ [p.2] } } 0x20 p.1 0xFF) s
/-- The SHA-256 hash of the firmware key in the identity record. -/
def keyHash : List Byte := (List.range 8).flatMap fun i => leBytes 4 (idWord (20 + i)).toNat
/-- Steps 1 to 7 of Table 17-1 after a module power loss, with draw `n`. Cores without an image or a block run at once; the others resume one by one (R384).
How far above the greatest tick the counter restarts is a free value (log 32), and so is BOOTST until step 8 (log 114). HENT is 0 and EVTH 4,096 until a core
resumes from an image (R126, R375); a core that holds no block has no partition (R309). -/
def State.bringUp (s : State) (n : Nat) : State :=
  let empty := fun (c : Core) => c.umb.bankA.hseq = 0 && c.umb.bankA.fseq = 0 && c.umb.bankB.hseq = 0 && c.umb.bankB.fseq = 0 && c.held.isEmpty
  let s := s.testUnits n
  State.retable { s with
    tick := BitVec.ofNat 64 (s.lastTick + 1 + Config.freeNat n % 2 ^ 32),
    svc := { s.svc with powered := true, winOpen := false, bootst := Config.freeNat n % 256, fw := n, bg := s.belowGrade, slots := s.slotCount },
    doms := s.doms.map (fun (p : Nat × Domain) => (p.1, { p.2 with
      uoff := false, coff := false, reqC := 0, effC := 0, reqU := 0, effU := 0, droopC := 0, droopU := 0, lag := false, sidHeld := false, phase := 0, phaseU := 0 })),
    cores := s.cores.map fun (p : Nat × Core) =>
      (p.1, { p.2 with stopped := !empty p.2, hent := 0, evth := 4096, cksrc := 0, cksw := 0, cktick := 0, drain := none, part := if p.2.held.isEmpty then 0 else p.2.part,
                       umb := if empty p.2 then { p.2.umb with reqs := [], openCut := none } else p.2.umb }) }
/-- A stopped core has still to resume, or to be converted (R384, R389). -/
def State.resuming (s : State) (d a : Nat) : Bool :=
  let c := s.core d a
  c.stopped && !(s.dom d).uoff && (if s.usable d a then !(s.dom d).coff else !c.held.isEmpty || c.seq.hold.isSome)
/-- MODULE_BRING_UP (R414): without supplies in range, or with firmware that does not verify, the module stays off with BOOTST 0x01 or 0x02; else steps 1
to 7, and, once every position has resumed, step 8: the enqueue windows open with BOOTST 0x00. -/
def execModuleBringUp (s : State) : Out :=
  let n := s.fresh
  let boot := fun (x : Nat) => Host.Outcome.next { s with fresh := n + 1, svc := { s.svc with bootst := x } }
  if s.svc.powered then
    (if s.svc.winOpen || s.cores.any (fun p => s.resuming (p.1 / 132) (p.1 % 132)) then .refused .notEnabled
     else .next (State.retable { s with svc := { s.svc with winOpen := true, bootst := 0 } }))
  else if !Config.suppliesOk n then boot 1
  else if !Config.verifies keyHash (Config.firmware n) then boot 2
  else .next (State.bringUp { s with fresh := n + 1 } n)

/-! ## Host links (R217, R330, R406) -/

/-- The physical address a BAR offset reaches, or a completer abort (Table 16-5, R313). -/
def barAddr (bar off : Nat) : Option Nat :=
  let pa := match bar with
    | 0 => if off < 2 ^ 36 then some (ctlBase + off) else none
    | 2 => if off < 64 * dramSize then some off else none
    | 4 => if off < 2 ^ 36 then some (umbraBase + off) else none
    | _ => none
  pa.bind fun pa => match regionOf pa with
    | .dram | .persist | .ctl => some pa
    | _ => none
/-- A write by the host over DEV in the topology table assigns the device number, where no Bretos Link port is up (R419). DESIGN CHOICE, log 114. unsafe. -/
def State.hostDev (s : State) (o : Nat) (bs : List Byte) : Option Nat :=
  if o ≤ 0x0600000C && 0x0600000C < o + bs.length && !(List.range 32).any s.portLive then (bs[0x0600000C - o]?).map fun x => x.toNat % 64 else none
/-- HOST_LINK_ACCESS: one access within a sector by link 0 or 1, an agent of domain 3 or 60. -/
def execHostLinkAccess (link bar off : Nat) (acc : HostAcc) (s : State) : Out :=
  let n := match acc with | .read n => n | .write bs => bs.length
  let h := hostDom link
  let q := Asker.host link
  let reply := fun (s : State) (r : Option (List Byte)) => Host.Outcome.next { s with replies := r :: s.replies }
  if 2 ≤ link || n = 0 || 64 < off % 64 + n || !s.svc.powered || (s.dom h).uoff then .refused .notEnabled
  else match barAddr bar off with
    | none => reply s none
    | some pa =>
      if s.unreachable pa then .refused .notEnabled
      else if regionOf pa = .ctl then
        let d := (pa - ctlBase) / 2 ^ 30
        let o := (pa - ctlBase) % 2 ^ 30
        match acc with
        | .read n => reply s (some ((List.range n).map fun i => s.ctlByte d (o + i)))
        | .write bs =>
          if (windowOf o).isSome then (if bs.length = 64 then (s.ctlSector d o bs).out s .next else .next (s.enqDrop d))
          else match s.hostDev o bs with
            | some x => .next (State.retable { s with svc := { s.svc with dev := x } })
            | none => .next (s.ctlWrite d o bs)
      else
        -- one access may meet a refusal by the line's home, and is made again (R212)
        let ask := fun (pa : Nat) (go : Out) =>
          if s.backing q pa then Host.Outcome.refused .notEnabled else if s.lineRefuses pa q then .next (s.refuse q pa) else go
        match s.tileAt pa, acc with
        | some (t, _, _, true), .read n => (match s.tileRead [] pa with
          | some (p, _) => ask p (reply ((s.homeServe h (p / 64)).served q p) (some (memRead s p n)))
          | none => reply (s.logEvent 0x41 t 0xFF) none)
        | some (t, _, _, false), .read _ => reply (s.logEvent 0x41 t 0xFF) none
        | some (t, _, _, _), .write _ => .next (s.logEvent 0x41 t 0xFF)
        | none, .read n => ask pa (let r := (s.served q pa).loadSec h none true true pa n; reply r.2 (some r.1))
        | none, .write bs => ask pa (.next ((s.served q pa).storeWide h .none pa bs false none true))

end Sys2Proof.Machine
end

