-- ==== Sys2Proof/Machine/Time.lean ====
section
/-! DEFINITION. Time: SIDEREAL_TICK with the counts of cycles that depend on it, and SIDEREAL_BEACON (R18, R113, R212, R311, R377, R422). -/

namespace Sys2Proof.Machine

/-- The clock phase after a tick, and whether a cycle passes: 4, 3 and 2 cycles in 4 ticks at P0, P1 and P2, none at P3 (Table 17-5). -/
def phaseStep (eff phase : Nat) : Nat × Bool :=
  let p := phase + (if eff = 0 then 4 else if eff = 1 then 3 else if eff = 2 then 2 else 0)
  if 4 ≤ p then (p - 4, true) else (p, false)
/-- A core on its ring oscillator counts cycles of its own, longer ones (R4, R421): whether one passes with a tick is a free choice (log 11). -/
def State.ringCycle (s : State) (d a : Nat) : Bool := s.clockSource d a != 2 || (Config.freeByte s.fresh (coreKey d a)).getLsbD 0
/-- A cycle of the compute island, of the uncore island, passes with the next tick. -/
def State.cycleC (s : State) (d : Nat) : Bool := (phaseStep (s.dom d).effC (s.dom d).phase).2
def State.cycleU (s : State) (d : Nat) : Bool := (phaseStep (s.dom d).effU (s.dom d).phaseU).2

/-- A domain after a tick: its clock phases, multicast windows, waiting promotions, woken park records. -/
def Domain.tick (x : Domain) (lag : Bool) : Domain :=
  let c := phaseStep x.effC x.phase
  let u := phaseStep x.effU x.phaseU
  let n := if u.2 then 1 else 0
  { x with lag := lag, phase := c.1, phaseU := u.1, mcasts := x.mcasts.map fun (p : Nat × Mcast) => (p.1, { p.2 with age := p.2.age + n }),
           promq := x.promq.map fun (p : Nat × Nat) => (p.1, p.2 + n),
           recs := x.recs.map fun (p : Nat × Rec) => match p.2.kind with
             | .park _ _ _ => (p.1, { p.2 with waited := if p.2.st = RecSt.ready then p.2.waited + n else 0 })
             | _ => p }
/-- A core after a cycle: the checkpoint port's timer runs while it holds a block or a claimed sequencer (R377). -/
def Core.tick (c : Core) : Core :=
  { c with umb := { c.umb with since := min (2 ^ 32 - 1) (c.umb.since + 1), timer := if c.held.isEmpty && c.seq.hold.isNone then 0 else c.umb.timer + 1 } }
/-- The block's warps and its idle timer after a cycle of its core (R113, R311). -/
def State.tickBlock (s : State) (b : Nat) (x : Block) : Block :=
  let blocked := s.allBlocked b && !x.warps.any fun (wp : Warp) => wp.parked || wp.wait = some .sleep
  { x with idle := if blocked then x.idle + 1 else 0,
           warps := x.warps.mapIdx fun w (wp : Warp) =>
             if s.warpReady b w then { wp with readyFor := wp.readyFor + 1, notReadyFor := 0 } else { wp with readyFor := 0, notReadyFor := wp.notReadyFor + 1 } }
/-- What a domain's copy shows after a tick: the count, or one tick less (R18). -/
def State.tickDoms (s : State) (lag : BitVec 64) : AMap Domain :=
  (List.range 64).foldl (fun m d => mset Domain.reset m d ((s.dom d).tick (lag.getLsbD d))) []

/-- SIDEREAL_TICK: the counter advances by one; `lag` names the domains whose copy is one tick behind (R18). -/
def execSiderealTick (lag : BitVec 64) (s : State) : Out :=
  if !s.svc.powered then .refused .notEnabled
  else
    let on := fun (d a : Nat) => s.cycleC d && s.coreOn d a && s.ringCycle d a
    let blocks := s.blocks.map fun (p : Nat × Block) => match p.2.loc with
      | some l => if on l.d l.a then (p.1, s.tickBlock p.1 p.2) else p
      | none => p
    let cores := s.cores.map fun (p : Nat × Core) => if on (p.1 / 132) (p.1 % 132) then (p.1, p.2.tick) else p
    let ops := s.ops.map fun (x : Op) => match x.k with
      | .fabric f => if 1 < f.back && s.cycleU x.d then { x with k := .fabric { f with back := f.back - 1 } } else x
      | _ => x
    let retries := s.retries.map fun (r : Retry) => if 1 < r.back && s.cycleU (s.askKey r.q / 132) then { r with back := r.back - 1 } else r
    let hdir := s.hdir.map fun (p : Nat × HomeLine) => match p.2.resv with
      | some (o, n) => if s.cycleU (homeOf (256 * p.1)) then (p.1, { p.2 with resv := some (o, n + 1) }) else p
      | none => p
    .next (State.serveSpawns { s with tick := s.tick + 1, doms := s.tickDoms lag, blocks := blocks, cores := cores, ops := ops, hdir := hdir, retries := retries, fresh := s.fresh + 1 })

/-- SIDEREAL_BEACON, every 4,096 ticks: all copies agree, and a held copy is reloaded (R18, R422). -/
def execSiderealBeacon (s : State) : Out :=
  if !s.svc.powered || s.tick.toNat % 4096 != 0 then .refused .notEnabled
  else .next (State.settleGroups { s with doms := s.doms.map fun (p : Nat × Domain) => (p.1, { p.2 with lag := false, sidHeld := p.2.sidHeld && p.2.uoff }) })

end Sys2Proof.Machine
end

