-- ==== Sys2Proof/Machine/Dispatch.lean ====
section
/-! DEFINITION. The dispatch: one arm per constructor of `Instr`, each one direct call of its meaning. -/

namespace Sys2Proof.Machine

/-- The meaning of an instruction or event. -/
def exec (i : Instr) (s : State) : Host.Outcome State Fault Refusal :=
  match i with
  | .nop j => Sys2Proof.Machine.execNop j s
  | .bra j => Sys2Proof.Machine.execBra j s
  | .brx j => Sys2Proof.Machine.execBrx j s
  | .call j => Sys2Proof.Machine.execCall j s
  | .callx j => Sys2Proof.Machine.execCallx j s
  | .ret j => Sys2Proof.Machine.execRet j s
  | .loop j => Sys2Proof.Machine.execLoop j s
  | .rpt j => Sys2Proof.Machine.execRpt j s
  | .exit j => Sys2Proof.Machine.execExit j s
  | .exits j => Sys2Proof.Machine.execExits j s
  | .bar j => Sys2Proof.Machine.execBar j s
  | .bara j => Sys2Proof.Machine.execBara j s
  | .barm j => Sys2Proof.Machine.execBarm j s
  | .barw j => Sys2Proof.Machine.execBarw j s
  | .yield j => Sys2Proof.Machine.execYield j s
  | .vote j => Sys2Proof.Machine.execVote j s
  | .plop j => Sys2Proof.Machine.execPlop j s
  | .movs j => Sys2Proof.Machine.execMovs j s
  | .smov j => Sys2Proof.Machine.execSmov j s
  | .reggive j => Sys2Proof.Machine.execReggive j s
  | .regclaim j => Sys2Proof.Machine.execRegclaim j s
  | .settid j => Sys2Proof.Machine.execSettid j s
  | .qbind j => Sys2Proof.Machine.execQbind j s
  | .chput j => Sys2Proof.Machine.execChput j s
  | .chget j => Sys2Proof.Machine.execChget j s
  | .chclose j => Sys2Proof.Machine.execChclose j s
  | .sleep j => Sys2Proof.Machine.execSleep j s
  | .trap j => Sys2Proof.Machine.execTrap j s
  | .assert j => Sys2Proof.Machine.execAssert j s
  | .tret j => Sys2Proof.Machine.execTret j s
  | .kill j => Sys2Proof.Machine.execKill j s
  | .movsys j => Sys2Proof.Machine.execMovsys j s
  | .movsysW j => Sys2Proof.Machine.execMovsysW j s
  | .iadd j => Sys2Proof.Machine.execIadd j s
  | .isub j => Sys2Proof.Machine.execIsub j s
  | .imul j => Sys2Proof.Machine.execImul j s
  | .imulh j => Sys2Proof.Machine.execImulh j s
  | .imad j => Sys2Proof.Machine.execImad j s
  | .imin j => Sys2Proof.Machine.execImin j s
  | .imax j => Sys2Proof.Machine.execImax j s
  | .iabs j => Sys2Proof.Machine.execIabs j s
  | .and j => Sys2Proof.Machine.execAnd j s
  | .or j => Sys2Proof.Machine.execOr j s
  | .xor j => Sys2Proof.Machine.execXor j s
  | .not j => Sys2Proof.Machine.execNot j s
  | .shl j => Sys2Proof.Machine.execShl j s
  | .shr j => Sys2Proof.Machine.execShr j s
  | .shra j => Sys2Proof.Machine.execShra j s
  | .rot j => Sys2Proof.Machine.execRot j s
  | .popc j => Sys2Proof.Machine.execPopc j s
  | .clz j => Sys2Proof.Machine.execClz j s
  | .brev j => Sys2Proof.Machine.execBrev j s
  | .bfe j => Sys2Proof.Machine.execBfe j s
  | .bfi j => Sys2Proof.Machine.execBfi j s
  | .bymix j => Sys2Proof.Machine.execBymix j s
  | .sel j => Sys2Proof.Machine.execSel j s
  | .icmp j => Sys2Proof.Machine.execIcmp j s
  | .mov j => Sys2Proof.Machine.execMov j s
  | .movi j => Sys2Proof.Machine.execMovi j s
  | .iacc j => Sys2Proof.Machine.execIacc j s
  | .isad j => Sys2Proof.Machine.execIsad j s
  | .idot4 j => Sys2Proof.Machine.execIdot4 j s
  | .fadd j => Sys2Proof.Machine.execFadd j s
  | .fsub j => Sys2Proof.Machine.execFsub j s
  | .fmul j => Sys2Proof.Machine.execFmul j s
  | .ffma j => Sys2Proof.Machine.execFfma j s
  | .fmin j => Sys2Proof.Machine.execFmin j s
  | .fmax j => Sys2Proof.Machine.execFmax j s
  | .fcmp j => Sys2Proof.Machine.execFcmp j s
  | .frnd j => Sys2Proof.Machine.execFrnd j s
  | .fclmp j => Sys2Proof.Machine.execFclmp j s
  | .fscale j => Sys2Proof.Machine.execFscale j s
  | .fexp j => Sys2Proof.Machine.execFexp j s
  | .addmin j => Sys2Proof.Machine.execAddmin j s
  | .addmax j => Sys2Proof.Machine.execAddmax j s
  | .rcp j => Sys2Proof.Machine.execRcp j s
  | .rsq j => Sys2Proof.Machine.execRsq j s
  | .sqrt j => Sys2Proof.Machine.execSqrt j s
  | .exp2 j => Sys2Proof.Machine.execExp2 j s
  | .log2 j => Sys2Proof.Machine.execLog2 j s
  | .hadd2 j => Sys2Proof.Machine.execHadd2 j s
  | .hmul2 j => Sys2Proof.Machine.execHmul2 j s
  | .hfma2 j => Sys2Proof.Machine.execHfma2 j s
  | .hmin2 j => Sys2Proof.Machine.execHmin2 j s
  | .hmax2 j => Sys2Proof.Machine.execHmax2 j s
  | .dot2 j => Sys2Proof.Machine.execDot2 j s
  | .cvt j => Sys2Proof.Machine.execCvt j s
  | .pkcv j => Sys2Proof.Machine.execPkcv j s
  | .xpcv j => Sys2Proof.Machine.execXpcv j s
  | .scext j => Sys2Proof.Machine.execScext j s
  | .scins j => Sys2Proof.Machine.execScins j s
  | .scmax j => Sys2Proof.Machine.execScmax j s
  | .dot4 j => Sys2Proof.Machine.execDot4 j s
  | .pack j => Sys2Proof.Machine.execPack j s
  | .qxch j => Sys2Proof.Machine.execQxch j s
  | .qbc j => Sys2Proof.Machine.execQbc j s
  | .qsum j => Sys2Proof.Machine.execQsum j s
  | .lshf j => Sys2Proof.Machine.execLshf j s
  | .lrot j => Sys2Proof.Machine.execLrot j s
  | .lbc j => Sys2Proof.Machine.execLbc j s
  | .lidx j => Sys2Proof.Machine.execLidx j s
  | .wred j => Sys2Proof.Machine.execWred j s
  | .wscan j => Sys2Proof.Machine.execWscan j s
  | .rnds j => Sys2Proof.Machine.execRnds j s
  | .rnd j => Sys2Proof.Machine.execRnd j s
  | .ld j => Sys2Proof.Machine.execLd j s
  | .st j => Sys2Proof.Machine.execSt j s
  | .ldx j => Sys2Proof.Machine.execLdx j s
  | .stx j => Sys2Proof.Machine.execStx j s
  | .ldw j => Sys2Proof.Machine.execLdw j s
  | .stw j => Sys2Proof.Machine.execStw j s
  | .ldmx j => Sys2Proof.Machine.execLdmx j s
  | .stmx j => Sys2Proof.Machine.execStmx j s
  | .ldn j => Sys2Proof.Machine.execLdn j s
  | .stn j => Sys2Proof.Machine.execStn j s
  | .pref j => Sys2Proof.Machine.execPref j s
  | .fence j => Sys2Proof.Machine.execFence j s
  | .cwb j => Sys2Proof.Machine.execCwb j s
  | .cinv j => Sys2Proof.Machine.execCinv j s
  | .setb j => Sys2Proof.Machine.execSetb j s
  | .ldb j => Sys2Proof.Machine.execLdb j s
  | .badd j => Sys2Proof.Machine.execBadd j s
  | .lds j => Sys2Proof.Machine.execLds j s
  | .mmq j => Sys2Proof.Machine.execMmq j s
  | .mmqs j => Sys2Proof.Machine.execMmqs j s
  | .mmqx j => Sys2Proof.Machine.execMmqx j s
  | .mmqt j => Sys2Proof.Machine.execMmqt j s
  | .mms j => Sys2Proof.Machine.execMms j s
  | .mmss j => Sys2Proof.Machine.execMmss j s
  | .mmz j => Sys2Proof.Machine.execMmz j s
  | .accmv j => Sys2Proof.Machine.execAccmv j s
  | .accld j => Sys2Proof.Machine.execAccld j s
  | .accsc j => Sys2Proof.Machine.execAccsc j s
  | .acccv j => Sys2Proof.Machine.execAcccv j s
  | .spld j => Sys2Proof.Machine.execSpld j s
  | .dst j => Sys2Proof.Machine.execDst j s
  | .dsta j => Sys2Proof.Machine.execDsta j s
  | .dstm j => Sys2Proof.Machine.execDstm j s
  | .dstv j => Sys2Proof.Machine.execDstv j s
  | .atom j => Sys2Proof.Machine.execAtom j s
  | .atomc j => Sys2Proof.Machine.execAtomc j s
  | .red j => Sys2Proof.Machine.execRed j s
  | .dfence j => Sys2Proof.Machine.execDfence j s
  | .cpy j => Sys2Proof.Machine.execCpy j s
  | .cpy2 j => Sys2Proof.Machine.execCpy2 j s
  | .cpym j => Sys2Proof.Machine.execCpym j s
  | .cpytProm j => Sys2Proof.Machine.execCpytProm j s
  | .cpytEvct j => Sys2Proof.Machine.execCpytEvct j s
  | .cpytScr j => Sys2Proof.Machine.execCpytScr j s
  | .cpytGlb j => Sys2Proof.Machine.execCpytGlb j s
  | .cpyw j => Sys2Proof.Machine.execCpyw j s
  | .waitt j => Sys2Proof.Machine.execWaitt j s
  | .tqry j => Sys2Proof.Machine.execTqry j s
  | .cpyc j => Sys2Proof.Machine.execCpyc j s
  | .spawn j => Sys2Proof.Machine.execSpawn j s
  | .enq j => Sys2Proof.Machine.execEnq j s
  | .tdec j => Sys2Proof.Machine.execTdec j s
  | .tinc j => Sys2Proof.Machine.execTinc j s
  | .twait j => Sys2Proof.Machine.execTwait j s
  | .tstat j => Sys2Proof.Machine.execTstat j s
  | .tcancel j => Sys2Proof.Machine.execTcancel j s
  | .trearm j => Sys2Proof.Machine.execTrearm j s
  | .vpost j => Sys2Proof.Machine.execVpost j s
  | .vpostf j => Sys2Proof.Machine.execVpostf j s
  | .subs j => Sys2Proof.Machine.execSubs j s
  | .verq j => Sys2Proof.Machine.execVerq j s
  | .rstop j => Sys2Proof.Machine.execRstop j s
  | .grpsetNew j => Sys2Proof.Machine.execGrpsetNew j s
  | .grpsetAdd j => Sys2Proof.Machine.execGrpsetAdd j s
  | .grpsetArm j => Sys2Proof.Machine.execGrpsetArm j s
  | .grpsetFree j => Sys2Proof.Machine.execGrpsetFree j s
  | .shmap j => Sys2Proof.Machine.execShmap j s
  | .shmapFree j => Sys2Proof.Machine.execShmapFree j s
  | .ssack j => Sys2Proof.Machine.execSsack j s
  | .seqld j => Sys2Proof.Machine.execSeqld j s
  | .seqgo j => Sys2Proof.Machine.execSeqgo j s
  | .seqstop j => Sys2Proof.Machine.execSeqstop j s
  | .qset j => Sys2Proof.Machine.execQset j s
  | .qdec j => Sys2Proof.Machine.execQdec j s
  | .qwait j => Sys2Proof.Machine.execQwait j s
  | .seqsig j => Sys2Proof.Machine.execSeqsig j s
  | .seqq j => Sys2Proof.Machine.execSeqq j s
  | .pfence j => Sys2Proof.Machine.execPfence j s
  | .chks j => Sys2Proof.Machine.execChks j s
  | .umq j => Sys2Proof.Machine.execUmq j s
  | .umset j => Sys2Proof.Machine.execUmset j s
  | .fsend j => Sys2Proof.Machine.execFsend j s
  | .fenq j => Sys2Proof.Machine.execFenq j s
  | .fsig j => Sys2Proof.Machine.execFsig j s
  | .ffence j => Sys2Proof.Machine.execFfence j s
  | .tlbi j => Sys2Proof.Machine.execTlbi j s
  | .hflush j => Sys2Proof.Machine.execHflush j s
  | .hprobe j => Sys2Proof.Machine.execHprobe j s
  | .atr j => Sys2Proof.Machine.execAtr j s
  | .svcVf j => Sys2Proof.Machine.execSvcVf j s
  | .svcRetire j => Sys2Proof.Machine.execSvcRetire j s
  | .svcPkill j => Sys2Proof.Machine.execSvcPkill j s
  | .svcQuote j => Sys2Proof.Machine.execSvcQuote j s
  | .capq j => Sys2Proof.Machine.execCapq j s
  | .pwrq j => Sys2Proof.Machine.execPwrq j s
  | .clkq j => Sys2Proof.Machine.execClkq j s
  | .evlogPut j => Sys2Proof.Machine.execEvlogPut j s
  | .evlogGet j => Sys2Proof.Machine.execEvlogGet j s
  | .hstat j => Sys2Proof.Machine.execHstat j s
  | .clauseIssue d a p => Sys2Proof.Machine.execClauseIssue d a p s
  | .quartetRendezvous b q => Sys2Proof.Machine.execQuartetRendezvous b q s
  | .activeSetExchange d a => Sys2Proof.Machine.execActiveSetExchange d a s
  | .handlerStart d a => Sys2Proof.Machine.execHandlerStart d a s
  | .slotComplete o => Sys2Proof.Machine.execSlotComplete o s
  | .sleepDeadline b w => Sys2Proof.Machine.execSleepDeadline b w s
  | .siderealTick lag => Sys2Proof.Machine.execSiderealTick lag s
  | .siderealBeacon => Sys2Proof.Machine.execSiderealBeacon s
  | .windowWriteEntry b => Sys2Proof.Machine.execWindowWriteEntry b s
  | .loadComplete o pl => Sys2Proof.Machine.execLoadComplete o pl s
  | .storePerformed o pl => Sys2Proof.Machine.execStorePerformed o pl s
  | .homeRetry o => Sys2Proof.Machine.execHomeRetry o s
  | .reservationLapse h line => Sys2Proof.Machine.execReservationLapse h line s
  | .cpymRequestArrival o => Sys2Proof.Machine.execCpymRequestArrival o s
  | .multicastWindowClose d g => Sys2Proof.Machine.execMulticastWindowClose d g s
  | .lateJoinerResend d g => Sys2Proof.Machine.execLateJoinerResend d g s
  | .copySectorWrite o pl => Sys2Proof.Machine.execCopySectorWrite o pl s
  | .copyCompletion o => Sys2Proof.Machine.execCopyCompletion o s
  | .transitTick b w => Sys2Proof.Machine.execTransitTick b w s
  | .matrixCompletion o stale => Sys2Proof.Machine.execMatrixCompletion o stale s
  | .drainUpdateApply o => Sys2Proof.Machine.execDrainUpdateApply o s
  | .rangeRecordArrival n => Sys2Proof.Machine.execRangeRecordArrival n s
  | .dispatchPlacement d => Sys2Proof.Machine.execDispatchPlacement d s
  | .eviction b => Sys2Proof.Machine.execEviction b s
  | .parkRecordWake d idx => Sys2Proof.Machine.execParkRecordWake d idx s
  | .parkNeighbourOffer d idx => Sys2Proof.Machine.execParkNeighbourOffer d idx s
  | .blockExit b => Sys2Proof.Machine.execBlockExit b s
  | .gridCompletion d idx => Sys2Proof.Machine.execGridCompletion d idx s
  | .supersedeEvent b w => Sys2Proof.Machine.execSupersedeEvent b w s
  | .twaitDeadline b w => Sys2Proof.Machine.execTwaitDeadline b w s
  | .promotionServe d => Sys2Proof.Machine.execPromotionServe d s
  | .promotionAging d => Sys2Proof.Machine.execPromotionAging d s
  | .promotionDone d idx => Sys2Proof.Machine.execPromotionDone d idx s
  | .objectEvictionDone d idx => Sys2Proof.Machine.execObjectEvictionDone d idx s
  | .seqWordReplay d a => Sys2Proof.Machine.execSeqWordReplay d a s
  | .seqTransition d a => Sys2Proof.Machine.execSeqTransition d a s
  | .seqTimeout d a => Sys2Proof.Machine.execSeqTimeout d a s
  | .periodicCut d a => Sys2Proof.Machine.execPeriodicCut d a s
  | .cutInstant d a => Sys2Proof.Machine.execCutInstant d a s
  | .bankSeal d a => Sys2Proof.Machine.execBankSeal d a s
  | .journalAck d a j => Sys2Proof.Machine.execJournalAck d a j s
  | .l1DirectoryRequest d a q sec => Sys2Proof.Machine.execL1DirectoryRequest d a q sec s
  | .remoteFetch d sec => Sys2Proof.Machine.execRemoteFetch d sec s
  | .homeUpdate d sec => Sys2Proof.Machine.execHomeUpdate d sec s
  | .remoteInvalidation d sec => Sys2Proof.Machine.execRemoteInvalidation d sec s
  | .sliceReplacement d line => Sys2Proof.Machine.execSliceReplacement d line s
  | .directoryEntryDrop h line => Sys2Proof.Machine.execDirectoryEntryDrop h line s
  | .pageWalk d asid va => Sys2Proof.Machine.execPageWalk d asid va s
  | .backInvalidationSnoop line => Sys2Proof.Machine.execBackInvalidationSnoop line s
  | .hostSnoop line => Sys2Proof.Machine.execHostSnoop line s
  | .hostLinkAccess link bar off acc => Sys2Proof.Machine.execHostLinkAccess link bar off acc s
  | .poolLinkDown p => Sys2Proof.Machine.execPoolLinkDown p s
  | .poolLinkUp p => Sys2Proof.Machine.execPoolLinkUp p s
  | .enqueueWindowWrite d wafer idx rec => Sys2Proof.Machine.execEnqueueWindowWrite d wafer idx rec s
  | .enqdropWrite d => Sys2Proof.Machine.execEnqdropWrite d s
  | .objectTableWrite d idx wd x => Sys2Proof.Machine.execObjectTableWrite d idx wd x s
  | .computeIslandPowerFail d finish => Sys2Proof.Machine.execComputeIslandPowerFail d finish s
  | .coreResume d a => Sys2Proof.Machine.execCoreResume d a s
  | .fabricC0Arrival m => Sys2Proof.Machine.execFabricC0Arrival m s
  | .fabricC1Arrival m => Sys2Proof.Machine.execFabricC1Arrival m s
  | .fabricC2Arrival m => Sys2Proof.Machine.execFabricC2Arrival m s
  | .fabricAck o status => Sys2Proof.Machine.execFabricAck o status s
  | .fabricResend o => Sys2Proof.Machine.execFabricResend o s
  | .portDown p => Sys2Proof.Machine.execPortDown p s
  | .portUp p => Sys2Proof.Machine.execPortUp p s
  | .fabricManagement dev => Sys2Proof.Machine.execFabricManagement dev s
  | .fdiscWrite d => Sys2Proof.Machine.execFdiscWrite d s
  | .controlRegisterWrite d off x => Sys2Proof.Machine.execControlRegisterWrite d off x s
  | .moduleBringUp => Sys2Proof.Machine.execModuleBringUp s
  | .modulePowerLoss keep => Sys2Proof.Machine.execModulePowerLoss keep s
  | .uncoreIslandPowerLoss d keep => Sys2Proof.Machine.execUncoreIslandPowerLoss d keep s
  | .unitRetirement u => Sys2Proof.Machine.execUnitRetirement u s
  | .clockSourceFail d a => Sys2Proof.Machine.execClockSourceFail d a s
  | .powerLimitStep d isl lower => Sys2Proof.Machine.execPowerLimitStep d isl lower s
  | .supplyDroop d isl => Sys2Proof.Machine.execSupplyDroop d isl s
  | .thermalTrip => Sys2Proof.Machine.execThermalTrip s
  | .islandPowerOff d => Sys2Proof.Machine.execIslandPowerOff d s
  | .uncoreIslandPowerReturn d => Sys2Proof.Machine.execUncoreIslandPowerReturn d s
  | .acknowledgementReceiptConfirmed d id => Sys2Proof.Machine.execAcknowledgementReceiptConfirmed d id s
  | .correctedError d ue => Sys2Proof.Machine.execCorrectedError d ue s

end Sys2Proof.Machine
end

