-- ==== Sys2Proof/Machine/Sched.lean ====
section
/-! DEFINITION. The model's own scheduler: which events may come next when the agenda is empty and no clause issues. It lists candidates;
an event whose conditions do not hold refuses itself, so that a list too long costs nothing (log 1). -/

namespace Sys2Proof.Machine

/-- Rotate a list by `n`. -/
def rotateList {α : Type} (n : Nat) (l : List α) : List α := if l.isEmpty then l else l.drop (n % l.length) ++ l.take (n % l.length)

/-- A candidate: an event, or one of the last constructors of `Instr`, which Lean's compiler builds no value of, under a name of its own. -/
inductive Cand where
  | ev (i : Instr)
  | journalAck (d a i : Nat)
  | remoteInvalidation (d sec : Nat)
  | coreResume (d a : Nat)
  | c0 (m : FabMsg)
  | c1 (m : FabMsg)
  | c2 (m : FabMsg)
  | fabricAck (o : Nat) (status : Word)
  | fabricResend (o : Nat)
  | thermalTrip
  | bringUp
  | islandPowerOff (d : Nat)

/-- A candidate's event. -/
def Cand.run (run : Instr → State → Out) : Cand → State → Out
  | .ev i => run i
  | .journalAck d a i => execJournalAck d a i
  | .remoteInvalidation d sec => execRemoteInvalidation d sec
  | .coreResume d a => execCoreResume d a
  | .c0 m => execFabricC0Arrival m
  | .c1 m => execFabricC1Arrival m
  | .c2 m => execFabricC2Arrival m
  | .fabricAck o st => execFabricAck o st
  | .fabricResend o => execFabricResend o
  | .thermalTrip => execThermalTrip
  | .bringUp => execModuleBringUp
  | .islandPowerOff d => execIslandPowerOff d

/-- The places whose sectors an operation still has to perform; without any, one that stands for the whole of it. -/
def OpK.due (k : OpK) : List Place :=
  let ps := match k with
    | .load _ _ _ ps | .store _ _ ps => ps.map fun (p : Part) => p.pl.sector
    | .copy _ _ _ gs _ | .tier _ _ _ _ _ gs _ | .mcast _ _ _ _ _ _ _ _ gs _ => gs.map fun (g : Seg) => g.dst.sector
    | _ => []
  if ps.isEmpty then [.glob 0] else ps.eraseDups

/-- The arrivals of a local fabric message (R402). -/
def State.fabEvents (s : State) (x : Op) (f : FabOut) : List Cand :=
  let m := { f.msg with op := some x.id }
  match f.ended with
  | some st => [.fabricAck x.id st]
  | none => match m.body with
    | .enq _ _ _ _ => [.c0 m]
    | .data apr off n _ _ tag =>
      match (List.range f.srcs.length).find? fun k => !f.sent.contains k with
      | none => []
      | some k =>
        match s.readSector (.op x.id) x.d x.pins true (.glob (f.srcs.getD k 0)) with
        | .wait => []
        -- the home refuses the read whatever it would give
        | .refused _ => [.c1 { m with body := .data apr off n k (List.replicate 64 0#8) tag }]
        | .ok bs _ _ => [.c1 { m with body := .data apr off n k bs tag }]
    | _ => [.c2 m]

/-- Events of the operations in flight. -/
def State.opEvents (s : State) : List Cand :=
  s.ops.flatMap fun x =>
    Cand.ev (Instr.slotComplete x.id) :: (match x.k with
      | .load _ _ _ _ => x.k.due.map fun p => Cand.ev (Instr.loadComplete x.id p)
      | .store _ _ _ | .fence _ _ _ | .cache _ _ _ | .flush _ _ _ _ => x.k.due.map fun p => Cand.ev (Instr.storePerformed x.id p)
      | .matrix _ _ _ _ => [Cand.ev (Instr.matrixCompletion x.id false)]
      | .drain _ _ _ _ _ _ => [Cand.ev (Instr.drainUpdateApply x.id)]
      | .copy _ _ _ _ _ | .tier _ _ _ _ _ _ _ => Cand.ev (Instr.copyCompletion x.id) :: x.k.due.map fun p => Cand.ev (Instr.copySectorWrite x.id p)
      | .mcast _ _ _ _ _ _ _ _ _ _ => Cand.ev (Instr.cpymRequestArrival x.id) :: Cand.ev (Instr.copyCompletion x.id) :: x.k.due.map fun p => Cand.ev (Instr.copySectorWrite x.id p)
      | .fabric f => Cand.fabricResend x.id :: s.fabEvents x f
      | _ => [])

/-- Events of the blocks. -/
def State.blockEvents (s : State) : List Cand :=
  s.blocks.flatMap fun (p : Nat × Block) =>
    let b := p.1
    [Cand.ev (Instr.windowWriteEntry b), Cand.ev (Instr.blockExit b), Cand.ev (Instr.eviction b)] ++ (List.range ((p.2.warps.length + 3) / 4)).map (fun q => Cand.ev (Instr.quartetRendezvous b q))
      ++ (List.range p.2.warps.length).flatMap fun w => [Cand.ev (Instr.supersedeEvent b w), Cand.ev (Instr.sleepDeadline b w), Cand.ev (Instr.transitTick b w), Cand.ev (Instr.twaitDeadline b w)]

/-- Events of the cores: of a core that holds a block, a claimed sequencer or a handler queue. -/
def State.coreEvents (s : State) : List Cand :=
  s.cores.flatMap fun (p : Nat × Core) =>
    let d := p.1 / 132
    let a := p.1 % 132
    [Cand.ev (Instr.bankSeal d a), Cand.ev (Instr.cutInstant d a), Cand.ev (Instr.periodicCut d a), Cand.coreResume d a, Cand.ev (Instr.seqTransition d a), Cand.ev (Instr.seqTimeout d a),
        Cand.ev (Instr.seqWordReplay d a)]
      ++ (List.range p.2.umb.journal.length).map (Cand.journalAck d a)

/-- Events of the domains. -/
def State.domEvents (s : State) : List Cand :=
  s.doms.flatMap fun (p : Nat × Domain) =>
    let d := p.1
    let x := p.2
    x.recs.flatMap (fun (q : Nat × Rec) =>
        (match q.2.kind with | .park _ _ _ => [Cand.ev (Instr.parkRecordWake d q.1), Cand.ev (Instr.parkNeighbourOffer d q.1)] | _ => [Cand.ev (Instr.gridCompletion d q.1)])
          ++ ((List.range 64).filter fun t => q.2.wafer && q.2.st = RecSt.running && q.2.cursor.testBit t).map fun t =>
              Cand.ev (Instr.rangeRecordArrival ((65536 * d + q.1) * 64 + t)))
      ++ (x.fabIn.filterMap fun e => if bodyClass e.msg.body = 0 then some (Cand.c0 e.msg) else if bodyClass e.msg.body = 2 then some (Cand.c2 e.msg) else none)
      ++ x.mcasts.flatMap (fun (q : Nat × Mcast) => [Cand.ev (Instr.multicastWindowClose d q.1), Cand.ev (Instr.lateJoinerResend d q.1)])
      ++ x.objs.flatMap (fun (q : Nat × Obj) => if q.2.st = 2 then [Cand.ev (Instr.promotionDone d q.1)] else if q.2.st = 3 then [Cand.ev (Instr.objectEvictionDone d q.1)] else [])
      ++ [Cand.ev (Instr.promotionServe d), Cand.ev (Instr.promotionAging d), Cand.ev (Instr.dispatchPlacement d), Cand.islandPowerOff d]

/-- Events of the issue engines. -/
def State.issueEvents (s : State) : List Cand :=
  rotateList s.tick.toNat (s.cores.flatMap fun (p : Nat × Core) =>
    let d := p.1 / 132
    let a := p.1 % 132
    [Cand.ev (Instr.handlerStart d a), Cand.ev (Instr.activeSetExchange d a), Cand.ev (Instr.clauseIssue d a 0), Cand.ev (Instr.clauseIssue d a 1)])

/-- The events that may come next, completions before new work. -/
def State.candidates (s : State) : List Cand :=
  s.pinv.map (fun p => Cand.remoteInvalidation p.d p.sec) ++ (s.retries.filter (·.back = 1)).map (fun r => Cand.ev (Instr.homeRetry (r.q, r.line))) ++ s.opEvents
    ++ (s.hdir.filter fun (p : Nat × HomeLine) => p.2.resv.isSome).map (fun p => Cand.ev (Instr.reservationLapse (homeOf (256 * p.1)) p.1))
    ++ s.coreEvents ++ s.domEvents ++ s.blockEvents ++ (if s.svc.tripped then [Cand.thermalTrip] else []) ++ (if s.svc.powered && !s.svc.winOpen then [Cand.bringUp] else [])
    ++ (if s.doms.any fun (p : Nat × Domain) => p.2.lag || (p.2.sidHeld && !p.2.uoff) then [Cand.ev Instr.siderealBeacon] else []) ++ s.issueEvents

/-- A clause issue is followed by a tick. -/
def Cand.then (c : Cand) (t : State) : State :=
  match c with
  | .ev (.clauseIssue _ _ _) => { t with agenda := [.siderealTick 0#64] }
  | _ => t
/-- The first of a list of candidates that is enabled; with none, time passes. -/
def State.firstOf (run : Instr → State → Out) (s : State) : List Cand → Out
  | [] => run (.siderealTick 0#64) s
  | c :: cs =>
    match c.run run s with
    | .next t => .next (c.then t)
    | _ => State.firstOf run s cs
/-- The first candidate that is enabled; a clause issue is followed by a tick; with none, time passes. -/
def State.schedule (run : Instr → State → Out) (s : State) : Out :=
  State.firstOf run s s.candidates

end Sys2Proof.Machine
end

