-- ==== Sys2Proof/Machine/Step.lean ====
section
/-! DEFINITION. One step of the machine, and the state with an instruction placed where the next step issues it. -/

namespace Sys2Proof.Machine

/-- One step: the next event of the agenda; else the word at issue of the warp in focus; else an event the model's scheduler finds. -/
def step (s : State) : Host.Outcome State Fault Refusal :=
  match s.agenda with
  | ev :: rest => if ev.isWord then .refused .notEnabled else exec ev { s with agenda := rest }
  | [] =>
    match s.focus with
    | some (b, w) =>
      match s.atWord b w with
      | .instr i => exec i s
      | .other o => o
    | none => s.schedule exec

/-- The state in which the words `w` stand in the instruction buffer of an open clause that issues next (log 4). -/
def State.withFetchWord (s : State) (nbits w : Nat) : State := s.placed (tableWords nbits w)

end Sys2Proof.Machine
end

