-- ==== Sys2Proof/Safety.lean ====
section
/-! DEFINITION. What counts as a safe run, and the terms claims use: the canonical forms of the state, runs that end in no fault, and the
contexts in which a word at issue passes its checks. -/

namespace Sys2Proof.Machine

/-- The canonical form of memory: addresses strictly rising, no entry equal to what an unlisted byte reads as (logs 2 and 9); `lost`: the domains
that have lost their contents. -/
def Memory.wf (lost : AMap Nat) (m : List Host.Cell) : Bool := mwfBy (unlisted lost) m

/-- The state's memory is in canonical form. -/
abbrev State.memOk (s : State) : Prop := Memory.wf s.lost s.mem = true

/-- A step is safe when it does not fault. -/
def State.stepSafe (s : State) : Prop := ∀ f, step s ≠ .fault f

/-- `n` steps from `s` meet no fault. -/
def State.runSafe : Nat → State → Prop
  | 0, _ => True
  | n + 1, s => s.stepSafe ∧ ∀ t, step s = .next t → State.runSafe n t

/-! ## Words that pass their checks (Table 03-11) -/

/-- The context of the word `i` at issue when a clause is open, the handler slot runs it if it is supervisor's, and its fields are defined
(checks 3 and 4). -/
def ready (i : Instr) (g : BitVec 3) (lit : Option Word) (s : State) : Option Env :=
  match envOf s g lit with
  | none => none
  | some e => if (opSuper i.opcode && !e.blk.isHandler) || !fieldsOk i then none else some e

/-- The context of a register-format word that passes every check: bound registers, v-registers, latches, uniform sources; a row of a bound
o7 popped (R69). -/
def readyReg (i : Instr) (f : RegW) (s : State) : Option Env :=
  match ready i f.g f.lit s with
  | none => none
  | some e =>
    let e' := e.popped ((regSources i.opcode f).contains 71#7)
    if boundOk e.wp i.opcode f && e.vsOk (regVs i.opcode f) && latchOk e.cl i.opcode f && (!uniA i.opcode f || e'.uniform (e'.src f.a))
        && (i.opcode != 0x1C || e'.uniform (e'.src f.b)) then some e' else none

/-- The context of a LOOP that passes every check. -/
def readyLoop (f : LoopW) (s : State) : Option Env :=
  match ready (.loop f) f.g f.lit s with
  | none => none
  | some e => if (loopPre f e).all (·.1) then some (e.popped (f.cnt = 71#7)) else none

/-- The context of a word of another format that passes every check: its v-registers and the uniformity it asks for. -/
def readyWord (i : Instr) (g : BitVec 3) (lit : Option Word) (vs : List Nat) (uni : Env → Bool) (s : State) : Option Env :=
  match ready i g lit s with
  | none => none
  | some e => if e.vsOk vs && uni e then some e else none

/-- Slot `d` can be claimed and some lane of the run has a true guard. -/
def Env.slotFree (e : Env) (d : BitVec 3) : Bool :=
  !((d.toNat < 6 && e.slotBusy d.toNat) || e.s.sidHeld e.loc.d) && e.any

/-- The results of lane or element checks none of which fails or waits. -/
def passed {α : Type} (r : List (Nat × LaneRes α) × State) : Option (List (Nat × α) × State) :=
  if r.1.all (fun p => (laneOk p.2).isSome) then some (r.1.filterMap (fun p => (laneOk p.2).map fun x => (p.1, x)), r.2)
  else none

/-- The state a non-idempotent operation issues from where no epoch is armed, so that it needs no journal entry (R381). -/
def Env.unheld (e : Env) (dev : Bool) (t : State) : State := if dev then t.updWarp e.bid e.w (fun wp => { wp with held := false }) else t
/-- No epoch of the core is armed. -/
def Env.unarmed (e : Env) (t : State) : Prop := e.core.umb.armed = false ∧ (t.core e.loc.d e.loc.a).umb.armed = false

/-- The word `i` has issued with its effect made in `t`: the next word of the clause, or the clause's end (R60). -/
def Env.retires (e : Env) (i : Instr) (t : State) : Out := .next (t.retire e.bid e.w (Instr.words i))

/-- The warp stands at the word's wait in `t`: it has left its port, and channel words that the word's own pop or push lets go on have done so; it exits
at once where a sibling's EXITS is pending. -/
def Env.stands (e : Env) (t : State) : Out := .next (t.stands e.bid e.w)

/-- The state after the release at a scope that a word makes at issue, if it waits for nothing: the warp's accesses are performed, the write-backs
are made, and no invalidation has to be confirmed (R41, R210). -/
def Env.released (e : Env) (s : State) (scp : Nat) : Option State :=
  if e.sq || s.lsBusy e.bid e.w false then none
  else if scp < 2 then some s
  else if e.wp.rel.isSome then none
  else match s.flush e.loc.d (.slice e.loc.d) s.nextOp (scp = 3) with
    | .made t => if State.confirming { t with nextOp := s.nextOp + 1 } s.nextOp then none else some { t with nextOp := s.nextOp + 1 }
    | _ => none
/-- The record at b[BA], with the state after it is read, if every check of R320 passes and nothing waits: aligned, translated, not in a mapped
tile, released, code 0. -/
def Env.recordAt (e : Env) (ba : Nat) (always : Bool) : Option (List Word × State) :=
  match e.translate e.s (e.breg ba).toNat .load 64 with
  | (.ok pa ty, s) =>
    match e.released s 3 with
    | some u =>
      match u.readSector (.slice e.loc.d) e.loc.d [] false (.glob pa) with
      | .ok bs _ t =>
        let ws := recWords bs
        let outside := match s.tileAt pa with | some (_, _, _, false) => false | _ => true
        let r := (t.keepCopy e.loc.d ty (.glob pa)).recCode e.loc.d (if e.blk.isHandler && !always then none else some e.blk.asid) false ws (.core e.loc.d e.loc.a)
        if (e.breg ba).toNat % 64 = 0 && outside && r.1 = some 0 then some (ws, r.2) else none
      | _ => none
    | none => none
  | _ => none
/-- The state after an operation whose outcome `go` is decided at issue, without a journal entry: its result is for s[res] and slot `d`. -/
def Env.once (e : Env) (s : State) (d : BitVec 3) (res : Nat) (go : State → Word × State) : State :=
  let r := go (e.unheld true s)
  e.answered r.2 d [(res, r.1)]

end Sys2Proof.Machine
end

