-- ==== Sys2Proof/WellFormed.lean ====
section
/-! DEFINITION. Well-formed instructions: the words whose fields pass check 4 of Table 03-11 (`fieldsOk`), with their literal where R71 puts one. -/

namespace Sys2Proof

/-- The fields of the instruction take only defined values and its literal is present exactly where R71 asks for it. -/
def Instr.wf (i : Instr) : Bool := fieldsOk i

end Sys2Proof
end

