-- ==== Sys2Proof/Certificates/Slice0/Obligations.lean ====
section
/-! DEFINITION. The statements for the provers. A statement about a word at issue ranges over every state in which the word passes the checks
of Table 03-11 (`ready`, `readyReg`, `readyWord`); `e` is the context it issues in, `Env.retires` the step on to the next word. Witnesses
stand in Tests. -/

namespace Sys2Proof.Spec

open Sys2Proof.Machine

/-! ## Forms of completion -/

/-- A register-format word retires with its effect `t`, whenever it passes its checks and `c` holds. -/
def RegRetires (i : Instr) (f : RegW) (c : Env → Prop) (t : Env → State) : Prop :=
  ∀ s e, readyReg i f s = some e → c e → exec i s = e.retires i (t e)

/-- A register-format word retires with the result `x e L` written for lane L, and nothing else (R67). -/
def Result (i : Instr) (f : RegW) (x : Env → Nat → Word) : Prop :=
  RegRetires i f (fun _ => True) fun e => e.setBlk fun b => b.writeResult e.w (if regFBit i.opcode then 0#1 else f.nw) f.dst e.g (x e)

/-- Results of one source `a`, of two sources `a` and `b`, and of the third source `c` beside them (R155). -/
def One (i : Instr) (f : RegW) (x : Word → Word) : Prop := Result i f fun e L => x (e.src f.a L)
def Two (i : Instr) (f : RegW) (x : Word → Word → Word) : Prop := Result i f fun e L => x (e.src f.a L) (e.src f.b L)
def Three (i : Instr) (f : RegW) (x : Word → Word → Word → Word) : Prop :=
  Result i f fun e L => x (e.third i.opcode f L) (e.src f.a L) (e.src f.b L)

end Sys2Proof.Spec

section
open Sys2Proof Sys2Proof.Machine Sys2Proof.Spec

/-! ## Vector words (06) -/

/-- R158, R163 (Table 06-3, Table 06-7): results of the integer opcodes. -/
def Obligations.IntegerResults : Prop := ∀ f : RegW,
  Two (.iadd f) f (fun a b => a + b) ∧ Two (.isub f) f (fun a b => a - b) ∧ Two (.imul f) f (fun a b => a * b) ∧
  Two (.imulh f) f (fun a b => BitVec.ofInt 32 ((a.toInt * b.toInt) / 2 ^ 32)) ∧ Three (.imad f) f (fun c a b => c + a * b) ∧
  Two (.imin f) f (fun a b => if a.toInt ≤ b.toInt then a else b) ∧ Two (.imax f) f (fun a b => if a.toInt ≤ b.toInt then b else a) ∧
  One (.iabs f) f (fun a => if a.toInt < 0 then 0#32 - a else a) ∧ Three (.iacc f) f (fun c a b => c + a + b) ∧
  Three (.isad f) f isad ∧ Three (.idot4 f) f idot4 ∧
  Three (.addmin f) f (fun c a b => imin32 c (satAdd a b)) ∧ Three (.addmax f) f (fun c a b => imax32 c (satAdd a b)) ∧
  Three (.sel f) f (fun c a b => if c = 0#32 then b else a) ∧ One (.mov f) f (fun a => a) ∧
  Result (.movi f) f (fun _ _ => (f.a ++ f.b).signExtend 32) ∧
  Two (.pack f) f (fun a b => (b &&& 0xFFFF#32) <<< 16 ||| (a &&& 0xFFFF#32))

/-- R158, R159: results of the bit opcodes. -/
def Obligations.BitResults : Prop := ∀ f : RegW,
  Two (.and f) f (fun a b => a &&& b) ∧ Two (.or f) f (fun a b => a ||| b) ∧ Two (.xor f) f (fun a b => a ^^^ b) ∧ One (.not f) f (fun a => ~~~a) ∧
  Two (.shl f) f shl32 ∧ Two (.shr f) f shr32 ∧ Two (.shra f) f shra32 ∧ Two (.rot f) f (fun a b => a.rotateLeft (b.toNat % 32)) ∧
  One (.popc f) f popc32 ∧ One (.clz f) f clz32 ∧ One (.brev f) f brev32 ∧
  Two (.bfe f) f bfe ∧ Three (.bfi f) f bfi ∧ Three (.bymix f) f bymix

/-- R158, R163: the operations behind the integer results are those of integer arithmetic. -/
def Obligations.IntegerOperationValues : Prop := ∀ a b c : Word,
  (BitVec.ofInt 32 ((a.toInt * b.toInt) / 2 ^ 32)).toInt = (a.toInt * b.toInt) / 2 ^ 32 ∧
  (imin32 a b).toInt = min a.toInt b.toInt ∧ (imax32 a b).toInt = max a.toInt b.toInt ∧
  (satAdd a b).toInt = max (-2147483648) (min 2147483647 (a.toInt + b.toInt)) ∧
  (isad c a b).toNat = (c.toNat + (a.toInt - b.toInt).natAbs) % 2 ^ 32 ∧
  idot4 c a b = c + BitVec.ofInt 32 ((byteOf a 0).toInt * (byteOf b 0).toInt + (byteOf a 1).toInt * (byteOf b 1).toInt
    + (byteOf a 2).toInt * (byteOf b 2).toInt + (byteOf a 3).toInt * (byteOf b 3).toInt)

/-- R158, R159: shifts, counts, reversal, bit fields, bit by bit. -/
def Obligations.BitOperationValues : Prop := ∀ a b c : Word,
  (shl32 a b).toNat = a.toNat * 2 ^ b.toNat % 2 ^ 32 ∧ (shr32 a b).toNat = a.toNat / 2 ^ b.toNat ∧
  (∀ i < 32, (shra32 a b).getLsbD i = a.getLsbD (min 31 (i + b.toNat))) ∧
  (∀ i < 32, (brev32 a).getLsbD i = a.getLsbD (31 - i)) ∧
  (a = 0#32 → clz32 a = 32#32) ∧ (a ≠ 0#32 → 2 ^ 31 ≤ a.toNat * 2 ^ (clz32 a).toNat ∧ a.toNat * 2 ^ (clz32 a).toNat < 2 ^ 32) ∧
  (popc32 a).toNat = ((List.range 32).map fun i => (a.getLsbD i).toNat).sum ∧
  (∀ i < 32, (bfi c a b).getLsbD i = if bfPos b ≤ i ∧ i < bfPos b + bfLen b then a.getLsbD (i - bfPos b) else c.getLsbD i) ∧
  (∀ i < 32, (bfe a b).getLsbD i =
    if i < bfLen b then a.getLsbD (bfPos b + i) else (b.getLsbD 16 && decide (0 < bfLen b) && a.getLsbD (bfPos b + bfLen b - 1))) ∧
  (∀ i < 4, byteOf (bymix c a b) i = bymixByte a b (c.toNat / 2 ^ (6 * i) % 64))

/-- R161 to R165, R169 (Tables 06-5 to 06-7, 06-9): results of the FP32 opcodes and of the uncounted packed ones: each one rounding of an exact value. It
rests on the model's choices of log 7. -/
def Obligations.FloatResults : Prop := ∀ f : RegW,
  Two (.fadd f) f (fun a b => rn32 ((f32 a).add (f32 b))) ∧ Two (.fsub f) f (fun a b => rn32 ((f32 a).add (f32 (b ^^^ 0x80000000#32)))) ∧
  Two (.fmul f) f (fun a b => rn32 ((f32 a).mul (f32 b))) ∧ Three (.ffma f) f (fun c a b => rn32 ((f32 c).add ((f32 a).mul (f32 b)))) ∧
  Two (.fmin f) f fmin32 ∧ Two (.fmax f) f fmax32 ∧ Three (.fclmp f) f (fun c lo hi => if flt32 hi lo then hi else fmin32 (fmax32 c lo) hi) ∧
  Two (.fscale f) f fscale32 ∧ One (.fexp f) f fexp32 ∧ One (.frnd f) f (frnd32 (f.b.toNat % 4)) ∧
  One (.rcp f) f rcp32 ∧ One (.rsq f) f rsq32 ∧ One (.sqrt f) f sqrt32 ∧ One (.exp2 f) f exp232 ∧ One (.log2 f) f log232 ∧
  Two (.hmin2 f) f (packedMinmax (hfmt f) false) ∧ Two (.hmax2 f) f (packedMinmax (hfmt f) true) ∧
  Three (.dot2 f) f (fun c a b => rn32 (sumVals [f32 c, ((hfmt f).val (half a 0)).prod ((hfmt f).val (half b 0)),
    ((hfmt f).val (half a 1)).prod ((hfmt f).val (half b 1))])) ∧
  Three (.dot4 f) f (fun c a b => let m := bin8 (if f.nw = 1#1 then 9 else 13)
    rn32 (sumVals (f32 c :: (List.range 4).map fun j => (m.val (byteOf a j).toNat).prod (m.val (byteOf b j).toNat)))) ∧
  Three (.scmax f) f scmax32 ∧ One (.scext f) f (scext (f.b.toNat % 32)) ∧
  Result (.scins f) f (fun e L => setByte (e.third 0x69 f L) (f.b.toNat % 4) (byteOf (e.src f.a L) 0))

/-- R161, R162 (Tables 06-5, 06-6): special values of the FP32 operations. Any NaN input, Inf − Inf and 0 × Inf give the canonical NaN; an infinite
term of a sum stays; x − x is +0, −0 − 0 is −0; minimum and maximum pass over one NaN, not over two, and hold −0 below +0; the special inputs of the
transcendentals; a value of the format rounds to itself. -/
def Obligations.FloatSpecialValues : Prop :=
  (∀ a b : Word, isNaN32 a = true ∨ isNaN32 b = true → fadd32 a b = 0x7FC00000#32 ∧ fmul32 a b = 0x7FC00000#32) ∧
  (∀ a : Word, isNaN32 a = true → rcp32 a = 0x7FC00000#32 ∧ rsq32 a = 0x7FC00000#32 ∧ sqrt32 a = 0x7FC00000#32 ∧ exp232 a = 0x7FC00000#32 ∧
    log232 a = 0x7FC00000#32 ∧ ∀ n m, fscale32 a n = 0x7FC00000#32 ∧ frnd32 m a = 0x7FC00000#32) ∧
  (∀ a b : Word, isNaN32 a = true → isNaN32 b = false → fmin32 a b = b ∧ fmax32 a b = b ∧ fmin32 b a = b ∧ fmax32 b a = b) ∧
  (∀ a b : Word, isNaN32 a = true → isNaN32 b = true → fmin32 a b = 0x7FC00000#32 ∧ fmax32 a b = 0x7FC00000#32) ∧
  (∀ a : Word, isNaN32 a = false → rn32 (f32 a) = a) ∧
  (∀ a : Word, isNaN32 a = false → (a ≠ 0xFF800000#32 → fadd32 0x7F800000#32 a = 0x7F800000#32 ∧ fadd32 a 0x7F800000#32 = 0x7F800000#32) ∧
    (a ≠ 0x7F800000#32 → fadd32 0xFF800000#32 a = 0xFF800000#32 ∧ fadd32 a 0xFF800000#32 = 0xFF800000#32)) ∧
  (∀ a : Word, isNaN32 a = false → a &&& 0x7FFFFFFF#32 ≠ 0x7F800000#32 → fadd32 a (a ^^^ 0x80000000#32) = 0#32) ∧
  fadd32 0x80000000#32 0x80000000#32 = 0x80000000#32 ∧
  fadd32 0x7F800000#32 0xFF800000#32 = 0x7FC00000#32 ∧ fadd32 0xFF800000#32 0x7F800000#32 = 0x7FC00000#32 ∧
  (∀ z ∈ [0#32, 0x80000000#32], ∀ i ∈ [0x7F800000#32, 0xFF800000#32], fmul32 z i = 0x7FC00000#32 ∧ fmul32 i z = 0x7FC00000#32) ∧
  (∀ p ∈ [(0#32, 0x80000000#32), (0x80000000#32, 0#32)], fmin32 p.1 p.2 = 0x80000000#32 ∧ fmax32 p.1 p.2 = 0#32) ∧
  (∀ a : Word, isNaN32 a = false → a.getLsbD 31 = true → a ≠ 0x80000000#32 →
    rsq32 a = 0x7FC00000#32 ∧ sqrt32 a = 0x7FC00000#32 ∧ log232 a = 0x7FC00000#32) ∧
  [0#32, 0x80000000#32, 0x7F800000#32, 0xFF800000#32].map (fun a => (rcp32 a, exp232 a)) = [(0x7F800000#32, 0x3F800000#32),
    (0xFF800000#32, 0x3F800000#32), (0#32, 0x7F800000#32), (0x80000000#32, 0#32)] ∧
  [0#32, 0x80000000#32, 0x7F800000#32].map (fun a => (rsq32 a, sqrt32 a, log232 a)) = [(0x7F800000#32, 0#32, 0xFF800000#32),
    (0xFF800000#32, 0x80000000#32, 0xFF800000#32), (0#32, 0x7F800000#32, 0x7F800000#32)]

/-- R164, R166 to R168, R94, R103, R156: the counted opcodes write one RoundTo per element from the lane's draw, advance the generator of the
lanes with a true guard under stochastic rounding only, and count the events of the run's live lanes under the warp's TID. -/
def Obligations.CountedResults : Prop :=
  let counted := fun (i : Instr) (f : RegW) (stochastic : Bool) (x : Env → Nat → Word → Word × List NumEvent) =>
    RegRetires i f (fun _ => True) fun e =>
      let y := fun L => x e L (e.lane L).gen
      let s := e.setBlk fun b => b.writeResult e.w (if regFBit i.opcode then 0#1 else f.nw) f.dst e.g fun L => (y L).1
      let s := if stochastic then s.updWarp e.bid e.w fun wp => wp.updLanes e.g fun _ ln => { ln with gen := advGen ln.gen } else s
      s.updBlock e.bid fun b => b.count e.wp.tid ((lanesOf e.contrib).flatMap fun L => (y L).2)
  let pair := fun (f : RegW) (i : Instr) (x : Val → Val → Val → Val) =>
    counted i f false fun e L _ =>
      let r := fun j => (hfmt f).round 0 0#32
        (x ((hfmt f).val (half (e.third i.opcode f L) j)) ((hfmt f).val (half (e.src f.a L) j)) ((hfmt f).val (half (e.src f.b L) j)))
      (BitVec.ofNat 32 ((r 0).1 + 65536 * (r 1).1), [(r 0).2, (r 1).2])
  ∀ f : RegW,
    pair f (.hadd2 f) (fun _ a b => a.add b) ∧ pair f (.hmul2 f) (fun _ a b => a.mul b) ∧ pair f (.hfma2 f) (fun c a b => c.add (a.mul b)) ∧
    counted (.cvt f) f (f.b.toNat / 32 = 2) (fun e L r =>
      ((cvt (f.b.toNat % 32) (f.b.toNat / 32) r (e.src f.a L)).1, [(cvt (f.b.toNat % 32) (f.b.toNat / 32) r (e.src f.a L)).2])) ∧
    (∀ l : Word, f.lit = some l →
      counted (.pkcv f) f (l.toNat / 32 % 4 = 2) (fun e L r =>
        let p := roundTo (l.toNat % 32) (l.toNat / 32 % 4) r (f32 (e.src f.a L))
        (if l.toNat % 32 ≤ 27 then setByte (e.third 0x66 f L) (l.toNat / 128 % 4) (BitVec.ofNat 8 p.1)
         else setHalf (e.third 0x66 f L) (l.toNat / 128 % 4 / 2) (BitVec.ofNat 16 p.1), [p.2]))) ∧
    (∀ l : Word, f.lit = some l →
      counted (.xpcv f) f false (fun e L _ =>
        let k := l.toNat / 128 % 4
        let v := if l.toNat % 32 = 28 ∨ l.toNat % 32 = 29 then valOf (l.toNat % 32) (half (e.src f.a L) (k / 2))
          else valOf (l.toNat % 32) (byteOf (e.src f.a L) k).toNat
        if l.getLsbD 9 then
          let p := fp32.round 0 0#32 (v.mx (byteOf (e.third 0x67 f L) (l.toNat / 1024 % 4)).toNat)
          (BitVec.ofNat 32 p.1, [p.2])
        else (rn32 v, [])))

/-- R160: ICMP and FCMP set the predicate named by dst in every lane with a true guard, and nothing else; a NaN makes every FCMP condition
false but NE and NAN; −0 equals +0. -/
def Obligations.CompareResults : Prop :=
  (∀ f : RegW,
    RegRetires (.icmp f) f (fun _ => True) (fun e => e.setWarp fun wp => wp.updLanes e.g fun L ln =>
      ln.setPred (f.dst.toNat % 8) (icmp (f.nw = 1#1) (f.dst.toNat / 8) (e.src f.a L) (e.src f.b L))) ∧
    RegRetires (.fcmp f) f (fun _ => True) (fun e => e.setWarp fun wp => wp.updLanes e.g fun L ln =>
      ln.setPred (f.dst.toNat % 8) (fcmp (f.dst.toNat / 8) (e.src f.a L) (e.src f.b L)))) ∧
  (∀ a b : Word,
    icmp false 0 a b = decide (a.toInt = b.toInt) ∧ icmp false 1 a b = decide (a.toInt ≠ b.toInt) ∧ icmp false 2 a b = decide (a.toInt < b.toInt) ∧
    icmp false 3 a b = decide (a.toInt ≤ b.toInt) ∧ icmp false 4 a b = decide (a.toInt > b.toInt) ∧ icmp false 5 a b = decide (a.toInt ≥ b.toInt) ∧
    icmp true 0 a b = decide (a = b) ∧ icmp true 1 a b = decide (a ≠ b) ∧ icmp true 2 a b = decide (a.toNat < b.toNat) ∧
    icmp true 3 a b = decide (a.toNat ≤ b.toNat) ∧ icmp true 4 a b = decide (a.toNat > b.toNat) ∧ icmp true 5 a b = decide (a.toNat ≥ b.toNat)) ∧
  (∀ (a b : Word) (c : Nat), c < 8 → isNaN32 a = true ∨ isNaN32 b = true → fcmp c a b = decide (c = 1 ∨ c = 7)) ∧
  (∀ c < 6, fcmp c 0x80000000#32 0#32 = fcmp c 0#32 0#32)

/-- R170 to R172: exchanges read what the source lane supplies: lane i XOR s of the quad, lane s of the quad, the quad's sum in the order (0 + 1) + (2 + 3),
the lane n below (the third source where it lies outside), rotated, one lane for all, the lane srcB names. It rests on the model's choices of log 86. -/
def Obligations.ExchangeResults : Prop := ∀ f : RegW,
  Result (.qxch f) f (fun e L => e.supply f.a (L / 4 * 4 + ((L % 4) ^^^ (f.b.toNat % 4)))) ∧
  Result (.qbc f) f (fun e L => e.supply f.a (L / 4 * 4 + f.b.toNat % 4)) ∧
  Result (.qsum f) f (fun e L =>
    let v := fun i => e.supply f.a (L / 4 * 4 + i)
    if f.b.getLsbD 0 then (v 0 + v 1) + (v 2 + v 3) else fadd32 (fadd32 (v 0) (v 1)) (fadd32 (v 2) (v 3))) ∧
  Result (.lidx f) f (fun e L => e.supply f.a ((e.src f.b L).toNat % 32)) ∧
  (let lane := fun (i : Instr) (x : Env → Word → Nat → Word) =>
    RegRetires i f (fun e => e.uniform (e.src f.b) = true) fun e => e.setBlk fun b => b.writeResult e.w f.nw f.dst e.g (x e (e.uni f.b))
   lane (.lshf f) (fun e n L =>
      let j : Int := (L : Int) - n.toInt
      if 0 ≤ j ∧ j ≤ 31 then e.supply f.a j.toNat else e.third 0x70 f L) ∧
   lane (.lrot f) (fun e n L => e.supply f.a (((L : Int) - n.toInt) % 32).toNat) ∧
   lane (.lbc f) (fun e k _ => e.supply f.a (k.toNat % 32)))

/-- R173, R174: WRED combines the contributing lanes' values in the tree over neighbours and writes the result in every lane with a true guard;
WSCAN folds them in ascending lane order up to and including the lane (exclusive: below it); the identity where there is none. -/
def Obligations.ReduceScanResults : Prop := ∀ f : RegW,
  RegRetires (.wred f) f (fun _ => True) (fun e => e.setBlk fun b => b.writeResult e.w f.nw f.dst e.g fun _ =>
    let op := f.b.toNat % 16
    let x0 := (List.range 32).map fun L => if e.contrib.getLsbD L then some (e.src f.a L) else none
    ((redLevel op (redLevel op (redLevel op (redLevel op (redLevel op x0))))).headD none).getD (redId op)) ∧
  Result (.wscan f) f (fun e L =>
    let op := f.b.toNat % 16
    let ls := (lanesOf e.contrib).filter fun i => if f.b.getLsbD 4 then i < L else i ≤ L
    (ls.foldl (fun acc i => comb op acc (some (e.src f.a i))) none).getD (redId op))

/-- R173: a reduction by a wrapping, minimum, maximum or bitwise operation over values that every lane contributes is their fold from lane 0,
so that the shape of its tree does not show. -/
def Obligations.ReduceTreeIsFold : Prop := ∀ (op : Nat) (xs : List Word), op ∈ [0, 1, 2, 6, 7, 8] → xs.length = 32 →
  ((redLevel op (redLevel op (redLevel op (redLevel op (redLevel op (xs.map some)))))).headD none).getD (redId op) = xs.foldl (redOp op) (redId op)

/-- R95, R175, R176: RNDS seeds the generator of the lanes with a true guard, never with 0; RND delivers it, or its 24 high bits as a fraction,
and advances it; the advance never reaches 0 from another value and is one-to-one. -/
def Obligations.RandomWords : Prop :=
  (∀ f : RegW,
    RegRetires (.rnds f) f (fun _ => True) (fun e => e.setWarp fun wp => wp.updLanes e.g fun L ln =>
      let g := e.src f.a L ^^^ (e.src f.b L * 0x9E3779B9#32)
      { ln with gen := if g = 0#32 then 1#32 else g }) ∧
    RegRetires (.rnd f) f (fun _ => True) (fun e =>
      (e.setBlk fun b => b.writeResult e.w f.nw f.dst e.g fun L =>
        if f.b.getLsbD 0 then rn32 (.fin false ((e.lane L).gen.toNat / 256) (-24) false) else (e.lane L).gen).updWarp e.bid e.w fun wp =>
          wp.updLanes e.g fun _ ln => { ln with gen := advGen ln.gen })) ∧
  (∀ g h : Word, advGen g = advGen h → g = h) ∧ (∀ g : Word, g ≠ 0#32 → advGen g ≠ 0#32)

/-! ## Control words (05) -/

/-- R132, R133, R134, R60, R107, R115, R116, R117: NOP has no effect; YIELD places the warp last; a taken branch sets the PC of the lanes with a true
guard to the word's PC plus 4 × OFF, or to their own aligned source, and pops the loops that exclude the target. -/
def Sys2Proof.Spec.BranchWords : Prop :=
  (∀ f, RegRetires (.nop f) f (fun _ => True) fun e => e.s) ∧
  (∀ f, RegRetires (.yield f) f (fun _ => True) fun e => if e.any then e.setWarp fun wp => { wp with yielded := true } else e.s) ∧
  (∀ (f : BrW) (s : State) (e : Env), readyWord (.bra f) f.g none [] (fun _ => true) s = some e →
    exec (.bra f) s = e.retires (.bra f) (e.setWarp fun wp =>
      { wp.updLanes e.gr (fun _ ln =>
          let t := e.cl.wordPc + BitVec.ofInt 32 (4 * f.off.toInt)
          { ln.popLoops (fun l => !(decide (l.start ≤ t) && decide (t ≤ l.stop))) ln.loops with pc := t })
        with clause := some { e.cl with setpc := e.cl.setpc ||| e.gr } })) ∧
  (∀ f, RegRetires (.brx f) f (fun e => ∀ L < 32, e.gr.getLsbD L = true → (e.src f.a L).toNat % 4 = 0) fun e => e.setWarp fun wp =>
      { wp.updLanes e.gr (fun L ln =>
          { ln.popLoops (fun l => !(decide (l.start ≤ e.src f.a L) && decide (e.src f.a L ≤ l.stop))) ln.loops with pc := e.src f.a L })
        with clause := some { e.cl with setpc := e.cl.setpc ||| e.gr } })

/-- R133 to R135, R117: a call of a lane with fewer than eight frames pushes the PC after the clause and the frame base, and takes its loop count
as the new base; RET of a lane with a frame pops its loops above the base and restores both; either sets the PC of the lanes with a true guard only. -/
def Sys2Proof.Spec.CallsAndReturns : Prop :=
  let called := fun (e : Env) (t : Nat → Word) => e.setWarp fun wp =>
    { wp.updLanes e.gr (fun L ln => { ln with calls := (e.nextPc, ln.fb) :: ln.calls, fb := ln.loops.length, pc := t L })
      with clause := some { e.cl with setpc := e.cl.setpc ||| e.gr } }
  let room := fun (e : Env) => ∀ L < 32, e.gr.getLsbD L = true → (e.lane L).calls.length ≠ 8
  (∀ (f : BrW) (s : State) (e : Env), readyWord (.call f) f.g none [] (fun _ => true) s = some e → room e →
    exec (.call f) s = e.retires (.call f) (called e fun _ => e.cl.wordPc + BitVec.ofInt 32 (4 * f.off.toInt))) ∧
  (∀ f, RegRetires (.callx f) f (fun e => room e ∧ ∀ L < 32, e.gr.getLsbD L = true → (e.src f.a L).toNat % 4 = 0) fun e => called e (e.src f.a)) ∧
  (∀ f, RegRetires (.ret f) f (fun e => ∀ L < 32, e.gr.getLsbD L = true → (e.lane L).calls ≠ []) fun e => e.setWarp fun wp =>
    { wp.updLanes e.gr (fun _ ln =>
        let ln' := ln.popLoops (fun _ => true) ln.loops
        match ln'.calls with
        | (pc, fb) :: rest => { ln' with pc := pc, fb := fb, calls := rest }
        | [] => ln')
      with clause := some { e.cl with setpc := e.cl.setpc ||| e.gr } })

/-- R115, R118, R136, R137: LOOP arms its counter in the lanes with a true guard and a count other than 0 and sends the run's other lanes past the
body; RPT sets the repeat count of the whole run, at most 4,096. -/
def Obligations.LoopsComplete : Prop :=
  (∀ (f : LoopW) (s : State) (e : Env), readyLoop f s = some e →
    (∀ L < 32, e.gr.getLsbD L = true → ∀ l ∈ (e.lane L).loops, l.c ≠ f.c.toNat) →
    exec (.loop f) s = e.retires (.loop f) (
      let stop := e.cl.wordPc + BitVec.ofNat 32 (4 * f.stop.toNat)
      let arm := maskOf fun L => e.gr.getLsbD L && e.src f.cnt L != 0#32
      let skip := e.cl.run &&& ~~~arm
      (e.setWarp fun wp => wp.updLanes arm fun L ln =>
        { ln.setCtr f.c.toNat (e.src f.cnt L) with loops := ⟨f.c.toNat, e.nextPc, stop⟩ :: ln.loops }).updWarp e.bid e.w fun wp =>
          { wp.updLanes skip (fun _ ln => { ln with pc := stop + 4#32 }) with clause := some { e.cl with setpc := e.cl.setpc ||| skip } })) ∧
  (∀ f, RegRetires (.rpt f) f (fun e => e.any = true ∧ (e.uni f.a).toNat ≤ 4096) fun e =>
    e.setWarp fun wp => { wp with rep := (e.uni f.a).toNat, reprun := e.cl.run }) ∧
  (∀ f, RegRetires (.rpt f) f (fun e => e.any = false) fun e => e.s)

/-- R138, R139: EXIT makes exit helpers of the lanes with a true guard, or exited lanes once their quad is done; EXITS also abandons the block. -/
def Obligations.ExitsComplete : Prop := ∀ f : RegW,
  RegRetires (.exit f) f (fun e => e.blk.isHandler = false) (fun e => e.setWarp fun wp => wp.exitLanes e.gr) ∧
  RegRetires (.exits f) f (fun e => e.any = true ∧ e.blk.isHandler = false) (fun e => e.setBlk fun b =>
    (b.updWarp e.w fun wp => wp.exitLanes e.gr).abandon e.w) ∧
  RegRetires (.exits f) f (fun e => e.any = false) (fun e => e.s)

/-- R119 to R121, R140: with all its lanes in one run, every guard true, a count of at most 16 that fits the block and the phase, no earlier access
outstanding and the object unbroken, BAR and BARM arrive and stand at the barrier (leaving their port), BARA arrives and goes on with the phase's
status; each makes the completion test. An arrival hands on whatever the warp has in its past (R34); BARM, and BARA with P, order it before matrix
reads too (R47). BARW stands until the phase of the warp's BARA is over, or goes on at once if it is, or with broken status if the object is
broken. -/
def Sys2Proof.Spec.BarrierWords : Prop :=
  let whole := fun (e : Env) => e.any = true ∧ e.gr = e.cl.run ∧ e.cl.run = e.wp.present
  let arrives := fun (e : Env) (k n : Nat) => whole e ∧ n ≤ 16 ∧ n ≤ e.blk.warps.length ∧ e.s.lsBusy e.bid e.w false = false ∧
    (e.blk.bar k).brk = false ∧ ((e.blk.bar k).set = true → (e.blk.bar k).exp = n) ∧ (e.blk.warp e.w).arr.getLsbD k = false
  let arrived := fun (e : Env) (k n : Nat) =>
    (e.blk.setBar k { e.blk.bar k with exp := n, set := true, cnt := (e.blk.bar k).cnt + 1 }).updWarp e.w fun wp =>
      { wp with arr := wp.arr ||| BitVec.twoPow 16 k }
  let past := fun (b : Block) (e : Env) (k : Nat) (pth : Bool) =>
    (if pth then b.hbJoin (.own e.w) else b).hb (.own e.w) (barAgent k (b.bar k).ph)
  let stands := fun (i : Instr) (f : RegW) (pth : Bool) => ∀ s e, readyReg i f s = some e → arrives e (f.dst.toNat % 16) (e.uni f.a).toNat →
    exec i s = e.stands ((e.s.setBlock e.bid ((past (arrived e (f.dst.toNat % 16) (e.uni f.a).toNat) e (f.dst.toNat % 16) pth).updWarp e.w
        fun wp => { wp with wait := some (.barrier (f.dst.toNat % 16) f.b e.gr pth) })).updBlock e.bid (·.testBar (f.dst.toNat % 16)))
  (∀ f, stands (.bar f) f false) ∧ (∀ f, stands (.barm f) f true) ∧
  (∀ f, RegRetires (.bara f) f (fun e => arrives e (f.dst.toNat % 16) (e.uni f.a).toNat) fun e =>
    let k := f.dst.toNat % 16
    let b := past (arrived e k (e.uni f.a).toNat) e k (f.dst.getLsbD 4)
    let b := (b.updWarp e.w fun wp => { wp with bara := mput wp.bara k (b.bar k).ph.toNat }).testBar k
    e.s.setBlock e.bid (b.updWarp e.w fun wp => wp.status f.b e.gr (b.bar k).brk (barStatus (b.bar k).brk (b.bar k).ph))) ∧
  (∀ f s e, readyReg (.barw f) f s = some e → whole e → e.s.lsBusy e.bid e.w true = false →
    let k := f.dst.toNat % 16
    let x := e.blk.bar k
    let t := e.setWarp fun wp => { wp with bara := mdel wp.bara k }
    let waits := e.stands (t.updWarp e.bid e.w fun wp => { wp with wait := some (.barrier k f.b e.gr (f.dst.getLsbD 4)) })
    ((mfind e.wp.bara k ≠ none ∨ e.wp.arr.getLsbD k = true) → x.brk = true →
      exec (.barw f) s = e.retires (.barw f) (t.updWarp e.bid e.w fun wp => wp.status f.b e.gr true (barStatus true x.ph))) ∧
    (∀ ph, mfind e.wp.bara k = some ph → x.brk = false →
      (x.ph.toNat ≠ ph → exec (.barw f) s = e.retires (.barw f) (t.updBlock e.bid fun b =>
        (b.depart k (BitVec.ofNat 16 ph) e.w (f.dst.getLsbD 4)).updWarp e.w fun wp => wp.status f.b e.gr false (barStatus false x.ph))) ∧
      (x.ph.toNat = ph → exec (.barw f) s = waits)) ∧
    (mfind e.wp.bara k = none → e.wp.arr.getLsbD k = true → x.brk = false → exec (.barw f) s = waits))

/-- R119, R121: a phase completes exactly when its object is set, unbroken and has the count it expects: the phase number rises by one, the count and the
arrivals are cleared; otherwise the test changes nothing. It rests on the model's choices of log 94. -/
def Sys2Proof.Spec.BarrierPhases : Prop := ∀ (b : Block) (k : Nat),
  let x := b.bar k
  let full := x.set = true ∧ x.brk = false ∧ x.cnt = (if x.exp = 0 then b.liveWarps else x.exp)
  (full → (b.testBar k).bar k = { x with ph := x.ph + 1, cnt := 0, set := false } ∧ (∀ j, j ≠ k → (b.testBar k).bar j = b.bar j) ∧
    (b.testBar k).rf = b.rf ∧ (b.testBar k).scr = b.scr ∧
    ∀ w < b.warps.length, ((b.testBar k).warp w).arr.getLsbD k = false) ∧ (¬ full → b.testBar k = b)

/-- R141, R142, R143, R144, R153: VOTE writes the ballot of the contributing lanes and their vote; PLOP the table's bit for two predicates; MOVS a special
register, MOV from a captured counter high half; SMOV the s-register and the latches; MOVSYS a system register. It rests on the model's choices of log 93. -/
def Sys2Proof.Spec.VotesAndMoves : Prop := ∀ f : RegW,
  RegRetires (.vote f) f (fun _ => True) (fun e =>
    let ballot := maskOf fun L => e.contrib.getLsbD L && ((e.lane L).pred (f.a.toNat % 8) != f.a.getLsbD 3)
    let r : Bool := match f.b.toNat / 8 % 4 with | 0 => ballot = e.contrib | 1 => ballot != 0#32 | _ => ballot = 0#32 || ballot = e.contrib
    (e.setBlk fun x => x.writeResult e.w f.nw f.dst e.g fun _ => ballot).updWarp e.bid e.w fun wp =>
      wp.updLanes e.g fun _ ln => ln.setPred (f.b.toNat % 8) r) ∧
  RegRetires (.plop f) f (fun _ => True) (fun e => e.setWarp fun wp => wp.updLanes e.g fun _ ln =>
    ln.setPred f.dst.toNat (f.b.getLsbD (2 * (ln.pred (f.a.toNat % 8)).toNat + (ln.pred (f.a.toNat / 8 % 8)).toNat))) ∧
  RegRetires (.movs f) f (fun e => (f.a = 12#7 ∨ f.a = 13#7) → e.s.sidHeld e.loc.d = false) (fun e =>
    let cap := if f.a = 12#7 && e.any then some (e.s.sid e.loc.d) else e.wp.scap
    (e.setWarp fun wp => { wp with scap := cap }).updBlock e.bid fun b => b.writeResult e.w f.nw f.dst e.g (e.special cap f.a.toNat)) ∧
  RegRetires (.smov f) f (fun e => e.any = true) (fun e =>
    (e.setWarp fun wp => wp.setS (f.dst.toNat % 16) (e.uni f.a)).updBlock e.bid fun b => b.writeResult e.w 1#1 63#6 e.g fun _ => e.uni f.a) ∧
  Result (.movsys f) f (fun e _ => e.sysreg (f.b.toNat % 64))

/-- R124, R146: a claim that waits alone ends once its warp's slots have completed and the free rows cover it: the warp holds `n` registers. -/
def Sys2Proof.Spec.ClaimsEnd : Prop := ∀ (b : Block) (w n k : Nat),
  b.claims = [w] → w < b.warps.length → (b.warp w).clause ≠ none → (b.warp w).wait = some (.regclaim n) → (b.warp w).settled = true → countOk n = true → (b.warp w).vcnt ≤ n →
  n - (b.warp w).vcnt ≤ b.freeRows.length →
  ((b.serveClaims (k + 1)).warp w).vcnt = n ∧ ((b.serveClaims (k + 1)).warp w).wait = none ∧ (b.serveClaims (k + 1)).claims = [] ∧
  (b.serveClaims (k + 1)).rf = b.rf

/-- R124, R145, R146, R147: REGGIVE gives up registers from the top and REGCLAIM waits in the block's queue for more; SETTID names the tensor; QBIND binds or
unbinds o6 or o7. It rests on the model's choices of log 10. -/
def Sys2Proof.Spec.RegistersAndBindings : Prop := ∀ f : RegW,
  RegRetires (.reggive f) f (fun e => e.any = true ∧ e.wp.pend = 0#6 ∧ e.wp.d6 = 0 ∧ (e.uni f.a).toNat % 8 = 0 ∧ 8 ≤ (e.uni f.a).toNat ∧
      (e.uni f.a).toNat ≤ 64 ∧ (e.uni f.a).toNat ≤ e.wp.vcnt) (fun e => e.setBlk fun b =>
    ((b.updWarp e.w fun wp => { wp with rows := wp.rows.take (e.uni f.a).toNat }).clearRows (e.wp.rows.drop (e.uni f.a).toNat)).serveClaims 16) ∧
  (∀ s e, readyReg (.regclaim f) f s = some e → e.any = true → exec (.regclaim f) s = e.stands ((e.setBlk fun b =>
    Block.updWarp { b with claims := b.claims ++ [e.w] } e.w fun wp => { wp with wait := some (.regclaim (e.uni f.a).toNat) }).settleClaims e.bid)) ∧
  RegRetires (.settid f) f (fun e => e.any = true ∧ (e.uni f.a).toNat ≤ 63) (fun e => e.setWarp fun wp => { wp with tid := (e.uni f.a).toNat }) ∧
  (∀ b' : Env → Block, RegRetires (.qbind f) f (fun e => e.any = true ∧ f.a.getLsbD 3 = true ∧ e.blk.openChan (f.a.toNat % 8) = some (b' e)) fun e =>
    e.s.setBlock e.bid ((b' e).updWarp e.w fun wp => if f.dst = 7#6 then { wp with bnd7 := some (f.a.toNat % 8) } else { wp with bnd6 := some (f.a.toNat % 8) })) ∧
  RegRetires (.qbind f) f (fun e => e.any = true ∧ f.a.getLsbD 3 = false) (fun e =>
    e.s.setBlock e.bid (e.blk.updWarp e.w fun wp => if f.dst = 7#6 then { wp with bnd7 := none } else { wp with bnd6 := none }))

/-- R122, R123, R148, R70: a CHPUT or CHGET whose channel is open or can be opened moves its row at once where the channel serves it (CHPUT: below 16 rows,
closed or broken; CHGET: a row, closed or broken), and otherwise stands at the channel; CHCLOSE closes it. It rests on the model's choices of logs 74 and 84.
-/
def Obligations.ChannelWordsComplete : Prop :=
  let moves := fun (i : Instr) (f : RegW) (c : Nat) (loads : Bool) (wt : Env → Wait) => ∀ s e b,
    readyReg i f s = some e → e.any = true → e.blk.openChan c = some b → e.s.lsBusy e.bid e.w loads = false →
    (∀ b', b.chanServe e.w (wt e) = some b' → exec i s = e.retires i (e.s.setBlock e.bid b')) ∧
    (b.chanServe e.w (wt e) = none →
      exec i s = e.stands (e.s.setBlock e.bid (b.updWarp e.w fun wp => { wp with wait := some (wt e) })))
  (∀ f, moves (.chput f) f (f.dst.toNat % 8) false fun e => .chput (f.dst.toNat % 8) (mkRow e.contrib (e.src f.a)) f.b e.gr) ∧
  (∀ f, moves (.chget f) f (f.a.toNat % 8) true fun e => .chget (f.a.toNat % 8) f.nw f.dst f.b e.g e.gr) ∧
  (∀ f, RegRetires (.chclose f) f (fun e => e.any = true) fun e =>
    e.setBlk fun b => b.setChan (f.dst.toNat % 8) { b.chan (f.dst.toNat % 8) with cls := true }) ∧
  (∀ (b : Block) (w c : Nat) (row : ChRow) (sf : BitVec 7) (g : Mask), (b.chanServe w (.chput c row sf g)).isSome =
    ((b.chan c).brk || (b.chan c).cls || decide ((b.chan c).q.length < 16))) ∧
  (∀ (b : Block) (w c : Nat) (nw : BitVec 1) (dst : BitVec 6) (sf : BitVec 7) (g gr : Mask), (b.chanServe w (.chget c nw dst sf g gr)).isSome =
    ((b.chan c).brk || (b.chan c).cls || !(b.chan c).q.isEmpty))

/-- R149: SLEEP sets DL to the domain's count plus its operand; it goes on at once for 0 and stands till then for more. -/
def Sys2Proof.Spec.SleepDeadline : Prop := ∀ (f : RegW) (s : State) (e : Env),
  readyReg (.sleep f) f s = some e → e.any = true → e.s.sidHeld e.loc.d = false →
  let t := e.setWarp fun wp => { wp with dl := e.s.sid e.loc.d + (e.uni f.a).setWidth 64 }
  (e.uni f.a = 0#32 → exec (.sleep f) s = e.retires (.sleep f) t) ∧
  (e.uni f.a ≠ 0#32 → exec (.sleep f) s = e.stands (t.updWarp e.bid e.w fun wp => { wp with wait := some .sleep }))

/-- R150: TRAP takes SOFTWARE for the contributing lanes with the info of its operand; ASSERT takes ASSERT for the contributing lanes whose predicate
fails; with no such lane either goes on. -/
def Sys2Proof.Spec.SoftwareTrapWords : Prop := ∀ (f : RegW) (s : State) (e : Env),
  (readyReg (.trap f) f s = some e →
    (e.contrib = 0#32 → exec (.trap f) s = e.retires (.trap f) e.s) ∧
    (e.contrib ≠ 0#32 → exec (.trap f) s = .next (s.takeTrap e.bid e.w .software e.contrib 0#80 (e.uni f.a)))) ∧
  (readyReg (.assert f) f s = some e →
    let bad := maskOf fun L => e.contrib.getLsbD L && !((e.lane L).pred (f.a.toNat % 8) != f.a.getLsbD 3)
    (bad = 0#32 → exec (.assert f) s = e.retires (.assert f) e.s) ∧
    (bad ≠ 0#32 → exec (.assert f) s = .next (s.takeTrap e.bid e.w .assert bad 0#80 (e.uni f.b))))

/-- R125 to R128, R151 to R153: in the handler slot TRET resumes the warp its operand names at the trapping word or after it, KILL kills its block,
and either ends the handler's run; MOVSYS.W writes HENT (a multiple of 4) and EVTH (0 or 64 to 1,048,576). -/
def Obligations.HandlerWordsComplete : Prop := ∀ f : RegW,
  (∀ s e, readyReg (.tret f) f s = some e → e.any = true →
    exec (.tret f) s = .next ((e.s.resumeTrap e.loc.d e.loc.a (e.uni f.a).toNat (f.b.getLsbD 0)).endHandler e.loc.d e.loc.a)) ∧
  (∀ s e, readyReg (.kill f) f s = some e → e.any = true →
    exec (.kill f) s = .next ((e.s.killWarp e.loc.d e.loc.a (e.uni f.a).toNat).endHandler e.loc.d e.loc.a)) ∧
  RegRetires (.movsysW f) f (fun e => e.any = true ∧ f.b.toNat % 64 = 9 ∧ (e.uni f.a).toNat % 4 = 0) (fun e =>
    e.s.updCore e.loc.d e.loc.a fun c => { c with hent := e.uni f.a }) ∧
  RegRetires (.movsysW f) f (fun e => e.any = true ∧ f.b.toNat % 64 = 10 ∧
      ((e.uni f.a).toNat = 0 ∨ 64 ≤ (e.uni f.a).toNat ∧ (e.uni f.a).toNat ≤ 1048576)) (fun e =>
    e.s.updCore e.loc.d e.loc.a fun c => { c with evth := (e.uni f.a).toNat })

/-- R119 to R121, R140: BAR, BARA, BARM and BARW complete with their arrivals, and a phase ends by the counts of Table 05-5. -/
def Obligations.BarriersComplete : Prop := Sys2Proof.Spec.BarrierWords ∧ Sys2Proof.Spec.BarrierPhases

/-- Votes, predicate operations, moves, the register pool and channel bindings complete. -/
def Obligations.VoteMoveAndBindingWordsComplete : Prop := Sys2Proof.Spec.VotesAndMoves ∧ Sys2Proof.Spec.RegistersAndBindings ∧
  Sys2Proof.Spec.ClaimsEnd

/-- R149, R150: SLEEP, TRAP and ASSERT. -/
def Obligations.SleepAndSoftwareTraps : Prop := Sys2Proof.Spec.SleepDeadline ∧ Sys2Proof.Spec.SoftwareTrapWords

/-- Branches, calls and returns complete. -/
def Obligations.BranchesAndCallsComplete : Prop := Sys2Proof.Spec.BranchWords ∧ Sys2Proof.Spec.CallsAndReturns

/-! ## Engine operations (R14, R63) -/

/-- R14, R63, R228: an engine word that starts an operation enters it last in the list of operations, with the next number, the warp and the slot it
names, unperformed; the slot becomes pending (slot 6: one instruction more outstanding), and the copy record of the slot goes. -/
def Obligations.StartedOperation : Prop := ∀ (e : Env) (s : State) (d : BitVec 3) (k : OpK) (res : List (Nat × Word)) (j : Option Nat) (b : Block),
  e.sq = false → mfind s.blocks e.bid = some b → e.w < b.warps.length → d ≠ 7#3 →
  let t := e.start s d k res j
  t.ops = s.ops ++ [{ id := s.nextOp, bid := e.bid, ws := [(e.w, d.toNat)], d := e.loc.d, a := e.loc.a, word := e.cl.word, seq := false, k := k,
                      res := res, performed := false, flushed := false, acq := k.acquiresWide, txn := [], jent := j, pins := [], foot := [],
                      shads := [], pers := false }] ∧
  t.nextOp = s.nextOp + 1 ∧ t.mem = s.mem ∧ t.cores = s.cores ∧ t.doms = s.doms ∧
  (d.toNat < 6 → ((t.block e.bid).warp e.w).slotBusy d.toNat = true ∧ mfind (t.block e.bid).copies (8 * e.w + d.toNat) = none) ∧
  (d.toNat = 6 → ((t.block e.bid).warp e.w).d6 = (b.warp e.w).d6 + 1) ∧
  (∀ c, c < 6 → c ≠ d.toNat → ((t.block e.bid).warp e.w).slotBusy c = (b.warp e.w).slotBusy c) ∧
  (t.block e.bid).rf = b.rf ∧ (t.block e.bid).scr = b.scr ∧ ((t.block e.bid).warp e.w).lanes = (b.warp e.w).lanes ∧
  ∀ b', b' ≠ e.bid → t.block b' = s.block b'

/-- R14, R63, R196: an engine word whose lanes all have a false guard has no effect: it claims no slot and starts no operation, the copy record of the slot
it names goes, as it would with the operation, and the warp goes on. SETB and BADD leave everything as it is. (Of the one-warp matrix words, R260 asks
for guard 7, and so for a lane.) -/
def Obligations.NoGuardNoOperation : Prop :=
  let nothing := fun (i : Instr) (g : BitVec 3) (lit : Option Word) (vs : List Nat) (uni : Env → Bool) (d : BitVec 3) => ∀ s e,
    readyWord i g lit vs uni s = some e → e.any = false → (d.toNat < 6 && e.slotBusy d.toNat) = false → e.s.sidHeld e.loc.d = false →
    exec i s = e.retires i (e.s.updBlock e.bid fun b => b.unrecord e.w d.toNat) ∧
    (e.s.updBlock e.bid fun b => b.unrecord e.w d.toNat).ops = e.s.ops
  (∀ f : MemW, let no := fun (i : MemW → Instr) (vs : List Nat) (uni : Env → Bool) => nothing (i f) f.g f.lit vs uni f.d
    let all := fun _ => true
    no .ld (memGroupVs f) all ∧ no .ldn (memGroupVs f) all ∧ no .st (memGroupVs f) all ∧ no .stn (memGroupVs f) all ∧ no .ldx (memGroupVs f) all ∧
    no .stx (memGroupVs f) all ∧ no .ldw (memGroupVs f) all ∧ no .stw (memGroupVs f) all ∧ no .ldmx (mxVs f) all ∧ no .stmx (mxVs f) all ∧
    no .lds (memVs f) (·.idxOne f) ∧ no .ldb (memVs f) (·.idxOne f) ∧ no .fence [] all ∧ no .cwb (memVs f) all ∧ no .cinv (memVs f) all ∧
    (∀ s e, readyWord (.setb f) f.g f.lit (setbVs f) (fun e => (setbVs f).all fun j => e.uniform (e.v j)) s = some e → e.any = false →
      exec (.setb f) s = e.retires (.setb f) e.s) ∧
    (∀ s e, readyWord (.badd f) f.g f.lit (memVs f) (·.idxUniform f) s = some e → e.any = false → exec (.badd f) s = e.retires (.badd f) e.s)) ∧
  (∀ f : DrnW, let no := fun (i : DrnW → Instr) (op : Nat) => nothing (i f) f.g (some f.lit) (drnVs op f) (fun _ => true) f.d
    no .dst 0xB0 ∧ no .dsta 0xB1 ∧ no .dstm 0xB2 ∧ no .dstv 0xB3 ∧ no .atom 0xB4 ∧ no .atomc 0xB5 ∧ no .red 0xB6 ∧ no .dfence 0xB7) ∧
  (∀ f : AsyW, let no := fun (i : AsyW → Instr) => nothing (i f) f.g f.lit [] (fun _ => true) f.d
    no .cpy ∧ no .cpy2 ∧ no .cpym ∧ no .cpyw ∧ no .cpytProm ∧ no .cpytEvct ∧ no .cpytScr ∧ no .cpytGlb ∧ no .tqry ∧ no .cpyc ∧
    no .enq ∧ no .spawn ∧ no .tdec ∧ no .tinc ∧ no .tstat ∧ no .tcancel ∧ no .trearm ∧ no .vpost ∧ no .vpostf ∧ no .subs ∧ no .verq ∧ no .rstop ∧
    no .ssack ∧ no .grpsetNew ∧ no .grpsetAdd ∧ no .grpsetArm ∧ no .grpsetFree ∧ no .shmap ∧ no .shmapFree) ∧
  ∀ f : SysW, let no := fun (i : SysW → Instr) => nothing (i f) f.g f.lit [] (fun _ => true) f.d
    no .seqld ∧ no .seqgo ∧ no .seqstop ∧ no .qset ∧ no .qdec ∧ no .seqsig ∧ no .seqq ∧ no .pfence ∧ no .chks ∧ no .umq ∧ no .umset ∧
    no .fsend ∧ no .fenq ∧ no .fsig ∧ no .ffence ∧ no .svcVf ∧ no .svcRetire ∧ no .svcPkill ∧ no .svcQuote ∧ no .capq ∧ no .pwrq ∧ no .clkq ∧
    no .evlogPut ∧ no .evlogGet ∧ no .hstat ∧ no .tlbi ∧ no .hflush ∧ no .hprobe ∧ no .atr

/-! ## Load/store words (07) -/

/-- R181, R184 to R188, R190, R191: a load or store whose taking-part lanes all pass their checks enters one operation with an access per lane: the
address of base plus index plus displacement, the bytes of the size code, for a store the register bytes. A load takes every lane with a true guard,
exit helpers included; a store the contributing lanes. On a D page it also takes part in the journal (here of a core without an armed epoch). -/
def Obligations.GlobalAccessesComplete : Prop :=
  let n := fun (f : MemW) => szBytes f.sz
  let load := fun (i : MemW → Instr) => ∀ f s e ps t, readyWord (i f) f.g f.lit (memGroupVs f) (fun _ => true) s = some e → e.slotFree f.d = true →
    e.lsFull = false → passed (checkLanes (fun s L => e.checkGlobal s (e.gva f L) (n f) (n f) .load true) (lanesOf e.g) e.s) = some (ps, t) →
    (ps.any (fun p => p.2.2 = 2) = true → e.unarmed t) →
    exec (i f) s = e.retires (i f) (e.start (e.unheld (ps.any (fun p => p.2.2 = 2)) t) f.d (.load (.v f.dat.toNat f.sz.toNat) (memOrd f) (memScp f 1)
      (ps.map fun p => { lane := p.1, pl := .glob p.2.1, n := n f, data := [], sc := none, ty := p.2.2, sty := 0 })) [])
  let store := fun (i : MemW → Instr) => ∀ f s e ps t, readyWord (i f) f.g f.lit (memGroupVs f) (fun _ => true) s = some e → e.slotFree f.d = true →
    e.lsFull = false → passed (checkLanes (fun s L => e.checkGlobal s (e.gva f L) (n f) (n f) .store false) (lanesOf e.contrib) e.s) = some (ps, t) →
    (ps.any (fun p => p.2.2 = 2) = true → e.unarmed t) →
    exec (i f) s = e.retires (i f) (e.start (e.unheld (ps.any (fun p => p.2.2 = 2)) t) f.d (.store (memOrd f) (memScp f 1)
      (ps.map fun p => { lane := p.1, pl := .glob p.2.1, n := n f, data := e.storeData f.dat.toNat (n f) p.1, sc := none, ty := p.2.2, sty := 0 })) [])
  load .ld ∧ load .ldn ∧ store .st ∧ store .stn

/-- R181 to R183, R192, R193, Table 02-1: the same for scratch (by default BLK scope for the block's own share and DOM for a peer's, at most DOM) and windows
(RLX; DOM scope within the domain, WAF beyond it), at the byte each lane addresses in them. It rests on the model's choices of log 90. -/
def Sys2Proof.Spec.ScratchAndWindowAccesses : Prop :=
  let n := fun (f : MemW) => szBytes f.sz
  let scr := fun (e : Env) (f : MemW) => min 1 (memScp f (if (e.breg f.ba.toNat).getLsbD 38 then 1 else 0))
  let win := fun (e : Env) (ps : List (Nat × Place × Nat)) => if ∀ p ∈ ps, p.2.2 = e.loc.d then 1 else 2
  let acc := fun {α : Type} (i : MemW → Instr) (chk : Env → MemW → State → Nat → LaneRes α × State) (at' : α → Place) (part : Env → Mask)
      (k : Env → MemW → List (Nat × α) → List Part → OpK) (data : Env → MemW → Nat → List Byte) =>
    ∀ f s e ps t, readyWord (i f) f.g f.lit (memGroupVs f) (fun _ => true) s = some e → e.slotFree f.d = true → e.lsFull = false →
      passed (checkLanes (chk e f) (lanesOf (part e)) e.s) = some (ps, t) →
      exec (i f) s = e.retires (i f) (e.start t f.d (k e f ps
        (ps.map fun p => { lane := p.1, pl := at' p.2, n := n f, data := data e f p.1, sc := none, ty := 0, sty := 0 })) [])
  let bytes := fun (e : Env) (f : MemW) (L : Nat) => e.storeData f.dat.toNat (n f) L
  acc .ldx (fun e f => e.checkScratch f) (fun p => p) (·.g) (fun e f _ ps => .load (.v f.dat.toNat f.sz.toNat) (memOrd f) (scr e f) ps)
    (fun _ _ _ => []) ∧
  acc .stx (fun e f => e.checkScratch f) (fun p => p) (·.contrib) (fun e f _ ps => .store (memOrd f) (scr e f) ps) bytes ∧
  acc .ldw (fun e f => e.checkWindow f false) (·.1) (·.g) (fun e f qs ps => .load (.v f.dat.toNat f.sz.toNat) 0 (win e qs) ps) (fun _ _ _ => []) ∧
  acc .stw (fun e f => e.checkWindow f true) (·.1) (·.contrib) (fun e _ qs ps => .store 0 (win e qs) ps) bytes

/-- R194, R195: LDMX and STMX move 32-byte blocks with their scale byte; LDS and LDB read once, at the address of the lowest lane, into an s- or b-register.
It rests on the model's choices of logs 20, 88 and 108. -/
def Sys2Proof.Spec.MxAndUniformAccesses : Prop :=
  (∀ f s e ps t, readyWord (.ldmx f) f.g f.lit (mxVs f) (fun _ => true) s = some e → e.slotFree f.d = true → e.lsFull = false →
    passed (checkLanes (e.checkMx f .load) (lanesOf e.g) e.s) = some (ps, t) →
    exec (.ldmx f) s = e.retires (.ldmx f) (e.start t f.d (.load (.mx f.dat.toNat f.sz.toNat) (memOrd f) (memScp f 1)
      (ps.map fun p => { lane := p.1, pl := .glob p.2.1, n := 32, data := [], sc := some (.glob p.2.2.1), ty := p.2.2.2.1, sty := p.2.2.2.2 })) [])) ∧
  (∀ f s e ps t, readyWord (.stmx f) f.g f.lit (mxVs f) (fun _ => true) s = some e → e.slotFree f.d = true → e.lsFull = false →
    passed (checkLanes (e.checkMx f .store) (lanesOf e.contrib) e.s) = some (ps, t) →
    exec (.stmx f) s = e.retires (.stmx f) (e.start t f.d (.store (memOrd f) (memScp f 1)
      (ps.map fun p => { lane := p.1, pl := .glob p.2.1, n := 32,
                         data := e.storeData f.dat.toNat 32 p.1 ++ [(e.v (f.dat.toNat + 8) p.1).extractLsb' (8 * f.sz.toNat) 8],
                         sc := some (.glob p.2.2.1), ty := p.2.2.2.1, sty := p.2.2.2.2 })) [])) ∧
  (let uniform := fun (i : MemW → Instr) (dst : MemW → LdDst) => ∀ f s e pa ty t,
    readyWord (i f) f.g f.lit (memVs f) (·.idxOne f) s = some e → e.slotFree f.d = true → e.lsFull = false →
    e.checkGlobal e.s (e.gva f (lowLane e.g)) (szBytes f.sz) (szBytes f.sz) .load true = (.ok (pa, ty), t) → (ty = 2 → e.unarmed t) →
    exec (i f) s = e.retires (i f) (e.start (e.unheld (ty = 2) t) f.d (.load (dst f) (memOrd f) (memScp f 1)
      [{ lane := 0, pl := .glob pa, n := szBytes f.sz, data := [], sc := none, ty := ty, sty := 0 }]) [])
   uniform .lds (fun f => .s f.dat.toNat f.sz.toNat) ∧ uniform .ldb (fun f => .b f.dat.toNat f.sz.toNat))

/-- R196, R197: SETB makes a global pointer of three registers, copies a base register, or makes a scratch or window pointer; BADD advances one. -/
def Sys2Proof.Spec.BaseWords : Prop :=
  (∀ f s e, readyWord (.setb f) f.g f.lit (setbVs f) (fun e => (setbVs f).all fun j => e.uniform (e.v j)) s = some e → e.any = true → e.lsFull = false →
    let L := lowLane e.gr
    let set := fun (x : Int) => exec (.setb f) s = e.retires (.setb f) (e.setWarp fun wp => wp.setB f.ba.toNat (BitVec.ofInt 80 x))
    (f.sz = 0#3 → set (((e.v (f.dat.toNat + 2) L).toNat % 2 ^ 16 * 2 ^ 64 + (e.v (f.dat.toNat + 1) L).toNat * 2 ^ 32 + (e.v f.dat.toNat L).toNat : Nat)
      + memDisp f.lit)) ∧
    (f.sz = 1#3 → set ((e.breg (f.idx.toNat % 8)).toNat + memDisp f.lit)) ∧
    (f.sz = 2#3 → set ((e.idx f.idx L + memDisp f.lit) % 2 ^ 32)) ∧
    (f.sz = 3#3 → set ((e.idx f.idx L + memDisp f.lit) % 2 ^ 32 + (2 ^ 38 + (e.v f.dat.toNat L).toNat % 64 * 2 ^ 32 : Nat)))) ∧
  (∀ f s e, readyWord (.badd f) f.g f.lit (memVs f) (·.idxUniform f) s = some e → e.any = true → e.lsFull = false →
    exec (.badd f) s = e.retires (.badd f) (e.setWarp fun wp => wp.setB f.ba.toNat
      (BitVec.ofInt 80 ((e.breg f.ba.toNat).toNat + e.idx f.idx (lowLane e.gr) * 2 ^ f.sz.toNat + memDisp f.lit))))

/-- R198 to R200: PREF completes at issue and moves no byte, register or operation, whatever lines it brings in; FENCE, CWB and CINV enter an operation, the
latter two with the lines their lanes address. -/
def Sys2Proof.Spec.FenceAndCacheWords : Prop :=
  (∀ f s e, readyWord (.pref f) f.g f.lit (memVs f) (fun _ => true) s = some e → e.lsFull = false →
    let t := (lanesOf e.g).foldl (fun s L => e.prefLane f s L) e.s
    exec (.pref f) s = e.retires (.pref f) t ∧ t.mem = e.s.mem ∧ t.lost = e.s.lost ∧ t.blocks = e.s.blocks ∧ t.ops = e.s.ops) ∧
  (∀ f s e, readyWord (.fence f) f.g f.lit [] (fun _ => true) s = some e → e.slotFree f.d = true → e.lsFull = false →
    exec (.fence f) s = e.retires (.fence f) (e.start e.s f.d (.fence (memOrd f) (memScp f 0) (litPth (f.lit.getD 0#32))) [])) ∧
  (let lines := fun (i : MemW → Instr) (inv : Bool) => ∀ f s e ps t, readyWord (i f) f.g f.lit (memVs f) (fun _ => true) s = some e →
    e.slotFree f.d = true → e.lsFull = false →
    passed (checkLanes (e.checkLine f) (lanesOf e.g) e.s) = some (ps, t) →
    exec (i f) s = e.retires (i f) (e.start t f.d (.cache (memScp f 1) inv (ps.filterMap (·.2)).eraseDups) [])
   lines .cwb false ∧ lines .cinv true)

/-- R78, R184, R186, R279: a global access that is not a multiple of its alignment fails MISALIGNED with its address, whatever its translation; so do a
scratch and a window access. -/
def Obligations.MisalignedFails : Prop := ∀ (e : Env) (f : MemW) (s : State) (L va n align : Nat) (kind : Kind) (t w : Bool),
  (va % align ≠ 0 → e.checkGlobal s va n align kind t = (.bad .misaligned va, s)) ∧
  (e.poff f L % szBytes f.sz ≠ 0 → e.checkScratch f s L = (.bad .misaligned (e.poff f L), s) ∧
    e.checkWindow f w s L = (.bad .misaligned (e.poff f L), s))

/-- The base-register words, fences and cache words complete. -/
def Obligations.BaseFenceAndCacheWordsComplete : Prop := Sys2Proof.Spec.BaseWords ∧ Sys2Proof.Spec.FenceAndCacheWords

/-- Scratch, window, MX and uniform accesses complete. -/
def Obligations.ScratchWindowAndUniformAccessesComplete : Prop := Sys2Proof.Spec.ScratchAndWindowAccesses ∧ Sys2Proof.Spec.MxAndUniformAccesses
/-! ## Matrix words (10) -/

/-- R253, R254, R258, R260, R263, R267 to R272: with guard 7 and all lanes in one run, a free slot, room in the engine and a tile of the footprint, a
one-warp matrix word enters one operation with the operands captured at issue. MMSS asks of a 16-bit pattern that MAP[63:32] is zero; ACCCV under
stochastic rounding advances the generators by its draws; SPLD of a pattern whose index pairs rise replaces SPM, lanes of an absent quad supplying 0. That
ACCCV makes its draws at issue is the model's choice (log 15). -/
def Obligations.OneWarpMatrixWordsComplete : Prop :=
  let goes := fun (i : MtxW → Instr) (op : Nat) (tile : Bool) (c : Env → MtxW → Prop) (after : Env → MtxW → State → State) => ∀ f s e,
    readyWord (i f) f.g (some f.lit) (mtxVs op f) (fun _ => true) s = some e → f.g = 7#3 → e.cl.run = e.wp.present → e.slotFree f.d = true →
    e.s.matrixFull e.loc.d e.loc.a = false → (tile = true → f.t.toNat < rACCF e.blk.lrec) → c e f →
    exec (i f) s = e.retires (i f) (after e f (e.start e.s f.d (.matrix op f.lit f.ar.toNat [e.blk.capture op f e.w f.t.toNat e.wp false]) []))
  let any := fun (_ : Env) (_ : MtxW) => True
  let same := fun (_ : Env) (_ : MtxW) (t : State) => t
  goes .mms 0xA4 true any same ∧ goes .mmz 0xA6 true any same ∧ goes .accmv 0xA7 true any same ∧ goes .accld 0xA8 true any same ∧
  goes .accsc 0xA9 true any same ∧
  goes .mmss 0xA5 true (fun e f => fmtByte (mFA f.lit) = true ∨ e.wp.spmMap.toNat < 2 ^ 32) same ∧
  goes .acccv 0xAA true any (fun e f t => if (f.lit.extractLsb' 22 2).toNat = 2 then
    t.updWarp e.bid e.w (fun wp => wp.updLanes (e.blk.resultLanes e.w) fun _ ln =>
      { ln with gen := advGenN ln.gen (if fmtByte (mFA f.lit) then 32 else 16) }) else t) ∧
  (let v := fun (e : Env) (r L : Nat) => if e.blk.absent e.w L then 0#32 else e.v r L
   let map := fun (e : Env) (f : MtxW) => v e f.br.toNat 1 ++ v e f.br.toNat 0
   let n := fun (e : Env) (f : MtxW) => (List.range 64).countP (map e f).getLsbD
   let ix := fun (e : Env) (f : MtxW) (c : Nat) => (v e f.ar.toNat (c / 2)).extractLsb' (16 * (c % 2)) 16
   goes .spld 0xAB false
     (fun e f => ∀ c < n e f, ∀ g < 4, ((ix e f c).extractLsb' (4 * g) 2).toNat < ((ix e f c).extractLsb' (4 * g + 2) 2).toNat)
     (fun e f t => t.updWarp e.bid e.w fun wp =>
       { wp with spmMap := map e f, spmIdx := (List.range (n e f)).foldl (fun m c => mset 0#16 m c (ix e f c)) [] }))

/-- R261, R262, R266: when a member of a quartet comes to issue at its MMQ, MMQS, MMQX or MMQT word and its three partners stand at the same word and literal,
every member passes its own checks, the slot is free in all four, the channels bound in them serve the clause, the engine has room and (for MMQT) the shared
offset is one and its image lies in scratch, the four issue together: one operation with the operands of all four, on four tiles from T, and each goes on. -/
def Obligations.QuartetWordsComplete : Prop := ∀ (i : Instr) (f : MtxW) (s : State) (b w : Nat) (cl : Clause), mtxOf i = some f →
  s.focus = some (b, w) → ((s.block b).warp w).clause = some cl →
  let t := (s.updWarp b w fun wp => { wp with rdv := true, clause := some { cl with ibuf := encode i ++ cl.ibuf.drop 2 } }).leavePort b w
  let x := t.block b
  let l := x.loc.getD ⟨0, 0, 0⟩
  let q := w / 4
  let off := fun (v : Nat) => (x.warp v).sreg (f.br.toNat % 16)
  t.quartetBroken b q = none →
  (∀ v ∈ quartetWarps q, x.atQuartet v = true ∧ x.memberCheck v = .ok (i.opcode, f) ∧ (f.d ≠ 6#3 → (x.warp v).slotBusy f.d.toNat = false) ∧
    x.memberBad i.opcode f v (f.t.toNat + v % 4) (x.warp v) = none ∧
    ∃ c, (x.warp v).clause = some c ∧ c.ibuf.take 2 = encode i ∧ x.channelsServe (x.warp v) c.ibuf = true) →
  t.matrixFull l.d l.a = false →
  (i.opcode = 0xA3 → imageBad (off (4 * q)).toNat 4096 x.share = none ∧ ∀ v ∈ quartetWarps q, off v = off (4 * q)) →
  exec i s = .next ((quartetWarps q).foldl (fun u v => ((u.begun l.d l.a (b, v)).updWarp b v fun wp =>
      { wp.updLanes (match wp.clause with | some c => c.gang | none => 0#32) (fun _ ln => { ln with lat := [] }) with rdv := false }).retire b v 2)
    ((t.updBlock b (·.enterRows (quartetWarps q).contains)).quartetOp b l q i.opcode f ((encode i).headD 0#32) none))

/-- R99 to R101, R266 to R270, R273: what a matrix operation leaves in accumulators. MMZ zeroes its tile; ACCLD with Z loads it; ACCSC multiplies every
word by its row's scale; a product of one warp writes every word of columns 0 to 15. All other accumulator words, the register file and scratch stay. -/
def Obligations.TileOperations : Prop := ∀ (b : Block) (lit : Word) (dst : Nat) (pick : Option Nat) (x : MtxMem),
  let others := fun (op : Nat) (cols : Nat → Bool) => (∀ t m n, t ≠ x.tile ∨ cols n = false → m < 16 → n < 64 →
      (b.matrix op lit dst pick [x]).accWord t m n = b.accWord t m n) ∧
    (b.matrix op lit dst pick [x]).rf = b.rf ∧ (b.matrix op lit dst pick [x]).scr = b.scr
  (∀ m < 16, ∀ n < 64,
    (b.matrix 0xA6 lit dst pick [x]).accWord x.tile m n = 0#32 ∧
    (mZ lit = true → mBSB lit = n / 16 → (b.matrix 0xA8 lit dst pick [x]).accWord x.tile m n = mget 0#32 x.areg (32 * (n % 8) + m + 16 * (n % 16 / 8))) ∧
    (b.matrix 0xA9 lit dst pick [x]).accWord x.tile m n =
      BitVec.ofNat 32 (fp32.round 0 0#32 ((f32 (b.accWord x.tile m n)).mul (f32 (mget 0#32 x.areg m)))).1 ∧
    (n < 16 → (b.matrix 0xA4 lit dst pick [x]).accWord x.tile m n =
      (mulCell lit (x.aAt b 0xA4 lit pick m) (fun k => x.bAt b 0xA4 0 lit pick k n) (scaleAt x.sa (mBSA lit) m) (scaleAt x.sb (mBSB lit) (n % 16))
        (b.accWord x.tile m n)).1)) ∧
  others 0xA6 (fun _ => true) ∧ others 0xA8 (fun n => n / 16 == mBSB lit) ∧ others 0xA9 (fun _ => true) ∧ others 0xA4 (fun n => n < 16)

/-- R99, R101: one step of an I8 product adds the exact sum of 64 signed products modulo 2^32; a floating one rounds each K block's exact sum to FP32 and adds
the blocks in order. It rests on the model's choices of log 92. -/
def Obligations.ProductCellValues : Prop := ∀ (lit old : Word) (a b ea eb : Nat → Nat),
  (mFA lit = 31 → (mulCell lit a b ea eb old).1 = (if mZ lit then 0#32 else old) +
    BitVec.ofInt 32 (((List.range 64).map fun k => (BitVec.ofNat 8 (a k)).toInt * (BitVec.ofNat 8 (b k)).toInt).sum)) ∧
  (mFA lit = 28 ∨ mFA lit = 29 → mSC lit = false → (mulCell lit a b ea eb old).1 =
    rn32 ((f32 (if mZ lit then 0#32 else old)).add (f32 (rn32 (sumVals ((List.range 32).map fun k =>
      (valOf (mFA lit) (a k)).prod (valOf (mFB lit) (b k)))))))) ∧
  (mFA lit ≤ 27 → mSC lit = false →
    let blk := fun (j : Nat) => rn32 (sumVals ((List.range 32).map fun k => (valOf (mFA lit) (a (32 * j + k))).prod (valOf (mFB lit) (b (32 * j + k)))))
    (mulCell lit a b ea eb old).1 = rn32 ((f32 (rn32 ((f32 (if mZ lit then 0#32 else old)).add (f32 (blk 0))))).add (f32 (blk 1))))

/-! ## Drain words (11) -/

/-- R276 to R279, R284 to R292, R294: a drain word whose elements all pass their checks enters one operation with them. DST, DSTA and DSTM take the
elements of their tile in row-major order, DSTV, ATOM, ATOMC and RED one element per contributing lane with its operand (for ATOMC also the
comparand); a DSTV's conversions are counted at issue, and one whose lanes are all helpers makes its draws and writes nothing. The read-modify-write forms
also take part in the journal (here of a core without an armed epoch). DFENCE enters an operation of its own. That DST and DSTV make their draws and counts
at issue is the model's choice (log 15). -/
def Obligations.DrainWordsComplete : Prop :=
  let rdy := fun (i : DrnW → Instr) (op : Nat) (f : DrnW) (s : State) (e : Env) =>
    readyWord (i f) f.g (some f.lit) (drnVs op f) (fun _ => true) s = some e ∧ e.slotFree f.d = true ∧ e.drainFull = false
  let tile := fun (i : DrnW → Instr) (op : Nat) => ∀ f s e rs t, rdy i op f s e → f.t.toNat < rACCF e.blk.lrec →
    passed (checkLanes (e.tileCheck op f) (List.range (e.tileElems op f).length) e.s) = some (rs, t) →
    (dRND f.lit = 2 → ∀ m < 16, e.blk.absent e.w m = false) →
    (drainRmw op = true → e.unarmed t) →
    exec (i f) s = e.retires (i f) ((e.start (e.tileAdvance op f (e.tileOps op f rs).length (e.unheld (drainRmw op) t)) f.d
      (.drain op f.lit f.v.toNat (some f.t.toNat) e.wp.tid (e.tileOps op f rs)) []).noted t.nextOp)
  let lanes := fun (i : DrnW → Instr) (op : Nat) (n : DrnW → Nat) (x : Env → DrnW → Nat → Nat × Nat × List NumEvent) => ∀ f s e rs t, rdy i op f s e →
    e.contrib ≠ 0#32 → passed (checkLanes (e.laneCheck op f (n f)) (lanesOf e.contrib) e.s) = some (rs, t) →
    (drainRmw op = true → e.unarmed t) →
    exec (i f) s = e.retires (i f) ((e.start (e.laneAdvance op f (x e f) (e.unheld (drainRmw op) t)) f.d
      (.drain op f.lit f.v.toNat none e.wp.tid (laneOps (n f) (x e f) rs)) []).noted t.nextOp)
  let helpers := fun (i : DrnW → Instr) (op : Nat) (x : Env → DrnW → Nat → Nat × Nat × List NumEvent) => ∀ f s e, rdy i op f s e → e.contrib = 0#32 →
    exec (i f) s = e.retires (i f) ((e.laneAdvance op f (x e f) e.s).updBlock e.bid fun b => b.unrecord e.w f.d.toNat)
  let conv := fun (e : Env) (f : DrnW) (L : Nat) =>
    let p := drainConv (dFMT f.lit) (dRND f.lit) (e.lane L).gen (e.v f.v.toNat L)
    ((p.1, 0, p.2) : Nat × Nat × List NumEvent)
  tile .dst 0xB0 ∧ tile .dsta 0xB1 ∧ tile .dstm 0xB2 ∧
  lanes .dstv 0xB3 (fun f => fmtBytes (dFMT f.lit)) conv ∧ helpers .dstv 0xB3 conv ∧
  lanes .atom 0xB4 (fun _ => 4) (fun e f L => ((e.v f.v.toNat L).toNat, 0, [])) ∧
  lanes .red 0xB6 (fun _ => 4) (fun e f L => ((e.v f.v.toNat L).toNat, 0, [])) ∧
  lanes .atomc 0xB5 (fun f => if dOP f.lit = 0 then 4 else 8) (fun e f L =>
    let v := fun (j : Nat) => (e.v (f.v.toNat + j) L).toNat
    if dOP f.lit = 0 then (v 1, v 0, []) else (v 3 * 2 ^ 32 + v 2, v 1 * 2 ^ 32 + v 0, [])) ∧
  (∀ f s e, rdy .dfence 0xB7 f s e → exec (.dfence f) s = e.retires (.dfence f) (e.start e.s f.d (.dfence (litScp f.lit)) []))

/-- R286, R289 to R292 (Table 11-5): the value a drain element writes for the present value `d` of its destination: DST the tile word converted, DSTV
its operand, ATOMC its new value where `d` is the comparand and `d` elsewhere, ATOM and RED their operation on `d` and the operand. -/
def Obligations.DrainElementValues : Prop := ∀ (b : Block) (lit : Word) (tile d : Nat) (e : DElem),
  let v := fun (op : Nat) => (b.drainEl op lit tile e d).1
  let w := BitVec.ofNat 32 d
  let a := BitVec.ofNat 32 e.x
  v 0xB3 = e.x ∧ v 0xB5 = (if d = e.cmp then e.x else d) ∧
  (dFMT lit = 30 → v 0xB0 = (b.accWord tile e.lane e.col).toNat) ∧
  (dFMT lit ≤ 29 → v 0xB0 = (roundTo (dFMT lit) (dRND lit) e.draw (f32 (b.accWord tile e.lane e.col))).1) ∧
  (dOP lit = 1 → v 0xB1 = (BitVec.ofNat 32 d + b.accWord tile e.lane e.col).toNat) ∧
  ∀ op, op = 0xB4 ∨ op = 0xB6 →
    (dOP lit = 0 → v op = (w + a).toNat) ∧ (dOP lit = 1 → v op = (rn32 ((f32 w).add (f32 a))).toNat) ∧
    (dOP lit = 2 → v op = (if w.toInt ≤ a.toInt then w else a).toNat) ∧ (dOP lit = 3 → v op = (if a.toInt ≤ w.toInt then w else a).toNat) ∧
    (dOP lit = 4 → v op = min w.toNat a.toNat) ∧ (dOP lit = 5 → v op = max w.toNat a.toNat) ∧
    (dOP lit = 6 → v op = (w &&& a).toNat) ∧ (dOP lit = 7 → v op = (w ||| a).toNat) ∧ (dOP lit = 8 → v op = (w ^^^ a).toNat) ∧
    (dOP lit = 9 → v op = a.toNat) ∧ (dOP lit = 10 → v op = (fmin32 w a).toNat) ∧ (dOP lit = 11 → v op = (fmax32 w a).toNat) ∧
    (dOP lit = 12 → v op = min (w.toNat + a.toNat) (2 ^ 32 - 1))


/-! ## Copy words (09) -/

/-- R228, R230, R231, R235: a copy that issues (not a CPYM) gets a promise later than the issue tick by 1 to 2^30 ticks, written low half to s[S] and whole
to the slot's record in state 1; its operation comes last in the list, its slot becomes pending, and no byte of memory changes. -/
def Obligations.StartedCopy : Prop := ∀ (e : Env) (s : State) (d S : Nat) (r : CopyRec) (k : OpK) (b : Block),
  e.sq = false → mfind s.blocks e.bid = some b → e.w < b.warps.length → d < 6 →
  (∀ h g ps n y o c p gs got, k ≠ .mcast h g ps n y o c p gs got) →
  let t := (e.startCopy s d S r k).1
  ∃ p : Tick, 1 ≤ (p - e.s.sid e.loc.d).toNat ∧ (p - e.s.sid e.loc.d).toNat ≤ 2 ^ 30 ∧
    ((t.block e.bid).warp e.w).sreg S = p.setWidth 32 ∧ mfind (t.block e.bid).copies (8 * e.w + d) = some { r with prom := p, st := 1 } ∧
    t.ops.map (·.k) = s.ops.map (·.k) ++ [k] ∧ ((t.block e.bid).warp e.w).slotBusy d = true ∧ t.mem = s.mem ∧ t.doms = s.doms ∧
    (∀ S', S' ≠ S → ((t.block e.bid).warp e.w).sreg S' = (b.warp e.w).sreg S') ∧ (t.block e.bid).rf = b.rf

/-- R233 to R237, R240, R241: a copy whose slot is free, whose checks pass and for which the engine has room takes effect: its record (its scope that of its
writes on their pages), its segments; a copy of no bytes completes at once with the next tick as its transit. CPYT.PROM and CPYT.EVCT check no destination;
CPYT acts on the object its identifier names. -/
def Sys2Proof.Spec.CopyWords : Prop :=
  let goes := fun (i : AsyW → Instr) (op : Nat) (k : AsyW → CopyRec → Nat → List Seg → List Piece → OpK) => ∀ f s e segs srcs t,
    readyWord (i f) f.g f.lit [] (fun _ => true) s = some e → e.slotFree f.d = true →
    e.s.copyPlan e.copyCx (e.copyRec op f) = .ok segs srcs t → t.sidHeld e.loc.d = false →
    (segs = [] → exec (i f) s = e.retires (i f) (((t.issued (t.sid e.loc.d + 1#64)).updBlock e.bid fun b => b.unrecord e.w f.d.toNat).updWarp e.bid e.w
      fun wp => wp.setS f.s.toNat ((t.sid e.loc.d + 1#64).setWidth 32))) ∧
    (segs ≠ [] → e.copyFull = false →
      let scp := t.copyScope e.copyCx (e.copyRec op f) f.lit segs
      let r := { e.copyRec op f with scp := segsScp scp segs }
      exec (i f) s = e.retires (i f) (e.startCopy t f.d.toNat f.s.toNat r (k f r scp segs srcs)).1)
  let plain := fun (shadow : AsyW → Bool) (f : AsyW) (r : CopyRec) (scp : Nat) (segs : List Seg) (_ : List Piece) =>
    OpK.copy r.ord scp (shadow f) segs []
  let tier := fun (i : AsyW → Instr) => ∀ f s e x, readyWord (i f) f.g f.lit [] (fun _ => true) s = some e → e.slotFree f.d = true →
    e.copyFull = false → (e.s.dom e.loc.d).named (e.sreg f.s.toNat) = some x →
    let r := { e.copyRec 0xBB f with key := e.sreg f.s.toNat }
    (f.v.toNat < 2 → exec (i f) s = e.retires (i f) (e.tierGo e.s f { r with len := 0#32 } x 1 [])) ∧
    (2 ≤ f.v.toNat → ∀ segs srcs t,
      let r := { r with len := BitVec.ofNat 32 (4096 * ((e.s.dom e.loc.d).obj x).size) }
      e.s.copyPlan e.copyCx r = .ok segs srcs t → t.sidHeld e.loc.d = false →
      exec (i f) s = e.retires (i f) (e.tierGo t f r x (t.copyScope e.copyCx r f.lit segs) segs))
  goes .cpy 0xB8 (plain fun f => f.v.getLsbD 2) ∧ goes .cpy2 0xB9 (plain fun f => f.v.getLsbD 2) ∧ goes .cpyw 0xBC (plain fun _ => false) ∧
  goes .cpym 0xBA (fun _ r scp segs srcs => .mcast (homeOf ((srcs.head?.map (·.pl.off)).getD 0)) none (sourcePages srcs none) r.len.toNat r.key r.ord
    (segsScp scp segs) 0 (zipSegs (2 * segs.length + r.len.toNat) (segs.map fun g => { pl := g.dst, n := g.n, ty := g.ty, addr := 0, tile := none })
      ((imagePieces r.len.toNat).filterMap fun p => match p with | .ok p => some p | _ => none)) []) ∧
  tier .cpytProm ∧ tier .cpytEvct ∧ tier .cpytScr ∧ tier .cpytGlb

/-- R242 to R245: WAITT goes on where no lane takes part or slot V is not pending, traps MISSED_TRANSIT where the transit is reached, and else waits for it.
TQRY gives the status word and the promise (or the completion tick) of slot V's copy. CPYC cancels a copy that may be cancelled (a tier copy: SCR or GLB,
until it ends), and else waits for it. It rests on the model's choices of log 41. -/
def Sys2Proof.Spec.CopyQueries : Prop :=
  (∀ f s e, readyWord (.waitt f) f.g f.lit [] (fun _ => true) s = some e →
    (e.any = false ∨ e.wp.slotBusy f.v.toNat = false → exec (.waitt f) s = e.retires (.waitt f) e.s) ∧
    (e.any = true → e.wp.slotBusy f.v.toNat = true → e.s.sidHeld e.loc.d = false →
      let late := ((e.s.sid e.loc.d).setWidth 32 - e.sreg f.s.toNat).toNat < 2 ^ 31
      (late → exec (.waitt f) s = .next (e.s.missTransit e.bid e.w f.v.toNat f.s.toNat)) ∧
      (¬ late → exec (.waitt f) s = e.stands (e.setWarp fun wp =>
        { wp with wait := some (.waitt f.v.toNat ((e.sreg f.s.toNat).setWidth 64)) })))) ∧
  (∀ f s e, readyWord (.tqry f) f.g f.lit [] (fun _ => true) s = some e → e.slotFree f.d = true →
    let gone := e.wp.slotBusy f.v.toNat = false
    (e.slotRec f.v.toNat = none → exec (.tqry f) s = e.retires (.tqry f)
      (e.answered e.s f.d [(f.s.toNat, if gone then 1#32 else 0#32), (f.s.toNat + 1, 0#32)])) ∧
    (∀ r, e.slotRec f.v.toNat = some r → exec (.tqry f) s = e.retires (.tqry f) (e.answered e.s f.d
      [(f.s.toNat, BitVec.ofNat 32 ((if gone then 1 else 0) + 2 + (if r.st = 4 then 4 else 0) + (if r.late then 8 else 0) + (if r.rsm then 16 else 0)
          + (if r.st = 5 then 32 else 0))),
       (f.s.toNat + 1, if gone then BitVec.ofNat 32 r.done else r.prom.setWidth 32)]))) ∧
  (∀ f s e, readyWord (.cpyc f) f.g f.lit [] (fun _ => true) s = some e → e.slotFree f.d = true →
    (e.slotOp f.v.toNat = none → exec (.cpyc f) s = e.retires (.cpyc f) (e.answered e.s f.d [(f.s.toNat, 0#32)])) ∧
    (∀ x, e.slotOp f.v.toNat = some x →
      let may := match x.k with | .tier _ v ph _ _ _ _ => decide (2 ≤ v ∧ ph < 3) | k => k.isCopy
      (may = true → e.s.sidHeld x.d = false → exec (.cpyc f) s = e.retires (.cpyc f) (e.answered (e.s.cancelCopy x) f.d [(f.s.toNat, 1#32)])) ∧
      (may = false → exec (.cpyc f) s = e.retires (.cpyc f) (e.start e.s f.d (.cancel x.id) [(f.s.toNat, 0#32)]))))

/-- R228, Table 09-1: the words of a copy record, field by field, for a block in slot `k`. -/
def Sys2Proof.Spec.CopyRecordWords : Prop := ∀ (r : CopyRec) (k : Nat),
  r.op < 256 → r.v < 8 → r.ds < 7 → r.w < 16 → r.ord < 8 → r.scp < 4 → r.st < 8 → k < 4 →
  let w := fun (i : Nat) => (r.words k).getD i 0#32
  let f := fun (lo n : Nat) => (w 0).toNat / 2 ^ lo % 2 ^ n
  (r.words k).length = 16 ∧ f 0 8 = r.op ∧ f 8 3 = r.v ∧ f 11 3 = r.ds ∧ f 14 2 = k ∧ f 16 4 = r.w ∧ f 20 3 = r.ord ∧ f 23 2 = r.scp ∧ f 25 3 = r.st ∧
  f 28 1 = (if r.rsm then 1 else 0) ∧ f 29 3 = 0 ∧ w 1 = r.len ∧ w 4 ++ w 3 ++ w 2 = r.dst.setWidth 96 ∧ w 7 ++ w 6 ++ w 5 = r.src.setWidth 96 ∧
  w 8 = r.sstr ∧ w 9 = r.dstr ∧ w 11 ++ w 10 = r.prom ∧ w 13 ++ w 12 = r.iss ∧ w 14 = r.key ∧ w 15 = BitVec.ofNat 32 r.done

/-- The copy words complete: copies, tier requests, transits, cancels and queries. -/
def Obligations.CopyEngineComplete : Prop := Sys2Proof.Spec.CopyWords ∧ Sys2Proof.Spec.CopyQueries ∧ Sys2Proof.Spec.CopyRecordWords

/-! ## Task words (12) -/

/-- R300 to R302, R319 to R322, R325, R326: with a free slot, no armed epoch and (ENQ, SPAWN) a record that passes its checks, a task word decides its outcome
at issue, after the release that ENQ, SPAWN, TDEC and TREARM make, and leaves it for its register: ENQ 3, 1 or 0 and the installed record; SPAWN the child's
handle, or the warp waits for room; TDEC and TINC the new count; TCANCEL the state it found; TREARM its code. An ENQ or TREARM of a record whose last run is
still ending waits. It rests on the model's choices of logs 5, 46 and 112. -/
def Sys2Proof.Spec.TaskWords : Prop :=
  let rdy := fun (i : Instr) (f : AsyW) (s : State) (e : Env) => readyWord i f.g f.lit [] (fun _ => true) s = some e ∧ e.slotFree f.d = true
  (∀ f s e ws t, rdy (.enq f) f s e → e.recordAt f.ba.toNat false = some (ws, t) → e.unarmed t → e.recEnding t (e.enqHandle f t) = false →
    exec (.enq f) s = e.retires (.enq f) (e.once t f.d f.s.toNat fun u =>
      match e.useRec u (e.enqHandle f t) with
      | none => (3#32, u)
      | some (d, x) =>
        if 57344 ≤ x then (3#32, u)
        else if (u.recAt d x).st = .waiting ∨ (u.recAt d x).st = .ready ∨ (u.recAt d x).st = .running then (1#32, u)
        else (0#32, u.installRec d x ws (f.v.getLsbD 0) none))) ∧
  (∀ f s e ws t, rdy (.spawn f) f s e → e.recordAt f.ba.toNat true = some (ws, t) → e.unarmed t → rDEPTH e.blk.lrec ≠ 8 →
    ((t.spawnNow e.bid e.loc.d ws (f.v.getLsbD 0)).isSome = true → exec (.spawn f) s = e.retires (.spawn f) (e.once t f.d f.s.toNat fun u =>
      (u.spawnNow e.bid e.loc.d ws (f.v.getLsbD 0)).getD (0#32, u))) ∧
    (t.spawnNow e.bid e.loc.d ws (f.v.getLsbD 0) = none → exec (.spawn f) s = e.stands (t.updWarp e.bid e.w fun wp =>
      { wp with wait := some (.spawn ws (f.v.getLsbD 0) f.s.toNat f.d.toNat) }))) ∧
  (∀ f s e, rdy (.tinc f) f s e → e.unarmed e.s →
    exec (.tinc f) s = e.retires (.tinc f) (e.once e.s f.d (f.s.toNat + 1) (e.changeNow (e.sreg f.s.toNat) (stepOf f.lit) true))) ∧
  (∀ f s e t, rdy (.tdec f) f s e → e.released e.s 3 = some t → e.unarmed t →
    exec (.tdec f) s = e.retires (.tdec f) (e.once t f.d (f.s.toNat + 1) (e.changeNow (e.sreg f.s.toNat) (stepOf f.lit) false))) ∧
  (∀ f s e, rdy (.tcancel f) f s e → e.unarmed e.s →
    exec (.tcancel f) s = e.retires (.tcancel f) (e.once e.s f.d f.s.toNat (e.cancelNow (e.sreg f.s.toNat)))) ∧
  (∀ f s e t u, rdy (.trearm f) f s e → e.released e.s 3 = some t →
    let at' := e.rearmAt t (e.sreg f.s.toNat)
    t.rearmReady at' = .ok u → e.unarmed u →
    exec (.trearm f) s = e.retires (.trearm f) (e.once u f.d f.s.toNat (State.rearmNow at' e.lit.toNat)))

/-- R316, R321, R323, R324: TWAIT answers 0x00020000 for a handle it may not use; on a record that has ended its status, with an acquire at SYS, and a
child of the block returns its index; TWAIT.T 0x00010000 where its tick is reached; else, and while the completion of an ended record is still to be written
(log 112), the warp waits. TSTAT gives the record's state word and count. -/
def Sys2Proof.Spec.TaskQueries : Prop :=
  (∀ f s e, readyWord (.twait f) f.g f.lit [] (fun _ => true) s = some e →
    let S := f.s.toNat
    let put := fun (s : State) (x : Word) => s.updWarp e.bid e.w fun wp => wp.setS S x
    (e.any = false → exec (.twait f) s = e.retires (.twait f) e.s) ∧
    (e.any = true → e.useRec e.s (e.sreg S) = none → exec (.twait f) s = e.retires (.twait f) (put e.s 0x00020000#32)) ∧
    (∀ d i, e.any = true → e.useRec e.s (e.sreg S) = some (d, i) →
      let r := e.s.recAt d i
      let late := ((e.s.sid e.loc.d).setWidth 32 - e.sreg (S + 1)).toNat < 2 ^ 31
      (r.st.terminal = true → r.fin = none →
        let t := put (e.s.acquireWide e.loc.d) (r.status &&& 0xFFFF#32)
        exec (.twait f) s = e.retires (.twait f) (if 57344 ≤ i ∧ r.parent = some e.bid then t.poolReturn d i else t)) ∧
      (r.st.terminal = false → f.v.getLsbD 0 = true → e.s.sidHeld e.loc.d = false → late →
        exec (.twait f) s = e.retires (.twait f) (put e.s 0x00010000#32)) ∧
      (r.st.terminal = false ∨ r.fin ≠ none → f.v.getLsbD 0 = false ∨ (e.s.sidHeld e.loc.d = false ∧ (r.st.terminal = true ∨ ¬ late)) →
        exec (.twait f) s = e.stands (e.setWarp fun wp => { wp with wait := some (.twait (e.sreg S) S
          (if f.v.getLsbD 0 then some ((e.sreg (S + 1)).setWidth 64) else none)) })))) ∧
  (∀ f s e, readyWord (.tstat f) f.g f.lit [] (fun _ => true) s = some e → e.slotFree f.d = true →
    let S := f.s.toNat
    (e.useRec e.s (e.sreg S) = none → exec (.tstat f) s = e.retires (.tstat f) (e.answered e.s f.d [(S, 128#32), (S + 1, 0#32)])) ∧
    (∀ d i, e.useRec e.s (e.sreg S) = some (d, i) →
      let r := e.s.recAt d i
      exec (.tstat f) s = e.retires (.tstat f) (e.answered e.s f.d [(S, BitVec.ofNat 32 (r.st.code + (if r.under then 16 else 0)
          + (if (e.s.dom d).deferred i then 32 else 0) + (if r.wafer then 64 else 0) + 256 * r.code + 65536 * rPRI r.ws)),
        (S + 1, BitVec.ofNat 32 r.cnt)])))

/-- R302, R303: a decrement by m of a WAITING record subtracts m, but not below 0, and notes an underflow; at 0 the record becomes READY, last in the
queue. A decrement of a record in another state changes no record: it is counted as stray and logged. -/
def Obligations.DecrementEffect : Prop := ∀ (s : State) (d i m : Nat) (r : Rec), mfind (s.dom d).recs i = some r → 0 < r.ws.length →
  let t := s.decrement d i m
  (r.st = .waiting →
    (t.recAt d i).cnt = r.cnt - m ∧ ((t.recAt d i).under = (r.under || decide (r.cnt < m))) ∧
    (t.recAt d i).st = (if r.cnt ≤ m then .ready else .waiting) ∧
    (t.dom d).ready = (if r.cnt ≤ m then (s.dom d).ready ++ [i] else (s.dom d).ready) ∧ t.mem = s.mem ∧ t.blocks = s.blocks) ∧
  (r.st ≠ .waiting →
    t.recAt d i = r ∧ (t.dom d).enqStray = sat32 ((s.dom d).enqStray + 1) ∧ t.log.length = s.log.length + 1 ∧ t.mem = s.mem ∧ t.blocks = s.blocks)

/-- The task words complete: spawns, queue entries, counters, waits, cancels and re-arms, and queries. -/
def Obligations.TaskEngineComplete : Prop := Sys2Proof.Spec.TaskWords ∧ Sys2Proof.Spec.TaskQueries

/-! ## Publish words (13) -/

/-- R332, R341 to R345, R348: with a free slot a publish word answers 0xFFFFFFFF for a tile it may not use. Else VPOST and VPOSTF release at their scope, and
once the block's shadow copies and drains on the tile have completed publish it (a FINAL tile is not published) and answer its state word; SUBS answers its
outcome; VERQ acquires at WAF or SYS scope and answers the state word; RSTOP sets STOP; SSACK takes the tile's version for the block's record and the VERIN
and STALE of its run. It rests on the model's choices of logs 5 and 46. -/
def Sys2Proof.Spec.PublishWords : Prop :=
  let rdy := fun (i : Instr) (f : AsyW) (s : State) (e : Env) => readyWord i f.g f.lit [] (fun _ => true) s = some e ∧ e.slotFree f.d = true
  let post := fun (i : AsyW → Instr) (final : Bool) => ∀ f s e, rdy (i f) f s e →
    let h := e.sreg f.s.toNat
    (e.useTile e.s h = none → e.unarmed e.s →
      exec (i f) s = e.retires (i f) (e.answered e.s f.d [(f.s.toNat + 1, 0xFFFFFFFF#32)])) ∧
    (∀ d x t, e.useTile e.s h = some (d, x) → e.released e.s (scpOf f.lit) = some t →
      e.unarmed t → e.useTile t h = some (d, x) → e.shadowBusy t d x = false → t.sidHeld d = false → (t.tile d x).final = true ∨ (t.tile d x).ver ≠ 65535 →
      exec (i f) s = e.retires (i f) (e.once t f.d (f.s.toNat + 1) fun u =>
        let u' := if (u.tile d x).final then u else u.publish d x final
        (u'.tileWord d x (u.tile d x).final, u')))
  post .vpost false ∧ post .vpostf true ∧
  (∀ f s e, rdy (.subs f) f s e →
    let r := e.subscribe e.s (e.sreg f.s.toNat) (e.sreg (f.s.toNat + 1)) (e.sreg (f.s.toNat + 2)) (if f.v.getLsbD 1 then 1 else 0) (f.v.getLsbD 0) e.lit
    exec (.subs f) s = e.retires (.subs f) (e.answered r.2 f.d [(f.s.toNat + 2, r.1)])) ∧
  (∀ f s e, rdy (.verq f) f s e →
    (e.useTile e.s (e.sreg f.s.toNat) = none →
      exec (.verq f) s = e.retires (.verq f) (e.answered e.s f.d [(f.s.toNat + 1, 0xFFFFFFFF#32)])) ∧
    (∀ d x, e.useTile e.s (e.sreg f.s.toNat) = some (d, x) →
      let t := if 2 ≤ scpOf f.lit then e.s.acquireWide e.loc.d else e.s
      exec (.verq f) s = e.retires (.verq f) (e.answered t f.d [(f.s.toNat + 1, t.tileWord d x false)]))) ∧
  (∀ f s e, rdy (.rstop f) f s e →
    (e.useTile e.s (e.sreg f.s.toNat) = none →
      exec (.rstop f) s = e.retires (.rstop f) (e.answered e.s f.d [(f.s.toNat + 1, 0xFFFFFFFF#32)])) ∧
    (∀ d x, e.useTile e.s (e.sreg f.s.toNat) = some (d, x) →
      exec (.rstop f) s = e.retires (.rstop f) (e.answered (e.s.updTile d x fun t => { t with stop := true }) f.d
        [(f.s.toNat + 1, e.s.tileWord d x false)]))) ∧
  (∀ f s e, rdy (.ssack f) f s e →
    let pos := if f.v.getLsbD 0 then 1 else 0
    let link := recLink (e.s.recAt e.blk.rdom e.blk.ridx).ws pos
    (e.blk.isHandler = true ∨ link = none → exec (.ssack f) s = e.retires (.ssack f) (e.answered e.s f.d [(f.s.toNat, 0xFFFFFFFF#32)])) ∧
    (∀ l, e.blk.isHandler = false → link = some l →
      let s' := e.s.acquireWide e.loc.d
      let t := s'.tile l.1 l.2.1
      exec (.ssack f) s = e.retires (.ssack f) (e.answered
        ((s'.updSub l fun u => { u with bv := t.ver, bvf := t.final }).updRun e.blk.rdom e.blk.ridx fun v =>
          ((v.1 &&& ~~~(0xFFFF#32 <<< (16 * pos))) ||| BitVec.ofNat 32 (t.ver * 2 ^ (16 * pos)),
           (v.2 &&& ~~~(BitVec.twoPow 32 pos ||| BitVec.twoPow 32 (2 + pos))) ||| (if t.final then BitVec.twoPow 32 (2 + pos) else 0#32))).settleGroups
        f.d [(f.s.toNat, BitVec.ofNat 32 (t.ver + if t.final then 65536 else 0))])))

/-- R340, R346, R347: with a free slot GRPSET answers 0xFFFFFFFF for a group it may not use, and else decides NEW, ADD, ARM or FREE; SHMAP of a shadow pair
that lies aligned on one N page maps the tile its handle names, once no line of the pair has to wait at its home, or answers why not; SHMAP.FREE unmaps a tile of its own ASID that has no subscriber, no group
and no pinned read. It rests on the model's choices of logs 51 to 53. -/
def Sys2Proof.Spec.GroupAndMappingWords : Prop :=
  let rdy := fun (i : Instr) (f : AsyW) (s : State) (e : Env) => readyWord i f.g f.lit [] (fun _ => true) s = some e ∧ e.slotFree f.d = true
  let grp := fun (i : AsyW → Instr) (go : Env → AsyW → Nat → Nat → Word → State → Word × State) => ∀ f s e, rdy (i f) f s e →
    (e.useGroup e.s (e.sreg f.s.toNat) = none →
      exec (i f) s = e.retires (i f) (e.answered e.s f.d [(f.s.toNat + 1, 0xFFFFFFFF#32)])) ∧
    (∀ d x, e.useGroup e.s (e.sreg f.s.toNat) = some (d, x) →
      let r := go e f d x (e.sreg (f.s.toNat + 1)) e.s
      exec (i f) s = e.retires (i f) (e.answered r.2 f.d [(f.s.toNat + 1, r.1)]))
  grp .grpsetNew (fun e f => e.grpNew (stepOf f.lit)) ∧ grp .grpsetAdd (fun e _ => e.grpAdd) ∧ grp .grpsetArm (fun _ _ d x _ => State.grpArm d x) ∧
  grp .grpsetFree (fun _ _ d x _ => State.grpFree d x) ∧
  (∀ f s e p t, rdy (.shmap f) f s e →
    let va := (e.breg f.ba.toNat).toNat
    let n := 2 * e.lit.toNat
    let pa := p.paOf va
    let answer := fun (t : State) (x : Word) => exec (.shmap f) s = e.retires (.shmap f) (e.answered t f.d [(f.s.toNat + 1, x)])
    va % 256 = 0 → e.s.lookup e.loc.d e.loc.a e.blk.asid va = (.ok p, t) → entryCode t p .store (!e.blk.isHandler) n = none →
    p.ty = 0 → va / 2 ^ pageBits p.size = (va + n - 1) / 2 ^ pageBits p.size → pa / 65536 = (pa + n - 1) / 65536 →
    (t.tileNamed (e.sreg f.s.toNat) = none → answer t 0xFFFFFFFF#32) ∧
    (∀ d x, t.tileNamed (e.sreg f.s.toNat) = some (d, x) →
      ((t.tile d x).mapped = true → answer t 0x80000001#32) ∧
      ((t.tile d x).mapped = false →
        let away := (List.range (n / 256)).any fun k => homeOf (pa + 256 * k) != d
        let lies := t.doms.any fun q => q.2.tiles.any fun y => y.2.mapped && decide (y.2.base < pa + n) && decide (pa < y.2.base + 512 * y.2.szu)
        (away = true → answer t 0x80000002#32) ∧ (away = false → lies = true → answer t 0x80000003#32) ∧
        let lines := (List.range (n / 256)).map fun k => pa + 256 * k
        (away = false → lies = false → (∀ p ∈ lines, t.unreachable p = false ∧ t.backing (.slice d) p = false ∧ t.lineRefuses p (.slice d) = false) →
          answer ((lines.foldl (fun u p => u.served (.slice d) p) ((List.range (n / 64)).foldl (fun u k => u.recall (pa / 64 + k)) t)).updTile d x fun _ =>
            { Tile.zero with mapped := true, base := pa, szu := e.lit.toNat / 256, asid := e.blk.asid }) 0#32)))) ∧
  (∀ f s e, rdy (.shmapFree f) f s e →
    let answer := fun (t : State) (x : Word) => exec (.shmapFree f) s = e.retires (.shmapFree f) (e.answered t f.d [(f.s.toNat + 1, x)])
    (e.s.tileNamed (e.sreg f.s.toNat) = none → answer e.s 0xFFFFFFFF#32) ∧
    (∀ d x, e.s.tileNamed (e.sreg f.s.toNat) = some (d, x) →
      let t := e.s.tile d x
      let own := e.blk.isHandler || t.asid == e.blk.asid
      (own = false → answer e.s 0xFFFFFFFF#32) ∧
      (own = true → t.subs ≠ [] ∨ t.grp ≠ none → answer e.s 0x80000001#32) ∧
      (own = true → t.subs = [] → t.grp = none → e.s.bufferHeld e.s.nextOp (tileKey d x) false = false →
        e.s.bufferHeld e.s.nextOp (tileKey d x) true = false → answer (e.s.updTile d x fun _ => Tile.zero) 0#32)))

/-- The publish words complete. -/
def Obligations.PublishEngineComplete : Prop := Sys2Proof.Spec.PublishWords ∧ Sys2Proof.Spec.GroupAndMappingWords

/-! ## Sequencer words (14) -/

/-- R358, R367 to R369: with a free slot SEQLD of 1 to 64 states that can be read answers 1 where another block holds the sequencer (and to the handler), 2
while it runs, and else, if every field passes, loads the table and claims it; SEQGO of the holder answers why it does not start, or enters its state; SEQSTOP
stops, and with R releases, answering the state word. Another block's words answer 0xFFFFFFFF. While the claim of a killed holder is ending, SEQLD and SEQGO
wait. It rests on the model's choices of logs 26, 95 and 110. -/
def Sys2Proof.Spec.SequencerControl : Prop :=
  let rdy := fun (i : Instr) (f : SysW) (s : State) (e : Env) => readyWord i f.g f.lit [] (fun _ => true) s = some e ∧ e.slotFree f.d = true
  (∀ f s e tab t, rdy (.seqld f) f s e →
    let n := (e.sreg f.s.toNat).toNat
    let q := t.seqOf e.loc.d e.loc.a
    let answer := fun (t : State) (x : Word) => exec (.seqld f) s = e.retires (.seqld f) (e.answered t f.d [(f.s.toNat, x)])
    1 ≤ n → n ≤ 64 → e.core.seq.ending = false → e.readTable n (e.breg f.ba.toNat).toNat e.s = .ok tab t →
    let lost : Prop := e.loc.k = 4 ∨ (q.hold ≠ none ∧ q.holder ≠ some e.bid)
    (lost → answer t 1#32) ∧ (¬ lost → q.mode = 2 → answer t 2#32) ∧
    (¬ lost → q.mode ≠ 2 → seqTableBad t.fresh n tab = none →
      answer (t.updSeq e.loc.d e.loc.a fun q => { q with hold := some (e.loc.k, e.bid), tab := tab, mode := 1 }) 0#32)) ∧
  (∀ f s e, rdy (.seqgo f) f s e → e.core.seq.ending = false →
    let x := (e.sreg f.s.toNat).toNat
    let q := e.core.seq
    let answer := fun (t : State) (y : Word) => exec (.seqgo f) s = e.retires (.seqgo f) (e.answered t f.d [(f.s.toNat, y)])
    let field := x < 2 ^ 10 ∧ x / 2 ^ 6 % 4 = 0
    let quartet := q.tab.any fun ent => (List.range 4).any fun k => ent.getD (2 * k) 0#32 != 0#32 && opQuartet (opOf (ent.getD (2 * k) 0#32))
    let room := quartet = true → 4 * (x / 256) + 3 < e.blk.warps.length
    (q.holder ≠ some e.bid → answer e.s 0xFFFFFFFF#32) ∧
    (q.holder = some e.bid →
      (¬ field → answer e.s 0xFFFFFFFF#32) ∧ (field → q.mode = 0 → answer e.s 0x80000001#32) ∧ (field → q.mode = 2 → answer e.s 0x80000002#32) ∧
      (field → q.mode ≠ 0 → q.mode ≠ 2 →
        (q.tab.length ≤ x % 64 → answer e.s 0x80000003#32) ∧ (x % 64 < q.tab.length → ¬ room → answer e.s 0x80000004#32) ∧
        (x % 64 < q.tab.length → room → answer ((e.s.updSeq e.loc.d e.loc.a fun q =>
          { q with drv := e.w, qd := x / 256, frec := 0#32, mode := 2 }).seqEnter e.loc.d e.loc.a (x % 64)) 0#32)))) ∧
  (∀ f s e, rdy (.seqstop f) f s e →
    (e.core.seq.holder ≠ some e.bid → exec (.seqstop f) s = e.retires (.seqstop f) (e.answered e.s f.d [(f.s.toNat, 0xFFFFFFFF#32)])) ∧
    (e.core.seq.holder = some e.bid →
      let t := e.s.seqStop e.loc.d e.loc.a
      exec (.seqstop f) s = e.retires (.seqstop f) (e.start (if f.f.getLsbD 0 then t.seqRelease e.loc.d e.loc.a else t) f.d (.after 3)
        [(f.s.toNat, e.core.seq.word true)])))

/-- R363, R367, R370 to R372: a word of the holder, once the warp's accesses are performed, orders its scratch stores before the matrix reads that the
sequencer then replays and sets a counter (QSET), lowers it by m but not below 0 and answers it (QDEC), or raises signals (SEQSIG). QWAIT answers the status
of a counter at 0 or of a faulted sequencer and clears TEV, answers 8 to another block, and else waits; SEQQ answers state word and fault record. -/
def Sys2Proof.Spec.SequencerWords : Prop :=
  let rdy := fun (i : Instr) (f : SysW) (s : State) (e : Env) => readyWord i f.g f.lit [] (fun _ => true) s = some e ∧ e.slotFree f.d = true
  let signalled := fun (e : Env) => e.s.onScr fun c y =>
    (y.pathFenceOf (.warp (agentBlock c e.bid) e.w)).flow (.warp (agentBlock c e.bid) e.w) (.seq (agentBlock c e.bid))
  let mine := fun (e : Env) => e.core.seq.holder = some e.bid ∧ e.s.lsBusy e.bid e.w false = false
  (∀ f s e, rdy (.qset f) f s e →
    (e.core.seq.holder ≠ some e.bid → exec (.qset f) s = e.retires (.qset f) (e.answered e.s f.d [])) ∧
    (mine e → exec (.qset f) s = e.retires (.qset f) (e.answered (((signalled e).updSeq e.loc.d e.loc.a fun q =>
      { q with q := mset 0#32 q.q f.f.toNat (e.sreg f.s.toNat) }).qwaitServe e.loc.d e.loc.a) f.d []))) ∧
  (∀ f s e, rdy (.qdec f) f s e →
    (e.core.seq.holder ≠ some e.bid → exec (.qdec f) s = e.retires (.qdec f) (e.answered e.s f.d [(f.s.toNat, 0xFFFFFFFF#32)])) ∧
    (mine e →
      let x := BitVec.ofNat 32 ((mget 0#32 e.core.seq.q f.f.toNat).toNat - stepOf f.lit)
      exec (.qdec f) s = e.retires (.qdec f) (e.answered (((signalled e).updSeq e.loc.d e.loc.a fun q =>
        { q with q := mset 0#32 q.q f.f.toNat x }).qwaitServe e.loc.d e.loc.a) f.d [(f.s.toNat, x)]))) ∧
  (∀ f s e, rdy (.seqsig f) f s e →
    (e.core.seq.holder ≠ some e.bid → exec (.seqsig f) s = e.retires (.seqsig f) (e.answered e.s f.d [])) ∧
    (mine e → exec (.seqsig f) s = e.retires (.seqsig f) (e.answered ((signalled e).updSeq e.loc.d e.loc.a fun q =>
      { q with sig := q.sig ||| e.lit.setWidth 8 }) f.d []))) ∧
  (∀ f s e, readyWord (.qwait f) f.g f.lit [] (fun _ => true) s = some e →
    let q := e.core.seq
    let now := mget 0#32 q.q f.f.toNat = 0#32 ∨ q.mode = 3
    (e.any = false → exec (.qwait f) s = e.retires (.qwait f) e.s) ∧
    (e.any = true → q.holder ≠ some e.bid → exec (.qwait f) s = e.retires (.qwait f) (e.setWarp fun wp => wp.setS f.s.toNat 8#32)) ∧
    (e.any = true → q.holder = some e.bid →
      (now → exec (.qwait f) s = e.retires (.qwait f) (((e.s.qwaitJoin e.bid e.w).updWarp e.bid e.w fun wp =>
        wp.setS f.s.toNat (q.status f.f.toNat)).updSeq e.loc.d e.loc.a fun q =>
        { q with tev := false })) ∧
      (¬ now → exec (.qwait f) s = e.stands (e.setWarp fun wp => { wp with wait := some (.qwait f.f.toNat f.s.toNat) })))) ∧
  (∀ f s e, rdy (.seqq f) f s e →
    let mine := decide (e.core.seq.holder = some e.bid)
    exec (.seqq f) s = e.retires (.seqq f) (e.answered (if mine then e.s.updSeq e.loc.d e.loc.a fun q => { q with tev := false } else e.s) f.d
      [(f.s.toNat, e.core.seq.word mine), (f.s.toNat + 1, e.core.seq.frec)]))

/-- The sequencer words complete. -/
def Obligations.SequencerComplete : Prop := Sys2Proof.Spec.SequencerControl ∧ Sys2Proof.Spec.SequencerWords

/-! ## Umbra and home words (15, 08) -/

/-- R390 to R394: with a free slot PFENCE and CHKS.W complete at once where the clause's own cut is sealed, but for PFENCE.DOM, which waits until what it
covers is durable, and else wait for the seal; CHKS answers the number of the clause's cut, UMQ the resume words, the sealed cut's number or the epoch's state; UMSET sets
the period of the next epochs, a multiple of 4,096 up to 2^24. -/
def Sys2Proof.Spec.UmbraWords : Prop :=
  let rdy := fun (i : Instr) (f : SysW) (s : State) (e : Env) => readyWord i f.g f.lit [] (fun _ => true) s = some e ∧ e.slotFree f.d = true
  let sealed' := fun (i : Instr) (f : SysW) (s : State) (e : Env) (dom : Bool) (res : List (Nat × Word)) =>
    (e.wp.cut.1 ≤ e.core.umb.sealedNo → dom = false → exec i s = e.retires i (e.answered e.s f.d res)) ∧
    (e.wp.cut.1 ≤ e.core.umb.sealedNo → dom = true → exec i s = e.retires i (e.start e.s f.d (.cut e.wp.cut.2.2 false true) res)) ∧
    (e.core.umb.sealedNo < e.wp.cut.1 → exec i s = e.retires i (e.start e.s f.d (.cut e.wp.cut.1 true dom) res))
  (∀ f s e, rdy (.pfence f) f s e → sealed' (.pfence f) f s e (f.f.getLsbD 0) []) ∧
  (∀ f s e, rdy (.chks f) f s e →
    let res := [(f.s.toNat, BitVec.ofNat 32 e.wp.cut.2.1)]
    (f.f.getLsbD 0 = true → sealed' (.chks f) f s e false res) ∧
    (f.f.getLsbD 0 = false → exec (.chks f) s = e.retires (.chks f) (e.answered e.s f.d res))) ∧
  (∀ f s e, rdy (.umq f) f s e →
    let u := e.core.umb
    let answer := fun (x y : Word) => exec (.umq f) s = e.retires (.umq f) (e.answered e.s f.d [(f.s.toNat, x), (f.s.toNat + 1, y)])
    let q := match u.newest with | some w => (u.bank w).hseq | none => 0
    (f.f.toNat % 4 = 0 → answer e.blk.umq.word (BitVec.ofNat 32 e.blk.umq.seq)) ∧
    (f.f.toNat % 4 = 1 → answer (BitVec.ofNat 32 q) (BitVec.ofNat 32 (q / 2 ^ 32))) ∧
    (2 ≤ f.f.toNat % 4 → answer (BitVec.ofNat 32 (min u.since (2 ^ 32 - 1)))
      (BitVec.ofNat 32 ((if u.armed then 1 else 0) + 2 * u.used + (if u.openCut.isSome then 64 else 0) + (if (u.bank (match u.openCut with | some w => !w | none => u.nextBank)).valid then 0 else 128))))) ∧
  (∀ f s e, rdy (.umset f) f s e → (e.sreg f.s.toNat).toNat % 4096 = 0 → (e.sreg f.s.toNat).toNat ≤ 2 ^ 24 →
    exec (.umset f) s = e.retires (.umset f) (e.answered (e.s.updUmbra e.loc.d e.loc.a fun u => { u with perNext := (e.sreg f.s.toNat).toNat }) f.d []))

/-- R223 to R227: with a free slot TLBI (of a legal ASID) removes from every TLB in its reach the entries it hits and waits for the operations before it;
HFLUSH starts the flush of the domain's dirty list, or of the N-page lines of its range that it holds, whose recalls keep their lines' transactions open; on W
pages it first waits for the warp's stores there; HPROBE and ATR answer their words. It rests on the model's choices of logs 35 and 109. -/
def Sys2Proof.Spec.HomeWords : Prop :=
  let rdy := fun (i : Instr) (f : SysW) (s : State) (e : Env) => readyWord i f.g f.lit [] (fun _ => true) s = some e ∧ e.slotFree f.d = true
  (∀ f s e, rdy (.tlbi f) f s e →
    let kind := f.f.toNat % 4
    let reach := f.f.toNat / 4 % 4
    let x := e.sreg f.s.toNat
    let keep := fun (l : List TlbEnt) => l.filter fun t => !t.hit kind x.toNat (e.breg f.ba.toNat).toNat
    (kind < 2 → x.toNat < 4096) →
    exec (.tlbi f) s = e.retires (.tlbi f) (e.start { e.s with
        cores := e.s.cores.map fun p =>
          if reach = 2 ∨ (p.1 / 132 = e.loc.d ∧ (reach = 1 ∨ p.1 % 132 = e.loc.a)) then (p.1, { p.2 with tlb := keep p.2.tlb }) else p,
        doms := e.s.doms.map fun p => if reach = 2 ∨ (reach = 1 ∧ p.1 = e.loc.d) then (p.1, { p.2 with dtlb := keep p.2.dtlb }) else p }
      f.d (.after reach) [])) ∧
  (∀ f s e, rdy (.hflush f) f s e →
    let d := e.loc.d
    let starts := fun (t : State) (all : Bool) (secs : List Nat) =>
      let lines := ((secs.filter fun sec => match mfind (t.dom d).l1 sec with | some x => x.st.isDirty | none => false).map (· / 4)).eraseDups
      let u := e.start t f.d (.flush all (decide (f.f.toNat % 4 = 1)) (f.f.getLsbD 2) secs) []
      exec (.hflush f) s = e.retires (.hflush f) { u with ops := u.ops.map fun y => if y.id = t.nextOp then { y with txn := lines } else y }
    (f.f.toNat % 4 = 2 → starts e.s true []) ∧
    (f.f.toNat % 4 ≠ 2 → ∀ ps t, e.rangePages .load 65538 e.s (e.breg f.ba.toNat).toNat (e.sreg f.s.toNat).toNat = (.ok ps, t) →
      ((∃ p ∈ ps, p.2.2 = 1) → ∀ y ∈ t.ops, y.bid = e.bid → y.performed = false → (∃ p ∈ y.ws, p.1 = e.w) → y.k.wlines = []) →
      starts t false (((t.heldSectors d).filter fun sec => ps.any fun p => decide (p.2.2 = 0) && decide (p.1 / 256 ≤ sec / 4) &&
        decide (sec / 4 ≤ (p.1 + p.2.1 - 1) / 256)).filter fun sec => (t.tileAt (64 * sec)).isNone))) ∧
  (∀ f s e pa ty t, rdy (.hprobe f) f s e → e.translate e.s (e.breg f.ba.toNat).toNat .load 1 = (.ok pa ty, t) →
    exec (.hprobe f) s = e.retires (.hprobe f) (e.answered t f.d
      (((t.probe e.loc.d (f.f.toNat % 4) pa ty).take (if f.f.toNat % 4 = 1 then 2 else 1)).mapIdx fun i w => (f.s.toNat + i, w)))) ∧
  (∀ f s e ws t, rdy (.atr f) f s e →
    e.atrWords e.s (e.breg f.ba.toNat).toNat (if f.f.toNat % 4 = 0 then .load else if f.f.toNat % 4 = 1 then .store else .fetch) = (some ws, t) →
    exec (.atr f) s = e.retires (.atr f) (e.answered t f.d (ws.mapIdx fun i w => (f.s.toNat + i, w))))

/-- The persistence and translation words complete. -/
def Obligations.UmbraAndHomeWordsComplete : Prop := Sys2Proof.Spec.UmbraWords ∧ Sys2Proof.Spec.HomeWords

/-! ## Fabric words (16) -/

/-- R397, R399, R400, R407 to R412: with a free slot, no armed epoch and legal operands, FSEND of 64 to 2^24 bytes in sectors, FENQ and FSIG answer status
0x01 where their device is unreachable, and else enter one message: to its device by its route, after a release except a plain FSEND, with the next identifier
of the domain unless it is an untagged FSEND. FFENCE enters an operation that waits for the messages before it. It rests on the model's choices of logs 46 and
65. -/
def Sys2Proof.Spec.FabricWords : Prop :=
  let rdy := fun (i : Instr) (f : SysW) (s : State) (e : Env) => readyWord i f.g f.lit [] (fun _ => true) s = some e ∧ e.slotFree f.d = true
  let sends := fun (i : Instr) (f : SysW) (s : State) (e : Env) (t : State) (dev : Nat) (rel : Bool) (srcs : List Nat) (body : FabBody) =>
    (t.route e.loc.d dev = .gone → exec i s = e.retires i (e.answered t f.d [(f.s.toNat, 1#32)])) ∧
    (t.route e.loc.d dev ≠ .gone →
      let no := (t.dom e.loc.d).sentNo
      let u := e.unheld true t
      let u := if bodyNamed body then u.updDom e.loc.d fun x => { x with sentNo := no + 1 } else u
      exec i s = e.retires i (e.start u f.d (.fabric
        { dev := dev, port := (t.route e.loc.d dev).portOf, rel := rel, srcs := srcs, sent := [], code := 0, ended := none, tries := 0, back := 0,
          msg := { src := t.svc.dev, id := { dev := t.svc.dev, dom := e.loc.d, num := no % 2 ^ 52 }, port := none, op := some t.nextOp, jtag := none,
                   body := body } }) [(f.s.toNat, 0#32)]))
  (∀ f s e ps t, rdy (.fsend f) f s e →
    let n := (e.sreg f.s.toNat).toNat
    let p := e.breg f.ba.toNat
    let q := e.breg (f.ba.toNat + 1)
    let tag := if f.f.getLsbD 0 then some (e.sreg (f.s.toNat + 1)) else none
    n % 64 = 0 → 0 < n → n ≤ 2 ^ 24 → (∀ h ∈ tag, h.toNat < 2 ^ 28 ∧ h.toNat / 2 ^ 22 % 64 = fpDev p) → fpRes p = false → fpOff p + n ≤ 2 ^ 40 →
    fpOff p % 64 = 0 → q.toNat % 64 = 0 → e.sendSectors (n / 64) q.toNat e.s = (.ok ps, t) → e.unarmed t →
    sends (.fsend f) f s e t (fpDev p) (f.f.getLsbD 1) (ps.map (·.1)) (.data (fpApr p) (fpOff p) (n / 64) 0 [] tag)) ∧
  (∀ f s e ps t v bs pins u, rdy (.fenq f) f s e →
    let h := e.sreg f.s.toNat
    h.toNat < 2 ^ 28 → (e.breg f.ba.toNat).toNat % 64 = 0 → e.sendSectors 1 (e.breg f.ba.toNat).toNat e.s = (.ok ps, t) →
    e.released t 3 = some v → e.acquiring v = false →
    v.readSector (.core e.loc.d e.loc.a) e.loc.d [] false (.glob (ps.headD (0, 0)).1) = .ok bs pins u → e.unarmed (u.keepCopy e.loc.d (ps.headD (0, 0)).2 (.glob (ps.headD (0, 0)).1)) →
    sends (.fenq f) f s e (u.keepCopy e.loc.d (ps.headD (0, 0)).2 (.glob (ps.headD (0, 0)).1)) (h.toNat / 2 ^ 22 % 64) true [] (.enq (h.toNat / 2 ^ 16 % 64) (h.toNat % 2 ^ 16) (f.f.getLsbD 0)
      ((List.range 16).map fun i => BitVec.ofNat 32 (leNat ((bs.drop (4 * i)).take 4))))) ∧
  (∀ f s e, rdy (.fsig f) f s e → e.unarmed e.s →
    let x := e.sreg (f.s.toNat + 1)
    let p := e.breg f.ba.toNat
    (f.f = 2#5 → x.toNat < 2 ^ 28 → sends (.fsig f) f s e e.s (x.toNat / 2 ^ 22 % 64) true [] (.dec x)) ∧
    (f.f ≠ 2#5 → fpRes p = false → fpOff p + 4 ≤ 2 ^ 40 → fpOff p % 4 = 0 →
      sends (.fsig f) f s e e.s (fpDev p) true [] (if f.f = 0#5 then .set (fpApr p) (fpOff p) x else .add (fpApr p) (fpOff p) x))) ∧
  (∀ f s e, rdy (.ffence f) f s e → exec (.ffence f) s = e.retires (.ffence f) (e.start e.s f.d .ffence []))

/-! ## Service words (17) -/

/-- R430 to R434: with a free slot and legal operands the service words of the handler slot set a power point, retire a unit, end a parked block and read the
event log; SVC.QUOTE stores a quote into an aligned buffer; EVLOG.PUT appends an event; CAPQ, PWRQ, CLKQ and HSTAT answer what the service engine holds. The
module's power, the temperatures and the signature are free values. It rests on the model's choices of logs 8, 32 and 67. -/
def Sys2Proof.Spec.ServiceWords : Prop :=
  let rdy := fun (i : Instr) (f : SysW) (s : State) (e : Env) => readyWord i f.g f.lit [] (fun _ => true) s = some e ∧ e.slotFree f.d = true
  let answer := fun (i : Instr) (f : SysW) (s : State) (e : Env) (t : State) (x : Word) => exec i s = e.retires i (e.answered t f.d [(f.s.toNat, x)])
  let b := fun (x : Bool) (i : Nat) => if x then 2 ^ i else 0
  let free := fun (e : Env) (t : State) (ps : List (Nat × Nat)) => ∀ p ∈ ps, t.unreachable p.1 = false ∧
    t.backing (.core e.loc.d e.loc.a) p.1 = false ∧ t.lineRefuses p.1 (.core e.loc.d e.loc.a) = false
  let asked := fun (e : Env) (t : State) (ps : List (Nat × Nat)) => ps.foldl (fun (s : State) p => s.served (.core e.loc.d e.loc.a) p.1) t
  (∀ f s e, rdy (.svcVf f) f s e → e.blk.isHandler = true →
    let x := (e.sreg f.s.toNat).toNat
    x < 2 ^ 9 →
    (x / 64 % 2 = 1 ∧ x / 128 = 3 → answer (.svcVf f) f s e e.s 1#32) ∧
    (¬ (x / 64 % 2 = 1 ∧ x / 128 = 3) → answer (.svcVf f) f s e (e.s.setPoint (x % 64) (x / 64 % 2 = 1) (x / 128)) 0#32)) ∧
  (∀ f s e, rdy (.svcRetire f) f s e → e.blk.isHandler = true →
    let x := (e.sreg f.s.toNat).toNat
    let r := e.s.retireAt (x % 64) (x / 2 ^ 6 % 16) (x / 2 ^ 10 % 16) (x / 2 ^ 14 % 4) (x / 2 ^ 16)
    x < 2 ^ 19 → x / 2 ^ 14 % 4 ≠ 3 →
    (mfind r.2.blocks e.bid ≠ none → answer (.svcRetire f) f s e r.2 r.1) ∧ (mfind r.2.blocks e.bid = none → exec (.svcRetire f) s = .next r.2)) ∧
  (∀ f s e, rdy (.svcPkill f) f s e → e.blk.isHandler = true →
    (∀ d i k g w, e.s.named (e.sreg f.s.toNat) = some (d, i) → (e.s.recAt d i).kind = .park k g w → (e.s.recAt d i).st ≠ .free →
      answer (.svcPkill f) f s e (e.s.endParked k) 0#32) ∧
    ((∀ d i k g w, e.s.named (e.sreg f.s.toNat) = some (d, i) → (e.s.recAt d i).kind = .park k g w → (e.s.recAt d i).st = .free) →
      answer (.svcPkill f) f s e e.s 1#32)) ∧
  (∀ f s e ps t, rdy (.svcQuote f) f s e → (e.breg f.ba.toNat).toNat % 256 = 0 →
    e.buffer true 258 (e.breg f.ba.toNat).toNat 16480 e.s = (.ok ps, t) → free e t ps →
    let u := asked e t ps
    let head := u.quoteHead e.loc.d (u.viewBytes e.loc.d true ((ps.headD (0, 0)).1 + 16) 32)
    answer (.svcQuote f) f s e (State.storeBuffer { u with fresh := u.fresh + 1 } e.loc.d ps
      (head ++ (List.range 16224).map (Config.signature head u.fresh))) 16480#32) ∧
  (∀ f s e, rdy (.capq f) f s e →
    let x := (e.sreg f.s.toNat).toNat
    (f.f.toNat % 4 = 0 → x < 8 → answer (.capq f) f s e e.s (e.s.gradeWord x)) ∧ (f.f.toNat % 4 = 1 → x < 32 → answer (.capq f) f s e e.s (idWord x)) ∧
    (∀ pa ty t bs pins u, f.f.toNat % 4 = 2 → (e.breg f.ba.toNat).toNat % 32 = 0 →
      e.translate e.s (e.breg f.ba.toNat).toNat .load 32 = (.ok pa ty, t) → (∀ d i x, t.tileAt pa ≠ some (d, i, x, false)) →
      t.readSector (.core e.loc.d e.loc.a) e.loc.d [] false (.glob (pa / 64 * 64)) = .ok bs pins u →
      answer (.capq f) f s e (u.keepCopy e.loc.d ty (.glob pa)) (u.shortfall fun i => leNat ((bs.drop (pa % 64 + 4 * i)).take 4))) ∧
    (f.f.toNat % 4 = 3 → x < 256 → answer (.capq f) f s e e.s (if x / 64 = 3 then 0x80000000#32 else
      let cs := e.s.clusterCores (x % 64) (x / 64)
      BitVec.ofNat 32 (cs.length + 2 ^ 8 * ((cs.map (e.s.slotsOffered (x % 64))).foldl (· + ·) 0))))) ∧
  (∀ f s e, rdy (.pwrq f) f s e →
    let i := (e.sreg f.s.toNat).toNat
    let x := e.s.dom (i % 64)
    let un := decide (i / 64 % 2 = 1)
    (f.f.toNat % 4 = 0 → answer (.pwrq f) f s e e.s (BitVec.ofNat 32 ((if un then x.reqU else x.reqC) + 4 * (if un then x.effU else x.effC)
      + b (x.throttledAt un) 4))) ∧
    (f.f.toNat % 4 = 2 → answer (.pwrq f) f s e e.s (BitVec.ofNat 32 (if un then x.droopU else x.droopC))) ∧
    (f.f.toNat % 4 = 1 ∨ f.f.toNat % 4 = 3 → ∃ v, answer (.pwrq f) f s e { e.s with fresh := e.s.fresh + 1 } v ∧
      (f.f.toNat % 4 = 1 → v.toNat / 2 ^ 16 = 25000))) ∧
  (∀ f s e, rdy (.clkq f) f s e →
    let ck := if e.blk.isHandler then e.s.clocks e.loc.d e.loc.a else (0, 0)
    exec (.clkq f) s = e.retires (.clkq f) (e.answered e.s f.d
      [(f.s.toNat, BitVec.ofNat 32 (e.s.clockSource e.loc.d e.loc.a + 4 * ck.1 + 16 * ck.2 + 2 ^ 8 * e.core.cksw)),
       (f.s.toNat + 1, e.core.cktick.setWidth 32)])) ∧
  (∀ f s e, rdy (.evlogPut f) f s e → 0x8000 ≤ (e.sreg f.s.toNat).toNat → (e.sreg f.s.toNat).toNat < 2 ^ 16 →
    let x : LogEnt := { tick := e.s.sid e.loc.d, code := (e.sreg f.s.toNat).toNat, dom := e.loc.d, area := e.loc.a,
                        data := (e.sreg (f.s.toNat + 1)).setWidth 64 }
    ∃ t, t.log.length = e.s.log.length + 1 ∧ t.mem = e.s.mem ∧ (∃ y, t.log = e.s.log ++ [y] ∧ y.code = x.code ∧ y.dom = x.dom ∧ y.area = x.area ∧ y.data = x.data) ∧
      answer (.evlogPut f) f s e t (BitVec.ofNat 32 t.log.length)) ∧
  (∀ f s e ps t, rdy (.evlogGet f) f s e → e.blk.isHandler = true → (e.breg f.ba.toNat).toNat % 32 = 0 →
    e.buffer false 1 (e.breg f.ba.toNat).toNat 32 e.s = (.ok ps, t) →
    let q := (e.sreg f.s.toNat).toNat + 2 ^ 32 * (e.sreg (f.s.toNat + 1)).toNat
    let n := t.log.length
    (q = 0 ∨ n < q → answer (.evlogGet f) f s e t 2#32) ∧ (0 < q → q + 65536 ≤ n → answer (.evlogGet f) f s e t 1#32) ∧
    (∀ x, 0 < q → n < q + 65536 → t.log[q - 1]? = some x → free e t ps →
      answer (.evlogGet f) f s e ((asked e t ps).storeBuffer e.loc.d ps (leBytes 32 (logNat q x))) 0#32)) ∧
  (∀ f s e, rdy (.hstat f) f s e →
    let i := e.sreg f.s.toNat
    let d := if i = 0xFFFFFFFF#32 then e.loc.d else i.toNat
    let x := e.s.dom d
    let here := decide (d < 64)
    let ret := (e.s.svc.retired.filter fun u => match u with
      | .core k _ _ | .slot k _ _ _ | .bank k _ _ _ | .dram k _ | .umbra k _ => k = d
      | .port p => portDomain p = d
      | .pool p => poolDom p = d
      | .repaired _ _ _ => false).length
    answer (.hstat f) f s e e.s (BitVec.ofNat 32 (match f.f.toNat % 4 with
      | 0 => if here then x.ce else 0
      | 1 => if here then x.ue else 0
      | 2 => if here then ret else 0
      | _ => b e.s.svc.bg 0 + b (here && x.throttled) 1 + b (!here) 2)))

/-- The fabric and service words complete. -/
def Obligations.FabricAndServiceWordsComplete : Prop := Sys2Proof.Spec.FabricWords ∧ Sys2Proof.Spec.ServiceWords

/-! ## Events of the issue engines and of time (Table 95) -/

/-- R60, R112, R114, R261: CLAUSE_ISSUE of a running core goes on with the open clause of a port, or begins what the first warp in its order can begin;
QUARTET_RENDEZVOUS is broken where a partner is missing, and issues a quartet whose members pass. R113: ACTIVE_SET_EXCHANGE takes in the pending ready warp
that has waited longest, into a free place, for an idle warp, or, ready for 1,024 cycles, for the one that has been idle longest or, with every active warp
ready, for the last in order, as the next in order. R125, R126: HANDLER_START opens the handler slot on the oldest parked warp, or kills it without a handler. It rests on the model's choices of logs 91 and 103. -/
def Sys2Proof.Spec.IssueEvents : Prop := ∀ (s : State) (d a b : Nat),
  let c := s.core d a
  (∀ p bw, p < 2 → s.coreOn d a = true → mfind c.ports p = some bw → ((s.block bw.1).warp bw.2).clause ≠ none →
    ((s.block bw.1).warp bw.2).parked = false → ((s.block bw.1).warp bw.2).wait = none →
    exec (.clauseIssue d a p) s = .next { s with focus := some bw }) ∧
  (∀ p bw bg t, p < 2 → s.coreOn d a = true → mfind c.ports p = none →
    State.pick c ((if p = 0 then (match mfind c.slots 4 with | some h => [(h, 0)] | none => []) else []) ++ s.rrOrder c) s = some (bw, bg, t) →
    exec (.clauseIssue d a p) s = .next (t.beginClause d a p bw bg)) ∧
  (∀ q t, (s.block b).loc ≠ none → q < 4 → s.quartetBroken b q = some t → exec (.quartetRendezvous b q) s = .next t) ∧
  (∀ q op f, (s.block b).loc ≠ none → q < 4 → s.quartetBroken b q = none → ((s.block b).warp (4 * q)).rdv = true →
    let x := s.block b
    let l := x.loc.getD ⟨0, 0, 0⟩
    let wd := x.quartetWords (4 * q)
    (∀ v ∈ quartetWarps q, x.atQuartet v = true ∧ x.memberCheck v = .ok (op, f) ∧ (f.d ≠ 6#3 → (x.warp v).slotBusy f.d.toNat = false) ∧
      x.memberBad op f v (f.t.toNat + v % 4) (x.warp v) = none ∧
      ∃ c, (x.warp v).clause = some c ∧ 2 ≤ c.ibuf.length ∧ x.channelsServe (x.warp v) c.ibuf = true) →
    x.differing (quartetWarps q) = 0 → s.matrixFull l.d l.a = false →
    (op = 0xA3 → imageBad ((x.warp (4 * q)).sreg (f.br.toNat % 16)).toNat 4096 x.share = none) →
    exec (.quartetRendezvous b q) s = .next ((quartetWarps q).foldl (fun u v => ((u.begun l.d l.a (b, v)).updWarp b v fun wp =>
        { wp.updLanes (match wp.clause with | some c => c.gang | none => 0#32) (fun _ ln => { ln with lat := [] }) with rdv := false }).retire b v 2)
      ((s.updBlock b fun x => x.enterRows (quartetWarps q).contains).quartetOp b l q op f (wd.headD 0#32) none))) ∧
  (let c' := s.pruned c
   let ready := c'.pending.filter fun p => s.warpReady p.1 p.2
   let idle := c'.active.filter fun p => !(c'.ports.any fun q => decide (q.2 = p)) && !s.warpReady p.1 p.2
   ∀ i, argMax (fun p => ((s.block p.1).warp p.2).readyFor) ready = some i →
    (c'.active.length < 8 → { c' with active := c'.active ++ [i], pending := c'.pending.filter (· != i) } ≠ c →
      exec (.activeSetExchange d a) s = .next (s.setCore d a { c' with active := c'.active ++ [i], pending := c'.pending.filter (· != i) })) ∧
    (∀ o rest, 8 ≤ c'.active.length → ((s.block i.1).warp i.2).readyFor < 1024 → idle = o :: rest →
      let y := { c' with active := c'.active.filter (· != o) ++ [i], pending := c'.pending.filter (· != i) ++ [o], rr := c'.ring.filter (· != o) }
      y ≠ c → exec (.activeSetExchange d a) s = .next (s.setCore d a y)) ∧
    (∀ o, 8 ≤ c'.active.length → 1024 ≤ ((s.block i.1).warp i.2).readyFor →
      (argMax (fun p => ((s.block p.1).warp p.2).notReadyFor) idle = some o ∨ (idle = [] ∧ c'.ring.getLast? = some o)) →
      let y := { c' with active := c'.active.filter (· != o) ++ [i], pending := c'.pending.filter (· != i) ++ [o], rr := i :: c'.ring.filter (· != o) }
      y ≠ c → exec (.activeSetExchange d a) s = .next (s.setCore d a y))) ∧
  (∀ h rest, c.hrun = false → s.coreOn d a = true → c.moving = false → c.hq = h :: rest →
    ((s.dom d).hv = false → exec (.handlerStart d a) s = .next ((let t := s.killWarp d a h
      t.updCore d a fun c => if c.hq.head? = some h then { c with hq := rest } else c).logEvent 0x30 d a)) ∧
    ((s.dom d).hv = true → ∃ t, exec (.handlerStart d a) s = .next t ∧ (t.core d a).hrun = true ∧
      mfind (t.core d a).slots 4 = some s.nextBid ∧ t.nextBid = s.nextBid + 1 ∧
      (t.block s.nextBid).loc = some ⟨d, a, 4⟩ ∧ (t.block s.nextBid).warps.length = 1 ∧
      (let wp := (t.block s.nextBid).warp 0
       wp.present = 0xFFFFFFFF#32 ∧ (∀ L < 32, (wp.lane L).pc = c.hent) ∧ wp.vcnt = 64 ∧ wp.sreg 0 = BitVec.ofNat 32 h ∧
       wp.sreg 1 = BitVec.ofNat 32 ((s.block ((c.ofHandle h).getD (0, 0)).1).warp ((c.ofHandle h).getD (0, 0)).2).trap.cause ∧ wp.breg 0 = (s.dom d).hdb)))

/-- R14, R382, R149, R242, R243, R323, R338, R50, R183, R18: an operation that is performed and acknowledged completes its slots; SLEEP, WAITT and TWAIT.T end
at their ticks; a warp's oldest supersede event calls its handler in every lane with a PC, or is logged where a call stack is full; window writes enter
registers whose owner has no open clause; a tick adds one to the counter, a beacon makes every copy agree. A PFENCE.DOM that a home refuses asks again. It
rests on the model's choices of logs 1, 43, 96 and 112. -/
def Sys2Proof.Spec.WaitAndTimeEvents : Prop := ∀ (s : State) (b w : Nat),
  let x := s.block b
  let wp := x.warp w
  (∀ o y, s.op o = some y → s.opDone y = true → s.tagAcked y.d y.a y.jent = true → s.dfenceWaits y = false →
    (∀ pa, s.cutRefused y = some pa → exec (.slotComplete o) s = .next (s.refuse (.op y.id) pa)) ∧ (s.cutRefused y = none →
    let u := (s.dfenceSys y).cutDurable y
    let rest := (∃ c, y.k = .dfence c) ∧ (u.earlier y).any (·.k.isLs) = true
    (¬ rest → exec (.slotComplete o) s = .next ((u.imageSlots y).completeOp y)) ∧
    (rest → (y.ws.all (·.2 = 7)) = false →
      exec (.slotComplete o) s = .next ((u.freeSlots y).setOp { y with ws := y.ws.map fun p => (p.1, 7) })))) ∧
  (∀ l, x.loc = some l → s.sidHeld l.d = false →
    (wp.wait = some .sleep → wp.dl ≤ s.sid l.d → exec (.sleepDeadline b w) s = .next (s.updBlock b fun y => y.closeClause w)) ∧
    (∀ v t c, wp.wait = some (.waitt v t) → wp.clause = some c → wp.slotBusy v = true → ((s.sid l.d).setWidth 32 - t.setWidth 32).toNat < 2 ^ 31 →
      exec (.transitTick b w) s = .next (s.missTransit b w v (c.word.extractLsb' 10 4).toNat)) ∧
    (∀ h r t, wp.wait = some (.twait h r (some t)) → (∀ e i, s.named h = some (e, i) → (s.recAt e i).st.terminal = false) → ((s.sid l.d).setWidth 32 - t.setWidth 32).toNat < 2 ^ 31 →
      exec (.twaitDeadline b w) s = .next (s.twaitEnd b w r 0x00010000#32 none))) ∧
  (∀ l pc more, x.loc = some l → wp.ev = pc :: more → wp.evDue = true → wp.exited = false → wp.parked = false →
    let t := s.updWarp b w fun wp => { wp with ev := more, evDue := !more.isEmpty }
    let full := (lanesOf wp.present).any fun L => decide (8 ≤ (wp.lane L).calls.length)
    (full = true → exec (.supersedeEvent b w) s = .next (t.logEvent 0x51 l.d l.a)) ∧
    (full = false → exec (.supersedeEvent b w) s = .next (t.updWarp b w fun wp => (wp.updLanes wp.present fun _ ln =>
      { ln with calls := (ln.pc, ln.fb) :: ln.calls, fb := ln.loops.length, pc := pc }).mergeDef))) ∧
  (let may := fun (q : Nat × Byte) => match x.rowOwner (q.1 / 128) with | some v => (x.warp v).clause.isNone | none => true
   x.winq.any may = true → exec (.windowWriteEntry b) s = .next (s.setBlock b
     { x with rf := (x.winq.filter may).foldl (fun m q => if (x.rowOwner (q.1 / 128)).isSome then setWordByte m q.1 q.2 else m) x.rf,
              winq := x.winq.filter fun q => !may q })) ∧
  (s.svc.powered = true →
    (∀ lag, ∃ u : State, exec (.siderealTick lag) s = .next u.serveSpawns ∧ u.tick = s.tick + 1 ∧ u.mem = s.mem ∧ u.log = s.log ∧ u.ops.length = s.ops.length ∧
      ∀ d < 64, u.dom d = (s.dom d).tick (lag.getLsbD d)) ∧
    (s.tick.toNat % 4096 = 0 → exec .siderealBeacon s =
      .next (State.settleGroups { s with doms := s.doms.map fun p => (p.1, { p.2 with lag := false, sidHeld := p.2.sidHeld && p.2.uoff }) })))

/-- The events of the issue engines, of waits and of time complete. -/
def Obligations.IssueAndTimeEventsComplete : Prop := Sys2Proof.Spec.IssueEvents ∧ Sys2Proof.Spec.WaitAndTimeEvents

/-! ## Events of memory (07, 08) -/

/-- R187, R188, R201, R199, R200, R225, R212: when the warp's earlier operations let it, a load of one word of ordinary memory that its home does not refuse
reads the bytes its domain sees, delivers them and is performed, and acquires if its order says so; a store of one part writes them at its order and scope; a
fence, a cache operation and a flush are performed whole, a release's write-backs made and confirmed first; a refused requester tries again after its wait. It
rests on the model's choices of logs 12, 35, 89 and 94. -/
def Obligations.PerformEventsComplete : Prop :=
  (∀ (s : State) (o : Nat) (x : Op), s.op o = some x → x.performed = false →
    let q := Asker.op x.id
    (∀ dst ord scp p pa, x.k = .load dst ord scp [p] → p.pl = .glob pa → p.sc = none → p.ty = 0 → regionOf pa ≠ .ctl → s.tileAt pa = none → x.jent = none →
      s.partMay x p = true → s.partBlocked x false scp p = false → s.partRefused x false scp p = none →
      let r := s.loadSec x.d (if opOf x.word = 0x88 then none else some x.a) (2 ≤ scp) true pa p.n
      let t := (r.2.partServed x false scp p).updBlock x.bid fun y => y.deliver (opWarp x) dst p.lane r.1 0#8
      let t := (t.takeFrom x.bid (opWarp x) (ordAcq ord) scp p.pl).setOp { x with k := .load dst ord scp [], performed := true }
      exec (.loadComplete o p.pl) s = .next (if x.acq then t.acquireWide x.d else t)) ∧
    (∀ ord scp p pa, x.k = .store ord scp [p] → p.pl = .glob pa → p.sc = none → p.ty = 0 → p.sty = 0 → regionOf pa ≠ .ctl → x.jent = none →
      (ordRel ord = true → 2 ≤ scp → x.flushed = true) → (x.flushed = true → s.confirming x.id = false) →
      s.partMay x p = true → s.partBlocked x true scp p = false → s.partRefused x true scp p = none →
      let t := (s.partServed x true scp p).writePart x (opOf x.word = 0x89) (ordRel ord) scp 0 p.pl (p.data.take p.n)
      let t := t.passTo x.bid (opWarp x) (ordRel ord) scp p.pl
      exec (.storePerformed o p.pl) s = .next (t.setOp { x with k := .store ord scp [], performed := !t.confirming x.id })) ∧
    (∀ ord scp pth pl, x.k = .fence ord scp pth → s.fenceMay x pth = true →
      (ordRel ord = true → 2 ≤ scp → x.flushed = false →
        (∀ t, s.flush x.d q x.id (scp = 3) = .made t → exec (.storePerformed o pl) s = .next (t.setOp { x with flushed := true })) ∧
        (∀ pa, s.flush x.d q x.id (scp = 3) = .refused pa → exec (.storePerformed o pl) s = .next (s.refuse q pa))) ∧
      (((ordRel ord && decide (2 ≤ scp)) = true → x.flushed = true ∧ s.confirming x.id = false) →
        let t := s.setOp { x with performed := true }
        let t := if ordAcq ord ∧ 2 ≤ scp then t.acquireWide x.d else t
        exec (.storePerformed o pl) s = .next (t.fenced x.bid (opWarp x) ord scp pth))) ∧
    (∀ scp inv lines pl, x.k = .cache scp inv lines → s.cacheMay x = true →
      (∀ l ∈ lines, s.unreachable (256 * l) = false ∧ s.backing q (256 * l) = false ∧ (homeOf (256 * l) ≠ x.d → 2 ≤ scp → s.lineRefuses (256 * l) q = false)) →
      exec (.storePerformed o pl) s = .next ((lines.foldl (fun s l => (s.cacheLine x.d x.a scp inv l).served q (256 * l)) s).setOp
        { x with performed := true })) ∧
    (∀ all inv sys secs pl, x.k = .flush all inv sys secs →
      let mine := if all then (s.dom x.d).dirtyList x.d else secs
      (∀ sec ∈ mine, s.unreachable (64 * sec) = false ∧ s.backing q (64 * sec) = false ∧
        (homeOf (64 * sec) ≠ x.d → sec ∈ (s.dom x.d).dirtyList x.d → s.lineRefuses (64 * sec) q = false)) →
      exec (.storePerformed o pl) s = .next ((mine.foldl (fun s sec => (s.flushSector x.d inv sys sec).served q (64 * sec)) s).setOp
        { x with performed := true, txn := [] }))) ∧
  (∀ (s : State) (q : Asker) (line : Nat), (∃ r ∈ s.retries, r.q = q ∧ r.line = line ∧ r.back = 1) → exec (.homeRetry (q, line)) s =
    .next { s with retries := s.retries.map fun r => if r.q = q && r.line = line then { r with back := 0 } else r })

/-- R39, R44, R187: what an operation accesses in one sector is performed by one event: the parts an event takes hold every part in its sector, and
no part left shares a sector with one of them. -/
def Obligations.AccessesOfASectorAreOne : Prop := ∀ (k : OpK) (sec : Place), k.parts.length ≤ 32 →
  (∀ p ∈ k.parts, p.touches sec = true → p ∈ k.group sec) ∧ (∀ p ∈ k.group sec, p ∈ k.parts) ∧
  (∀ p ∈ k.group sec, ∀ q ∈ k.parts, ∀ c, p.touches c = true → q.touches c = true → q ∈ k.group sec) ∧
  ∀ p, p ∈ (k.without (k.group sec)).parts ↔ p ∈ k.parts ∧ p ∉ k.group sec

/-- R205 to R217, R222, R435: the caches, directories, walkers and links may act of themselves: an L1 request, a fetch, a write-back, a confirmed
invalidation, a replacement, a dropped directory entry, a walk that fills the TLB, a snoop, a link that goes down or comes up, a lapsed reservation. What a
slice asks of a home is served, or refused while the line has an open transaction. It rests on the model's choices of logs 17, 21 and 23. -/
def Obligations.CacheEventsComplete : Prop := ∀ (s : State) (d sec : Nat),
  let pa := 64 * sec
  let line := sec / 4
  let asks := fun (i : Instr) (pa : Nat) (go : State) => s.unreachable pa = false → s.backing (.slice d) pa = false →
    (s.lineRefuses pa (.slice d) = false → exec i s = .next (go.served (.slice d) pa)) ∧
    (s.lineRefuses pa (.slice d) = true → exec i s = .next (s.refuse (.slice d) pa))
  (∀ a, s.usable d a = true → cacheable pa = true → s.tileAt pa = none → s.unreachable pa = false →
    (let go := (s.fetched d false sec).l1Read d a sec
     (s.asksHome d false false pa = true → asks (.l1DirectoryRequest d a .read sec) pa go) ∧
     (s.asksHome d false false pa = false → exec (.l1DirectoryRequest d a .read sec) s = .next go)) ∧
    exec (.l1DirectoryRequest d a .write sec) s = .next ((if homeOf pa = d then s.touch sec else s).l1Write d a 0 sec) ∧
    (∀ l, (s.core d a).l1.find? (fun l => l.secs.contains sec) = some l → exec (.l1DirectoryRequest d a .replace sec) s = .next (s.l1Evict d a l))) ∧
  (d < 64 → cacheable pa = true → homeOf pa ≠ d → s.tileAt pa = none → asks (.remoteFetch d sec) pa (s.fetched d false sec)) ∧
  (((s.dom d).rs sec).dirty ≠ [] → asks (.homeUpdate d sec) pa (s.writeBack d sec false none false)) ∧
  (∀ p, s.pinv.find? (fun p => p.d = d && p.sec = sec) = some p → exec (.remoteInvalidation d sec) s = .next (
    let t := State.updDom { s with pinv := s.pinv.erase p } d fun x => x.setRs sec { x.rs sec with clean := none }
    match mfind (t.dom d).l1 sec with
    | some e => if e.st.isDirty then t else t.l1Drop d sec
    | none => t)) ∧
  (d < 64 → s.unreachable (256 * line) = false →
    let secs := (List.range 4).map (4 * line + ·)
    let go := secs.foldl (fun s sec => ((s.writeBack d sec false none false).l1Drop d sec).updDom d fun x => x.setRs sec RSec.empty) s
    (homeOf (256 * line) = d → exec (.sliceReplacement d line) s = .next (secs.foldl (fun s sec => s.evictHome d sec) s)) ∧
    (homeOf (256 * line) ≠ d → (∃ q ∈ secs, q ∈ (s.dom d).dirtyList d) → asks (.sliceReplacement d line) (256 * line) go) ∧
    (homeOf (256 * line) ≠ d → (∀ q ∈ secs, q ∉ (s.dom d).dirtyList d) → exec (.sliceReplacement d line) s = .next go)) ∧
  (∀ l, mfind s.hdir line = some l → homeOf (256 * line) = d → l.sharers ≠ 0#64 → exec (.directoryEntryDrop d line) s = .next (s.invalidateLine line)) ∧
  (∀ asid va, d < 64 → asid < 4096 →
    let r := walk s d asid va.toNat
    (∀ e, r.1 = .ok e → exec (.pageWalk d asid va) s = .next ((s.walked d 0xFF r).updDom d fun x => { x with dtlb := (e :: x.dtlb).take 16384 })) ∧
    (∀ l pa, r.1 = .bad l 5 ∨ r.1 = .refused pa → exec (.pageWalk d asid va) s = .next (s.walked d 0xFF r))) ∧
  (regionOf (256 * line) = .pool → s.unreachable (256 * line) = false → s.svc.poolGone.contains (poolPort (256 * line)) = false →
    exec (.backInvalidationSnoop line) s = .next (s.snoop line)) ∧
  (regionOf (256 * line) = .host → exec (.hostSnoop line) s = .next (s.snoop line)) ∧
  (∀ p, p < 8 → p ∉ s.svc.poolGone → p ∉ s.svc.poolDown → exec (.poolLinkDown p) s =
    .next (State.logEvent { s with svc := { s.svc with poolDown := s.svc.poolDown ++ [p] } } 0x44 (poolDom p) 0xFF)) ∧
  (∀ p, p ∈ s.svc.poolDown → exec (.poolLinkUp p) s = .next (State.poolReturned
    (State.logEvent { s with svc := { s.svc with poolDown := s.svc.poolDown.filter (· != p) } } 0x44 (poolDom p) 0xFF) p)) ∧
  (∀ l r n, mfind s.hdir line = some l → l.resv = some (r, n) → homeOf (256 * line) = d → 2048 ≤ n →
    let rest := l.refused.filter (· != r)
    exec (.reservationLapse d line) s = .next { s with hdir := mset HomeLine.zero s.hdir line { l with refused := rest, resv := rest.head?.map (·, 0) } })


/-! ## Events of the engines (09 to 11, 14 to 16) -/

/-- R235, R237 to R240, R246, R247, R354, R356, R357: a multicast request joins the group of its tuple or opens one; a group closes after 64 cycles and sends
a late joiner what it missed; the segments of one destination sector are written with the bytes read of their sources; a copy without a segment left completes
its record; a promotion or eviction moves an object's image. It rests on the model's choices of logs 40 and 42. -/
def Obligations.CopyEventsComplete : Prop := ∀ (s : State) (o d i : Nat),
  (∀ x h pages n key ord scp p gs got, s.op o = some x → x.k = .mcast h none pages n key ord scp p gs got → (∀ go, s.copyGo x ord scp go = go) →
    let join := fun (t : State) (g st : Nat) => (t.setOp { x with k := .mcast h (some g) pages n key ord scp p gs got }).updCopyRec x fun r =>
      { r with st := st, late := r.late || st = 2 }
    let same := (s.dom h).mcasts.find? fun q => q.2.pages = pages && q.2.n = n && q.2.key = key && q.2.scp = scp && q.2.sent < n / 64
    (∀ g m, same = some (g, m) → m.age < 64 → m.closed = false → exec (.cpymRequestArrival o) s =
      .next (join (s.updMcast h g fun m => { m with members := m.members ++ [o] }) g 1)) ∧
    (∀ g m, same = some (g, m) → 64 ≤ m.age ∨ m.closed = true → exec (.cpymRequestArrival o) s =
      .next (join (s.updMcast h g fun m => { m with members := m.members ++ [o], late := m.late ++ [(o, m.sent)] }) g 2)) ∧
    let fresh : Mcast := { pages := pages, n := n, key := key, scp := scp, members := [o], late := [], age := 0, closed := false, sent := 0, pins := [] }
    (same = none → ∃ g, mfind (s.dom h).mcasts g = none ∧
      exec (.cpymRequestArrival o) s = .next (join (s.updDom h fun y => { y with mcasts := mput y.mcasts g fresh }) g 1))) ∧
  (∀ m, mfind (s.dom d).mcasts i = some m →
    (64 ≤ m.age → m.closed = false → exec (.multicastWindowClose d i) s = .next (s.updMcast d i fun m => { m with closed := true })) ∧
    (∀ y k rest pins t, m.n / 64 ≤ m.sent → m.late = (y, k) :: rest → s.resend d y m.pages 0 k m.pins k = (.ok t, pins) →
      exec (.lateJoinerResend d i) s = .next ((t.updMcast d i fun m => { m with late := rest, pins := pins }).closeGroup d i)) ∧
    (m.n / 64 ≤ m.sent → m.late ≠ [] → (∀ k, s.unreachable (sourceSector m.pages k) = false) → (∀ r ∈ s.retries, r.q ≠ .slice d) →
      ∃ t, exec (.lateJoinerResend d i) s = .next t)) ∧
  (∀ x segs (pl : Place) scp, s.op o = some x →
    let mine := segs.filter fun g => g.dst.sector = pl.sector
    let rest := segs.filter fun g => g.dst.sector != pl.sector
    let may := fun (shd : Bool) => mine ≠ [] ∧ ∀ g ∈ mine, s.copyBlocked x shd (g.scp scp) g.dst = false ∧ s.copyRefused x shd (g.scp scp) g.dst = none
    (∀ ord shd got, x.k = .copy ord scp shd segs got →
      (∀ t, (∀ go, s.copyGo x ord (segsScp scp segs) go = .next t) → exec (.copySectorWrite o pl) s = .next t) ∧
      (∀ got' x' t, (∀ go, s.copyGo x ord (segsScp scp segs) go = go) → may shd →
        let own := mine.any fun g => match g.dst with
          | .glob pa => (match (if shd then s.shadowOf pa else none) with | some (_, key, buf) => x.pins.contains (key, buf) | none => false)
          | _ => false
        s.gather x got (if own then segs else mine) = .ok got' x' t →
        let x' := if segs.all fun g => got'.any (·.1 = g.src.sector) then { x' with pins := [] } else x'
        exec (.copySectorWrite o pl) s = .next (t.sectorDone x' shd scp
          (mine.map fun g => (g, g.bytes (((got'.find? fun p => p.1 = g.src.sector).map (·.2)).getD []))) (.copy ord scp shd rest got')))) ∧
    (∀ h g pages n key ord p got, x.k = .mcast h (some g) pages n key ord scp p segs got → may false →
      (∀ q ∈ mine, (mfind got (q.src.off / 64)).isSome = true) → exec (.copySectorWrite o pl) s = .next (s.sectorDone x false scp
        (mine.map fun q => (q, q.bytes ((mfind got (q.src.off / 64)).getD []))) (.mcast h (some g) pages n key ord scp p rest got))) ∧
    (∀ i v ord got got' t, x.k = .tier i v 2 ord scp segs got → (∀ go, s.copyGo x ord (segsScp scp segs) go = go) → may false →
      let y := (s.dom x.d).obj i
      s.imageSectors x y.asid got (mine.flatMap y.srcSectors) = .ok got' t →
      exec (.copySectorWrite o pl) s = .next (t.sectorDone x false scp (mine.map fun g => (g, y.segBytes got' g)) (.tier i v 2 ord scp rest got')))) ∧
  (∀ x, s.op o = some x → s.sidHeld x.d = false →
    (∀ ord scp shd got, x.k = .copy ord scp shd [] got → exec (.copyCompletion o) s = .next (s.endCopy x 3)) ∧
    (∀ h g pages n key ord scp p got, x.k = .mcast h (some g) pages n key ord scp p [] got → exec (.copyCompletion o) s = .next (s.endCopy x 3)) ∧
    (∀ i v ord scp got, x.k = .tier i v 2 ord scp [] got → exec (.copyCompletion o) s = .next ((s.unpin x.d i).endCopy x 3)) ∧
    (∀ i v ord scp segs got, x.k = .tier i v 3 ord scp segs got → exec (.copyCompletion o) s = .next (s.endCopy x 3)) ∧
    (∀ i v ord scp segs got, x.k = .tier i v 4 ord scp segs got → exec (.copyCompletion o) s = .next (s.endCopy x 5))) ∧
  (let x := s.dom d
   x.promrun.length < 4 →
    (x.agedPromotion = none → x.promq ≠ [] → ∃ j, (∃ n, (j, n) ∈ x.promq) ∧ (∀ p ∈ x.promq, (x.obj j).layer ≤ (x.obj p.1).layer) ∧
      exec (.promotionServe d) s = .next (s.servePromotion d j)) ∧
    (∀ j, x.agedPromotion = some j → exec (.promotionAging d) s = .next (s.servePromotion d j))) ∧
  (let y := (s.dom d).obj i
   let off := fun (t : State) => t.updDom d fun x => { x with promrun := x.promrun.filter (· != i) }
   (∀ t, (s.dom d).promrun.contains i = true → s.sidHeld d = false → y.move s d true = .ok t →
     exec (.promotionDone d i) s = .next (((off t).updObj d i fun y => { y with st := 1, tres := t.sid d }).settleObj d i)) ∧
   (y.st = 3 → y.wb = false → exec (.objectEvictionDone d i) s = .next (
     let t := s.updObj d i fun y => { y with st := 0, prq := false }
     let t := (t.tierOps d i 1).foldl (fun t x => t.tierPhase x 3) t
     if y.prq then t.requestPromotion d i else t)) ∧
   (∀ t, y.st = 3 → y.wb = true → y.move s d false = .ok t → exec (.objectEvictionDone d i) s = .next (
     let t := t.updObj d i fun y => { y with st := 0, prq := false }
     let t := (t.tierOps d i 1).foldl (fun t x => t.tierPhase x 3) t
     if y.prq then t.requestPromotion d i else t)) ∧
   (∀ k v, d < 64 → i < 16384 → k < 16 → exec (.objectTableWrite d i k v) s = .next ((s.updObj d i fun y => y.write [(k, v)]).seqRecheckAll d)))

/-- R258, R260, R280, R282, R361 to R366, R376 to R379, R382: a matrix operation whose tiles are free applies and completes; a drain takes the lines of its
homes, in ascending order where they are several, and applies its updates; the driver of a running program issues the words of its state, then tests and
enters the next, or a state of the timeout; a cut is asked for, taken at its instant with the captured state, and sealed; an acknowledgement reaches a
journal. It rests on the model's choices of logs 12, 13, 60 and 110. -/
def Obligations.EngineEventsComplete : Prop := ∀ (s : State) (o d a : Nat),
  let c := s.core d a
  let q := s.seqOf d a
  let u := c.umb
  (∀ x, s.op o = some x → s.tilesFree x = true →
    (∀ op lit dst mems st, x.k = .matrix op lit dst mems → exec (.matrixCompletion o st) s =
      .next ((State.updBlock { s with fresh := if st then s.fresh + 1 else s.fresh } x.bid fun b =>
        b.matrix op lit dst (if st then some s.fresh else none) mems).completeOp x)) ∧
    (∀ op lit reg tile tid es, x.k = .drain op lit reg tile tid es → es ≠ [] → x.performed = false → s.drainMay x lit es = true →
      (∀ p ∈ drainSectors es, s.drainBlocked x p = false) →
      let me := Asker.op x.id
      let wide := ordRel (litOrd lit) = true ∧ 2 ≤ drainScope lit es
      let asked := (drainSectors es).filterMap fun c => match c with | .glob pa => some (s.drainHome pa) | _ => none
      let homes := (asked.map homeOf).eraseDups.length
      let rest := asked.filter fun pa => !x.txn.contains (pa / 256)
      let go := s.drainApply x op lit reg tile tid es
      (wide → x.flushed = false → ∀ t, s.flush x.d me x.id (drainScope lit es = 3) = .made t →
        exec (.drainUpdateApply o) s = .next (t.setOp { x with flushed := true })) ∧
      ((wide → x.flushed = true ∧ s.confirming x.id = false) →
        (homes ≤ 1 → (∀ pa ∈ asked, s.lineRefuses pa me = false) → exec (.drainUpdateApply o) s = .next go) ∧
        (2 ≤ homes → rest = [] → exec (.drainUpdateApply o) s = .next go) ∧
        (2 ≤ homes → ∀ h, (rest.map homeOf).min? = some h →
          let l := rest.filter fun pa => homeOf pa = h
          (∀ pa ∈ l, s.lineRefuses pa me = false) → exec (.drainUpdateApply o) s =
            .next ((l.foldl (fun s pa => s.served me pa) s).setOp { x with txn := x.txn ++ (l.map (· / 256)).eraseDups }))))) ∧
  (∀ b, q.holder = some b → s.coreRuns d a = true → q.running = true → q.phase = 1 →
    (q.nextWord = none → exec (.seqWordReplay d a) s = .next ((s.updSeq d a fun q => { q with phase := 2 }).seqRecheck d a)) ∧
    (∀ k w lit i rest, q.nextWord = some (k, w, lit) → decode (seqWords w lit) = .ok (i, rest) → s.seqParked d a = false → c.cutting = false → c.moving = false →
      (∀ x ∈ s.ops, x.seq = true → x.bid = b → x.ws.any (·.2 = 6) = false) →
      let e := (s.seqAwait d a [6]).seqEnv b q k w lit
      (∀ t, mtxOf i = none → e.wp.exited = false → e.vsOk (seqVs i) = true → e.replay i = some (.done t) →
        exec (.seqWordReplay d a) s = .next (t.updSeq d a fun q => { q with wix := k + 1 })) ∧
      (∀ f t, mtxOf i = some f → e.replayQuartet q.qd i.opcode f = .done t →
        exec (.seqWordReplay d a) s = .next (t.updSeq d a fun q => { q with wix := k + 1 })))) ∧
  (q.ending = true → (∀ x ∈ s.ops, x.seq = true → x.d = d → x.a ≠ a) → exec (.seqTransition d a) s = .next (s.seqRelease d a)) ∧
  (q.ending = false → s.coreRuns d a = true → q.running = true → q.phase = 2 → s.seqTests d a = true → (s.seqParked d a = true → q.qopZero = false) →
    exec (.seqTransition d a) s = .next (
      let t := (s.seqAwait d a q.tested).updSeq d a fun q =>
        { q with sig := q.sig &&& ~~~(BitVec.ofNat 8 (q.cnd 16 8)), q := match q.qop with | some (i, x) => mset 0#32 q.q i x | none => q.q }
      let t := t.seqUnpin d a
      (if q.halt then t.updSeq d a fun q => { q with mode := 1 } else t.seqEnter d a q.next).qwaitServe d a)) ∧
  (s.coreRuns d a = true → q.running = true → q.ten = true → q.phase ≠ 1 → (q.phase = 2 → s.seqTests d a = false) → q.t0 + BitVec.ofNat 64 q.tout ≤ s.sid d →
    let t := (s.updSeq d a fun q => { q with tev := true }).logEvent 0x32 d a
    exec (.seqTimeout d a) s = .next (if q.tnext = q.cur then t.updSeq d a fun q => { q with t0 := s.sid d } else (t.seqUnpin d a).seqEnter d a q.tnext)) ∧
  (s.coreRuns d a = true → u.openCut = none →
    (u.per ≠ 0 → u.per ≤ u.timer → c.held ≠ [] ∨ c.seq.hold ≠ none → (∀ r ∈ u.reqs, r.kind ≠ 0) →
      exec (.periodicCut d a) s = .next (s.updUmbra d a fun u => { u with reqs := u.reqs ++ [{ kind := 0, warp := none, exit := none }] })) ∧
    (u.reqs ≠ [] → (∀ p ∈ c.slots, ∀ w < (s.block p.2).warps.length, (s.block p.2).cuttable w = true) → (∀ p ∈ c.held, s.exitOpen u p.2 = false) → s.ops.any (s.cutWaits d a) = false →
      ∃ t, exec (.cutInstant d a) s = .next t ∧ t.mem = s.mem ∧
        let v := (t.core d a).umb
        let k := v.bank u.nextBank
        v.openCut = some u.nextBank ∧ v.reqs = [] ∧ v.timer = 0 ∧ v.cutNo = u.cutNo + 1 ∧ v.bank (!u.nextBank) = u.bank (!u.nextBank) ∧
        k.hseq = u.maxSeq + 1 ∧ k.tick = s.sid d ∧ k.pos = d + 64 * a ∧ k.mapgen = s.svc.mapgen ∧ k.whole = !(u.bank u.nextBank).valid ∧
        ((u.bank u.nextBank).valid = false → k.nsec = 17152) ∧ k.kind = (u.reqs.map (·.kind)).foldl max 0 ∧ k.jn = [] ∧
        ∃ img, k.img = some img ∧ img.slots = c.held ∧ img.seq = c.seq ∧ img.hq = c.hq ∧ img.hent = c.hent ∧ img.evth = c.evth)) ∧
  (s.coreRuns d a = true → s.sealReady d a = true →
    (c.moving = false → exec (.bankSeal d a) s = .next (s.sealed d a)) ∧
    (∀ t, c.moving = true → (s.sealed d a).moveCore d a = some t → exec (.bankSeal d a) s = .next t)) ∧
  (∀ e, u.journal[o]? = some e → s.coreRuns d a = true → e.st = 1 → e.ack ≠ none →
    exec (.journalAck d a o) s = .next (s.updJournal d a fun l => l.modify o fun e => { e with st := 2 }))

/-! ## Events of placement, of the fabric and of the outside (12, 16, 17) -/

/-- R138, R304 to R317, R296, R297: a range record of a wafer launch arrives; the queue of a domain places what its cores take; a context of blocks is evicted
to park records, which wake, become ready, are offered to a neighbour; a block that has exited asks for its cut, writes its counters, releases what it wrote
and reports; a launch whose blocks have exited completes, and takes the steps of its end; the window and ENQDROP are written from outside. It rests on the
model's choices of logs 27 to 29, 44 to 47, 71, 97 and 112. -/
def Obligations.PlacementEventsComplete : Prop := ∀ (s : State) (d i b : Nat), d < 64 →
  (let r := s.recAt d i
   (∀ j t, i < 65536 → t < 64 → r.wafer = true → r.st = .running → r.cursor.testBit t = true → (s.dom t).freeHw = some j →
     exec (.rangeRecordArrival ((d * 65536 + i) * 64 + t)) s = .next (
       let u := s.updRec d i fun x => { x with cursor := x.cursor - 2 ^ t }
       (u.updRec t j fun _ => { Rec.free with ws := recPut r.ws 4 0 1, kind := .range d i, unus := r.unus,
                                              cursor := ((u.launchMap r).nextHomed r.ws t 0).getD 0 }).makeReady t j)) ∧
   (∀ k img w, r.kind = .park k img w → s.woken d i k = true →
     exec (.parkRecordWake d i) s = .next (State.makeReady ((s.mates k).foldl (fun s m => match (s.block m).parkIdx with
       | some (e, j) => s.updRec e j fun r => { r with st := .ready }
       | none => s) s) d i)) ∧
   (∀ k img w u p t as, r.kind = .park k img w → r.st = .ready → 65536 ≤ r.waited → (s.dom d).ready.contains i = true → s.unitOf d i = some (u, p) →
     u.pins.any Option.isSome = false → s.choose d u (s.takes d u.part) = none → s.choose d u (s.eligible d i u.part) = none →
     (neighbours d).findSome? (fun t => (s.choose t { u with pref := [] } (s.takes t u.part)).map fun as => (t, as)) = some (t, as) →
     (∀ v, (∀ go, s.blockRelease d u.bids false go = .next v) → exec (.parkNeighbourOffer d i) s = .next v) ∧
     (∀ v, (∀ go, s.blockRelease d u.bids false go = go) →
       s.resumeUnit { u with pref := [] } t as = some v →
       exec (.parkNeighbourOffer d i) s = .next v)) ∧
   (s.sidHeld d = false → (s.dom d).uoff = false → s.svc.powered = true → ∀ t, r.fin ≠ none → s.stepFin d i = some t → exec (.gridCompletion d i) s = .next t) ∧
   (r.st = .running → r.placed = true → r.fin = none → r.refire = false → s.sidHeld d = false → (s.dom d).uoff = false → s.svc.powered = true →
     (s.dom d).ready.contains i = false →
     (∀ od oi, r.kind = .range od oi → r.live = 0 →
       exec (.gridCompletion d i) s = .next ((s.updRec od oi fun x => { x with ranges := x.ranges - 1 }).updRec d i fun _ => Rec.free)) ∧
     (r.kind = .launch → (r.wafer = false → r.live = 0) → (r.wafer = true → r.ranges = 0 ∧ r.cursor = 0) →
       exec (.gridCompletion d i) s = .next (s.finishRec d i (if r.cancel then .cancelled else .done))))) ∧
  ((∀ a < 132, (s.core d a).drain = none) →
    (∀ t, State.serveQueue d (s.dom d).queue s = some t → exec (.dispatchPlacement d) s = .next t) ∧
    (State.serveQueue d (s.dom d).queue s = none → State.serveWaiting d (s.dom d).ready s ≠ s →
      exec (.dispatchPlacement d) s = .next (State.serveWaiting d (s.dom d).ready s))) ∧
  (∀ x l, mfind s.blocks b = some x → x.loc = some l →
    let ms := (s.mates b).filter fun m => (s.block m).loc.isSome
    (x.evicting = false → (∀ m ∈ ms, s.mayEvict m = true) → (∃ m ∈ ms, (s.block m).warps.all Warp.exited = false) →
      exec (.eviction b) s = .next (ms.foldl (fun t m => t.updBlock m fun y => { y with evicting := true, park := some (t.parkWords false m) }) s)) ∧
    (∀ t, x.evicting = true → (∀ m ∈ ms, s.saveReady m = true) → s.parkAll false ms = some t →
      exec (.eviction b) s = .next (ms.foldl (fun s m => match (s.block m).parkIdx with
        | some (d, i) => if s.woken d i m then s.wakePark d i m else s
        | none => s) t)) ∧
    (l.k < 4 → x.reported = false → s.coreRuns l.d l.a = true → x.warps.all Warp.exited = true →
      (x.exiting = false → (∀ y ∈ s.ops, y.bid = b → y.seq = true) → exec (.blockExit b) s = .next (
        let t := if (s.seqOf l.d l.a).heldBy b then s.seqStop l.d l.a else s
        (t.updBlock b fun y => { y with exiting := true, evicting := false, rel := none }).askCut l.d l.a { kind := 2, warp := none, exit := some b })) ∧
      (x.exiting = true → (s.core l.d l.a).umb.openCut = none → (∀ r ∈ (s.core l.d l.a).umb.reqs, r.exit ≠ some b) → (∀ y ∈ s.ops, y.bid ≠ b) →
        (∀ m ∈ s.mates b, s.copyTouches m = false) → ((s.core l.d l.a).umb.journal.any (!·.matched) && s.travelling l.d l.a) = false →
        let r := match (if x.killed then none else rCounters x.lrec) with
          | some area => s.writeOut b l area x.cnt
          | none => (s, true)
        (r.1 ≠ s → r.2 = false ∨ x.rel = none → exec (.blockExit b) s = .next r.1) ∧
        (r = (s, true) →
          (∀ t, (∀ go, s.blockRelease l.d [b] true go = .next t) → exec (.blockExit b) s = .next t) ∧
          ((∀ go, s.blockRelease l.d [b] true go = go) →
            let entry := s.exitEntry l 0 (recHandle s.svc.dev x.qdom x.qidx).toNat 0xFFFFFFFF#32
            (∀ j u, entry = some (j, u) → exec (.blockExit b) s = .next (
              let u := u.applyTag l.d l.a j [x.qdom] []
              let u := if (s.seqOf l.d l.a).heldBy b then u.seqRelease l.d l.a else u
              (u.updBlock b fun y => { y with rel := none }).exitReport b)) ∧
            (entry = none → exec (.blockExit b) s = .next (s.askCut l.d l.a { kind := 2, warp := none, exit := some b }))))))) ∧
  (∀ r w c t, i < 65536 → s.svc.winOpen = true → s.windowEnq d w i r = .done c t → exec (.enqueueWindowWrite d w i r) s = .next t) ∧
  exec (.enqdropWrite d) s = .next (s.updDom d fun x => { x with enqDropped := 0, enqStray := 0 })

/-- R395 to R411, R403, R405, R419: a message arrives for the first time and is known, refused where its receiver is full, or accepted with the check of its whole
range, and goes on step by step or, a C1 message, packet by packet; its status returns and completes the operation; a refused or rerouted message is sent
again; ports go down and come up; a device number is assigned. It rests on the model's choices of logs 31, 63 to 65 and 113. -/
def Obligations.FabricEventsComplete : Prop := ∀ (s : State) (m : FabMsg) (o d : Nat),
  -- a first arrival by the table of domain `tbl` is known, refused, or accepted; `go` gives the states that an accepted one goes on to
  let accept := fun (i : Instr) (tbl : Nat) (got : List Nat) (code : Nat) (go : State → Nat → FabIn → State → Prop) =>
    let t := s.fabTarget tbl m
    let known := m.op.isNone && bodyNamed m.body && ((s.dom t).inboxOf m.id).isSome
    t < 64 → (s.dom t).uoff = false → (∀ r, bodyRange m.body = some r → r.2.1 % (if r.2.2.2 then 4 else 64) = 0 ∧ r.2.2.1 ≠ 0) →
      (known = true → exec i s = .next s) ∧ (known = false → s.fabFull t m = true → exec i s = .next (s.fabRefuse t m)) ∧
      (known = false → s.fabFull t m = false →
        let e : FabIn := { msg := m, tbl := tbl, base := s.fabBase tbl m, got := got, rel := none, made := false,
                           code := if (bodyRange m.body).isSome && (s.fabBase tbl m).isNone then 2 else code }
        ∀ v, go (s.updDom t fun x => { x with fabIn := x.fabIn ++ [e], fabRef := x.fabRef.filter fun r => r.1 != m.id }) t e v → exec i s = .next v)
  (bodyClass m.body = 0 ∨ bodyClass m.body = 2 →
    let arrive : Instr := if bodyClass m.body = 0 then .fabricC0Arrival m else .fabricC2Arrival m
    let go := fun (u : State) (t : Nat) (e : FabIn) (v : State) => v = u.fabStep t e
    (∀ t e, s.fabEntry m = some (t, e) → (s.dom t).uoff = false → s.fabStep t e ≠ s → exec arrive s = .next (s.fabStep t e)) ∧
    (∀ x f, s.fabEntry m = none → s.fabSender m = some (x, f) → f.msg.body = m.body →
      (∀ t, (∀ go, s.fabGo x f none go = .next t) → exec arrive s = .next t) ∧
      ((∀ go, s.fabGo x f none go = go) → accept arrive x.d [] 0 go)) ∧
    (∀ tbl, s.fabEntry m = none → s.fabSender m = none → s.fabFrom m = some tbl → accept arrive tbl [] 0 go)) ∧
  (∀ apr off n k bytes tag, m.body = .data apr off n k bytes tag → bytes.length % 64 = 0 → bytes ≠ [] → k + bytes.length / 64 ≤ n →
    let arrive : Instr := .fabricC1Arrival m
    let packet := fun (u : State) (t : Nat) (e : FabIn) (v : State) => ∃ c, u.fabPacket t e n k bytes tag = .ok c v
    (∀ x f, s.fabSender m = some (x, f) → f.msg.body = .data apr off n 0 [] tag → f.sent.contains k = false → bytes.length = 64 →
      let sector := fun (u : State) (t : Nat) (e : FabIn) (v : State) => ∃ pins r,
        u.readSector (.op x.id) x.d x.pins true (.glob (f.srcs.getD k 0)) = .ok bytes pins r ∧
        packet (r.setOp { x with k := .fabric { f with sent := f.sent ++ [k] }, pins := pins }) t e v
      (∀ go, s.fabGo x f (some (apr, (off + 64 * k) / 256)) go = go) →
        (∀ t e v, s.fabEntry m = some (t, e) → (s.dom t).uoff = false → sector s t e v → exec arrive s = .next v) ∧
        (s.fabEntry m = none → accept arrive x.d f.sent f.code sector)) ∧
    (∀ tbl, s.fabSender m = none → s.fabFrom m = some tbl →
      (∀ t e v, s.fabEntry m = some (t, e) → (s.dom t).uoff = false → (∃ i w, e.msg.body = .data apr off n i w tag) → packet s t e v →
        exec arrive s = .next v) ∧
      (s.fabEntry m = none → accept arrive tbl [] 0 packet))) ∧
  (∀ x f, s.op o = some x → x.k = .fabric f →
    (∀ st, x.performed = false → f.port = none → f.ended = some st → exec (.fabricAck o st) s = .next (s.fabAcked x st)) ∧
    (∀ p st bs pins t, x.performed = false → f.port = some p → s.portLive p = true → statusOk f.msg.body st = true → (∀ go, s.fabGo x f none go = go) →
      State.fabReads (.op x.id) x.d f.srcs x.pins s = .ok bs pins t →
      exec (.fabricAck o st) s = .next ((t.applyTag x.d x.a x.jent [] [(0, st)]).fabAcked x st)) ∧
    (f.back = 1 → (∀ p, f.port = some p → s.portLive p = true) → exec (.fabricResend o) s = .next (s.setOp { x with k := .fabric { f with back := 0 } }))) ∧
  (s.portLive o = true → exec (.portDown o) s = .next (
    (State.portsGone { s with svc := { s.svc with portDown := s.svc.portDown ++ [o] } } s).retable)) ∧
  (o ∈ s.svc.portDown → ∃ t, exec (.portUp o) s = .next t ∧ t.svc.portDown = s.svc.portDown.filter (· != o) ∧ t.mem = s.mem ∧ t.blocks = s.blocks) ∧
  (d < 64 →
    exec (.fabricManagement d) s = .next (State.retable { s with svc := { s.svc with dev := d } }) ∧
    exec (.fdiscWrite d) s = .next (s.updDom d fun x => { x with fdiscEnded := 0, fdiscRefused := 0 }) ∧
    (∀ off x, off < 2 ^ 30 → off % 4 = 0 → exec (.controlRegisterWrite d off x) s = .next (s.ctlWrite d off (leBytes 4 x.toNat))) ∧
    (∀ id, ((s.dom d).inboxOf id).isSome = true → id.dev ≠ s.svc.dev →
      exec (.acknowledgementReceiptConfirmed d id) s = .next (s.updDom d fun x => { x with inbox := x.inbox.filter fun p => p.1 != id })))

/-- R10, R380, R384, R385, R406, R414, R420 to R425, R433: the host reads and writes the apertures; power fails, returns, is limited or switched off; units
are retired or repaired; a clock source fails; errors and droops are counted. It rests on the model's choices of logs 16, 23, 62, 68, 69, 73, 82, 100 and
114. -/
def Obligations.ServiceEventsComplete : Prop := ∀ (s : State) (d a : Nat), d < 64 →
  (∀ link bar off pa, link < 2 → s.svc.powered = true → (s.dom (hostDom link)).uoff = false → barAddr bar off = some pa → s.unreachable pa = false →
    let h := hostDom link
    let me := Asker.host link
    let n0 := (pa - ctlBase) / 2 ^ 30
    let o := (pa - ctlBase) % 2 ^ 30
    (∀ n, 0 < n → off % 64 + n ≤ 64 →
      (regionOf pa = .ctl → exec (.hostLinkAccess link bar off (.read n)) s =
        .next { s with replies := some ((List.range n).map fun i => s.ctlByte n0 (o + i)) :: s.replies }) ∧
      (regionOf pa ≠ .ctl → s.tileAt pa = none → s.backing me pa = false →
        (s.lineRefuses pa me = false → exec (.hostLinkAccess link bar off (.read n)) s = .next (
          let r := (s.served me pa).loadSec h none true true pa n
          { r.2 with replies := some r.1 :: r.2.replies })) ∧
        (s.lineRefuses pa me = true → exec (.hostLinkAccess link bar off (.read n)) s = .next (s.refuse me pa)))) ∧
    (∀ bs, bs ≠ [] → off % 64 + bs.length ≤ 64 →
      (regionOf pa = .ctl → windowOf o = none →
        (s.hostDev o bs = none → exec (.hostLinkAccess link bar off (.write bs)) s = .next (s.ctlWrite n0 o bs)) ∧
        (∀ x, s.hostDev o bs = some x → exec (.hostLinkAccess link bar off (.write bs)) s = .next (State.retable { s with svc := { s.svc with dev := x } }))) ∧
      (regionOf pa ≠ .ctl → s.tileAt pa = none → s.backing me pa = false → s.lineRefuses pa me = false →
        exec (.hostLinkAccess link bar off (.write bs)) s = .next ((s.served me pa).storeWide h .none pa bs false none true)))) ∧
  (s.svc.powered = true → (s.dom d).uoff = false →
    (∀ fin, (s.dom d).coff = false → (∃ a < 132, s.coreRuns d a = true) → exec (.computeIslandPowerFail d fin) s = .next (
      let t := ((List.range 132).filter fun a => s.coreRuns d a).foldl (fun s a => s.coreFail d a (fin.contains a)) s
      let t := t.updDom d fun x => { x with l1 := [] }
      { t with focus := match t.focus with
        | some (b, w) => (match (t.block b).loc with | some l => if l.d = d then none else some (b, w) | none => none)
        | none => none })) ∧
    ((s.dom d).coff = false → s.usable d a = true → (s.core d a).stopped = true →
      let fix := fun (w : Bool) (k : Bank) => { k with ok := k.ok && k.pos = (if k.hseq = 0 then k.pos else d + 64 * a) && !s.bankPoisoned d a w }
      let u := { (s.core d a).umb with bankA := fix false (s.core d a).umb.bankA, bankB := fix true (s.core d a).umb.bankB }
      let t := (s.updUmbra d a fun _ => u).logData 0x10 d a (u.resumeData (d + 64 * a))
      (u.newest = none → exec (.coreResume d a) s = .next (t.resumeEmpty d a)) ∧
      (∀ w m v, u.newest = some w → (u.bank w).img = some m →
        State.resumeFrom (t.updUmbra d a fun u => if (u.bank !w).valid then u else u.setBank (!w) { u.bank !w with ok := false }) d a w m = some v →
        exec (.coreResume d a) s = .next v)) ∧
    (∀ v, s.usable d a = false → (s.core d a).stopped = true → (s.core d a).held ≠ [] ∨ (s.core d a).seq.hold ≠ none → s.settleCore d a = some v →
      exec (.coreResume d a) s = .next v) ∧
    (∀ keep, exec (.uncoreIslandPowerLoss d keep) s =
      .next (((List.range 132).foldl (fun s a => s.updCore d a fun c => { c with stopped := true }) (s.loseUncore [d] keep)).portsGone s).retable)) ∧
  (s.svc.powered = true → (s.dom d).uoff = true →
    exec (.uncoreIslandPowerReturn d) s = .next (s.updDom d fun x => { x with uoff := false, effU := x.reqU, sidHeld := true }).portsBack.retable) ∧
  (s.svc.powered = true → (∀ keep, exec (.modulePowerLoss keep) s = .next (s.powerOff keep)) ∧
    (s.svc.tripped = false → ∃ t, exec .thermalTrip s = .next t ∧ t.svc.tripped = true ∧ t.mem = s.mem) ∧
    (s.svc.tripped = true → (∀ p ∈ s.cores, p.2.stopped = true ∨ (p.2.umb.openCut = none ∧ p.2.umb.reqs = [])) → exec .thermalTrip s =
      .next (((List.range 64).foldl (fun s d => s.uncoreFlush d) s).powerOff []))) ∧
  (s.svc.powered = false → ∃ t, exec .moduleBringUp s = .next t ∧ t.mem = s.mem ∧ t.blocks = s.blocks ∧ t.ops = s.ops ∧
    let on := Config.suppliesOk s.fresh && Config.verifies keyHash (Config.firmware s.fresh)
    t.svc.powered = on ∧ (on = true → t.svc.winOpen = false ∧ (s.lastTick < 2 ^ 63 → s.lastTick < t.tick.toNat)) ∧
    (on = false → t.svc = { s.svc with bootst := if Config.suppliesOk s.fresh then 2 else 1 })) ∧
  (s.svc.powered = true → s.svc.winOpen = false → (∀ p ∈ s.cores, s.resuming (p.1 / 132) (p.1 % 132) = false) →
    exec .moduleBringUp s = .next (State.retable { s with svc := { s.svc with winOpen := true, bootst := 0 } })) ∧
  (∀ y x, (s.retireAt d y x 0 0).1 = 0#32 → exec (.unitRetirement (.core d y x)) s = .next (s.retireAt d y x 0 0).2) ∧
  (∀ y x k, (s.retireAt d y x 1 k).1 = 0#32 → exec (.unitRetirement (.slot d y x k)) s = .next (s.retireAt d y x 1 k).2) ∧
  (∀ y x k, k < 8 → (s.retireAt d y x 2 k).1 = 0#32 → exec (.unitRetirement (.bank d y x k)) s = .next (s.retireAt d y x 2 k).2) ∧
  (let other := fun (u : RetUnit) (dom : Nat) (f : State → State) => u ∉ s.svc.retired → exec (.unitRetirement u) s = .next
     ((f (State.logEvent { s with svc := { s.svc with retired := s.svc.retired ++ [u] } } 0x20 dom 0xFF)).settleGrade dom).retable
   (∀ g < 24, other (.dram d g) d id) ∧ (∀ k < 1024, other (.umbra d k) d id) ∧
   (∀ p, s.portPresent p = true → other (.port p) (portDomain p) fun t => t.portsGone s) ∧
   (∀ p < 8, p ∉ s.svc.poolGone → other (.pool p) (poolDom p) fun s => s.poolRetired p)) ∧
  (∀ y x, .core d y x ∈ s.svc.retired →
    let part := fun (u : RetUnit) => match u with
      | .core d' y' x' | .slot d' y' x' _ | .bank d' y' x' _ => d' = d && y' = y && x' = x
      | _ => false
    exec (.unitRetirement (.repaired d y x)) s =
      .next (State.remap s { s with svc := { s.svc with retired := s.svc.retired.filter (!part ·), pend := s.svc.pend.filter (!part ·) } } d)) ∧
  (s.usable d a = true → s.clockSource d a ≠ 2 →
    let last := (s.core d a).cksrc = 1 ∨ (s.clockDirs d a).length < 2
    let t := s.updCore d a fun c => { c with cksrc := if last then 2 else 1, cksw := min 255 (c.cksw + 1), cktick := s.sid d }
    exec (.clockSourceFail d a) s = .next (State.logEvent (if last then t.logEvent 0x02 d a else t) 0x01 d a)) ∧
  (let x := s.dom d
   (x.coff = false → x.effC < 2 → exec (.powerLimitStep d 0 true) s = .next (
     let t := s.updDom d fun x => { x with effC := x.effC + 1 }
     State.retable (if x.reqC < x.effC then t else t.logEvent 0x60 d 0xFF))) ∧
   (x.uoff = false → x.effU < 2 → exec (.powerLimitStep d 1 true) s = .next (
     let t := s.updDom d fun x => { x with effU := x.effU + 1 }
     State.retable (if x.reqU < x.effU then t else t.logEvent 0x60 d 0xFF))) ∧
   (x.coff = false → x.reqC < x.effC → exec (.powerLimitStep d 0 false) s = .next (s.updDom d fun x => { x with effC := x.effC - 1 }).retable) ∧
   (x.uoff = false → x.reqU < x.effU → exec (.powerLimitStep d 1 false) s = .next (s.updDom d fun x => { x with effU := x.effU - 1 }).retable) ∧
   exec (.supplyDroop d 0) s = .next (s.updDom d fun x => { x with droopC := sat32 (x.droopC + 1) }) ∧
   exec (.supplyDroop d 1) s = .next (s.updDom d fun x => { x with droopU := sat32 (x.droopU + 1) }) ∧
   exec (.correctedError d none) s = .next (s.updDom d fun x => { x with ce := sat32 (x.ce + 1) }) ∧
   (∀ w, ∃ t, exec (.correctedError d (some w)) s = .next t ∧ w ∈ t.poison ∧ t.dom d = { x with ue := sat32 (x.ue + 1) }) ∧
   (x.reqC = 3 → x.coff = false → (∀ a < 132, let c := s.core d a; c.slots = [] ∧ c.umb.openCut = none ∧ c.umb.reqs = []) → (∀ y ∈ s.ops, y.d ≠ d) →
     exec (.islandPowerOff d) s = .next (State.retable (State.updDom
       ((List.range 132).foldl (fun s a => (s.coreEmptyL1 d a).updCore d a fun c => { c with stopped := true, tlb := [] }) s) d fun x =>
         { x with coff := true, effC := 3, l1 := [] }))))

/-! ## Encodings (Tables 03-5 to 03-10) -/

/-- Every well-formed instruction decodes from its words, with every operand at every value, whatever words follow. -/
def Obligations.DecodeEncodeRoundTrip : Prop :=
  ∀ (i : Instr) (rest : List Word), i.isWord = true → i.wf = true → decode (encode i ++ rest) = .ok (i, rest)

/-- Words that decode are the words of the instruction they decode to: no bit is dropped, and no two encodings overlap. -/
def Obligations.EncodeDecodeRoundTrip : Prop :=
  ∀ (ws rest : List Word) (i : Instr), decode ws = .ok (i, rest) → i.isWord = true ∧ ws = encode i ++ rest

/-- Words written out from the spec's encodings (Tables 03-5 to 03-9) decode to the instructions they stand for; an unassigned opcode, reserved bits, and
a missing literal do not. -/
def Obligations.SpecWordsDecode : Prop :=
  decode [0x4FFFC103#32] = .ok (.fmul ⟨7, 1, 63, 2, 3, none⟩, []) ∧
  decode [0x30218369#32] = .ok (.iadd ⟨1, 0, 6, 6, 105, none⟩, []) ∧
  decode [0x0143FFFB#32] = .ok (.bra ⟨2, 0x3FFFB⟩, []) ∧
  decode [0x06E6A005#32] = .ok (.loop ⟨7, 0, 106, 5, none⟩, []) ∧
  decode [0x80F70844#32, 0x30000100#32] = .ok (.ld ⟨7, 3, 4, 8, 2, 4, some 0x30000100⟩, []) ∧
  decode [0xA6EB8000#32, 0#32] = .ok (.mmz ⟨7, 5, 6, 0, 0, 0⟩, []) ∧
  decode [0xBAE008B0#32] = .ok (.cpym ⟨7, 0, 0, 2, 1, 3, none⟩, []) ∧
  decode [0xC82C0000#32] = .ok (.vpost ⟨1, 6, 0, 0, 0, 0, none⟩, []) ∧
  decode [0x0143FFFB#32 ||| 0x00080000#32] = .error .illegalOperand ∧
  decode [0xBAE008B1#32] = .error .illegalOperand ∧
  decode [0x80F70844#32] = .error .illegalClause ∧
  decode [0xFF000000#32] = .error .illegalOpcode

/-! ## The whole machine -/

/-- R18, R126, R309, R394, R414, Tables 05-9 and 17-1: after the first bring-up no block and no record exists, no tile is mapped, every core has partition 0, HENT 0,
EVTH 4,096 and PER 65,536, no bank is sealed, the handler is not valid, the counter reads 0 and MAPGEN 1. That memory lists nothing is the model's choice (log 2). -/
def Obligations.ResetValues : Prop :=
  let s := State.reset
  s.mem = [] ∧ s.memOk ∧ s.blocks = [] ∧ s.ops = [] ∧ s.tick = 0 ∧ s.svc.mapgen = 1 ∧ s.svc.bootst = 0 ∧ s.svc.dev = 0 ∧
  (∀ d, (s.dom d).hv = false ∧ (s.dom d).recs = [] ∧ (s.dom d).tiles = [] ∧ (s.dom d).objs = [] ∧ (s.dom d).enqDropped = 0 ∧ (s.dom d).fdiscEnded = 0 ∧
    (s.dom d).reqC = 0 ∧ (s.dom d).reqU = 0 ∧ ∀ i, (s.recAt d i).st = .free) ∧
  ∀ d a, let c := s.core d a
    c.part = 0 ∧ c.hent = 0 ∧ c.evth = 4096 ∧ c.hq = [] ∧ c.slots = [] ∧ c.seq.hold = none ∧ c.umb.per = 65536 ∧ c.umb.newest = none ∧ c.stopped = false

/-- R60, R79: with no event on the agenda, a step runs the instruction that decodes from the words of the open clause in focus; where the clause's next word
has not been fetched, it fetches that word; an event on the agenda acts first; with nothing in focus the powered machine still takes a step. It rests on the
model's choices of log 1. -/
def Obligations.StepRunsIssuedWord : Prop := ∀ (s : State) (b w : Nat) (cl : Clause),
  (s.agenda = [] → s.focus = some (b, w) → ((s.block b).warp w).clause = some cl → 1 ≤ cl.idx → ((s.block b).warp w).parked = false →
    ((s.block b).warp w).wait = none →
    let left := hdrN cl.hdr + 1 - cl.idx
    (∀ i rest, cl.idx ≤ cl.ibuf.length → ((s.block b).warp w).placeOk cl cl.word left = true → (takesLiteral cl.word = true → cl.idx < cl.ibuf.length) →
      decode ((cl.ibuf.drop (cl.idx - 1)).take left) = .ok (i, rest) → step s = exec i s) ∧
    (∀ x t, cl.ibuf.length < cl.idx → s.fetchAt b (cl.pc + BitVec.ofNat 32 (4 * (cl.ibuf.length + 1))) = (.word x, t) →
      step s = .next (t.updWarp b w fun wp => { wp with clause := some { cl with ibuf := cl.ibuf ++ [x] } }))) ∧
  (∀ ev rest, s.agenda = ev :: rest → ev.isWord = false → step s = exec ev { s with agenda := rest }) ∧
  (s.agenda = [] → s.focus = none → s.svc.powered = true → ∃ t, step s = .next t)

/-- The powered machine never stops: with no event on the agenda every step answers a next state, and no step from any state at all ends in a fault. It rests
on the model's choices of logs 1 and 18. -/
def Obligations.StepAlwaysAnswers : Prop := ∀ s : State,
  (∀ f, step s ≠ .fault f) ∧ (s.agenda = [] → s.focus ≠ none ∨ s.svc.powered = true → ∃ t, step s = .next t)

/-- The canonical form of memory (log 2) is kept by every step. -/
def Obligations.StepKeepsMemoryCanonical : Prop := ∀ s t : State, s.memOk → step s = .next t → t.memOk

/-- The words whose issue can itself change bytes in their homes: they write a record, a quote or a log entry, release what is remote-dirty before
they change a record or a tile or read a record, or recall a tile's lines (R320, R330, R345, R410, R431, R434). -/
def Sys2Proof.Spec.reachesHome : Instr → Bool
  | .enq _ | .evlogGet _ | .fenq _ | .shmap _ | .spawn _ | .svcQuote _ | .tdec _ | .tinc _ | .trearm _ | .vpost _ | .vpostf _ => true
  | _ => false
/-- R14, R187: every other word leaves every byte of memory unchanged at issue: a store, a drain or a copy writes through the events of the operation it
starts. It rests on the model's choices of log 5. -/
def Obligations.WordsLeaveMemory : Prop := ∀ (i : Instr) (s t : State), i.isWord = true → Sys2Proof.Spec.reachesHome i = false → exec i s = .next t →
  t.mem = s.mem

/-- R67, R68: a result enters v_dst, o_dst or no register in the lanes with a true guard, shifts the latches of every lane of the run, and leaves every other
register, lane field, warp and part of the block unchanged. (A bound o6 takes a row instead, R69.) -/
def Obligations.WriteResultEffect : Prop := ∀ (b : Block) (w : Nat) (nw : BitVec 1) (dst : BitVec 6) (g : Mask) (x : Nat → Word) (cl : Clause),
  let wp := b.warp w
  let b' := b.writeResult w nw dst g x
  let wp' := b'.warp w
  w < b.warps.length → wp.clause = some cl → wp.lanes.length = 32 → wp.rows.Nodup → (nw = 0#1 → dst.toNat < wp.rows.length) →
  (nw = 1#1 → dst = 6#6 → wp.bnd6 = none) →
  (∀ L < 32, ∀ j < wp.rows.length, b'.vread wp' j L = if nw = 0#1 ∧ j = dst.toNat ∧ g.getLsbD L = true then x L else b.vread wp j L) ∧
  (∀ L < 32, ∀ j < 8, (wp'.lane L).oreg j =
    if nw = 1#1 ∧ j = dst.toNat ∧ g.getLsbD L = true ∧ cl.gang.getLsbD L = true then x L else (wp.lane L).oreg j) ∧
  (∀ L < 32, (wp'.lane L).lat =
    if cl.gang.getLsbD L = true then ((if g.getLsbD L = true then x L else 0#32) :: (wp.lane L).lat).take 4 else (wp.lane L).lat) ∧
  (∀ L < 32, { wp'.lane L with o := (wp.lane L).o, lat := (wp.lane L).lat } = wp.lane L) ∧
  wp' = { wp with lanes := wp'.lanes, clause := some { cl with nres := cl.nres + 1 } } ∧ wp'.lanes.length = 32 ∧
  (∀ v, v ≠ w → b'.warp v = b.warp v) ∧ { b' with rf := b.rf, warps := b.warps } = b ∧
  (nw = 1#1 → b'.rf = b.rf) ∧ ∀ r, r ∉ wp.rows → ∀ L < 32, mget 0#32 b'.rf (32 * r + L) = mget 0#32 b.rf (32 * r + L)

/-- R62, R80, R125: taking a trap writes the record (cause, PC of the word, mask, address, info), parks the warp with its clause, queues its handle and frees
its port; no register, other warp or byte of memory changes. A trap of the handler's own warp kills the warp it handles and ends its run instead (R127). At a
rendezvous each member whose word fails its checks takes its own cause and the others QUARTET_MISMATCH (R261, R262). A word whose fields are not defined traps ILLEGAL_OPERAND with the whole run, CB + PC and the
word; a supervisor's word outside the handler traps PROTECTION. It rests on the model's choices of log 19. -/
def Obligations.TrapTaking : Prop := ∀ s : State,
  (∀ (b w : Nat) (c : Cause) (m : Mask) (va : Ptr) (info : Word) (x : Block) (l : Loc) (cl : Clause), mfind s.blocks b = some x → x.loc = some l → l.k < 4 →
    w < x.warps.length → (x.warp w).clause = some cl →
    let t := s.takeTrap b w c m va info
    (t.block b).warp w = { x.warp w with trap := { cause := c.code, pc := cl.wordPc, mask := m, info := info, addr := va }, parked := true, wait := none,
                                                rel := none } ∧
    (∀ v, v ≠ w → (t.block b).warp v = x.warp v) ∧ { t.block b with warps := x.warps } = x ∧ (∀ k, k ≠ b → t.block k = s.block k) ∧
    (t.core l.d l.a).hq = (s.core l.d l.a).hq ++ [16 * l.k + w] ∧ (∀ p ∈ (t.core l.d l.a).ports, p.2 ≠ (b, w)) ∧
    t.focus ≠ some (b, w) ∧ t.mem = s.mem ∧ t.doms = s.doms ∧ t.ops = s.ops ∧ t.log = s.log) ∧
  (∀ (i : Instr) (b w : Nat) (cl : Clause), i.isWord = true → mtxOf i = none → s.focus = some (b, w) →
    ((s.block b).warp w).clause = some cl →
    (opSuper i.opcode = true → (s.block b).isHandler = false →
      exec i s = .next (s.takeTrap b w .protection cl.run ((s.block b).cbAddr cl.wordPc) cl.word)) ∧
    (i.wf = false → (opSuper i.opcode = true → (s.block b).isHandler = true) →
      exec i s = .next (s.takeTrap b w .illegalOperand cl.run ((s.block b).cbAddr cl.wordPc) cl.word))) ∧
  (∀ (b w : Nat) (c : Cause) (m : Mask) (va : Ptr) (info : Word) (d a : Nat), (s.block b).loc = some ⟨d, a, 4⟩ →
    s.takeTrap b w c m va info = s.handlerFault d a) ∧
  (∀ b q : Nat, let x := s.block b
    let bad := fun (v : Nat) => match x.memberCheck v, (x.warp v).clause with
      | .error c, some cl => some (c, some (x.cbAddr cl.wordPc), some (cl.ibuf.headD 0#32))
      | _, _ => none
    x.loc ≠ none → q < 4 → s.quartetBroken b q = none → (x.warp (4 * q)).rdv = true →
    (∀ v ∈ quartetWarps q, x.atQuartet v = true ∧ 2 ≤ (x.quartetWords v).length) → (∃ v ∈ quartetWarps q, bad v ≠ none) →
    exec (.quartetRendezvous b q) s = .next (s.quartetTrap b (quartetWarps q) bad (mismatchInfo 15 (x.differing (quartetWarps q)) true)))

/-- R190, R193, R206, R207: an update of at most one sector by domain d, none of whose bytes there is dirty, changes the bytes it names and no other byte: at
its home for WAF and SYS scope or a home of its own, and else, where no tile is mapped at it, in the domain's own view while the home keeps what it had. It rests on the model's choices of
log 87. -/
def Obligations.StoreWritesItsBytes : Prop := ∀ (s : State) (x : Op) (nt rel : Bool) (scp pa : Nat) (bs : List Byte), regionOf pa ≠ .ctl → pa % 64 + bs.length ≤ 64 →
  ((s.dom x.d).rs (pa / 64)).dirty = [] →
  let t := s.writePart x nt rel scp 0 (.glob pa) bs
  (2 ≤ scp ∨ homeOf pa = x.d → (∀ k < bs.length, t.byte (pa + k) = bs.getD k 0#8) ∧
    ∀ a, a < pa ∨ pa + bs.length ≤ a → t.byte a = s.byte a) ∧
  (scp < 2 → homeOf pa ≠ x.d → s.tileAt pa = none → t.mem = s.mem ∧ t.viewBytes x.d true pa bs.length = bs)

end
end

