-- ==== Sys2Proof/Laws/Dispatch.lean ====
section
/-! SUPPORT. The dispatch arm by arm: `exec` of a constructor is its meaning. -/

namespace Sys2Proof.Machine

theorem exec_nop {j} {s : State} : exec (.nop j) s = execNop j s := rfl
theorem exec_bra {j} {s : State} : exec (.bra j) s = execBra j s := rfl
theorem exec_brx {j} {s : State} : exec (.brx j) s = execBrx j s := rfl
theorem exec_call {j} {s : State} : exec (.call j) s = execCall j s := rfl
theorem exec_callx {j} {s : State} : exec (.callx j) s = execCallx j s := rfl
theorem exec_ret {j} {s : State} : exec (.ret j) s = execRet j s := rfl
theorem exec_loop {j} {s : State} : exec (.loop j) s = execLoop j s := rfl
theorem exec_rpt {j} {s : State} : exec (.rpt j) s = execRpt j s := rfl
theorem exec_exit {j} {s : State} : exec (.exit j) s = execExit j s := rfl
theorem exec_exits {j} {s : State} : exec (.exits j) s = execExits j s := rfl
theorem exec_bar {j} {s : State} : exec (.bar j) s = execBar j s := rfl
theorem exec_bara {j} {s : State} : exec (.bara j) s = execBara j s := rfl
theorem exec_barm {j} {s : State} : exec (.barm j) s = execBarm j s := rfl
theorem exec_barw {j} {s : State} : exec (.barw j) s = execBarw j s := rfl
theorem exec_yield {j} {s : State} : exec (.yield j) s = execYield j s := rfl
theorem exec_vote {j} {s : State} : exec (.vote j) s = execVote j s := rfl
theorem exec_plop {j} {s : State} : exec (.plop j) s = execPlop j s := rfl
theorem exec_movs {j} {s : State} : exec (.movs j) s = execMovs j s := rfl
theorem exec_smov {j} {s : State} : exec (.smov j) s = execSmov j s := rfl
theorem exec_reggive {j} {s : State} : exec (.reggive j) s = execReggive j s := rfl
theorem exec_regclaim {j} {s : State} : exec (.regclaim j) s = execRegclaim j s := rfl
theorem exec_settid {j} {s : State} : exec (.settid j) s = execSettid j s := rfl
theorem exec_qbind {j} {s : State} : exec (.qbind j) s = execQbind j s := rfl
theorem exec_chput {j} {s : State} : exec (.chput j) s = execChput j s := rfl
theorem exec_chget {j} {s : State} : exec (.chget j) s = execChget j s := rfl
theorem exec_chclose {j} {s : State} : exec (.chclose j) s = execChclose j s := rfl
theorem exec_sleep {j} {s : State} : exec (.sleep j) s = execSleep j s := rfl
theorem exec_trap {j} {s : State} : exec (.trap j) s = execTrap j s := rfl
theorem exec_assert {j} {s : State} : exec (.assert j) s = execAssert j s := rfl
theorem exec_tret {j} {s : State} : exec (.tret j) s = execTret j s := rfl
theorem exec_kill {j} {s : State} : exec (.kill j) s = execKill j s := rfl
theorem exec_movsys {j} {s : State} : exec (.movsys j) s = execMovsys j s := rfl
theorem exec_movsysW {j} {s : State} : exec (.movsysW j) s = execMovsysW j s := rfl
theorem exec_iadd {j} {s : State} : exec (.iadd j) s = execIadd j s := rfl
theorem exec_isub {j} {s : State} : exec (.isub j) s = execIsub j s := rfl
theorem exec_imul {j} {s : State} : exec (.imul j) s = execImul j s := rfl
theorem exec_imulh {j} {s : State} : exec (.imulh j) s = execImulh j s := rfl
theorem exec_imad {j} {s : State} : exec (.imad j) s = execImad j s := rfl
theorem exec_imin {j} {s : State} : exec (.imin j) s = execImin j s := rfl
theorem exec_imax {j} {s : State} : exec (.imax j) s = execImax j s := rfl
theorem exec_iabs {j} {s : State} : exec (.iabs j) s = execIabs j s := rfl
theorem exec_and {j} {s : State} : exec (.and j) s = execAnd j s := rfl
theorem exec_or {j} {s : State} : exec (.or j) s = execOr j s := rfl
theorem exec_xor {j} {s : State} : exec (.xor j) s = execXor j s := rfl
theorem exec_not {j} {s : State} : exec (.not j) s = execNot j s := rfl
theorem exec_shl {j} {s : State} : exec (.shl j) s = execShl j s := rfl
theorem exec_shr {j} {s : State} : exec (.shr j) s = execShr j s := rfl
theorem exec_shra {j} {s : State} : exec (.shra j) s = execShra j s := rfl
theorem exec_rot {j} {s : State} : exec (.rot j) s = execRot j s := rfl
theorem exec_popc {j} {s : State} : exec (.popc j) s = execPopc j s := rfl
theorem exec_clz {j} {s : State} : exec (.clz j) s = execClz j s := rfl
theorem exec_brev {j} {s : State} : exec (.brev j) s = execBrev j s := rfl
theorem exec_bfe {j} {s : State} : exec (.bfe j) s = execBfe j s := rfl
theorem exec_bfi {j} {s : State} : exec (.bfi j) s = execBfi j s := rfl
theorem exec_bymix {j} {s : State} : exec (.bymix j) s = execBymix j s := rfl
theorem exec_sel {j} {s : State} : exec (.sel j) s = execSel j s := rfl
theorem exec_icmp {j} {s : State} : exec (.icmp j) s = execIcmp j s := rfl
theorem exec_mov {j} {s : State} : exec (.mov j) s = execMov j s := rfl
theorem exec_movi {j} {s : State} : exec (.movi j) s = execMovi j s := rfl
theorem exec_iacc {j} {s : State} : exec (.iacc j) s = execIacc j s := rfl
theorem exec_isad {j} {s : State} : exec (.isad j) s = execIsad j s := rfl
theorem exec_idot4 {j} {s : State} : exec (.idot4 j) s = execIdot4 j s := rfl
theorem exec_fadd {j} {s : State} : exec (.fadd j) s = execFadd j s := rfl
theorem exec_fsub {j} {s : State} : exec (.fsub j) s = execFsub j s := rfl
theorem exec_fmul {j} {s : State} : exec (.fmul j) s = execFmul j s := rfl
theorem exec_ffma {j} {s : State} : exec (.ffma j) s = execFfma j s := rfl
theorem exec_fmin {j} {s : State} : exec (.fmin j) s = execFmin j s := rfl
theorem exec_fmax {j} {s : State} : exec (.fmax j) s = execFmax j s := rfl
theorem exec_fcmp {j} {s : State} : exec (.fcmp j) s = execFcmp j s := rfl
theorem exec_frnd {j} {s : State} : exec (.frnd j) s = execFrnd j s := rfl
theorem exec_fclmp {j} {s : State} : exec (.fclmp j) s = execFclmp j s := rfl
theorem exec_fscale {j} {s : State} : exec (.fscale j) s = execFscale j s := rfl
theorem exec_fexp {j} {s : State} : exec (.fexp j) s = execFexp j s := rfl
theorem exec_addmin {j} {s : State} : exec (.addmin j) s = execAddmin j s := rfl
theorem exec_addmax {j} {s : State} : exec (.addmax j) s = execAddmax j s := rfl
theorem exec_rcp {j} {s : State} : exec (.rcp j) s = execRcp j s := rfl
theorem exec_rsq {j} {s : State} : exec (.rsq j) s = execRsq j s := rfl
theorem exec_sqrt {j} {s : State} : exec (.sqrt j) s = execSqrt j s := rfl
theorem exec_exp2 {j} {s : State} : exec (.exp2 j) s = execExp2 j s := rfl
theorem exec_log2 {j} {s : State} : exec (.log2 j) s = execLog2 j s := rfl
theorem exec_hadd2 {j} {s : State} : exec (.hadd2 j) s = execHadd2 j s := rfl
theorem exec_hmul2 {j} {s : State} : exec (.hmul2 j) s = execHmul2 j s := rfl
theorem exec_hfma2 {j} {s : State} : exec (.hfma2 j) s = execHfma2 j s := rfl
theorem exec_hmin2 {j} {s : State} : exec (.hmin2 j) s = execHmin2 j s := rfl
theorem exec_hmax2 {j} {s : State} : exec (.hmax2 j) s = execHmax2 j s := rfl
theorem exec_dot2 {j} {s : State} : exec (.dot2 j) s = execDot2 j s := rfl
theorem exec_cvt {j} {s : State} : exec (.cvt j) s = execCvt j s := rfl
theorem exec_pkcv {j} {s : State} : exec (.pkcv j) s = execPkcv j s := rfl
theorem exec_xpcv {j} {s : State} : exec (.xpcv j) s = execXpcv j s := rfl
theorem exec_scext {j} {s : State} : exec (.scext j) s = execScext j s := rfl
theorem exec_scins {j} {s : State} : exec (.scins j) s = execScins j s := rfl
theorem exec_scmax {j} {s : State} : exec (.scmax j) s = execScmax j s := rfl
theorem exec_dot4 {j} {s : State} : exec (.dot4 j) s = execDot4 j s := rfl
theorem exec_pack {j} {s : State} : exec (.pack j) s = execPack j s := rfl
theorem exec_qxch {j} {s : State} : exec (.qxch j) s = execQxch j s := rfl
theorem exec_qbc {j} {s : State} : exec (.qbc j) s = execQbc j s := rfl
theorem exec_qsum {j} {s : State} : exec (.qsum j) s = execQsum j s := rfl
theorem exec_lshf {j} {s : State} : exec (.lshf j) s = execLshf j s := rfl
theorem exec_lrot {j} {s : State} : exec (.lrot j) s = execLrot j s := rfl
theorem exec_lbc {j} {s : State} : exec (.lbc j) s = execLbc j s := rfl
theorem exec_lidx {j} {s : State} : exec (.lidx j) s = execLidx j s := rfl
theorem exec_wred {j} {s : State} : exec (.wred j) s = execWred j s := rfl
theorem exec_wscan {j} {s : State} : exec (.wscan j) s = execWscan j s := rfl
theorem exec_rnds {j} {s : State} : exec (.rnds j) s = execRnds j s := rfl
theorem exec_rnd {j} {s : State} : exec (.rnd j) s = execRnd j s := rfl
theorem exec_ld {j} {s : State} : exec (.ld j) s = execLd j s := rfl
theorem exec_st {j} {s : State} : exec (.st j) s = execSt j s := rfl
theorem exec_ldx {j} {s : State} : exec (.ldx j) s = execLdx j s := rfl
theorem exec_stx {j} {s : State} : exec (.stx j) s = execStx j s := rfl
theorem exec_ldw {j} {s : State} : exec (.ldw j) s = execLdw j s := rfl
theorem exec_stw {j} {s : State} : exec (.stw j) s = execStw j s := rfl
theorem exec_ldmx {j} {s : State} : exec (.ldmx j) s = execLdmx j s := rfl
theorem exec_stmx {j} {s : State} : exec (.stmx j) s = execStmx j s := rfl
theorem exec_ldn {j} {s : State} : exec (.ldn j) s = execLdn j s := rfl
theorem exec_stn {j} {s : State} : exec (.stn j) s = execStn j s := rfl
theorem exec_pref {j} {s : State} : exec (.pref j) s = execPref j s := rfl
theorem exec_fence {j} {s : State} : exec (.fence j) s = execFence j s := rfl
theorem exec_cwb {j} {s : State} : exec (.cwb j) s = execCwb j s := rfl
theorem exec_cinv {j} {s : State} : exec (.cinv j) s = execCinv j s := rfl
theorem exec_setb {j} {s : State} : exec (.setb j) s = execSetb j s := rfl
theorem exec_ldb {j} {s : State} : exec (.ldb j) s = execLdb j s := rfl
theorem exec_badd {j} {s : State} : exec (.badd j) s = execBadd j s := rfl
theorem exec_lds {j} {s : State} : exec (.lds j) s = execLds j s := rfl
theorem exec_mmq {j} {s : State} : exec (.mmq j) s = execMmq j s := rfl
theorem exec_mmqs {j} {s : State} : exec (.mmqs j) s = execMmqs j s := rfl
theorem exec_mmqx {j} {s : State} : exec (.mmqx j) s = execMmqx j s := rfl
theorem exec_mmqt {j} {s : State} : exec (.mmqt j) s = execMmqt j s := rfl
theorem exec_mms {j} {s : State} : exec (.mms j) s = execMms j s := rfl
theorem exec_mmss {j} {s : State} : exec (.mmss j) s = execMmss j s := rfl
theorem exec_mmz {j} {s : State} : exec (.mmz j) s = execMmz j s := rfl
theorem exec_accmv {j} {s : State} : exec (.accmv j) s = execAccmv j s := rfl
theorem exec_accld {j} {s : State} : exec (.accld j) s = execAccld j s := rfl
theorem exec_accsc {j} {s : State} : exec (.accsc j) s = execAccsc j s := rfl
theorem exec_acccv {j} {s : State} : exec (.acccv j) s = execAcccv j s := rfl
theorem exec_spld {j} {s : State} : exec (.spld j) s = execSpld j s := rfl
theorem exec_dst {j} {s : State} : exec (.dst j) s = execDst j s := rfl
theorem exec_dsta {j} {s : State} : exec (.dsta j) s = execDsta j s := rfl
theorem exec_dstm {j} {s : State} : exec (.dstm j) s = execDstm j s := rfl
theorem exec_dstv {j} {s : State} : exec (.dstv j) s = execDstv j s := rfl
theorem exec_atom {j} {s : State} : exec (.atom j) s = execAtom j s := rfl
theorem exec_atomc {j} {s : State} : exec (.atomc j) s = execAtomc j s := rfl
theorem exec_red {j} {s : State} : exec (.red j) s = execRed j s := rfl
theorem exec_dfence {j} {s : State} : exec (.dfence j) s = execDfence j s := rfl
theorem exec_cpy {j} {s : State} : exec (.cpy j) s = execCpy j s := rfl
theorem exec_cpy2 {j} {s : State} : exec (.cpy2 j) s = execCpy2 j s := rfl
theorem exec_cpym {j} {s : State} : exec (.cpym j) s = execCpym j s := rfl
theorem exec_cpytProm {j} {s : State} : exec (.cpytProm j) s = execCpytProm j s := rfl
theorem exec_cpytEvct {j} {s : State} : exec (.cpytEvct j) s = execCpytEvct j s := rfl
theorem exec_cpytScr {j} {s : State} : exec (.cpytScr j) s = execCpytScr j s := rfl
theorem exec_cpytGlb {j} {s : State} : exec (.cpytGlb j) s = execCpytGlb j s := rfl
theorem exec_cpyw {j} {s : State} : exec (.cpyw j) s = execCpyw j s := rfl
theorem exec_waitt {j} {s : State} : exec (.waitt j) s = execWaitt j s := rfl
theorem exec_tqry {j} {s : State} : exec (.tqry j) s = execTqry j s := rfl
theorem exec_cpyc {j} {s : State} : exec (.cpyc j) s = execCpyc j s := rfl
theorem exec_spawn {j} {s : State} : exec (.spawn j) s = execSpawn j s := rfl
theorem exec_enq {j} {s : State} : exec (.enq j) s = execEnq j s := rfl
theorem exec_tdec {j} {s : State} : exec (.tdec j) s = execTdec j s := rfl
theorem exec_tinc {j} {s : State} : exec (.tinc j) s = execTinc j s := rfl
theorem exec_twait {j} {s : State} : exec (.twait j) s = execTwait j s := rfl
theorem exec_tstat {j} {s : State} : exec (.tstat j) s = execTstat j s := rfl
theorem exec_tcancel {j} {s : State} : exec (.tcancel j) s = execTcancel j s := rfl
theorem exec_trearm {j} {s : State} : exec (.trearm j) s = execTrearm j s := rfl
theorem exec_vpost {j} {s : State} : exec (.vpost j) s = execVpost j s := rfl
theorem exec_vpostf {j} {s : State} : exec (.vpostf j) s = execVpostf j s := rfl
theorem exec_subs {j} {s : State} : exec (.subs j) s = execSubs j s := rfl
theorem exec_verq {j} {s : State} : exec (.verq j) s = execVerq j s := rfl
theorem exec_rstop {j} {s : State} : exec (.rstop j) s = execRstop j s := rfl
theorem exec_grpsetNew {j} {s : State} : exec (.grpsetNew j) s = execGrpsetNew j s := rfl
theorem exec_grpsetAdd {j} {s : State} : exec (.grpsetAdd j) s = execGrpsetAdd j s := rfl
theorem exec_grpsetArm {j} {s : State} : exec (.grpsetArm j) s = execGrpsetArm j s := rfl
theorem exec_grpsetFree {j} {s : State} : exec (.grpsetFree j) s = execGrpsetFree j s := rfl
theorem exec_shmap {j} {s : State} : exec (.shmap j) s = execShmap j s := rfl
theorem exec_shmapFree {j} {s : State} : exec (.shmapFree j) s = execShmapFree j s := rfl
theorem exec_ssack {j} {s : State} : exec (.ssack j) s = execSsack j s := rfl
theorem exec_seqld {j} {s : State} : exec (.seqld j) s = execSeqld j s := rfl
theorem exec_seqgo {j} {s : State} : exec (.seqgo j) s = execSeqgo j s := rfl
theorem exec_seqstop {j} {s : State} : exec (.seqstop j) s = execSeqstop j s := rfl
theorem exec_qset {j} {s : State} : exec (.qset j) s = execQset j s := rfl
theorem exec_qdec {j} {s : State} : exec (.qdec j) s = execQdec j s := rfl
theorem exec_qwait {j} {s : State} : exec (.qwait j) s = execQwait j s := rfl
theorem exec_seqsig {j} {s : State} : exec (.seqsig j) s = execSeqsig j s := rfl
theorem exec_seqq {j} {s : State} : exec (.seqq j) s = execSeqq j s := rfl
theorem exec_pfence {j} {s : State} : exec (.pfence j) s = execPfence j s := rfl
theorem exec_chks {j} {s : State} : exec (.chks j) s = execChks j s := rfl
theorem exec_umq {j} {s : State} : exec (.umq j) s = execUmq j s := rfl
theorem exec_umset {j} {s : State} : exec (.umset j) s = execUmset j s := rfl
theorem exec_fsend {j} {s : State} : exec (.fsend j) s = execFsend j s := rfl
theorem exec_fenq {j} {s : State} : exec (.fenq j) s = execFenq j s := rfl
theorem exec_fsig {j} {s : State} : exec (.fsig j) s = execFsig j s := rfl
theorem exec_ffence {j} {s : State} : exec (.ffence j) s = execFfence j s := rfl
theorem exec_tlbi {j} {s : State} : exec (.tlbi j) s = execTlbi j s := rfl
theorem exec_hflush {j} {s : State} : exec (.hflush j) s = execHflush j s := rfl
theorem exec_hprobe {j} {s : State} : exec (.hprobe j) s = execHprobe j s := rfl
theorem exec_atr {j} {s : State} : exec (.atr j) s = execAtr j s := rfl
theorem exec_svcVf {j} {s : State} : exec (.svcVf j) s = execSvcVf j s := rfl
theorem exec_svcRetire {j} {s : State} : exec (.svcRetire j) s = execSvcRetire j s := rfl
theorem exec_svcPkill {j} {s : State} : exec (.svcPkill j) s = execSvcPkill j s := rfl
theorem exec_svcQuote {j} {s : State} : exec (.svcQuote j) s = execSvcQuote j s := rfl
theorem exec_capq {j} {s : State} : exec (.capq j) s = execCapq j s := rfl
theorem exec_pwrq {j} {s : State} : exec (.pwrq j) s = execPwrq j s := rfl
theorem exec_clkq {j} {s : State} : exec (.clkq j) s = execClkq j s := rfl
theorem exec_evlogPut {j} {s : State} : exec (.evlogPut j) s = execEvlogPut j s := rfl
theorem exec_evlogGet {j} {s : State} : exec (.evlogGet j) s = execEvlogGet j s := rfl
theorem exec_hstat {j} {s : State} : exec (.hstat j) s = execHstat j s := rfl
theorem exec_clauseIssue {d} {a} {p} {s : State} : exec (.clauseIssue d a p) s = execClauseIssue d a p s := rfl
theorem exec_quartetRendezvous {b} {q} {s : State} : exec (.quartetRendezvous b q) s = execQuartetRendezvous b q s := rfl
theorem exec_activeSetExchange {d} {a} {s : State} : exec (.activeSetExchange d a) s = execActiveSetExchange d a s := rfl
theorem exec_handlerStart {d} {a} {s : State} : exec (.handlerStart d a) s = execHandlerStart d a s := rfl
theorem exec_slotComplete {o} {s : State} : exec (.slotComplete o) s = execSlotComplete o s := rfl
theorem exec_sleepDeadline {b} {w} {s : State} : exec (.sleepDeadline b w) s = execSleepDeadline b w s := rfl
theorem exec_siderealTick {lag} {s : State} : exec (.siderealTick lag) s = execSiderealTick lag s := rfl
theorem exec_siderealBeacon {s : State} : exec (.siderealBeacon) s = execSiderealBeacon s := rfl
theorem exec_windowWriteEntry {b} {s : State} : exec (.windowWriteEntry b) s = execWindowWriteEntry b s := rfl
theorem exec_loadComplete {o} {pl} {s : State} : exec (.loadComplete o pl) s = execLoadComplete o pl s := rfl
theorem exec_storePerformed {o} {pl} {s : State} : exec (.storePerformed o pl) s = execStorePerformed o pl s := rfl
theorem exec_homeRetry {o} {s : State} : exec (.homeRetry o) s = execHomeRetry o s := rfl
theorem exec_reservationLapse {h} {line} {s : State} : exec (.reservationLapse h line) s = execReservationLapse h line s := rfl
theorem exec_cpymRequestArrival {o} {s : State} : exec (.cpymRequestArrival o) s = execCpymRequestArrival o s := rfl
theorem exec_multicastWindowClose {d} {g} {s : State} : exec (.multicastWindowClose d g) s = execMulticastWindowClose d g s := rfl
theorem exec_lateJoinerResend {d} {g} {s : State} : exec (.lateJoinerResend d g) s = execLateJoinerResend d g s := rfl
theorem exec_copySectorWrite {o} {pl} {s : State} : exec (.copySectorWrite o pl) s = execCopySectorWrite o pl s := rfl
theorem exec_copyCompletion {o} {s : State} : exec (.copyCompletion o) s = execCopyCompletion o s := rfl
theorem exec_transitTick {b} {w} {s : State} : exec (.transitTick b w) s = execTransitTick b w s := rfl
theorem exec_matrixCompletion {o} {stale} {s : State} : exec (.matrixCompletion o stale) s = execMatrixCompletion o stale s := rfl
theorem exec_drainUpdateApply {o} {s : State} : exec (.drainUpdateApply o) s = execDrainUpdateApply o s := rfl
theorem exec_rangeRecordArrival {n} {s : State} : exec (.rangeRecordArrival n) s = execRangeRecordArrival n s := rfl
theorem exec_dispatchPlacement {d} {s : State} : exec (.dispatchPlacement d) s = execDispatchPlacement d s := rfl
theorem exec_eviction {b} {s : State} : exec (.eviction b) s = execEviction b s := rfl
theorem exec_parkRecordWake {d} {idx} {s : State} : exec (.parkRecordWake d idx) s = execParkRecordWake d idx s := rfl
theorem exec_parkNeighbourOffer {d} {idx} {s : State} : exec (.parkNeighbourOffer d idx) s = execParkNeighbourOffer d idx s := rfl
theorem exec_blockExit {b} {s : State} : exec (.blockExit b) s = execBlockExit b s := rfl
theorem exec_gridCompletion {d} {idx} {s : State} : exec (.gridCompletion d idx) s = execGridCompletion d idx s := rfl
theorem exec_supersedeEvent {b} {w} {s : State} : exec (.supersedeEvent b w) s = execSupersedeEvent b w s := rfl
theorem exec_twaitDeadline {b} {w} {s : State} : exec (.twaitDeadline b w) s = execTwaitDeadline b w s := rfl
theorem exec_promotionServe {d} {s : State} : exec (.promotionServe d) s = execPromotionServe d s := rfl
theorem exec_promotionAging {d} {s : State} : exec (.promotionAging d) s = execPromotionAging d s := rfl
theorem exec_promotionDone {d} {idx} {s : State} : exec (.promotionDone d idx) s = execPromotionDone d idx s := rfl
theorem exec_objectEvictionDone {d} {idx} {s : State} : exec (.objectEvictionDone d idx) s = execObjectEvictionDone d idx s := rfl
theorem exec_seqWordReplay {d} {a} {s : State} : exec (.seqWordReplay d a) s = execSeqWordReplay d a s := rfl
theorem exec_seqTransition {d} {a} {s : State} : exec (.seqTransition d a) s = execSeqTransition d a s := rfl
theorem exec_seqTimeout {d} {a} {s : State} : exec (.seqTimeout d a) s = execSeqTimeout d a s := rfl
theorem exec_periodicCut {d} {a} {s : State} : exec (.periodicCut d a) s = execPeriodicCut d a s := rfl
theorem exec_cutInstant {d} {a} {s : State} : exec (.cutInstant d a) s = execCutInstant d a s := rfl
theorem exec_bankSeal {d} {a} {s : State} : exec (.bankSeal d a) s = execBankSeal d a s := rfl
theorem exec_journalAck {d} {a} {j} {s : State} : exec (.journalAck d a j) s = execJournalAck d a j s := rfl
theorem exec_l1DirectoryRequest {d} {a} {q} {sec} {s : State} : exec (.l1DirectoryRequest d a q sec) s = execL1DirectoryRequest d a q sec s := rfl
theorem exec_remoteFetch {d} {sec} {s : State} : exec (.remoteFetch d sec) s = execRemoteFetch d sec s := rfl
theorem exec_homeUpdate {d} {sec} {s : State} : exec (.homeUpdate d sec) s = execHomeUpdate d sec s := rfl
theorem exec_remoteInvalidation {d} {sec} {s : State} : exec (.remoteInvalidation d sec) s = execRemoteInvalidation d sec s := rfl
theorem exec_sliceReplacement {d} {line} {s : State} : exec (.sliceReplacement d line) s = execSliceReplacement d line s := rfl
theorem exec_directoryEntryDrop {h} {line} {s : State} : exec (.directoryEntryDrop h line) s = execDirectoryEntryDrop h line s := rfl
theorem exec_pageWalk {d} {asid} {va} {s : State} : exec (.pageWalk d asid va) s = execPageWalk d asid va s := rfl
theorem exec_backInvalidationSnoop {line} {s : State} : exec (.backInvalidationSnoop line) s = execBackInvalidationSnoop line s := rfl
theorem exec_hostSnoop {line} {s : State} : exec (.hostSnoop line) s = execHostSnoop line s := rfl
theorem exec_hostLinkAccess {link} {bar} {off} {acc} {s : State} : exec (.hostLinkAccess link bar off acc) s = execHostLinkAccess link bar off acc s := rfl
theorem exec_poolLinkDown {p} {s : State} : exec (.poolLinkDown p) s = execPoolLinkDown p s := rfl
theorem exec_poolLinkUp {p} {s : State} : exec (.poolLinkUp p) s = execPoolLinkUp p s := rfl
theorem exec_enqueueWindowWrite {d} {wafer} {idx} {rec} {s : State} : exec (.enqueueWindowWrite d wafer idx rec) s = execEnqueueWindowWrite d wafer idx rec s := rfl
theorem exec_enqdropWrite {d} {s : State} : exec (.enqdropWrite d) s = execEnqdropWrite d s := rfl
theorem exec_objectTableWrite {d} {idx} {wd} {x} {s : State} : exec (.objectTableWrite d idx wd x) s = execObjectTableWrite d idx wd x s := rfl
theorem exec_computeIslandPowerFail {d} {finish} {s : State} : exec (.computeIslandPowerFail d finish) s = execComputeIslandPowerFail d finish s := rfl
theorem exec_coreResume {d} {a} {s : State} : exec (.coreResume d a) s = execCoreResume d a s := rfl
theorem exec_fabricC0Arrival {m} {s : State} : exec (.fabricC0Arrival m) s = execFabricC0Arrival m s := rfl
theorem exec_fabricC1Arrival {m} {s : State} : exec (.fabricC1Arrival m) s = execFabricC1Arrival m s := rfl
theorem exec_fabricC2Arrival {m} {s : State} : exec (.fabricC2Arrival m) s = execFabricC2Arrival m s := rfl
theorem exec_fabricAck {o} {status} {s : State} : exec (.fabricAck o status) s = execFabricAck o status s := rfl
theorem exec_fabricResend {o} {s : State} : exec (.fabricResend o) s = execFabricResend o s := rfl
theorem exec_portDown {p} {s : State} : exec (.portDown p) s = execPortDown p s := rfl
theorem exec_portUp {p} {s : State} : exec (.portUp p) s = execPortUp p s := rfl
theorem exec_fabricManagement {dev} {s : State} : exec (.fabricManagement dev) s = execFabricManagement dev s := rfl
theorem exec_fdiscWrite {d} {s : State} : exec (.fdiscWrite d) s = execFdiscWrite d s := rfl
theorem exec_controlRegisterWrite {d} {off} {x} {s : State} : exec (.controlRegisterWrite d off x) s = execControlRegisterWrite d off x s := rfl
theorem exec_moduleBringUp {s : State} : exec (.moduleBringUp) s = execModuleBringUp s := rfl
theorem exec_modulePowerLoss {keep} {s : State} : exec (.modulePowerLoss keep) s = execModulePowerLoss keep s := rfl
theorem exec_uncoreIslandPowerLoss {d} {keep} {s : State} : exec (.uncoreIslandPowerLoss d keep) s = execUncoreIslandPowerLoss d keep s := rfl
theorem exec_unitRetirement {u} {s : State} : exec (.unitRetirement u) s = execUnitRetirement u s := rfl
theorem exec_clockSourceFail {d} {a} {s : State} : exec (.clockSourceFail d a) s = execClockSourceFail d a s := rfl
theorem exec_powerLimitStep {d} {isl} {lower} {s : State} : exec (.powerLimitStep d isl lower) s = execPowerLimitStep d isl lower s := rfl
theorem exec_supplyDroop {d} {isl} {s : State} : exec (.supplyDroop d isl) s = execSupplyDroop d isl s := rfl
theorem exec_thermalTrip {s : State} : exec (.thermalTrip) s = execThermalTrip s := rfl
theorem exec_islandPowerOff {d} {s : State} : exec (.islandPowerOff d) s = execIslandPowerOff d s := rfl
theorem exec_uncoreIslandPowerReturn {d} {s : State} : exec (.uncoreIslandPowerReturn d) s = execUncoreIslandPowerReturn d s := rfl
theorem exec_acknowledgementReceiptConfirmed {d} {id} {s : State} : exec (.acknowledgementReceiptConfirmed d id) s = execAcknowledgementReceiptConfirmed d id s := rfl
theorem exec_correctedError {d} {ue} {s : State} : exec (.correctedError d ue) s = execCorrectedError d ue s := rfl

end Sys2Proof.Machine
end

