-- ==== Sys2Proof/Laws/Issue.lean ====
section
/-! SUPPORT. The shared prologue of instruction words: what `issue` answers for a word that passes its checks, and what it can answer at all. -/

namespace Sys2Proof.Machine

@[simp] theorem Env.popped_bid (e : Env) (n : Bool) : (e.popped n).bid = e.bid := by
  unfold Env.popped; repeat' split
  all_goals rfl
@[simp] theorem Env.popped_w (e : Env) (n : Bool) : (e.popped n).w = e.w := by
  unfold Env.popped; repeat' split
  all_goals rfl
@[simp] theorem Env.popped_wp (e : Env) (n : Bool) : (e.popped n).wp = e.wp := by
  unfold Env.popped; repeat' split
  all_goals rfl
@[simp] theorem Env.popped_cl (e : Env) (n : Bool) : (e.popped n).cl = e.cl := by
  unfold Env.popped; repeat' split
  all_goals rfl
@[simp] theorem Env.popped_g (e : Env) (n : Bool) : (e.popped n).g = e.g := by
  unfold Env.popped; repeat' split
  all_goals rfl
@[simp] theorem Env.popped_gr (e : Env) (n : Bool) : (e.popped n).gr = e.gr := by
  unfold Env.popped; repeat' split
  all_goals rfl

/-- The context of a word at issue holds the state, and no sequencer replays it. -/
theorem ready_ctx {i : Instr} {g : BitVec 3} {lit : Option Word} {s : State} {e : Env} (h : ready i g lit s = some e) : e.sq = false ∧ e.s = s := by
  unfold ready at h
  split at h
  · cases h
  · rename_i he
    split at h
    · cases h
    · cases h
      unfold envOf at he
      split at he
      · cases he
      · dsimp only at he
        split at he
        · cases he
        · cases he; exact ⟨rfl, rfl⟩
theorem readyWord_ctx {i : Instr} {g : BitVec 3} {lit : Option Word} {vs : List Nat} {uni : Env → Bool} {s : State} {e : Env}
    (h : readyWord i g lit vs uni s = some e) : e.sq = false ∧ e.s = s := by
  unfold readyWord at h
  split at h
  · cases h
  · split at h
    · cases h; exact ready_ctx ‹_›
    · cases h

/-- A word that passes checks 3 and 4 goes on to its further checks. -/
theorem issue_ready {i : Instr} {g : BitVec 3} {lit : Option Word} {s : State} {pre : Env → List (Bool × Cause)} {act : Env → Act} {e : Env}
    (h : ready i g lit s = some e) (hp : ∀ p ∈ pre e, p.1 = true) : issue i g lit s pre act = e.finish (Instr.words i) (act e) := by
  unfold ready at h
  split at h
  · cases h
  · rename_i e₀ he
    split at h
    · cases h
    · rename_i hc
      cases h
      simp only [Bool.or_eq_true, Bool.and_eq_true, Bool.not_eq_true', not_or, not_and] at hc
      have hf : (pre e).find? (fun p => !p.1) = none := by
        rw [List.find?_eq_none]; intro p hm; simp [hp p hm]
      unfold issue
      simp only [he]
      rw [if_neg (by simpa using hc.1), if_neg (by simp [hc.2]), hf]

/-- A word of another format that passes its checks makes its own effect. -/
theorem issueWord_ready {i : Instr} {g : BitVec 3} {lit : Option Word} {vs : List Nat} {uni : Env → Bool} {s : State} {act : Env → Act} {e : Env}
    (h : readyWord i g lit vs uni s = some e) : issueWord i g lit vs s uni act = e.finish (Instr.words i) (act e) := by
  unfold readyWord at h
  split at h
  · cases h
  · rename_i e₀ he
    split at h
    · rename_i hc
      cases h
      simp only [Bool.and_eq_true] at hc
      exact issue_ready he (by simp [hc.1, hc.2])
    · cases h

/-- A register-format word that passes its checks makes its own effect in the context whose bound o7 has been popped. -/
theorem issueReg_ready {i : Instr} {f : RegW} {s : State} {act : Env → Act} {e : Env}
    (h : readyReg i f s = some e) :
    ∃ e₀ : Env, e₀.bid = e.bid ∧ e₀.w = e.w ∧ e₀.s = s ∧ issueReg i f s act = e₀.finish (Instr.words i) (act e) := by
  unfold readyReg at h
  split at h
  · cases h
  · rename_i e₀ he
    dsimp only at h
    split at h
    · rename_i hc
      simp only [Option.some.injEq] at h
      subst h
      simp only [Bool.and_eq_true] at hc
      obtain ⟨⟨⟨⟨h1, h2⟩, h3⟩, h4⟩, h5⟩ := hc
      refine ⟨e₀, by simp, by simp, (ready_ctx he).2, ?_⟩
      unfold issueReg
      exact issue_ready he (by simp only [List.mem_cons, List.not_mem_nil, or_false]; rintro p (rfl | rfl | rfl | rfl | rfl) <;> assumption)
    · cases h

/-- … so an effect without a trap retires the word. -/
theorem issueReg_done {i : Instr} {f : RegW} {s t : State} {act : Env → Act} {e : Env}
    (h : readyReg i f s = some e) (ha : act e = .done t) : issueReg i f s act = e.retires i t := by
  obtain ⟨e₀, hb, hw, -, hi⟩ := issueReg_ready (act := act) h
  rw [hi, ha]; simp [Env.finish, Env.retires, hb, hw]

theorem issueWord_done {i : Instr} {g : BitVec 3} {lit : Option Word} {vs : List Nat} {uni : Env → Bool} {s t : State} {act : Env → Act} {e : Env}
    (h : readyWord i g lit vs uni s = some e) (ha : act e = .done t) : issueWord i g lit vs s uni act = e.retires i t := by
  rw [issueWord_ready h, ha]; rfl

/-- A result word retires with its result written (R67). -/
theorem issueResult_ready {i : Instr} {f : RegW} {s : State} {x : Env → Nat → Word} {e : Env} (h : readyReg i f s = some e) :
    issueResult i f s x = e.retires i (e.setBlk fun b => b.writeResult e.w (if regFBit i.opcode then 0#1 else f.nw) f.dst e.g (x e)) :=
  issueReg_done h rfl

/-- An engine word whose slot is free makes its own effect. -/
theorem Env.slotted_free {e : Env} {d : BitVec 3} {act : Env → Act} (h : e.slotFree d = true) : e.slotted d act = act e := by
  unfold Env.slotFree at h
  unfold Env.slotted
  simp only [Bool.and_eq_true, Bool.not_eq_true'] at h
  rw [if_neg (by rw [h.1]; decide), if_neg (by simp [h.2])]

/-- A word answers a next state, except one that finds no open clause. -/
theorem issue_answers (i : Instr) (g : BitVec 3) (lit : Option Word) (s : State) (pre : Env → List (Bool × Cause)) (act : Env → Act) :
    (∃ t, issue i g lit s pre act = .next t) ∨ (envOf s g lit = none ∧ issue i g lit s pre act = .fault .noIssuingWarp) := by
  unfold issue
  split
  · exact .inr ⟨‹_›, rfl⟩
  · left
    repeat' split
    all_goals first | exact ⟨_, rfl⟩ | skip
    unfold Env.finish; split <;> exact ⟨_, rfl⟩

end Sys2Proof.Machine
end

