-- ==== Sys2Proof/Laws/LoadStore.lean ====
section
/-! SUPPORT. The issue path of engine words: checks that all pass, the journal of a core without an armed epoch. -/

namespace Sys2Proof.Machine

/-- Checks that all pass hand their results on. -/
theorem itemsChecked_passed {α : Type} {e : Env} {items : List Nat} {lane : Nat → Nat} {f : State → Nat → LaneRes α × State}
    {k : List (Nat × α) → State → Act} {ps : List (Nat × α)} {t : State} (h : passed (checkLanes f items e.s) = some (ps, t)) :
    e.itemsChecked items lane f k = k ps t := by
  unfold passed at h
  split at h
  · rename_i hc
    cases h
    unfold Env.itemsChecked
    generalize checkLanes f items e.s = r at hc ⊢
    have h1 : (r.1.filterMap fun p => (laneBad p.2).map fun x => (p.1, x)) = [] := by
      rw [List.filterMap_eq_nil_iff]; rintro ⟨L, x⟩ hp
      have := List.all_eq_true.1 hc _ hp
      cases x <;> simp_all [laneOk, laneBad]
    have h2 : (r.1.any fun p => laneWaits p.2) = false := by
      rw [List.any_eq_false]; rintro ⟨L, x⟩ hp
      have := List.all_eq_true.1 hc _ hp
      cases x <;> simp_all [laneOk, laneWaits]
    dsimp only
    rw [h1]
    simp only [h2, Bool.false_eq_true, if_false]
  · cases h
theorem lanesChecked_passed {α : Type} {e : Env} {m : Mask} {f : State → Nat → LaneRes α × State}
    {k : List (Nat × α) → State → Act} {ps : List (Nat × α)} {t : State} (h : passed (checkLanes f (lanesOf m) e.s) = some (ps, t)) :
    e.lanesChecked m f k = k ps t := itemsChecked_passed h
/-- A memory word whose slot and engine have room goes on. -/
theorem memIssue_free {e : Env} {d : BitVec 3} {k : Act} (h : e.slotFree d = true) (hf : e.lsFull = false) : e.memIssue d k = k := by
  unfold Env.memIssue; rw [Env.slotted_free h]; simp [hf]

/-- Without an armed epoch a non-idempotent operation issues without a journal entry (R381). -/
theorem journal_unarmed {e : Env} {s : State} {tgt : Nat} {mask : Mask} {wr : List (Nat × Word) → State → State} {go : Option Nat → State → Act}
    (hq : e.sq = false) (h : e.unarmed s) : e.journal s tgt mask wr go = go none (s.updWarp e.bid e.w fun wp => { wp with held := false }) := by
  obtain ⟨h1, h2⟩ := h
  have ho : e.oldEntry = none := by unfold Env.oldEntry Umbra.oldEntry; simp [h1]
  have hc : (s.updWarp e.bid e.w fun wp => { wp with held := false }).core e.loc.d e.loc.a = s.core e.loc.d e.loc.a := rfl
  unfold Env.journal
  simp only [hq, ho]
  unfold State.journalNow
  simp [hc, h2]
theorem device_unarmed {e : Env} {s : State} {ps : List Part} {tgt : Nat} {mask : Mask} {wr : List (Nat × Word) → State → State}
    {go : Option Nat → List Part → State → Act} (hq : e.sq = false) (h : ps.any (·.ty = 2) = true → e.unarmed s) :
    e.device s ps tgt mask wr go = go none ps (e.unheld (ps.any (·.ty = 2)) s) := by
  unfold Env.device Env.unheld
  split
  · rename_i hd; rw [journal_unarmed hq (h hd)]; rfl
  · rfl

end Sys2Proof.Machine
end

