-- ==== Sys2Proof/Laws/Map.lean ====
section
/-! SUPPORT. Laws of the finite maps: a read after a write, reads elsewhere, and the canonical form that every write keeps. -/

namespace Sys2Proof.Machine

variable {α : Type}

@[simp] theorem mfind_nil (j : Nat) : mfind ([] : AMap α) j = none := rfl
@[simp] theorem mfind_mput_same (m : AMap α) (j : Nat) (x : α) : mfind (mput m j x) j = some x := by
  induction m with
  | nil => simp [mput, mfind]
  | cons p m ih =>
    obtain ⟨k, v⟩ := p
    unfold mput
    split
    · simp [mfind]
    · split
      · simp [mfind]
      · rename_i h; simp [mfind, Ne.symm h, ih]
theorem mfind_mput_ne (m : AMap α) {i j : Nat} (x : α) (h : i ≠ j) : mfind (mput m j x) i = mfind m i := by
  induction m with
  | nil => simp [mput, mfind, Ne.symm h]
  | cons p m ih =>
    obtain ⟨k, v⟩ := p
    unfold mput
    split
    · simp [mfind, Ne.symm h]
    · split
      · rename_i hk; subst hk; simp [mfind, Ne.symm h]
      · simp only [mfind, ih]
theorem mfind_mput (m : AMap α) (i j : Nat) (x : α) : mfind (mput m j x) i = if i = j then some x else mfind m i := by
  split
  · rename_i h; subst h; simp
  · exact mfind_mput_ne m x ‹_›
@[simp] theorem mfind_mdel_same (m : AMap α) (j : Nat) : mfind (mdel m j) j = none := by
  induction m with
  | nil => rfl
  | cons p m ih =>
    obtain ⟨k, v⟩ := p
    unfold mdel at *
    by_cases h : k = j
    · simp [h, ih]
    · simp [h, mfind, ih]
theorem mfind_mdel_ne (m : AMap α) {i j : Nat} (h : i ≠ j) : mfind (mdel m j) i = mfind m i := by
  induction m with
  | nil => rfl
  | cons p m ih =>
    obtain ⟨k, v⟩ := p
    unfold mdel at *
    by_cases hk : k = j
    · subst hk; simp [mfind, Ne.symm h, ih]
    · simp [hk, mfind, ih]
theorem mfind_mdel (m : AMap α) (i j : Nat) : mfind (mdel m j) i = if i = j then none else mfind m i := by
  split
  · rename_i h; subst h; simp
  · exact mfind_mdel_ne m ‹_›

/-- A read after a write gives the value written; a write leaves every other key alone. -/
@[simp] theorem mget_mset_same [DecidableEq α] (d : α) (m : AMap α) (j : Nat) (x : α) : mget d (mset d m j x) j = x := by
  unfold mset mget
  split
  · simp [*]
  · simp
theorem mget_mset_ne [DecidableEq α] (d : α) (m : AMap α) {i j : Nat} (x : α) (h : i ≠ j) : mget d (mset d m j x) i = mget d m i := by
  unfold mset mget
  split
  · rw [mfind_mdel_ne m h]
  · rw [mfind_mput_ne m x h]
theorem mget_mset [DecidableEq α] (d : α) (m : AMap α) (i j : Nat) (x : α) : mget d (mset d m j x) i = if i = j then x else mget d m i := by
  split
  · rename_i h; subst h; simp
  · exact mget_mset_ne d m x ‹_›
@[simp] theorem mget_nil (d : α) (j : Nat) : mget d ([] : AMap α) j = d := rfl
theorem mget_of_mfind {d x : α} {m : AMap α} {j : Nat} (h : mfind m j = some x) : mget d m j = x := by simp [mget, h]
theorem mfind_mupd (m : AMap α) (i j : Nat) (f : α → α) : mfind (mupd m j f) i = if i = j then (mfind m j).map f else mfind m i := by
  unfold mupd
  split
  · rename_i x h; rw [mfind_mput, h]; rfl
  · rename_i h; split
    · rename_i hi; subst hi; simp [h]
    · rfl

/-! ## The canonical form -/

theorem msorted_cons (k : Nat) (v : α) (m : AMap α) : msorted ((k, v) :: m) = (m.head?.all (fun p => decide (k < p.1)) && msorted m) := by
  cases m <;> simp [msorted]
theorem msorted_lt {k : Nat} {v : α} {m : AMap α} (h : msorted ((k, v) :: m) = true) : ∀ p ∈ m, k < p.1 := by
  induction m generalizing k v with
  | nil => simp
  | cons q m ih =>
    obtain ⟨k', v'⟩ := q
    simp only [msorted, Bool.and_eq_true, decide_eq_true_eq] at h
    intro p hp
    rcases List.mem_cons.1 hp with rfl | hp
    · exact h.1
    · exact lt_trans h.1 (ih h.2 p hp)
theorem msorted_tail {p : Nat × α} {m : AMap α} (h : msorted (p :: m) = true) : msorted m = true := by
  rw [msorted_cons] at h; exact (Bool.and_eq_true _ _ ▸ h).2
theorem msorted_of_lt {k : Nat} {v : α} {m : AMap α} (h : msorted m = true) (hk : ∀ p ∈ m, k < p.1) : msorted ((k, v) :: m) = true := by
  rw [msorted_cons, h, Bool.and_true]
  cases m with
  | nil => rfl
  | cons q m => simpa using hk q (by simp)
theorem mem_mput {m : AMap α} {j : Nat} {x : α} {p : Nat × α} (h : p ∈ mput m j x) : p = (j, x) ∨ p ∈ m := by
  induction m with
  | nil => simp [mput] at h; exact .inl h
  | cons q m ih =>
    obtain ⟨k, v⟩ := q
    unfold mput at h
    split at h
    · simpa using h
    · split at h
      · rcases List.mem_cons.1 h with h | h
        · exact .inl h
        · exact .inr (List.mem_cons_of_mem _ h)
      · rcases List.mem_cons.1 h with h | h
        · exact .inr (by simp [h])
        · rcases ih h with h | h
          · exact .inl h
          · exact .inr (List.mem_cons_of_mem _ h)
theorem msorted_mput {m : AMap α} (j : Nat) (x : α) (h : msorted m = true) : msorted (mput m j x) = true := by
  induction m with
  | nil => rfl
  | cons q m ih =>
    obtain ⟨k, v⟩ := q
    have hl := msorted_lt h
    have ht := msorted_tail h
    unfold mput
    split
    · rename_i hj
      exact msorted_of_lt h (by rintro p hp; rcases List.mem_cons.1 hp with rfl | hp; exact hj; exact lt_trans hj (hl p hp))
    · split
      · rename_i hj; subst hj; exact msorted_of_lt ht hl
      · rename_i h1 h2
        refine msorted_of_lt (ih ht) fun p hp => ?_
        rcases mem_mput hp with rfl | hp
        · show k < j; omega
        · exact hl p hp
theorem msorted_filter {m : AMap α} (f : Nat × α → Bool) (h : msorted m = true) : msorted (m.filter f) = true := by
  induction m with
  | nil => rfl
  | cons q m ih =>
    obtain ⟨k, v⟩ := q
    rw [List.filter_cons]
    split
    · exact msorted_of_lt (ih (msorted_tail h)) fun p hp => msorted_lt h p (List.mem_of_mem_filter hp)
    · exact ih (msorted_tail h)

/-- A write keeps the canonical form. -/
theorem mwfBy_mset [DecidableEq α] {u : Nat → α} {m : AMap α} (j : Nat) (x : α) (h : mwfBy u m = true) : mwfBy u (mset (u j) m j x) = true := by
  unfold mwfBy at *
  simp only [Bool.and_eq_true] at *
  unfold mset
  split
  · exact ⟨msorted_filter _ h.1, List.all_eq_true.2 fun p hp => List.all_eq_true.1 h.2 p (List.mem_of_mem_filter hp)⟩
  · rename_i hx
    refine ⟨msorted_mput j x h.1, List.all_eq_true.2 fun p hp => ?_⟩
    rcases mem_mput hp with rfl | hp
    · simpa using hx
    · exact List.all_eq_true.1 h.2 p hp
theorem mwfBy_filter [DecidableEq α] {u v : Nat → α} {m : AMap α} (f : Nat × α → Bool) (h : mwfBy u m = true) (hf : ∀ p, f p = true → u p.1 = v p.1) :
    mwfBy v (m.filter f) = true := by
  unfold mwfBy at *
  simp only [Bool.and_eq_true] at *
  refine ⟨msorted_filter _ h.1, List.all_eq_true.2 fun p hp => ?_⟩
  have := List.all_eq_true.1 h.2 p (List.mem_of_mem_filter hp)
  rwa [hf p (List.of_mem_filter hp)] at this
theorem mwf_mset [DecidableEq α] {d : α} {m : AMap α} (j : Nat) (x : α) (h : mwf d m = true) : mwf d (mset d m j x) = true :=
  mwfBy_mset (u := fun _ => d) j x h
theorem mwf_nil [DecidableEq α] (d : α) : mwf d ([] : AMap α) = true := rfl

end Sys2Proof.Machine
end

