-- ==== Sys2Proof/Laws/State.lean ====
section
/-! SUPPORT. What each update of State leaves in each field, and what the accessors read after it. -/

namespace Sys2Proof.Machine

/-! ## State.setDom -/

theorem State.setDom_doms (s : State) (d : Nat) (x : Domain) : (s.setDom d x).doms = mset Domain.reset s.doms d x := rfl
@[simp] theorem State.setDom_cores (s : State) (d : Nat) (x : Domain) : (s.setDom d x).cores = s.cores := rfl
@[simp] theorem State.setDom_blocks (s : State) (d : Nat) (x : Domain) : (s.setDom d x).blocks = s.blocks := rfl
@[simp] theorem State.setDom_mem (s : State) (d : Nat) (x : Domain) : (s.setDom d x).mem = s.mem := rfl
@[simp] theorem State.setDom_lost (s : State) (d : Nat) (x : Domain) : (s.setDom d x).lost = s.lost := rfl
@[simp] theorem State.setDom_hsec (s : State) (d : Nat) (x : Domain) : (s.setDom d x).hsec = s.hsec := rfl
@[simp] theorem State.setDom_back (s : State) (d : Nat) (x : Domain) : (s.setDom d x).back = s.back := rfl
@[simp] theorem State.setDom_hdir (s : State) (d : Nat) (x : Domain) : (s.setDom d x).hdir = s.hdir := rfl
@[simp] theorem State.setDom_pinv (s : State) (d : Nat) (x : Domain) : (s.setDom d x).pinv = s.pinv := rfl
@[simp] theorem State.setDom_retries (s : State) (d : Nat) (x : Domain) : (s.setDom d x).retries = s.retries := rfl
@[simp] theorem State.setDom_ops (s : State) (d : Nat) (x : Domain) : (s.setDom d x).ops = s.ops := rfl
@[simp] theorem State.setDom_tick (s : State) (d : Nat) (x : Domain) : (s.setDom d x).tick = s.tick := rfl
@[simp] theorem State.setDom_maxTick (s : State) (d : Nat) (x : Domain) : (s.setDom d x).maxTick = s.maxTick := rfl
@[simp] theorem State.setDom_log (s : State) (d : Nat) (x : Domain) : (s.setDom d x).log = s.log := rfl
@[simp] theorem State.setDom_svc (s : State) (d : Nat) (x : Domain) : (s.setDom d x).svc = s.svc := rfl
@[simp] theorem State.setDom_replies (s : State) (d : Nat) (x : Domain) : (s.setDom d x).replies = s.replies := rfl
@[simp] theorem State.setDom_poison (s : State) (d : Nat) (x : Domain) : (s.setDom d x).poison = s.poison := rfl
@[simp] theorem State.setDom_agenda (s : State) (d : Nat) (x : Domain) : (s.setDom d x).agenda = s.agenda := rfl
@[simp] theorem State.setDom_focus (s : State) (d : Nat) (x : Domain) : (s.setDom d x).focus = s.focus := rfl
@[simp] theorem State.setDom_nextOp (s : State) (d : Nat) (x : Domain) : (s.setDom d x).nextOp = s.nextOp := rfl
@[simp] theorem State.setDom_nextBid (s : State) (d : Nat) (x : Domain) : (s.setDom d x).nextBid = s.nextBid := rfl
@[simp] theorem State.setDom_fresh (s : State) (d : Nat) (x : Domain) : (s.setDom d x).fresh = s.fresh := rfl
@[simp] theorem State.setDom_core (s : State) (d : Nat) (x : Domain) (k l : Nat) : (s.setDom d x).core k l = s.core k l := rfl
@[simp] theorem State.setDom_block (s : State) (d : Nat) (x : Domain) (k : Nat) : (s.setDom d x).block k = s.block k := rfl

/-! ## State.updDom -/

theorem State.updDom_doms (s : State) (d : Nat) (f : Domain → Domain) : (s.updDom d f).doms = mset Domain.reset s.doms d (f (s.dom d)) := rfl
@[simp] theorem State.updDom_cores (s : State) (d : Nat) (f : Domain → Domain) : (s.updDom d f).cores = s.cores := rfl
@[simp] theorem State.updDom_blocks (s : State) (d : Nat) (f : Domain → Domain) : (s.updDom d f).blocks = s.blocks := rfl
@[simp] theorem State.updDom_mem (s : State) (d : Nat) (f : Domain → Domain) : (s.updDom d f).mem = s.mem := rfl
@[simp] theorem State.updDom_lost (s : State) (d : Nat) (f : Domain → Domain) : (s.updDom d f).lost = s.lost := rfl
@[simp] theorem State.updDom_hsec (s : State) (d : Nat) (f : Domain → Domain) : (s.updDom d f).hsec = s.hsec := rfl
@[simp] theorem State.updDom_back (s : State) (d : Nat) (f : Domain → Domain) : (s.updDom d f).back = s.back := rfl
@[simp] theorem State.updDom_hdir (s : State) (d : Nat) (f : Domain → Domain) : (s.updDom d f).hdir = s.hdir := rfl
@[simp] theorem State.updDom_pinv (s : State) (d : Nat) (f : Domain → Domain) : (s.updDom d f).pinv = s.pinv := rfl
@[simp] theorem State.updDom_retries (s : State) (d : Nat) (f : Domain → Domain) : (s.updDom d f).retries = s.retries := rfl
@[simp] theorem State.updDom_ops (s : State) (d : Nat) (f : Domain → Domain) : (s.updDom d f).ops = s.ops := rfl
@[simp] theorem State.updDom_tick (s : State) (d : Nat) (f : Domain → Domain) : (s.updDom d f).tick = s.tick := rfl
@[simp] theorem State.updDom_maxTick (s : State) (d : Nat) (f : Domain → Domain) : (s.updDom d f).maxTick = s.maxTick := rfl
@[simp] theorem State.updDom_log (s : State) (d : Nat) (f : Domain → Domain) : (s.updDom d f).log = s.log := rfl
@[simp] theorem State.updDom_svc (s : State) (d : Nat) (f : Domain → Domain) : (s.updDom d f).svc = s.svc := rfl
@[simp] theorem State.updDom_replies (s : State) (d : Nat) (f : Domain → Domain) : (s.updDom d f).replies = s.replies := rfl
@[simp] theorem State.updDom_poison (s : State) (d : Nat) (f : Domain → Domain) : (s.updDom d f).poison = s.poison := rfl
@[simp] theorem State.updDom_agenda (s : State) (d : Nat) (f : Domain → Domain) : (s.updDom d f).agenda = s.agenda := rfl
@[simp] theorem State.updDom_focus (s : State) (d : Nat) (f : Domain → Domain) : (s.updDom d f).focus = s.focus := rfl
@[simp] theorem State.updDom_nextOp (s : State) (d : Nat) (f : Domain → Domain) : (s.updDom d f).nextOp = s.nextOp := rfl
@[simp] theorem State.updDom_nextBid (s : State) (d : Nat) (f : Domain → Domain) : (s.updDom d f).nextBid = s.nextBid := rfl
@[simp] theorem State.updDom_fresh (s : State) (d : Nat) (f : Domain → Domain) : (s.updDom d f).fresh = s.fresh := rfl
@[simp] theorem State.updDom_core (s : State) (d : Nat) (f : Domain → Domain) (k l : Nat) : (s.updDom d f).core k l = s.core k l := rfl
@[simp] theorem State.updDom_block (s : State) (d : Nat) (f : Domain → Domain) (k : Nat) : (s.updDom d f).block k = s.block k := rfl

/-! ## State.setCore -/

@[simp] theorem State.setCore_doms (s : State) (d a : Nat) (x : Core) : (s.setCore d a x).doms = s.doms := rfl
theorem State.setCore_cores (s : State) (d a : Nat) (x : Core) : (s.setCore d a x).cores = mset Core.reset s.cores (coreKey d a) x := rfl
@[simp] theorem State.setCore_blocks (s : State) (d a : Nat) (x : Core) : (s.setCore d a x).blocks = s.blocks := rfl
@[simp] theorem State.setCore_mem (s : State) (d a : Nat) (x : Core) : (s.setCore d a x).mem = s.mem := rfl
@[simp] theorem State.setCore_lost (s : State) (d a : Nat) (x : Core) : (s.setCore d a x).lost = s.lost := rfl
@[simp] theorem State.setCore_hsec (s : State) (d a : Nat) (x : Core) : (s.setCore d a x).hsec = s.hsec := rfl
@[simp] theorem State.setCore_back (s : State) (d a : Nat) (x : Core) : (s.setCore d a x).back = s.back := rfl
@[simp] theorem State.setCore_hdir (s : State) (d a : Nat) (x : Core) : (s.setCore d a x).hdir = s.hdir := rfl
@[simp] theorem State.setCore_pinv (s : State) (d a : Nat) (x : Core) : (s.setCore d a x).pinv = s.pinv := rfl
@[simp] theorem State.setCore_retries (s : State) (d a : Nat) (x : Core) : (s.setCore d a x).retries = s.retries := rfl
@[simp] theorem State.setCore_ops (s : State) (d a : Nat) (x : Core) : (s.setCore d a x).ops = s.ops := rfl
@[simp] theorem State.setCore_tick (s : State) (d a : Nat) (x : Core) : (s.setCore d a x).tick = s.tick := rfl
@[simp] theorem State.setCore_maxTick (s : State) (d a : Nat) (x : Core) : (s.setCore d a x).maxTick = s.maxTick := rfl
@[simp] theorem State.setCore_log (s : State) (d a : Nat) (x : Core) : (s.setCore d a x).log = s.log := rfl
@[simp] theorem State.setCore_svc (s : State) (d a : Nat) (x : Core) : (s.setCore d a x).svc = s.svc := rfl
@[simp] theorem State.setCore_replies (s : State) (d a : Nat) (x : Core) : (s.setCore d a x).replies = s.replies := rfl
@[simp] theorem State.setCore_poison (s : State) (d a : Nat) (x : Core) : (s.setCore d a x).poison = s.poison := rfl
@[simp] theorem State.setCore_agenda (s : State) (d a : Nat) (x : Core) : (s.setCore d a x).agenda = s.agenda := rfl
@[simp] theorem State.setCore_focus (s : State) (d a : Nat) (x : Core) : (s.setCore d a x).focus = s.focus := rfl
@[simp] theorem State.setCore_nextOp (s : State) (d a : Nat) (x : Core) : (s.setCore d a x).nextOp = s.nextOp := rfl
@[simp] theorem State.setCore_nextBid (s : State) (d a : Nat) (x : Core) : (s.setCore d a x).nextBid = s.nextBid := rfl
@[simp] theorem State.setCore_fresh (s : State) (d a : Nat) (x : Core) : (s.setCore d a x).fresh = s.fresh := rfl
@[simp] theorem State.setCore_dom (s : State) (d a : Nat) (x : Core) (k : Nat) : (s.setCore d a x).dom k = s.dom k := rfl
@[simp] theorem State.setCore_block (s : State) (d a : Nat) (x : Core) (k : Nat) : (s.setCore d a x).block k = s.block k := rfl

/-! ## State.updCore -/

@[simp] theorem State.updCore_doms (s : State) (d a : Nat) (f : Core → Core) : (s.updCore d a f).doms = s.doms := rfl
theorem State.updCore_cores (s : State) (d a : Nat) (f : Core → Core) : (s.updCore d a f).cores = mset Core.reset s.cores (coreKey d a) (f (s.core d a)) := rfl
@[simp] theorem State.updCore_blocks (s : State) (d a : Nat) (f : Core → Core) : (s.updCore d a f).blocks = s.blocks := rfl
@[simp] theorem State.updCore_mem (s : State) (d a : Nat) (f : Core → Core) : (s.updCore d a f).mem = s.mem := rfl
@[simp] theorem State.updCore_lost (s : State) (d a : Nat) (f : Core → Core) : (s.updCore d a f).lost = s.lost := rfl
@[simp] theorem State.updCore_hsec (s : State) (d a : Nat) (f : Core → Core) : (s.updCore d a f).hsec = s.hsec := rfl
@[simp] theorem State.updCore_back (s : State) (d a : Nat) (f : Core → Core) : (s.updCore d a f).back = s.back := rfl
@[simp] theorem State.updCore_hdir (s : State) (d a : Nat) (f : Core → Core) : (s.updCore d a f).hdir = s.hdir := rfl
@[simp] theorem State.updCore_pinv (s : State) (d a : Nat) (f : Core → Core) : (s.updCore d a f).pinv = s.pinv := rfl
@[simp] theorem State.updCore_retries (s : State) (d a : Nat) (f : Core → Core) : (s.updCore d a f).retries = s.retries := rfl
@[simp] theorem State.updCore_ops (s : State) (d a : Nat) (f : Core → Core) : (s.updCore d a f).ops = s.ops := rfl
@[simp] theorem State.updCore_tick (s : State) (d a : Nat) (f : Core → Core) : (s.updCore d a f).tick = s.tick := rfl
@[simp] theorem State.updCore_maxTick (s : State) (d a : Nat) (f : Core → Core) : (s.updCore d a f).maxTick = s.maxTick := rfl
@[simp] theorem State.updCore_log (s : State) (d a : Nat) (f : Core → Core) : (s.updCore d a f).log = s.log := rfl
@[simp] theorem State.updCore_svc (s : State) (d a : Nat) (f : Core → Core) : (s.updCore d a f).svc = s.svc := rfl
@[simp] theorem State.updCore_replies (s : State) (d a : Nat) (f : Core → Core) : (s.updCore d a f).replies = s.replies := rfl
@[simp] theorem State.updCore_poison (s : State) (d a : Nat) (f : Core → Core) : (s.updCore d a f).poison = s.poison := rfl
@[simp] theorem State.updCore_agenda (s : State) (d a : Nat) (f : Core → Core) : (s.updCore d a f).agenda = s.agenda := rfl
@[simp] theorem State.updCore_focus (s : State) (d a : Nat) (f : Core → Core) : (s.updCore d a f).focus = s.focus := rfl
@[simp] theorem State.updCore_nextOp (s : State) (d a : Nat) (f : Core → Core) : (s.updCore d a f).nextOp = s.nextOp := rfl
@[simp] theorem State.updCore_nextBid (s : State) (d a : Nat) (f : Core → Core) : (s.updCore d a f).nextBid = s.nextBid := rfl
@[simp] theorem State.updCore_fresh (s : State) (d a : Nat) (f : Core → Core) : (s.updCore d a f).fresh = s.fresh := rfl
@[simp] theorem State.updCore_dom (s : State) (d a : Nat) (f : Core → Core) (k : Nat) : (s.updCore d a f).dom k = s.dom k := rfl
@[simp] theorem State.updCore_block (s : State) (d a : Nat) (f : Core → Core) (k : Nat) : (s.updCore d a f).block k = s.block k := rfl

/-! ## State.setBlock -/

@[simp] theorem State.setBlock_doms (s : State) (b : Nat) (x : Block) : (s.setBlock b x).doms = s.doms := rfl
@[simp] theorem State.setBlock_cores (s : State) (b : Nat) (x : Block) : (s.setBlock b x).cores = s.cores := rfl
theorem State.setBlock_blocks (s : State) (b : Nat) (x : Block) : (s.setBlock b x).blocks = mput s.blocks b x := rfl
@[simp] theorem State.setBlock_mem (s : State) (b : Nat) (x : Block) : (s.setBlock b x).mem = s.mem := rfl
@[simp] theorem State.setBlock_lost (s : State) (b : Nat) (x : Block) : (s.setBlock b x).lost = s.lost := rfl
@[simp] theorem State.setBlock_hsec (s : State) (b : Nat) (x : Block) : (s.setBlock b x).hsec = s.hsec := rfl
@[simp] theorem State.setBlock_back (s : State) (b : Nat) (x : Block) : (s.setBlock b x).back = s.back := rfl
@[simp] theorem State.setBlock_hdir (s : State) (b : Nat) (x : Block) : (s.setBlock b x).hdir = s.hdir := rfl
@[simp] theorem State.setBlock_pinv (s : State) (b : Nat) (x : Block) : (s.setBlock b x).pinv = s.pinv := rfl
@[simp] theorem State.setBlock_retries (s : State) (b : Nat) (x : Block) : (s.setBlock b x).retries = s.retries := rfl
@[simp] theorem State.setBlock_ops (s : State) (b : Nat) (x : Block) : (s.setBlock b x).ops = s.ops := rfl
@[simp] theorem State.setBlock_tick (s : State) (b : Nat) (x : Block) : (s.setBlock b x).tick = s.tick := rfl
@[simp] theorem State.setBlock_maxTick (s : State) (b : Nat) (x : Block) : (s.setBlock b x).maxTick = s.maxTick := rfl
@[simp] theorem State.setBlock_log (s : State) (b : Nat) (x : Block) : (s.setBlock b x).log = s.log := rfl
@[simp] theorem State.setBlock_svc (s : State) (b : Nat) (x : Block) : (s.setBlock b x).svc = s.svc := rfl
@[simp] theorem State.setBlock_replies (s : State) (b : Nat) (x : Block) : (s.setBlock b x).replies = s.replies := rfl
@[simp] theorem State.setBlock_poison (s : State) (b : Nat) (x : Block) : (s.setBlock b x).poison = s.poison := rfl
@[simp] theorem State.setBlock_agenda (s : State) (b : Nat) (x : Block) : (s.setBlock b x).agenda = s.agenda := rfl
@[simp] theorem State.setBlock_focus (s : State) (b : Nat) (x : Block) : (s.setBlock b x).focus = s.focus := rfl
@[simp] theorem State.setBlock_nextOp (s : State) (b : Nat) (x : Block) : (s.setBlock b x).nextOp = s.nextOp := rfl
@[simp] theorem State.setBlock_nextBid (s : State) (b : Nat) (x : Block) : (s.setBlock b x).nextBid = s.nextBid := rfl
@[simp] theorem State.setBlock_fresh (s : State) (b : Nat) (x : Block) : (s.setBlock b x).fresh = s.fresh := rfl
@[simp] theorem State.setBlock_dom (s : State) (b : Nat) (x : Block) (k : Nat) : (s.setBlock b x).dom k = s.dom k := rfl
@[simp] theorem State.setBlock_core (s : State) (b : Nat) (x : Block) (k l : Nat) : (s.setBlock b x).core k l = s.core k l := rfl

/-! ## State.updBlock -/

@[simp] theorem State.updBlock_doms (s : State) (b : Nat) (f : Block → Block) : (s.updBlock b f).doms = s.doms := rfl
@[simp] theorem State.updBlock_cores (s : State) (b : Nat) (f : Block → Block) : (s.updBlock b f).cores = s.cores := rfl
theorem State.updBlock_blocks (s : State) (b : Nat) (f : Block → Block) : (s.updBlock b f).blocks = mupd s.blocks b f := rfl
@[simp] theorem State.updBlock_mem (s : State) (b : Nat) (f : Block → Block) : (s.updBlock b f).mem = s.mem := rfl
@[simp] theorem State.updBlock_lost (s : State) (b : Nat) (f : Block → Block) : (s.updBlock b f).lost = s.lost := rfl
@[simp] theorem State.updBlock_hsec (s : State) (b : Nat) (f : Block → Block) : (s.updBlock b f).hsec = s.hsec := rfl
@[simp] theorem State.updBlock_back (s : State) (b : Nat) (f : Block → Block) : (s.updBlock b f).back = s.back := rfl
@[simp] theorem State.updBlock_hdir (s : State) (b : Nat) (f : Block → Block) : (s.updBlock b f).hdir = s.hdir := rfl
@[simp] theorem State.updBlock_pinv (s : State) (b : Nat) (f : Block → Block) : (s.updBlock b f).pinv = s.pinv := rfl
@[simp] theorem State.updBlock_retries (s : State) (b : Nat) (f : Block → Block) : (s.updBlock b f).retries = s.retries := rfl
@[simp] theorem State.updBlock_ops (s : State) (b : Nat) (f : Block → Block) : (s.updBlock b f).ops = s.ops := rfl
@[simp] theorem State.updBlock_tick (s : State) (b : Nat) (f : Block → Block) : (s.updBlock b f).tick = s.tick := rfl
@[simp] theorem State.updBlock_maxTick (s : State) (b : Nat) (f : Block → Block) : (s.updBlock b f).maxTick = s.maxTick := rfl
@[simp] theorem State.updBlock_log (s : State) (b : Nat) (f : Block → Block) : (s.updBlock b f).log = s.log := rfl
@[simp] theorem State.updBlock_svc (s : State) (b : Nat) (f : Block → Block) : (s.updBlock b f).svc = s.svc := rfl
@[simp] theorem State.updBlock_replies (s : State) (b : Nat) (f : Block → Block) : (s.updBlock b f).replies = s.replies := rfl
@[simp] theorem State.updBlock_poison (s : State) (b : Nat) (f : Block → Block) : (s.updBlock b f).poison = s.poison := rfl
@[simp] theorem State.updBlock_agenda (s : State) (b : Nat) (f : Block → Block) : (s.updBlock b f).agenda = s.agenda := rfl
@[simp] theorem State.updBlock_focus (s : State) (b : Nat) (f : Block → Block) : (s.updBlock b f).focus = s.focus := rfl
@[simp] theorem State.updBlock_nextOp (s : State) (b : Nat) (f : Block → Block) : (s.updBlock b f).nextOp = s.nextOp := rfl
@[simp] theorem State.updBlock_nextBid (s : State) (b : Nat) (f : Block → Block) : (s.updBlock b f).nextBid = s.nextBid := rfl
@[simp] theorem State.updBlock_fresh (s : State) (b : Nat) (f : Block → Block) : (s.updBlock b f).fresh = s.fresh := rfl
@[simp] theorem State.updBlock_dom (s : State) (b : Nat) (f : Block → Block) (k : Nat) : (s.updBlock b f).dom k = s.dom k := rfl
@[simp] theorem State.updBlock_core (s : State) (b : Nat) (f : Block → Block) (k l : Nat) : (s.updBlock b f).core k l = s.core k l := rfl

/-! ## State.updWarp -/

@[simp] theorem State.updWarp_doms (s : State) (b w : Nat) (f : Warp → Warp) : (s.updWarp b w f).doms = s.doms := rfl
@[simp] theorem State.updWarp_cores (s : State) (b w : Nat) (f : Warp → Warp) : (s.updWarp b w f).cores = s.cores := rfl
theorem State.updWarp_blocks (s : State) (b w : Nat) (f : Warp → Warp) : (s.updWarp b w f).blocks = mupd s.blocks b fun x => x.updWarp w f := rfl
@[simp] theorem State.updWarp_mem (s : State) (b w : Nat) (f : Warp → Warp) : (s.updWarp b w f).mem = s.mem := rfl
@[simp] theorem State.updWarp_lost (s : State) (b w : Nat) (f : Warp → Warp) : (s.updWarp b w f).lost = s.lost := rfl
@[simp] theorem State.updWarp_hsec (s : State) (b w : Nat) (f : Warp → Warp) : (s.updWarp b w f).hsec = s.hsec := rfl
@[simp] theorem State.updWarp_back (s : State) (b w : Nat) (f : Warp → Warp) : (s.updWarp b w f).back = s.back := rfl
@[simp] theorem State.updWarp_hdir (s : State) (b w : Nat) (f : Warp → Warp) : (s.updWarp b w f).hdir = s.hdir := rfl
@[simp] theorem State.updWarp_pinv (s : State) (b w : Nat) (f : Warp → Warp) : (s.updWarp b w f).pinv = s.pinv := rfl
@[simp] theorem State.updWarp_retries (s : State) (b w : Nat) (f : Warp → Warp) : (s.updWarp b w f).retries = s.retries := rfl
@[simp] theorem State.updWarp_ops (s : State) (b w : Nat) (f : Warp → Warp) : (s.updWarp b w f).ops = s.ops := rfl
@[simp] theorem State.updWarp_tick (s : State) (b w : Nat) (f : Warp → Warp) : (s.updWarp b w f).tick = s.tick := rfl
@[simp] theorem State.updWarp_maxTick (s : State) (b w : Nat) (f : Warp → Warp) : (s.updWarp b w f).maxTick = s.maxTick := rfl
@[simp] theorem State.updWarp_log (s : State) (b w : Nat) (f : Warp → Warp) : (s.updWarp b w f).log = s.log := rfl
@[simp] theorem State.updWarp_svc (s : State) (b w : Nat) (f : Warp → Warp) : (s.updWarp b w f).svc = s.svc := rfl
@[simp] theorem State.updWarp_replies (s : State) (b w : Nat) (f : Warp → Warp) : (s.updWarp b w f).replies = s.replies := rfl
@[simp] theorem State.updWarp_poison (s : State) (b w : Nat) (f : Warp → Warp) : (s.updWarp b w f).poison = s.poison := rfl
@[simp] theorem State.updWarp_agenda (s : State) (b w : Nat) (f : Warp → Warp) : (s.updWarp b w f).agenda = s.agenda := rfl
@[simp] theorem State.updWarp_focus (s : State) (b w : Nat) (f : Warp → Warp) : (s.updWarp b w f).focus = s.focus := rfl
@[simp] theorem State.updWarp_nextOp (s : State) (b w : Nat) (f : Warp → Warp) : (s.updWarp b w f).nextOp = s.nextOp := rfl
@[simp] theorem State.updWarp_nextBid (s : State) (b w : Nat) (f : Warp → Warp) : (s.updWarp b w f).nextBid = s.nextBid := rfl
@[simp] theorem State.updWarp_fresh (s : State) (b w : Nat) (f : Warp → Warp) : (s.updWarp b w f).fresh = s.fresh := rfl
@[simp] theorem State.updWarp_dom (s : State) (b w : Nat) (f : Warp → Warp) (k : Nat) : (s.updWarp b w f).dom k = s.dom k := rfl
@[simp] theorem State.updWarp_core (s : State) (b w : Nat) (f : Warp → Warp) (k l : Nat) : (s.updWarp b w f).core k l = s.core k l := rfl

/-! ## State.setOp -/

@[simp] theorem State.setOp_doms (s : State) (x : Op) : (s.setOp x).doms = s.doms := rfl
@[simp] theorem State.setOp_cores (s : State) (x : Op) : (s.setOp x).cores = s.cores := rfl
@[simp] theorem State.setOp_blocks (s : State) (x : Op) : (s.setOp x).blocks = s.blocks := rfl
@[simp] theorem State.setOp_mem (s : State) (x : Op) : (s.setOp x).mem = s.mem := rfl
@[simp] theorem State.setOp_lost (s : State) (x : Op) : (s.setOp x).lost = s.lost := rfl
@[simp] theorem State.setOp_hsec (s : State) (x : Op) : (s.setOp x).hsec = s.hsec := rfl
@[simp] theorem State.setOp_back (s : State) (x : Op) : (s.setOp x).back = s.back := rfl
@[simp] theorem State.setOp_hdir (s : State) (x : Op) : (s.setOp x).hdir = s.hdir := rfl
@[simp] theorem State.setOp_pinv (s : State) (x : Op) : (s.setOp x).pinv = s.pinv := rfl
@[simp] theorem State.setOp_retries (s : State) (x : Op) : (s.setOp x).retries = s.retries := rfl
theorem State.setOp_ops (s : State) (x : Op) : (s.setOp x).ops = s.ops.map fun y => if y.id = x.id then x else y := rfl
@[simp] theorem State.setOp_tick (s : State) (x : Op) : (s.setOp x).tick = s.tick := rfl
@[simp] theorem State.setOp_maxTick (s : State) (x : Op) : (s.setOp x).maxTick = s.maxTick := rfl
@[simp] theorem State.setOp_log (s : State) (x : Op) : (s.setOp x).log = s.log := rfl
@[simp] theorem State.setOp_svc (s : State) (x : Op) : (s.setOp x).svc = s.svc := rfl
@[simp] theorem State.setOp_replies (s : State) (x : Op) : (s.setOp x).replies = s.replies := rfl
@[simp] theorem State.setOp_poison (s : State) (x : Op) : (s.setOp x).poison = s.poison := rfl
@[simp] theorem State.setOp_agenda (s : State) (x : Op) : (s.setOp x).agenda = s.agenda := rfl
@[simp] theorem State.setOp_focus (s : State) (x : Op) : (s.setOp x).focus = s.focus := rfl
@[simp] theorem State.setOp_nextOp (s : State) (x : Op) : (s.setOp x).nextOp = s.nextOp := rfl
@[simp] theorem State.setOp_nextBid (s : State) (x : Op) : (s.setOp x).nextBid = s.nextBid := rfl
@[simp] theorem State.setOp_fresh (s : State) (x : Op) : (s.setOp x).fresh = s.fresh := rfl
@[simp] theorem State.setOp_dom (s : State) (x : Op) (k : Nat) : (s.setOp x).dom k = s.dom k := rfl
@[simp] theorem State.setOp_core (s : State) (x : Op) (k l : Nat) : (s.setOp x).core k l = s.core k l := rfl
@[simp] theorem State.setOp_block (s : State) (x : Op) (k : Nat) : (s.setOp x).block k = s.block k := rfl

/-! ## State.dropOp -/

@[simp] theorem State.dropOp_doms (s : State) (o : Nat) : (s.dropOp o).doms = s.doms := rfl
@[simp] theorem State.dropOp_cores (s : State) (o : Nat) : (s.dropOp o).cores = s.cores := rfl
@[simp] theorem State.dropOp_blocks (s : State) (o : Nat) : (s.dropOp o).blocks = s.blocks := rfl
@[simp] theorem State.dropOp_mem (s : State) (o : Nat) : (s.dropOp o).mem = s.mem := rfl
@[simp] theorem State.dropOp_lost (s : State) (o : Nat) : (s.dropOp o).lost = s.lost := rfl
@[simp] theorem State.dropOp_hsec (s : State) (o : Nat) : (s.dropOp o).hsec = s.hsec := rfl
@[simp] theorem State.dropOp_back (s : State) (o : Nat) : (s.dropOp o).back = s.back := rfl
@[simp] theorem State.dropOp_hdir (s : State) (o : Nat) : (s.dropOp o).hdir = s.hdir := rfl
@[simp] theorem State.dropOp_pinv (s : State) (o : Nat) : (s.dropOp o).pinv = s.pinv := rfl
theorem State.dropOp_ops (s : State) (o : Nat) : (s.dropOp o).ops = s.ops.filter fun x => x.id != o := rfl
@[simp] theorem State.dropOp_tick (s : State) (o : Nat) : (s.dropOp o).tick = s.tick := rfl
@[simp] theorem State.dropOp_maxTick (s : State) (o : Nat) : (s.dropOp o).maxTick = s.maxTick := rfl
@[simp] theorem State.dropOp_log (s : State) (o : Nat) : (s.dropOp o).log = s.log := rfl
@[simp] theorem State.dropOp_svc (s : State) (o : Nat) : (s.dropOp o).svc = s.svc := rfl
@[simp] theorem State.dropOp_replies (s : State) (o : Nat) : (s.dropOp o).replies = s.replies := rfl
@[simp] theorem State.dropOp_poison (s : State) (o : Nat) : (s.dropOp o).poison = s.poison := rfl
@[simp] theorem State.dropOp_agenda (s : State) (o : Nat) : (s.dropOp o).agenda = s.agenda := rfl
@[simp] theorem State.dropOp_focus (s : State) (o : Nat) : (s.dropOp o).focus = s.focus := rfl
@[simp] theorem State.dropOp_nextOp (s : State) (o : Nat) : (s.dropOp o).nextOp = s.nextOp := rfl
@[simp] theorem State.dropOp_nextBid (s : State) (o : Nat) : (s.dropOp o).nextBid = s.nextBid := rfl
@[simp] theorem State.dropOp_fresh (s : State) (o : Nat) : (s.dropOp o).fresh = s.fresh := rfl
theorem State.dropOp_retries (s : State) (o : Nat) : (s.dropOp o).retries = s.retries.filter (·.q != .op o) := rfl
@[simp] theorem State.dropOp_dom (s : State) (o : Nat) (k : Nat) : (s.dropOp o).dom k = s.dom k := rfl
@[simp] theorem State.dropOp_core (s : State) (o : Nat) (k l : Nat) : (s.dropOp o).core k l = s.core k l := rfl
@[simp] theorem State.dropOp_block (s : State) (o : Nat) (k : Nat) : (s.dropOp o).block k = s.block k := rfl

/-! ## State.logData -/

@[simp] theorem State.logData_doms (s : State) (c d a : Nat) (x : BitVec 64) : (s.logData c d a x).doms = s.doms := rfl
@[simp] theorem State.logData_cores (s : State) (c d a : Nat) (x : BitVec 64) : (s.logData c d a x).cores = s.cores := rfl
@[simp] theorem State.logData_blocks (s : State) (c d a : Nat) (x : BitVec 64) : (s.logData c d a x).blocks = s.blocks := rfl
@[simp] theorem State.logData_mem (s : State) (c d a : Nat) (x : BitVec 64) : (s.logData c d a x).mem = s.mem := rfl
@[simp] theorem State.logData_lost (s : State) (c d a : Nat) (x : BitVec 64) : (s.logData c d a x).lost = s.lost := rfl
@[simp] theorem State.logData_hsec (s : State) (c d a : Nat) (x : BitVec 64) : (s.logData c d a x).hsec = s.hsec := rfl
@[simp] theorem State.logData_back (s : State) (c d a : Nat) (x : BitVec 64) : (s.logData c d a x).back = s.back := rfl
@[simp] theorem State.logData_hdir (s : State) (c d a : Nat) (x : BitVec 64) : (s.logData c d a x).hdir = s.hdir := rfl
@[simp] theorem State.logData_pinv (s : State) (c d a : Nat) (x : BitVec 64) : (s.logData c d a x).pinv = s.pinv := rfl
@[simp] theorem State.logData_retries (s : State) (c d a : Nat) (x : BitVec 64) : (s.logData c d a x).retries = s.retries := rfl
@[simp] theorem State.logData_ops (s : State) (c d a : Nat) (x : BitVec 64) : (s.logData c d a x).ops = s.ops := rfl
@[simp] theorem State.logData_tick (s : State) (c d a : Nat) (x : BitVec 64) : (s.logData c d a x).tick = s.tick := rfl
@[simp] theorem State.logData_maxTick (s : State) (c d a : Nat) (x : BitVec 64) : (s.logData c d a x).maxTick = s.maxTick := rfl
@[simp] theorem State.logData_svc (s : State) (c d a : Nat) (x : BitVec 64) : (s.logData c d a x).svc = s.svc := rfl
@[simp] theorem State.logData_replies (s : State) (c d a : Nat) (x : BitVec 64) : (s.logData c d a x).replies = s.replies := rfl
@[simp] theorem State.logData_poison (s : State) (c d a : Nat) (x : BitVec 64) : (s.logData c d a x).poison = s.poison := rfl
@[simp] theorem State.logData_agenda (s : State) (c d a : Nat) (x : BitVec 64) : (s.logData c d a x).agenda = s.agenda := rfl
@[simp] theorem State.logData_focus (s : State) (c d a : Nat) (x : BitVec 64) : (s.logData c d a x).focus = s.focus := rfl
@[simp] theorem State.logData_nextOp (s : State) (c d a : Nat) (x : BitVec 64) : (s.logData c d a x).nextOp = s.nextOp := rfl
@[simp] theorem State.logData_nextBid (s : State) (c d a : Nat) (x : BitVec 64) : (s.logData c d a x).nextBid = s.nextBid := rfl
@[simp] theorem State.logData_fresh (s : State) (c d a : Nat) (x : BitVec 64) : (s.logData c d a x).fresh = s.fresh := rfl
@[simp] theorem State.logData_dom (s : State) (c d a : Nat) (x : BitVec 64) (k : Nat) : (s.logData c d a x).dom k = s.dom k := rfl
@[simp] theorem State.logData_core (s : State) (c d a : Nat) (x : BitVec 64) (k l : Nat) : (s.logData c d a x).core k l = s.core k l := rfl
@[simp] theorem State.logData_block (s : State) (c d a : Nat) (x : BitVec 64) (k : Nat) : (s.logData c d a x).block k = s.block k := rfl

/-! ## State.logEvent -/

@[simp] theorem State.logEvent_doms (s : State) (c d a : Nat) : (s.logEvent c d a).doms = s.doms := rfl
@[simp] theorem State.logEvent_cores (s : State) (c d a : Nat) : (s.logEvent c d a).cores = s.cores := rfl
@[simp] theorem State.logEvent_blocks (s : State) (c d a : Nat) : (s.logEvent c d a).blocks = s.blocks := rfl
@[simp] theorem State.logEvent_mem (s : State) (c d a : Nat) : (s.logEvent c d a).mem = s.mem := rfl
@[simp] theorem State.logEvent_lost (s : State) (c d a : Nat) : (s.logEvent c d a).lost = s.lost := rfl
@[simp] theorem State.logEvent_hsec (s : State) (c d a : Nat) : (s.logEvent c d a).hsec = s.hsec := rfl
@[simp] theorem State.logEvent_back (s : State) (c d a : Nat) : (s.logEvent c d a).back = s.back := rfl
@[simp] theorem State.logEvent_hdir (s : State) (c d a : Nat) : (s.logEvent c d a).hdir = s.hdir := rfl
@[simp] theorem State.logEvent_pinv (s : State) (c d a : Nat) : (s.logEvent c d a).pinv = s.pinv := rfl
@[simp] theorem State.logEvent_retries (s : State) (c d a : Nat) : (s.logEvent c d a).retries = s.retries := rfl
@[simp] theorem State.logEvent_ops (s : State) (c d a : Nat) : (s.logEvent c d a).ops = s.ops := rfl
@[simp] theorem State.logEvent_tick (s : State) (c d a : Nat) : (s.logEvent c d a).tick = s.tick := rfl
@[simp] theorem State.logEvent_maxTick (s : State) (c d a : Nat) : (s.logEvent c d a).maxTick = s.maxTick := rfl
@[simp] theorem State.logEvent_svc (s : State) (c d a : Nat) : (s.logEvent c d a).svc = s.svc := rfl
@[simp] theorem State.logEvent_replies (s : State) (c d a : Nat) : (s.logEvent c d a).replies = s.replies := rfl
@[simp] theorem State.logEvent_poison (s : State) (c d a : Nat) : (s.logEvent c d a).poison = s.poison := rfl
@[simp] theorem State.logEvent_agenda (s : State) (c d a : Nat) : (s.logEvent c d a).agenda = s.agenda := rfl
@[simp] theorem State.logEvent_focus (s : State) (c d a : Nat) : (s.logEvent c d a).focus = s.focus := rfl
@[simp] theorem State.logEvent_nextOp (s : State) (c d a : Nat) : (s.logEvent c d a).nextOp = s.nextOp := rfl
@[simp] theorem State.logEvent_nextBid (s : State) (c d a : Nat) : (s.logEvent c d a).nextBid = s.nextBid := rfl
@[simp] theorem State.logEvent_dom (s : State) (c d a : Nat) (k : Nat) : (s.logEvent c d a).dom k = s.dom k := rfl
@[simp] theorem State.logEvent_core (s : State) (c d a : Nat) (k l : Nat) : (s.logEvent c d a).core k l = s.core k l := rfl
@[simp] theorem State.logEvent_block (s : State) (c d a : Nat) (k : Nat) : (s.logEvent c d a).block k = s.block k := rfl

/-! ## Accessors after their own update -/

theorem State.dom_setDom (s : State) (d k : Nat) (x : Domain) : (s.setDom d x).dom k = if k = d then x else s.dom k := by
  unfold State.dom; rw [State.setDom_doms, mget_mset]
theorem State.dom_updDom (s : State) (d k : Nat) (f : Domain → Domain) : (s.updDom d f).dom k = if k = d then f (s.dom d) else s.dom k :=
  State.dom_setDom s d k _
@[simp] theorem State.dom_updDom_same (s : State) (d : Nat) (f : Domain → Domain) : (s.updDom d f).dom d = f (s.dom d) := by
  rw [State.dom_updDom, if_pos rfl]
theorem State.core_setCore (s : State) (d a k l : Nat) (x : Core) :
    (s.setCore d a x).core k l = if coreKey k l = coreKey d a then x else s.core k l := by
  unfold State.core; rw [State.setCore_cores, mget_mset]
@[simp] theorem State.core_updCore_same (s : State) (d a : Nat) (f : Core → Core) : (s.updCore d a f).core d a = f (s.core d a) := by
  unfold State.updCore; rw [State.core_setCore, if_pos rfl]
theorem State.block_setBlock (s : State) (b k : Nat) (x : Block) : (s.setBlock b x).block k = if k = b then x else s.block k := by
  unfold State.block; rw [State.setBlock_blocks, mfind_mput]; split <;> rfl
theorem State.block_updBlock_ne (s : State) {b k : Nat} (f : Block → Block) (h : k ≠ b) : (s.updBlock b f).block k = s.block k := by
  unfold State.block; rw [State.updBlock_blocks, mfind_mupd, if_neg h]
theorem State.block_of_mfind {s : State} {b : Nat} {x : Block} (h : mfind s.blocks b = some x) : s.block b = x := by
  unfold State.block; rw [h]; rfl
theorem State.mfind_updBlock (s : State) (b : Nat) (f : Block → Block) : mfind (s.updBlock b f).blocks b = (mfind s.blocks b).map f := by
  rw [State.updBlock_blocks, mfind_mupd, if_pos rfl]
theorem State.block_updBlock {s : State} {b : Nat} {x : Block} (f : Block → Block) (h : mfind s.blocks b = some x) : (s.updBlock b f).block b = f x := by
  unfold State.block; rw [State.mfind_updBlock, h]; rfl

/-! ## Blocks, warps, lanes -/

@[simp] theorem Block.updWarp_length (b : Block) (w : Nat) (f : Warp → Warp) : (b.updWarp w f).warps.length = b.warps.length := by
  simp [Block.updWarp]
theorem Block.warp_updWarp {b : Block} {w : Nat} (f : Warp → Warp) (h : w < b.warps.length) : (b.updWarp w f).warp w = f (b.warp w) := by
  simp [Block.warp, Block.updWarp, h]
theorem Block.warp_updWarp_ne (b : Block) {w u : Nat} (f : Warp → Warp) (h : u ≠ w) : (b.updWarp w f).warp u = b.warp u := by
  simp [Block.warp, Block.updWarp, List.getD_eq_getElem?_getD, Ne.symm h]
@[simp] theorem Warp.sreg_setS_same (wp : Warp) (i : Nat) (x : Word) : (wp.setS i x).sreg i = x := by simp [Warp.sreg, Warp.setS]
theorem Warp.sreg_setS_ne (wp : Warp) {i j : Nat} (x : Word) (h : j ≠ i) : (wp.setS i x).sreg j = wp.sreg j := by
  simp [Warp.sreg, Warp.setS, mget_mset_ne _ _ _ h]
@[simp] theorem Warp.breg_setB_same (wp : Warp) (i : Nat) (x : Ptr) : (wp.setB i x).breg i = x := by simp [Warp.breg, Warp.setB]
theorem Warp.breg_setB_ne (wp : Warp) {i j : Nat} (x : Ptr) (h : j ≠ i) : (wp.setB i x).breg j = wp.breg j := by
  simp [Warp.breg, Warp.setB, mget_mset_ne _ _ _ h]
@[simp] theorem Warp.lane_updLanes (wp : Warp) (m : Mask) (f : Nat → Lane → Lane) (L : Nat) (h : L < wp.lanes.length) :
    (wp.updLanes m f).lane L = if m.getLsbD L then f L (wp.lane L) else wp.lane L := by
  simp [Warp.lane, Warp.updLanes, List.getD_eq_getElem?_getD, h]

end Sys2Proof.Machine
end

