-- ==== Sys2Proof/Laws/Engine.lean ====
section
/-! SUPPORT. The issue path of the words whose outcome is decided at issue: task, publish, sequencer and service words. -/

namespace Sys2Proof.Machine

theorem issueAsy_ready {i : Instr} {f : AsyW} {s : State} {act : Env → Act} {e : Env}
    (h : readyWord i f.g f.lit [] (fun _ => true) s = some e) : issueAsy i f s act = e.finish (Instr.words i) (act e) := issueWord_ready h
theorem issueSys_ready {i : Instr} {f : SysW} {s : State} {act : Env → Act} {e : Env}
    (h : readyWord i f.g f.lit [] (fun _ => true) s = some e) (hs : e.slotFree f.d = true) :
    issueSys i f s act = e.finish (Instr.words i) (act e) := by
  unfold issueSys; rw [issueWord_ready h, Env.slotted_free hs]
theorem finish_done {e : Env} {i : Instr} {t : State} : e.finish (Instr.words i) (.done t) = e.retires i t := rfl
/-- A word that releases goes on, where nothing waits, from the state after the release. -/
theorem release_free {e : Env} {s t : State} {scp : Nat} {k : State → Act} (h : e.released s scp = some t) : e.release s scp k = k t := by
  unfold Env.released at h
  unfold Env.release
  split at h
  · cases h
  · rename_i h1
    simp only [Bool.or_eq_true, not_or, Bool.not_eq_true] at h1
    simp only [h1.1, h1.2, Bool.not_false, Bool.and_false, Bool.false_eq_true, if_false]
    split at h
    · rename_i h2; cases h; rw [if_pos h2]
    · rename_i h2
      rw [if_neg h2]
      split at h
      · cases h
      · rename_i h3
        rw [Option.not_isSome_iff_eq_none.1 h3]
        split at h
        · rename_i u hu
          simp only [hu]
          split at h
          · cases h
          · rename_i h4; cases h; rw [if_neg h4]
        · cases h
/-- A record that passes its checks is handed on (R320). -/
theorem readRecord_at {e : Env} {ba : Nat} {always : Bool} {ws : List Word} {t : State} {k : List Word → State → Act}
    (h : e.recordAt ba always = some (ws, t)) : e.readRecord ba always k = k ws t := by
  unfold Env.recordAt at h
  split at h
  · rename_i pa ty s hs
    split at h
    · rename_i u hu
      split at h
      · rename_i bs pins v hv
        simp only [Option.ite_none_right_eq_some, Option.some.injEq, Prod.mk.injEq, Bool.and_eq_true, decide_eq_true_eq] at h
        obtain ⟨⟨⟨h1, h2⟩, h4⟩, rfl, rfl⟩ := h
        unfold Env.readRecord
        simp only [h1, hs]
        rw [if_neg (by decide)]
        split
        · rename_i x1 x2 x3 hx; rw [hx] at h2; cases h2
        · rw [release_free hu, hv]
          simp only [Bool.and_eq_true]
          generalize hr : State.recCode (v.keepCopy e.loc.d ty (.glob pa)) e.loc.d
            (if e.blk.isHandler = true ∧ (!always) = true then none else some e.blk.asid) false (recWords bs) (.core e.loc.d e.loc.a) = r at h4 ⊢
          obtain ⟨c, u⟩ := r
          cases h4
          rfl
      · cases h
    · cases h
  · cases h
theorem oldEntry_unarmed {e : Env} {s : State} (h : e.unarmed s) : e.oldEntry = none := by unfold Env.oldEntry Umbra.oldEntry; simp [h.1]
/-- A uniform operation of a core without an armed epoch acts once and needs no entry. -/
theorem uniformOp_unarmed {e : Env} {s : State} {d : BitVec 3} {tgt : Word} {dom res : Nat} {go : State → Word × State} (hq : e.sq = false)
    (h : e.unarmed s) : e.uniformOp s d tgt dom res go = .done (e.once s d res go) := by
  unfold Env.uniformOp; rw [journal_unarmed hq h]; rfl
/-- A transit is reached when the count is at most 2^31 − 1 ticks past it (R230). -/
theorem reached_iff (now : Tick) (t : Word) : reached now t = true ↔ (now.setWidth 32 - t).toNat < 2 ^ 31 := by
  unfold reached
  generalize now.setWidth 32 - t = x
  rw [decide_eq_true_iff]
  constructor <;> intro h <;> (rw [BitVec.toInt_eq_toNat_cond] at *; split at * <;> omega)

end Sys2Proof.Machine
end

