-- ==== Sys2Proof/Laws/Mem.lean ====
section
/-! SUPPORT. Laws of home memory: what each operation that writes it writes, that it leaves every other byte alone, and that it keeps the
canonical form. -/

namespace Sys2Proof.Machine

/-! ## Runs of bytes -/

theorem memPut_wf {u : Nat → Byte} {m : List Host.Cell} (pa : Nat) (bs : List Byte) (h : mwfBy u m = true) : mwfBy u (memPut u m pa bs) = true := by
  induction bs generalizing m pa with
  | nil => exact h
  | cons x xs ih => exact ih _ (mwfBy_mset pa x h)
/-- A read of a map whose unlisted keys read as `u` says, after a write. -/
theorem mget_mset_by {α : Type} [DecidableEq α] (u : Nat → α) (m : AMap α) (i j : Nat) (x : α) :
    mget (u i) (mset (u j) m j x) i = if i = j then x else mget (u i) m i := by
  by_cases h : i = j
  · subst h; simp
  · rw [if_neg h]; unfold mset mget
    split
    · rw [mfind_mdel_ne m h]
    · rw [mfind_mput_ne m x h]
/-- A read after a write gives the byte written; every other byte reads as before. -/
theorem mget_memPut (u : Nat → Byte) (m : List Host.Cell) (pa a : Nat) (bs : List Byte) :
    mget (u a) (memPut u m pa bs) a = if pa ≤ a ∧ a < pa + bs.length then bs.getD (a - pa) 0#8 else mget (u a) m a := by
  induction bs generalizing m pa with
  | nil => rw [if_neg (by simp only [List.length_nil]; omega)]; rfl
  | cons x xs ih =>
    unfold memPut
    rw [ih]
    by_cases h : pa + 1 ≤ a ∧ a < pa + 1 + xs.length
    · rw [if_pos h, if_pos (by simp only [List.length_cons]; omega)]
      obtain ⟨k, rfl⟩ : ∃ k, a = pa + 1 + k := ⟨a - (pa + 1), by omega⟩
      rw [show pa + 1 + k - (pa + 1) = k by omega, show pa + 1 + k - pa = k + 1 by omega]; rfl
    · rw [if_neg h, mget_mset_by]
      by_cases ha : a = pa
      · subst ha; rw [if_pos rfl, if_pos (by simp only [List.length_cons]; omega)]; simp
      · rw [if_neg ha, if_neg (by simp only [List.length_cons]; omega)]

theorem State.memPut_mem (s : State) (pa : Nat) (bs : List Byte) : (s.memPut pa bs).mem = Machine.memPut (unlisted s.lost) s.mem pa bs := rfl
@[simp] theorem State.memPut_lost (s : State) (pa : Nat) (bs : List Byte) : (s.memPut pa bs).lost = s.lost := rfl
@[simp] theorem State.memPut_doms (s : State) (pa : Nat) (bs : List Byte) : (s.memPut pa bs).doms = s.doms := rfl
@[simp] theorem State.memPut_cores (s : State) (pa : Nat) (bs : List Byte) : (s.memPut pa bs).cores = s.cores := rfl
@[simp] theorem State.memPut_blocks (s : State) (pa : Nat) (bs : List Byte) : (s.memPut pa bs).blocks = s.blocks := rfl
/-- A byte of memory after a write of bytes from `pa` on. -/
theorem State.byte_memPut (s : State) (pa a : Nat) (bs : List Byte) :
    (s.memPut pa bs).byte a = if pa ≤ a ∧ a < pa + bs.length then bs.getD (a - pa) 0#8 else s.byte a := mget_memPut _ s.mem pa a bs
theorem State.byte_memPut_in (s : State) (pa k : Nat) (bs : List Byte) (h : k < bs.length) : (s.memPut pa bs).byte (pa + k) = bs.getD k 0#8 := by
  rw [State.byte_memPut, if_pos (by omega)]; congr 1; omega
theorem State.byte_memPut_out (s : State) (pa a : Nat) (bs : List Byte) (h : a < pa ∨ pa + bs.length ≤ a) : (s.memPut pa bs).byte a = s.byte a := by
  rw [State.byte_memPut, if_neg (by omega)]
theorem State.memPut_memOk {s : State} (pa : Nat) (bs : List Byte) (h : s.memOk) : (s.memPut pa bs).memOk := memPut_wf pa bs h
/-- States whose stored bytes and lost domains agree read the same byte everywhere. -/
theorem State.byte_congr {s t : State} (hm : s.mem = t.mem) (hl : s.lost = t.lost) (a : Nat) : s.byte a = t.byte a := by
  unfold State.byte; rw [hm, hl]
theorem State.memOk_congr {s t : State} (hm : s.mem = t.mem) (hl : s.lost = t.lost) (h : t.memOk) : s.memOk := by
  unfold State.memOk; rw [hm, hl]; exact h

/-! ## Operations that leave home memory alone -/

/-- What every operation of a list keeps, the run of the whole list keeps. -/
theorem foldl_keeps {β γ : Type} (p : State → γ) (f : State → β → State) (h : ∀ s x, p (f s x) = p s) (l : List β) (s : State) :
    p (l.foldl f s) = p s := by
  induction l generalizing s with
  | nil => rfl
  | cons x l ih => rw [List.foldl_cons, ih, h]

@[simp] theorem State.touch_mem (s : State) (sec : Nat) : (s.touch sec).mem = s.mem := by
  unfold State.touch; split <;> rfl
@[simp] theorem State.touch_lost (s : State) (sec : Nat) : (s.touch sec).lost = s.lost := by
  unfold State.touch; split <;> rfl
@[simp] theorem State.touch_doms (s : State) (sec : Nat) : (s.touch sec).doms = s.doms := by
  unfold State.touch; split <;> rfl
@[simp] theorem State.touch_cores (s : State) (sec : Nat) : (s.touch sec).cores = s.cores := by
  unfold State.touch; split <;> rfl
@[simp] theorem State.invalidate_mem (s : State) (sec d : Nat) (t : Bool) (o : Option Nat) : (s.invalidate sec d t o).mem = s.mem := by
  unfold State.invalidate; split <;> rfl
@[simp] theorem State.invalidate_lost (s : State) (sec d : Nat) (t : Bool) (o : Option Nat) : (s.invalidate sec d t o).lost = s.lost := by
  unfold State.invalidate; split <;> rfl
@[simp] theorem State.invalidate_doms (s : State) (sec d : Nat) (t : Bool) (o : Option Nat) : (s.invalidate sec d t o).doms = s.doms := by
  unfold State.invalidate; split <;> rfl
@[simp] theorem State.invalidate_cores (s : State) (sec d : Nat) (t : Bool) (o : Option Nat) : (s.invalidate sec d t o).cores = s.cores := by
  unfold State.invalidate; split <;> rfl
@[simp] theorem State.homeUpdated_mem (s : State) (sec : Nat) (old : List Byte) (sys : Bool) : (s.homeUpdated sec old sys).mem = s.mem := by
  unfold State.homeUpdated; dsimp only; split <;> rfl
@[simp] theorem State.homeUpdated_lost (s : State) (sec : Nat) (old : List Byte) (sys : Bool) : (s.homeUpdated sec old sys).lost = s.lost := by
  unfold State.homeUpdated; dsimp only; split <;> rfl
@[simp] theorem State.homeUpdated_doms (s : State) (sec : Nat) (old : List Byte) (sys : Bool) : (s.homeUpdated sec old sys).doms = s.doms := by
  unfold State.homeUpdated; dsimp only; split <;> rfl
@[simp] theorem State.homeUpdated_cores (s : State) (sec : Nat) (old : List Byte) (sys : Bool) : (s.homeUpdated sec old sys).cores = s.cores := by
  unfold State.homeUpdated; dsimp only; split <;> rfl
@[simp] theorem State.onL1s_mem (s : State) (d : Nat) (f : Nat → Core → Core) : (s.onL1s d f).mem = s.mem := by
  unfold State.onL1s; exact foldl_keeps State.mem (fun s a => s.updCore d a (f a)) (fun _ _ => rfl) _ s
@[simp] theorem State.onL1s_lost (s : State) (d : Nat) (f : Nat → Core → Core) : (s.onL1s d f).lost = s.lost := by
  unfold State.onL1s; exact foldl_keeps State.lost (fun s a => s.updCore d a (f a)) (fun _ _ => rfl) _ s
@[simp] theorem State.onL1s_doms (s : State) (d : Nat) (f : Nat → Core → Core) : (s.onL1s d f).doms = s.doms := by
  unfold State.onL1s; exact foldl_keeps State.doms (fun s a => s.updCore d a (f a)) (fun _ _ => rfl) _ s
@[simp] theorem State.l1Forget_mem (s : State) (d : Nat) (k : Option Nat) (sec : Nat) : (s.l1Forget d k sec).mem = s.mem := by
  unfold State.l1Forget; simp
@[simp] theorem State.l1Forget_lost (s : State) (d : Nat) (k : Option Nat) (sec : Nat) : (s.l1Forget d k sec).lost = s.lost := by
  unfold State.l1Forget; simp
@[simp] theorem State.l1Forget_doms (s : State) (d : Nat) (k : Option Nat) (sec : Nat) : (s.l1Forget d k sec).doms = s.doms := by
  unfold State.l1Forget; simp
@[simp] theorem State.setL1_mem (s : State) (d sec : Nat) (e : Option L1Sec) : (s.setL1 d sec e).mem = s.mem := by
  rfl
@[simp] theorem State.setL1_lost (s : State) (d sec : Nat) (e : Option L1Sec) : (s.setL1 d sec e).lost = s.lost := by
  rfl
@[simp] theorem State.l1WriteBack_mem (s : State) (d sec : Nat) : (s.l1WriteBack d sec).mem = s.mem := by
  unfold State.l1WriteBack; split <;> simp
@[simp] theorem State.l1WriteBack_lost (s : State) (d sec : Nat) : (s.l1WriteBack d sec).lost = s.lost := by
  unfold State.l1WriteBack; split <;> simp
@[simp] theorem State.l1WriteBack_doms (s : State) (d sec : Nat) : (s.l1WriteBack d sec).doms = s.doms := by
  unfold State.l1WriteBack; split <;> simp
@[simp] theorem State.l1Recall_mem (s : State) (d sec : Nat) : (s.l1Recall d sec).mem = s.mem := by
  unfold State.l1Recall; split
  · split <;> simp
  · rfl
@[simp] theorem State.l1Recall_lost (s : State) (d sec : Nat) : (s.l1Recall d sec).lost = s.lost := by
  unfold State.l1Recall; split
  · split <;> simp
  · rfl
@[simp] theorem State.l1Drop_mem (s : State) (d sec : Nat) : (s.l1Drop d sec).mem = s.mem := by
  unfold State.l1Drop; split
  · split <;> simp
  · rfl
@[simp] theorem State.l1Drop_lost (s : State) (d sec : Nat) : (s.l1Drop d sec).lost = s.lost := by
  unfold State.l1Drop; split
  · split <;> simp
  · rfl
@[simp] theorem State.l1Clean_mem (s : State) (d a sec : Nat) : (s.l1Clean d a sec).mem = s.mem := by
  unfold State.l1Clean; split <;> simp
@[simp] theorem State.l1Clean_lost (s : State) (d a sec : Nat) : (s.l1Clean d a sec).lost = s.lost := by
  unfold State.l1Clean; split <;> simp
@[simp] theorem State.l1Evict_mem (s : State) (d a : Nat) (l : L1Line) : (s.l1Evict d a l).mem = s.mem := by
  unfold State.l1Evict
  simp only [State.updCore_mem]
  exact foldl_keeps State.mem _ (fun s x => by split <;> simp) _ s
@[simp] theorem State.l1Evict_lost (s : State) (d a : Nat) (l : L1Line) : (s.l1Evict d a l).lost = s.lost := by
  unfold State.l1Evict
  simp only [State.updCore_lost]
  exact foldl_keeps State.lost _ (fun s x => by split <;> simp) _ s
@[simp] theorem State.l1Fill_mem (s : State) (d a sec : Nat) : (s.l1Fill d a sec).mem = s.mem := by
  unfold State.l1Fill; dsimp only; split
  · simp
  · split
    · simp
    · split <;> simp
@[simp] theorem State.l1Fill_lost (s : State) (d a sec : Nat) : (s.l1Fill d a sec).lost = s.lost := by
  unfold State.l1Fill; dsimp only; split
  · simp
  · split
    · simp
    · split <;> simp
@[simp] theorem State.l1Read_mem (s : State) (d a sec : Nat) : (s.l1Read d a sec).mem = s.mem := by
  unfold State.l1Read; simp
@[simp] theorem State.l1Read_lost (s : State) (d a sec : Nat) : (s.l1Read d a sec).lost = s.lost := by
  unfold State.l1Read; simp
@[simp] theorem State.l1Write_mem (s : State) (d a k sec : Nat) : (s.l1Write d a k sec).mem = s.mem := by
  have clean : ∀ (l : List Nat) (s : State), (l.foldl (fun (s : State) q => s.l1Clean d a q) s).mem = s.mem := foldl_keeps _ _ fun s q => by simp
  unfold State.l1Write
  simp only [State.setL1_mem, State.updCore_mem, State.l1Fill_mem, State.l1Forget_mem]
  repeat' split
  all_goals simp [clean]
@[simp] theorem State.l1Write_lost (s : State) (d a k sec : Nat) : (s.l1Write d a k sec).lost = s.lost := by
  have clean : ∀ (l : List Nat) (s : State), (l.foldl (fun (s : State) q => s.l1Clean d a q) s).lost = s.lost := foldl_keeps _ _ fun s q => by simp
  unfold State.l1Write
  simp only [State.setL1_lost, State.updCore_lost, State.l1Fill_lost, State.l1Forget_lost]
  repeat' split
  all_goals simp [clean]
@[simp] theorem State.l1Merge_mem (s : State) (d a sec : Nat) : (s.l1Merge d a sec).mem = s.mem := by
  unfold State.l1Merge; repeat' split
  all_goals simp
@[simp] theorem State.l1Merge_lost (s : State) (d a sec : Nat) : (s.l1Merge d a sec).lost = s.lost := by
  unfold State.l1Merge; repeat' split
  all_goals simp
@[simp] theorem State.acquireWide_mem (s : State) (d : Nat) : (s.acquireWide d).mem = s.mem := by
  unfold State.acquireWide; simp
@[simp] theorem State.acquireWide_lost (s : State) (d : Nat) : (s.acquireWide d).lost = s.lost := by
  unfold State.acquireWide; simp
@[simp] theorem State.homeServe_mem (s : State) (d sec : Nat) : (s.homeServe d sec).mem = s.mem := by
  unfold State.homeServe; dsimp only; split <;> simp
@[simp] theorem State.homeServe_lost (s : State) (d sec : Nat) : (s.homeServe d sec).lost = s.lost := by
  unfold State.homeServe; dsimp only; split <;> simp
@[simp] theorem State.fetched_mem (s : State) (d : Nat) (wide : Bool) (sec : Nat) : (s.fetched d wide sec).mem = s.mem := by
  unfold State.fetched; repeat' split
  all_goals simp
@[simp] theorem State.fetched_lost (s : State) (d : Nat) (wide : Bool) (sec : Nat) : (s.fetched d wide sec).lost = s.lost := by
  unfold State.fetched; repeat' split
  all_goals simp
@[simp] theorem State.loadSec_mem (s : State) (d : Nat) (al : Option Nat) (wide keep : Bool) (pa n : Nat) :
    (s.loadSec d al wide keep pa n).2.mem = s.mem := by
  unfold State.loadSec; dsimp only; repeat' split
  all_goals simp
@[simp] theorem State.loadSec_lost (s : State) (d : Nat) (al : Option Nat) (wide keep : Bool) (pa n : Nat) :
    (s.loadSec d al wide keep pa n).2.lost = s.lost := by
  unfold State.loadSec; dsimp only; repeat' split
  all_goals simp

/-! ## Remote sectors of a domain through the L1s -/

theorem State.rs_of_doms {s t : State} (h : s.doms = t.doms) (e k : Nat) : (s.dom e).rs k = (t.dom e).rs k := by unfold State.dom; rw [h]
@[simp] theorem State.rs_setL1 (s : State) (d sec e k : Nat) (x : Option L1Sec) : ((s.setL1 d sec x).dom e).rs k = (s.dom e).rs k := by
  unfold State.setL1 State.dom State.updDom State.setDom
  simp only [mget_mset]
  split
  · rename_i h; subst h; rfl
  · rfl
@[simp] theorem State.rs_updCore (s : State) (d a e k : Nat) (f : Core → Core) : ((s.updCore d a f).dom e).rs k = (s.dom e).rs k := rfl
@[simp] theorem State.rs_l1WriteBack (s : State) (d sec e k : Nat) : ((s.l1WriteBack d sec).dom e).rs k = (s.dom e).rs k :=
  State.rs_of_doms (by simp) e k
@[simp] theorem State.rs_l1Forget (s : State) (d : Nat) (q : Option Nat) (sec e k : Nat) : ((s.l1Forget d q sec).dom e).rs k = (s.dom e).rs k :=
  State.rs_of_doms (by simp) e k
theorem State.rs_l1Recall (s : State) (d sec e k : Nat) : ((s.l1Recall d sec).dom e).rs k = (s.dom e).rs k := by
  unfold State.l1Recall; split
  · split <;> simp
  · rfl
theorem State.rs_l1Drop (s : State) (d sec e k : Nat) : ((s.l1Drop d sec).dom e).rs k = (s.dom e).rs k := by
  unfold State.l1Drop; split
  · split <;> simp
  · rfl

/-! ## Operations that write home memory -/

theorem State.homeWrite_mem (s : State) (pa : Nat) (bs : List Byte) (d : Nat) (rel : Bool) (op : Option Nat) (sys : Bool) :
    (s.homeWrite pa bs d rel op sys).mem = (s.memPut pa bs).mem := by
  unfold State.homeWrite; simp only [State.invalidate_mem, State.memPut_mem, State.homeUpdated_mem, State.homeUpdated_lost]; split <;> simp
@[simp] theorem State.homeWrite_lost (s : State) (pa : Nat) (bs : List Byte) (d : Nat) (rel : Bool) (op : Option Nat) (sys : Bool) :
    (s.homeWrite pa bs d rel op sys).lost = s.lost := by
  unfold State.homeWrite; simp only [State.invalidate_lost, State.memPut_lost, State.homeUpdated_lost]; split <;> simp
theorem State.homeWrite_memOk {s : State} (pa : Nat) (bs : List Byte) (d : Nat) (rel : Bool) (op : Option Nat) (sys : Bool) (h : s.memOk) :
    (s.homeWrite pa bs d rel op sys).memOk :=
  State.memOk_congr (t := s.memPut pa bs) (State.homeWrite_mem ..) (State.homeWrite_lost ..) (State.memPut_memOk pa bs h)
@[simp] theorem State.storeDom_lost (s : State) (d : Nat) (l1 : L1Use) (pa : Nat) (bs : List Byte) : (s.storeDom d l1 pa bs).lost = s.lost := by
  unfold State.storeDom; cases l1 <;> dsimp only <;> split <;> simp
/-- A store at BLK or DOM scope writes home memory where its domain is the home. -/
theorem State.storeDom_mem (s : State) (d : Nat) (l1 : L1Use) (pa : Nat) (bs : List Byte) :
    (s.storeDom d l1 pa bs).mem = if homeOf pa = d then (s.memPut pa bs).mem else s.mem := by
  unfold State.storeDom; cases l1 <;> dsimp only <;> split <;> simp [State.memPut_mem]
theorem State.storeDom_memOk {s : State} (d : Nat) (l1 : L1Use) (pa : Nat) (bs : List Byte) (h : s.memOk) : (s.storeDom d l1 pa bs).memOk := by
  by_cases hd : homeOf pa = d
  · exact State.memOk_congr (t := s.memPut pa bs) (by rw [State.storeDom_mem, if_pos hd]) (by simp) (State.memPut_memOk pa bs h)
  · exact State.memOk_congr (t := s) (by rw [State.storeDom_mem, if_neg hd]) (by simp) h
/-- The 64 bytes a write-back leaves at the home: the dirty bytes merged into the home's own (R209). -/
theorem State.writeBack_mem (s : State) (d sec : Nat) (rel : Bool) (op : Option Nat) (sys : Bool) :
    (s.writeBack d sec rel op sys).mem = if ((s.dom d).rs sec).dirty.isEmpty then s.mem
      else (s.memPut (64 * sec) ((List.range 64).map fun i => (mfind ((s.dom d).rs sec).dirty i).getD (s.byte (64 * sec + i)))).mem := by
  unfold State.writeBack
  simp only [State.rs_l1Recall]
  split
  · simp
  · simp only [State.updDom_mem, State.homeWrite_mem, State.memPut_mem, State.l1Recall_mem, State.l1Recall_lost, State.byte]
@[simp] theorem State.writeBack_lost (s : State) (d sec : Nat) (rel : Bool) (op : Option Nat) (sys : Bool) :
    (s.writeBack d sec rel op sys).lost = s.lost := by unfold State.writeBack; dsimp only; split <;> simp
theorem State.writeBack_memOk {s : State} (d sec : Nat) (rel : Bool) (op : Option Nat) (sys : Bool) (h : s.memOk) :
    (s.writeBack d sec rel op sys).memOk := by
  by_cases hd : ((s.dom d).rs sec).dirty.isEmpty = true
  · exact State.memOk_congr (t := s) (by rw [State.writeBack_mem, if_pos hd]) (by simp) h
  · exact State.memOk_congr (by rw [State.writeBack_mem, if_neg hd]) (by simp) (State.memPut_memOk _ _ h)
theorem State.writeBackAll_memOk {s : State} (d : Nat) (rel : Bool) (op : Option Nat) (sys : Bool) (h : s.memOk) :
    (s.writeBackAll d rel op sys).memOk := by
  unfold State.writeBackAll
  generalize (s.dom d).dirtyList d = l
  induction l generalizing s with
  | nil => exact h
  | cons k l ih => exact ih (State.writeBack_memOk d k rel op sys h)
@[simp] theorem State.storeWide_lost (s : State) (d : Nat) (l1 : L1Use) (pa : Nat) (bs : List Byte) (rel : Bool) (op : Option Nat) (sys : Bool) :
    (s.storeWide d l1 pa bs rel op sys).lost = s.lost := by
  unfold State.storeWide; cases l1 <;> dsimp only <;> split <;> simp
/-- A store through to the home writes its bytes after the domain's own dirty bytes of the sector. -/
theorem State.storeWide_mem (s : State) (d : Nat) (l1 : L1Use) (pa : Nat) (bs : List Byte) (rel : Bool) (op : Option Nat) (sys : Bool) :
    (s.storeWide d l1 pa bs rel op sys).mem = ((s.writeBack d (pa / 64) rel op sys).memPut pa bs).mem := by
  unfold State.storeWide; cases l1 <;> dsimp only <;> split <;> simp [State.homeWrite_mem, State.memPut_mem]
theorem State.storeWide_memOk {s : State} (d : Nat) (l1 : L1Use) (pa : Nat) (bs : List Byte) (rel : Bool) (op : Option Nat) (sys : Bool)
    (h : s.memOk) : (s.storeWide d l1 pa bs rel op sys).memOk :=
  State.memOk_congr (State.storeWide_mem ..) (by simp) (State.memPut_memOk pa bs (State.writeBack_memOk d (pa / 64) rel op sys h))
/-- A store of a domain that holds no dirty byte of the sector writes its bytes and no other. -/
theorem State.storeWide_mem_clean {s : State} {d pa : Nat} (l1 : L1Use) (bs : List Byte) (rel : Bool) (op : Option Nat) (sys : Bool)
    (h : ((s.dom d).rs (pa / 64)).dirty = []) : (s.storeWide d l1 pa bs rel op sys).mem = (s.memPut pa bs).mem := by
  rw [State.storeWide_mem, State.memPut_mem, State.memPut_mem, State.writeBack_lost, State.writeBack_mem, h]; rfl

/-! ## A domain loses its memory (R52) -/

theorem mfind_foldl_mput (ds : List Nat) (n : Nat) (m : AMap Nat) (j : Nat) (h : ds.contains j = false) :
    mfind (ds.foldl (fun m d => mput m d n) m) j = mfind m j := by
  induction ds generalizing m with
  | nil => rfl
  | cons d ds ih =>
    simp only [List.contains_cons, Bool.or_eq_false_iff, beq_eq_false_iff_ne] at h
    rw [List.foldl_cons, ih _ h.2, mfind_mput_ne _ _ h.1]
/-- Bytes of domains that keep their contents read unlisted as before. -/
theorem unlisted_lose (lost : AMap Nat) (ds : List Nat) (n pa : Nat) (h : (decide (pa < 64 * dramSize) && ds.contains (pa / dramSize)) = false) :
    unlisted (ds.foldl (fun m d => mput m d n) lost) pa = unlisted lost pa := by
  unfold unlisted
  by_cases hp : pa < 64 * dramSize
  · simp only [hp, decide_true, Bool.true_and] at h
    simp only [if_pos hp, mfind_foldl_mput ds n lost _ h]
  · simp only [if_neg hp]
theorem State.loseMemory_memOk {s : State} (ds keep : List Nat) (h : s.memOk) : (s.loseMemory ds keep).memOk := by
  have back : ∀ (g : Nat → Bool) (l : AMap (List Byte)) (t : State), t.memOk →
      (l.foldl (fun (t : State) p => if g p.1 then t.memPut (64 * p.1) p.2 else t) t).memOk := by
    intro g l
    induction l with
    | nil => exact fun t ht => ht
    | cons p l ih =>
      intro t ht
      refine ih _ ?_
      dsimp only
      split
      · exact State.memPut_memOk _ _ ht
      · exact ht
  unfold State.loseMemory
  have key := back (fun k => ds.contains (homeOf (64 * k)) && backed k && !(regionOf (64 * k) = .persist && keep.contains k)) s.back
    { s with mem := s.mem.filter fun p => !(p.1 < 64 * dramSize && ds.contains (p.1 / dramSize)),
             lost := ds.foldl (fun m d => mput m d s.fresh) s.lost, fresh := s.fresh + 1 }
  refine State.memOk_congr rfl rfl (key ?_)
  exact mwfBy_filter _ h fun p hp => (unlisted_lose s.lost ds s.fresh p.1 (by simpa only [Bool.not_eq_true'] using hp)).symm

end Sys2Proof.Machine
end

