-- ==== Sys2Proof/Laws/PerInstr.lean ====
section
/-! SUPPORT. Statements made instruction by instruction. HeadWord: the first word of an instruction's encoding carries its opcode in bits
31 to 24 (Table 03-2), and at most a literal follows it (R71). -/

namespace Sys2Proof.Laws.HeadWord

def Statement (i : Instr) : Prop := ∀ w ws, encode i = w :: ws → (w.extractLsb' 24 8).toNat = i.opcode ∧ ws.length ≤ 1

theorem top3 {n0 n1 n2 : Nat} (op : BitVec 8) (x0 : BitVec n0) (x1 : BitVec n1) (x2 : BitVec n2) (i : Nat) :
    (op ++ x0 ++ x1 ++ x2).getLsbD (n2 + (n1 + (n0 + i))) = op.getLsbD i := by
  simp only [BitVec.getLsbD_append]
  repeat rw [if_neg (by omega)]
  congr 1; omega
theorem top4 {n0 n1 n2 n3 : Nat} (op : BitVec 8) (x0 : BitVec n0) (x1 : BitVec n1) (x2 : BitVec n2) (x3 : BitVec n3) (i : Nat) :
    (op ++ x0 ++ x1 ++ x2 ++ x3).getLsbD (n3 + (n2 + (n1 + (n0 + i)))) = op.getLsbD i := by
  simp only [BitVec.getLsbD_append]
  repeat rw [if_neg (by omega)]
  congr 1; omega
theorem top5 {n0 n1 n2 n3 n4 : Nat} (op : BitVec 8) (x0 : BitVec n0) (x1 : BitVec n1) (x2 : BitVec n2) (x3 : BitVec n3) (x4 : BitVec n4) (i : Nat) :
    (op ++ x0 ++ x1 ++ x2 ++ x3 ++ x4).getLsbD (n4 + (n3 + (n2 + (n1 + (n0 + i))))) = op.getLsbD i := by
  simp only [BitVec.getLsbD_append]
  repeat rw [if_neg (by omega)]
  congr 1; omega
theorem top6 {n0 n1 n2 n3 n4 n5 : Nat} (op : BitVec 8) (x0 : BitVec n0) (x1 : BitVec n1) (x2 : BitVec n2) (x3 : BitVec n3) (x4 : BitVec n4) (x5 : BitVec n5) (i : Nat) :
    (op ++ x0 ++ x1 ++ x2 ++ x3 ++ x4 ++ x5).getLsbD (n5 + (n4 + (n3 + (n2 + (n1 + (n0 + i)))))) = op.getLsbD i := by
  simp only [BitVec.getLsbD_append]
  repeat rw [if_neg (by omega)]
  congr 1; omega
theorem top7 {n0 n1 n2 n3 n4 n5 n6 : Nat} (op : BitVec 8) (x0 : BitVec n0) (x1 : BitVec n1) (x2 : BitVec n2) (x3 : BitVec n3) (x4 : BitVec n4) (x5 : BitVec n5) (x6 : BitVec n6) (i : Nat) :
    (op ++ x0 ++ x1 ++ x2 ++ x3 ++ x4 ++ x5 ++ x6).getLsbD (n6 + (n5 + (n4 + (n3 + (n2 + (n1 + (n0 + i))))))) = op.getLsbD i := by
  simp only [BitVec.getLsbD_append]
  repeat rw [if_neg (by omega)]
  congr 1; omega
theorem top8 {n0 n1 n2 n3 n4 n5 n6 n7 : Nat} (op : BitVec 8) (x0 : BitVec n0) (x1 : BitVec n1) (x2 : BitVec n2) (x3 : BitVec n3) (x4 : BitVec n4) (x5 : BitVec n5) (x6 : BitVec n6) (x7 : BitVec n7) (i : Nat) :
    (op ++ x0 ++ x1 ++ x2 ++ x3 ++ x4 ++ x5 ++ x6 ++ x7).getLsbD (n7 + (n6 + (n5 + (n4 + (n3 + (n2 + (n1 + (n0 + i)))))))) = op.getLsbD i := by
  simp only [BitVec.getLsbD_append]
  repeat rw [if_neg (by omega)]
  congr 1; omega
theorem reg_top (op : BitVec 8) (f : RegW) : (regToWord op f).extractLsb' 24 8 = op := by
  apply BitVec.eq_of_getLsbD_eq; intro i hi
  have h := top5 op f.g f.nw f.dst f.a f.b i
  rw [show 7 + (7 + (6 + (1 + (3 + i)))) = 24 + i by omega] at h
  rw [BitVec.getLsbD_extractLsb']; simp only [hi, decide_true, Bool.true_and]
  exact h
theorem br_top (op : BitVec 8) (f : BrW) : (brToWord op f).extractLsb' 24 8 = op := by
  apply BitVec.eq_of_getLsbD_eq; intro i hi
  have h := top3 op f.g 0#3 f.off i
  rw [show 18 + (3 + (3 + i)) = 24 + i by omega] at h
  rw [BitVec.getLsbD_extractLsb']; simp only [hi, decide_true, Bool.true_and]
  exact h
theorem loop_top (op : BitVec 8) (f : LoopW) : (loopToWord op f).extractLsb' 24 8 = op := by
  apply BitVec.eq_of_getLsbD_eq; intro i hi
  have h := top4 op f.g f.c f.cnt f.stop i
  rw [show 12 + (7 + (2 + (3 + i))) = 24 + i by omega] at h
  rw [BitVec.getLsbD_extractLsb']; simp only [hi, decide_true, Bool.true_and]
  exact h
theorem mem_top (op : BitVec 8) (f : MemW) : (memToWord op f).extractLsb' 24 8 = op := by
  apply BitVec.eq_of_getLsbD_eq; intro i hi
  have h := top7 op f.g (BitVec.ofBool f.lit.isSome) f.d f.sz f.dat f.ba f.idx i
  rw [show 5 + (3 + (6 + (3 + (3 + (1 + (3 + i)))))) = 24 + i by omega] at h
  rw [BitVec.getLsbD_extractLsb']; simp only [hi, decide_true, Bool.true_and]
  exact h
theorem mtx_top (op : BitVec 8) (f : MtxW) : (mtxToWord op f).extractLsb' 24 8 = op := by
  apply BitVec.eq_of_getLsbD_eq; intro i hi
  have h := top6 op f.g f.t f.d f.ar f.br 0#2 i
  rw [show 2 + (6 + (6 + (3 + (4 + (3 + i))))) = 24 + i by omega] at h
  rw [BitVec.getLsbD_extractLsb']; simp only [hi, decide_true, Bool.true_and]
  exact h
theorem drn_top (op : BitVec 8) (f : DrnW) : (drnToWord op f).extractLsb' 24 8 = op := by
  apply BitVec.eq_of_getLsbD_eq; intro i hi
  have h := top6 op f.g f.t f.d f.v f.ba f.idx i
  rw [show 5 + (3 + (6 + (3 + (4 + (3 + i))))) = 24 + i by omega] at h
  rw [BitVec.getLsbD_extractLsb']; simp only [hi, decide_true, Bool.true_and]
  exact h
theorem asy_top (op : BitVec 8) (f : AsyW) : (asyToWord op f).extractLsb' 24 8 = op := by
  apply BitVec.eq_of_getLsbD_eq; intro i hi
  have h := top8 op f.g (BitVec.ofBool f.lit.isSome) f.d f.v f.s f.ba f.bb 0#4 i
  rw [show 4 + (3 + (3 + (4 + (3 + (3 + (1 + (3 + i))))))) = 24 + i by omega] at h
  rw [BitVec.getLsbD_extractLsb']; simp only [hi, decide_true, Bool.true_and]
  exact h
theorem sys_top (op : BitVec 8) (f : SysW) : (sysToWord op f).extractLsb' 24 8 = op := by
  apply BitVec.eq_of_getLsbD_eq; intro i hi
  have h := top7 op f.g (BitVec.ofBool f.lit.isSome) f.d f.f f.s f.ba 0#5 i
  rw [show 5 + (3 + (4 + (5 + (3 + (1 + (3 + i)))))) = 24 + i by omega] at h
  rw [BitVec.getLsbD_extractLsb']; simp only [hi, decide_true, Bool.true_and]
  exact h
theorem lit_length (l : Option Word) : l.toList.length ≤ 1 := by cases l <;> simp

theorem of_reg {i : Instr} {op : BitVec 8} {f : RegW} (h : i.parts = some (op, .reg f)) : Statement i := by
  intro w ws hw
  have e : encode i = regToWord op f :: f.lit.toList := by unfold encode; rw [h]
  rw [e] at hw; injection hw with a b; subst a b
  exact ⟨by rw [reg_top]; unfold Instr.opcode; rw [h], lit_length _⟩
theorem of_br {i : Instr} {op : BitVec 8} {f : BrW} (h : i.parts = some (op, .br f)) : Statement i := by
  intro w ws hw
  have e : encode i = brToWord op f :: [] := by unfold encode; rw [h]
  rw [e] at hw; injection hw with a b; subst a b
  exact ⟨by rw [br_top]; unfold Instr.opcode; rw [h], by simp⟩
theorem of_loop {i : Instr} {op : BitVec 8} {f : LoopW} (h : i.parts = some (op, .loop f)) : Statement i := by
  intro w ws hw
  have e : encode i = loopToWord op f :: f.lit.toList := by unfold encode; rw [h]
  rw [e] at hw; injection hw with a b; subst a b
  exact ⟨by rw [loop_top]; unfold Instr.opcode; rw [h], lit_length _⟩
theorem of_mem {i : Instr} {op : BitVec 8} {f : MemW} (h : i.parts = some (op, .mem f)) : Statement i := by
  intro w ws hw
  have e : encode i = memToWord op f :: f.lit.toList := by unfold encode; rw [h]
  rw [e] at hw; injection hw with a b; subst a b
  exact ⟨by rw [mem_top]; unfold Instr.opcode; rw [h], lit_length _⟩
theorem of_mtx {i : Instr} {op : BitVec 8} {f : MtxW} (h : i.parts = some (op, .mtx f)) : Statement i := by
  intro w ws hw
  have e : encode i = mtxToWord op f :: [f.lit] := by unfold encode; rw [h]
  rw [e] at hw; injection hw with a b; subst a b
  exact ⟨by rw [mtx_top]; unfold Instr.opcode; rw [h], by simp⟩
theorem of_drn {i : Instr} {op : BitVec 8} {f : DrnW} (h : i.parts = some (op, .drn f)) : Statement i := by
  intro w ws hw
  have e : encode i = drnToWord op f :: [f.lit] := by unfold encode; rw [h]
  rw [e] at hw; injection hw with a b; subst a b
  exact ⟨by rw [drn_top]; unfold Instr.opcode; rw [h], by simp⟩
theorem of_asy {i : Instr} {op : BitVec 8} {f : AsyW} (h : i.parts = some (op, .asy f)) : Statement i := by
  intro w ws hw
  have e : encode i = asyToWord op f :: f.lit.toList := by unfold encode; rw [h]
  rw [e] at hw; injection hw with a b; subst a b
  exact ⟨by rw [asy_top]; unfold Instr.opcode; rw [h], lit_length _⟩
theorem of_sys {i : Instr} {op : BitVec 8} {f : SysW} (h : i.parts = some (op, .sys f)) : Statement i := by
  intro w ws hw
  have e : encode i = sysToWord op f :: f.lit.toList := by unfold encode; rw [h]
  rw [e] at hw; injection hw with a b; subst a b
  exact ⟨by rw [sys_top]; unfold Instr.opcode; rw [h], lit_length _⟩
theorem of_event {i : Instr} (h : i.parts = none) : Statement i := by
  intro w ws hw
  have e : encode i = [] := by unfold encode; rw [h]
  rw [e] at hw; cases hw

theorem nop (f : RegW) : Statement (.nop f) := of_reg rfl
theorem bra (f : BrW) : Statement (.bra f) := of_br rfl
theorem brx (f : RegW) : Statement (.brx f) := of_reg rfl
theorem call (f : BrW) : Statement (.call f) := of_br rfl
theorem callx (f : RegW) : Statement (.callx f) := of_reg rfl
theorem ret (f : RegW) : Statement (.ret f) := of_reg rfl
theorem loop (f : LoopW) : Statement (.loop f) := of_loop rfl
theorem rpt (f : RegW) : Statement (.rpt f) := of_reg rfl
theorem exit (f : RegW) : Statement (.exit f) := of_reg rfl
theorem exits (f : RegW) : Statement (.exits f) := of_reg rfl
theorem bar (f : RegW) : Statement (.bar f) := of_reg rfl
theorem bara (f : RegW) : Statement (.bara f) := of_reg rfl
theorem barm (f : RegW) : Statement (.barm f) := of_reg rfl
theorem barw (f : RegW) : Statement (.barw f) := of_reg rfl
theorem yield (f : RegW) : Statement (.yield f) := of_reg rfl
theorem vote (f : RegW) : Statement (.vote f) := of_reg rfl
theorem plop (f : RegW) : Statement (.plop f) := of_reg rfl
theorem movs (f : RegW) : Statement (.movs f) := of_reg rfl
theorem smov (f : RegW) : Statement (.smov f) := of_reg rfl
theorem reggive (f : RegW) : Statement (.reggive f) := of_reg rfl
theorem regclaim (f : RegW) : Statement (.regclaim f) := of_reg rfl
theorem settid (f : RegW) : Statement (.settid f) := of_reg rfl
theorem qbind (f : RegW) : Statement (.qbind f) := of_reg rfl
theorem chput (f : RegW) : Statement (.chput f) := of_reg rfl
theorem chget (f : RegW) : Statement (.chget f) := of_reg rfl
theorem chclose (f : RegW) : Statement (.chclose f) := of_reg rfl
theorem sleep (f : RegW) : Statement (.sleep f) := of_reg rfl
theorem trap (f : RegW) : Statement (.trap f) := of_reg rfl
theorem assert (f : RegW) : Statement (.assert f) := of_reg rfl
theorem tret (f : RegW) : Statement (.tret f) := of_reg rfl
theorem kill (f : RegW) : Statement (.kill f) := of_reg rfl
theorem movsys (f : RegW) : Statement (.movsys f) := of_reg rfl
theorem movsysW (f : RegW) : Statement (.movsysW f) := of_reg rfl
theorem iadd (f : RegW) : Statement (.iadd f) := of_reg rfl
theorem isub (f : RegW) : Statement (.isub f) := of_reg rfl
theorem imul (f : RegW) : Statement (.imul f) := of_reg rfl
theorem imulh (f : RegW) : Statement (.imulh f) := of_reg rfl
theorem imad (f : RegW) : Statement (.imad f) := of_reg rfl
theorem imin (f : RegW) : Statement (.imin f) := of_reg rfl
theorem imax (f : RegW) : Statement (.imax f) := of_reg rfl
theorem iabs (f : RegW) : Statement (.iabs f) := of_reg rfl
theorem and (f : RegW) : Statement (.and f) := of_reg rfl
theorem or (f : RegW) : Statement (.or f) := of_reg rfl
theorem xor (f : RegW) : Statement (.xor f) := of_reg rfl
theorem not (f : RegW) : Statement (.not f) := of_reg rfl
theorem shl (f : RegW) : Statement (.shl f) := of_reg rfl
theorem shr (f : RegW) : Statement (.shr f) := of_reg rfl
theorem shra (f : RegW) : Statement (.shra f) := of_reg rfl
theorem rot (f : RegW) : Statement (.rot f) := of_reg rfl
theorem popc (f : RegW) : Statement (.popc f) := of_reg rfl
theorem clz (f : RegW) : Statement (.clz f) := of_reg rfl
theorem brev (f : RegW) : Statement (.brev f) := of_reg rfl
theorem bfe (f : RegW) : Statement (.bfe f) := of_reg rfl
theorem bfi (f : RegW) : Statement (.bfi f) := of_reg rfl
theorem bymix (f : RegW) : Statement (.bymix f) := of_reg rfl
theorem sel (f : RegW) : Statement (.sel f) := of_reg rfl
theorem icmp (f : RegW) : Statement (.icmp f) := of_reg rfl
theorem mov (f : RegW) : Statement (.mov f) := of_reg rfl
theorem movi (f : RegW) : Statement (.movi f) := of_reg rfl
theorem iacc (f : RegW) : Statement (.iacc f) := of_reg rfl
theorem isad (f : RegW) : Statement (.isad f) := of_reg rfl
theorem idot4 (f : RegW) : Statement (.idot4 f) := of_reg rfl
theorem fadd (f : RegW) : Statement (.fadd f) := of_reg rfl
theorem fsub (f : RegW) : Statement (.fsub f) := of_reg rfl
theorem fmul (f : RegW) : Statement (.fmul f) := of_reg rfl
theorem ffma (f : RegW) : Statement (.ffma f) := of_reg rfl
theorem fmin (f : RegW) : Statement (.fmin f) := of_reg rfl
theorem fmax (f : RegW) : Statement (.fmax f) := of_reg rfl
theorem fcmp (f : RegW) : Statement (.fcmp f) := of_reg rfl
theorem frnd (f : RegW) : Statement (.frnd f) := of_reg rfl
theorem fclmp (f : RegW) : Statement (.fclmp f) := of_reg rfl
theorem fscale (f : RegW) : Statement (.fscale f) := of_reg rfl
theorem fexp (f : RegW) : Statement (.fexp f) := of_reg rfl
theorem addmin (f : RegW) : Statement (.addmin f) := of_reg rfl
theorem addmax (f : RegW) : Statement (.addmax f) := of_reg rfl
theorem rcp (f : RegW) : Statement (.rcp f) := of_reg rfl
theorem rsq (f : RegW) : Statement (.rsq f) := of_reg rfl
theorem sqrt (f : RegW) : Statement (.sqrt f) := of_reg rfl
theorem exp2 (f : RegW) : Statement (.exp2 f) := of_reg rfl
theorem log2 (f : RegW) : Statement (.log2 f) := of_reg rfl
theorem hadd2 (f : RegW) : Statement (.hadd2 f) := of_reg rfl
theorem hmul2 (f : RegW) : Statement (.hmul2 f) := of_reg rfl
theorem hfma2 (f : RegW) : Statement (.hfma2 f) := of_reg rfl
theorem hmin2 (f : RegW) : Statement (.hmin2 f) := of_reg rfl
theorem hmax2 (f : RegW) : Statement (.hmax2 f) := of_reg rfl
theorem dot2 (f : RegW) : Statement (.dot2 f) := of_reg rfl
theorem cvt (f : RegW) : Statement (.cvt f) := of_reg rfl
theorem pkcv (f : RegW) : Statement (.pkcv f) := of_reg rfl
theorem xpcv (f : RegW) : Statement (.xpcv f) := of_reg rfl
theorem scext (f : RegW) : Statement (.scext f) := of_reg rfl
theorem scins (f : RegW) : Statement (.scins f) := of_reg rfl
theorem scmax (f : RegW) : Statement (.scmax f) := of_reg rfl
theorem dot4 (f : RegW) : Statement (.dot4 f) := of_reg rfl
theorem pack (f : RegW) : Statement (.pack f) := of_reg rfl
theorem qxch (f : RegW) : Statement (.qxch f) := of_reg rfl
theorem qbc (f : RegW) : Statement (.qbc f) := of_reg rfl
theorem qsum (f : RegW) : Statement (.qsum f) := of_reg rfl
theorem lshf (f : RegW) : Statement (.lshf f) := of_reg rfl
theorem lrot (f : RegW) : Statement (.lrot f) := of_reg rfl
theorem lbc (f : RegW) : Statement (.lbc f) := of_reg rfl
theorem lidx (f : RegW) : Statement (.lidx f) := of_reg rfl
theorem wred (f : RegW) : Statement (.wred f) := of_reg rfl
theorem wscan (f : RegW) : Statement (.wscan f) := of_reg rfl
theorem rnds (f : RegW) : Statement (.rnds f) := of_reg rfl
theorem rnd (f : RegW) : Statement (.rnd f) := of_reg rfl
theorem ld (f : MemW) : Statement (.ld f) := of_mem rfl
theorem st (f : MemW) : Statement (.st f) := of_mem rfl
theorem ldx (f : MemW) : Statement (.ldx f) := of_mem rfl
theorem stx (f : MemW) : Statement (.stx f) := of_mem rfl
theorem ldw (f : MemW) : Statement (.ldw f) := of_mem rfl
theorem stw (f : MemW) : Statement (.stw f) := of_mem rfl
theorem ldmx (f : MemW) : Statement (.ldmx f) := of_mem rfl
theorem stmx (f : MemW) : Statement (.stmx f) := of_mem rfl
theorem ldn (f : MemW) : Statement (.ldn f) := of_mem rfl
theorem stn (f : MemW) : Statement (.stn f) := of_mem rfl
theorem pref (f : MemW) : Statement (.pref f) := of_mem rfl
theorem fence (f : MemW) : Statement (.fence f) := of_mem rfl
theorem cwb (f : MemW) : Statement (.cwb f) := of_mem rfl
theorem cinv (f : MemW) : Statement (.cinv f) := of_mem rfl
theorem setb (f : MemW) : Statement (.setb f) := of_mem rfl
theorem ldb (f : MemW) : Statement (.ldb f) := of_mem rfl
theorem badd (f : MemW) : Statement (.badd f) := of_mem rfl
theorem lds (f : MemW) : Statement (.lds f) := of_mem rfl
theorem mmq (f : MtxW) : Statement (.mmq f) := of_mtx rfl
theorem mmqs (f : MtxW) : Statement (.mmqs f) := of_mtx rfl
theorem mmqx (f : MtxW) : Statement (.mmqx f) := of_mtx rfl
theorem mmqt (f : MtxW) : Statement (.mmqt f) := of_mtx rfl
theorem mms (f : MtxW) : Statement (.mms f) := of_mtx rfl
theorem mmss (f : MtxW) : Statement (.mmss f) := of_mtx rfl
theorem mmz (f : MtxW) : Statement (.mmz f) := of_mtx rfl
theorem accmv (f : MtxW) : Statement (.accmv f) := of_mtx rfl
theorem accld (f : MtxW) : Statement (.accld f) := of_mtx rfl
theorem accsc (f : MtxW) : Statement (.accsc f) := of_mtx rfl
theorem acccv (f : MtxW) : Statement (.acccv f) := of_mtx rfl
theorem spld (f : MtxW) : Statement (.spld f) := of_mtx rfl
theorem dst (f : DrnW) : Statement (.dst f) := of_drn rfl
theorem dsta (f : DrnW) : Statement (.dsta f) := of_drn rfl
theorem dstm (f : DrnW) : Statement (.dstm f) := of_drn rfl
theorem dstv (f : DrnW) : Statement (.dstv f) := of_drn rfl
theorem atom (f : DrnW) : Statement (.atom f) := of_drn rfl
theorem atomc (f : DrnW) : Statement (.atomc f) := of_drn rfl
theorem red (f : DrnW) : Statement (.red f) := of_drn rfl
theorem dfence (f : DrnW) : Statement (.dfence f) := of_drn rfl
theorem cpy (f : AsyW) : Statement (.cpy f) := of_asy rfl
theorem cpy2 (f : AsyW) : Statement (.cpy2 f) := of_asy rfl
theorem cpym (f : AsyW) : Statement (.cpym f) := of_asy rfl
theorem cpytProm (f : AsyW) : Statement (.cpytProm f) := of_asy rfl
theorem cpytEvct (f : AsyW) : Statement (.cpytEvct f) := of_asy rfl
theorem cpytScr (f : AsyW) : Statement (.cpytScr f) := of_asy rfl
theorem cpytGlb (f : AsyW) : Statement (.cpytGlb f) := of_asy rfl
theorem cpyw (f : AsyW) : Statement (.cpyw f) := of_asy rfl
theorem waitt (f : AsyW) : Statement (.waitt f) := of_asy rfl
theorem tqry (f : AsyW) : Statement (.tqry f) := of_asy rfl
theorem cpyc (f : AsyW) : Statement (.cpyc f) := of_asy rfl
theorem spawn (f : AsyW) : Statement (.spawn f) := of_asy rfl
theorem enq (f : AsyW) : Statement (.enq f) := of_asy rfl
theorem tdec (f : AsyW) : Statement (.tdec f) := of_asy rfl
theorem tinc (f : AsyW) : Statement (.tinc f) := of_asy rfl
theorem twait (f : AsyW) : Statement (.twait f) := of_asy rfl
theorem tstat (f : AsyW) : Statement (.tstat f) := of_asy rfl
theorem tcancel (f : AsyW) : Statement (.tcancel f) := of_asy rfl
theorem trearm (f : AsyW) : Statement (.trearm f) := of_asy rfl
theorem vpost (f : AsyW) : Statement (.vpost f) := of_asy rfl
theorem vpostf (f : AsyW) : Statement (.vpostf f) := of_asy rfl
theorem subs (f : AsyW) : Statement (.subs f) := of_asy rfl
theorem verq (f : AsyW) : Statement (.verq f) := of_asy rfl
theorem rstop (f : AsyW) : Statement (.rstop f) := of_asy rfl
theorem grpsetNew (f : AsyW) : Statement (.grpsetNew f) := of_asy rfl
theorem grpsetAdd (f : AsyW) : Statement (.grpsetAdd f) := of_asy rfl
theorem grpsetArm (f : AsyW) : Statement (.grpsetArm f) := of_asy rfl
theorem grpsetFree (f : AsyW) : Statement (.grpsetFree f) := of_asy rfl
theorem shmap (f : AsyW) : Statement (.shmap f) := of_asy rfl
theorem shmapFree (f : AsyW) : Statement (.shmapFree f) := of_asy rfl
theorem ssack (f : AsyW) : Statement (.ssack f) := of_asy rfl
theorem seqld (f : SysW) : Statement (.seqld f) := of_sys rfl
theorem seqgo (f : SysW) : Statement (.seqgo f) := of_sys rfl
theorem seqstop (f : SysW) : Statement (.seqstop f) := of_sys rfl
theorem qset (f : SysW) : Statement (.qset f) := of_sys rfl
theorem qdec (f : SysW) : Statement (.qdec f) := of_sys rfl
theorem qwait (f : SysW) : Statement (.qwait f) := of_sys rfl
theorem seqsig (f : SysW) : Statement (.seqsig f) := of_sys rfl
theorem seqq (f : SysW) : Statement (.seqq f) := of_sys rfl
theorem pfence (f : SysW) : Statement (.pfence f) := of_sys rfl
theorem chks (f : SysW) : Statement (.chks f) := of_sys rfl
theorem umq (f : SysW) : Statement (.umq f) := of_sys rfl
theorem umset (f : SysW) : Statement (.umset f) := of_sys rfl
theorem fsend (f : SysW) : Statement (.fsend f) := of_sys rfl
theorem fenq (f : SysW) : Statement (.fenq f) := of_sys rfl
theorem fsig (f : SysW) : Statement (.fsig f) := of_sys rfl
theorem ffence (f : SysW) : Statement (.ffence f) := of_sys rfl
theorem tlbi (f : SysW) : Statement (.tlbi f) := of_sys rfl
theorem hflush (f : SysW) : Statement (.hflush f) := of_sys rfl
theorem hprobe (f : SysW) : Statement (.hprobe f) := of_sys rfl
theorem atr (f : SysW) : Statement (.atr f) := of_sys rfl
theorem svcVf (f : SysW) : Statement (.svcVf f) := of_sys rfl
theorem svcRetire (f : SysW) : Statement (.svcRetire f) := of_sys rfl
theorem svcPkill (f : SysW) : Statement (.svcPkill f) := of_sys rfl
theorem svcQuote (f : SysW) : Statement (.svcQuote f) := of_sys rfl
theorem capq (f : SysW) : Statement (.capq f) := of_sys rfl
theorem pwrq (f : SysW) : Statement (.pwrq f) := of_sys rfl
theorem clkq (f : SysW) : Statement (.clkq f) := of_sys rfl
theorem evlogPut (f : SysW) : Statement (.evlogPut f) := of_sys rfl
theorem evlogGet (f : SysW) : Statement (.evlogGet f) := of_sys rfl
theorem hstat (f : SysW) : Statement (.hstat f) := of_sys rfl
theorem clauseIssue (d : Nat) (a : Nat) (p : Nat) : Statement (.clauseIssue d a p) := of_event rfl
theorem quartetRendezvous (b : Nat) (q : Nat) : Statement (.quartetRendezvous b q) := of_event rfl
theorem activeSetExchange (d : Nat) (a : Nat) : Statement (.activeSetExchange d a) := of_event rfl
theorem handlerStart (d : Nat) (a : Nat) : Statement (.handlerStart d a) := of_event rfl
theorem slotComplete (o : Nat) : Statement (.slotComplete o) := of_event rfl
theorem sleepDeadline (b : Nat) (w : Nat) : Statement (.sleepDeadline b w) := of_event rfl
theorem siderealTick (lag : BitVec 64) : Statement (.siderealTick lag) := of_event rfl
theorem siderealBeacon : Statement (.siderealBeacon) := of_event rfl
theorem windowWriteEntry (b : Nat) : Statement (.windowWriteEntry b) := of_event rfl
theorem loadComplete (o : Nat) (pl : Place) : Statement (.loadComplete o pl) := of_event rfl
theorem storePerformed (o : Nat) (pl : Place) : Statement (.storePerformed o pl) := of_event rfl
theorem homeRetry (o : Asker × Nat) : Statement (.homeRetry o) := of_event rfl
theorem reservationLapse (h : Nat) (line : Nat) : Statement (.reservationLapse h line) := of_event rfl
theorem cpymRequestArrival (o : Nat) : Statement (.cpymRequestArrival o) := of_event rfl
theorem multicastWindowClose (d : Nat) (g : Nat) : Statement (.multicastWindowClose d g) := of_event rfl
theorem lateJoinerResend (d : Nat) (g : Nat) : Statement (.lateJoinerResend d g) := of_event rfl
theorem copySectorWrite (o : Nat) (pl : Place) : Statement (.copySectorWrite o pl) := of_event rfl
theorem copyCompletion (o : Nat) : Statement (.copyCompletion o) := of_event rfl
theorem transitTick (b : Nat) (w : Nat) : Statement (.transitTick b w) := of_event rfl
theorem matrixCompletion (o : Nat) (stale : Bool) : Statement (.matrixCompletion o stale) := of_event rfl
theorem drainUpdateApply (o : Nat) : Statement (.drainUpdateApply o) := of_event rfl
theorem rangeRecordArrival (n : Nat) : Statement (.rangeRecordArrival n) := of_event rfl
theorem dispatchPlacement (d : Nat) : Statement (.dispatchPlacement d) := of_event rfl
theorem eviction (b : Nat) : Statement (.eviction b) := of_event rfl
theorem parkRecordWake (d : Nat) (idx : Nat) : Statement (.parkRecordWake d idx) := of_event rfl
theorem parkNeighbourOffer (d : Nat) (idx : Nat) : Statement (.parkNeighbourOffer d idx) := of_event rfl
theorem blockExit (b : Nat) : Statement (.blockExit b) := of_event rfl
theorem gridCompletion (d : Nat) (idx : Nat) : Statement (.gridCompletion d idx) := of_event rfl
theorem supersedeEvent (b : Nat) (w : Nat) : Statement (.supersedeEvent b w) := of_event rfl
theorem twaitDeadline (b : Nat) (w : Nat) : Statement (.twaitDeadline b w) := of_event rfl
theorem promotionServe (d : Nat) : Statement (.promotionServe d) := of_event rfl
theorem promotionAging (d : Nat) : Statement (.promotionAging d) := of_event rfl
theorem promotionDone (d : Nat) (idx : Nat) : Statement (.promotionDone d idx) := of_event rfl
theorem objectEvictionDone (d : Nat) (idx : Nat) : Statement (.objectEvictionDone d idx) := of_event rfl
theorem seqWordReplay (d : Nat) (a : Nat) : Statement (.seqWordReplay d a) := of_event rfl
theorem seqTransition (d : Nat) (a : Nat) : Statement (.seqTransition d a) := of_event rfl
theorem seqTimeout (d : Nat) (a : Nat) : Statement (.seqTimeout d a) := of_event rfl
theorem periodicCut (d : Nat) (a : Nat) : Statement (.periodicCut d a) := of_event rfl
theorem cutInstant (d : Nat) (a : Nat) : Statement (.cutInstant d a) := of_event rfl
theorem bankSeal (d : Nat) (a : Nat) : Statement (.bankSeal d a) := of_event rfl
theorem journalAck (d : Nat) (a : Nat) (i : Nat) : Statement (.journalAck d a i) := of_event rfl
theorem l1DirectoryRequest (d : Nat) (a : Nat) (q : L1Req) (sec : Nat) : Statement (.l1DirectoryRequest d a q sec) := of_event rfl
theorem remoteFetch (d : Nat) (sec : Nat) : Statement (.remoteFetch d sec) := of_event rfl
theorem homeUpdate (d : Nat) (sec : Nat) : Statement (.homeUpdate d sec) := of_event rfl
theorem remoteInvalidation (d : Nat) (sec : Nat) : Statement (.remoteInvalidation d sec) := of_event rfl
theorem sliceReplacement (d : Nat) (line : Nat) : Statement (.sliceReplacement d line) := of_event rfl
theorem directoryEntryDrop (h : Nat) (line : Nat) : Statement (.directoryEntryDrop h line) := of_event rfl
theorem pageWalk (d : Nat) (asid : Nat) (va : Ptr) : Statement (.pageWalk d asid va) := of_event rfl
theorem backInvalidationSnoop (line : Nat) : Statement (.backInvalidationSnoop line) := of_event rfl
theorem hostSnoop (line : Nat) : Statement (.hostSnoop line) := of_event rfl
theorem hostLinkAccess (link : Nat) (bar : Nat) (off : Nat) (acc : HostAcc) : Statement (.hostLinkAccess link bar off acc) := of_event rfl
theorem poolLinkDown (p : Nat) : Statement (.poolLinkDown p) := of_event rfl
theorem poolLinkUp (p : Nat) : Statement (.poolLinkUp p) := of_event rfl
theorem enqueueWindowWrite (d : Nat) (wafer : Bool) (idx : Nat) (rec : List Word) : Statement (.enqueueWindowWrite d wafer idx rec) := of_event rfl
theorem enqdropWrite (d : Nat) : Statement (.enqdropWrite d) := of_event rfl
theorem objectTableWrite (d : Nat) (idx : Nat) (wd : Nat) (x : Word) : Statement (.objectTableWrite d idx wd x) := of_event rfl
theorem computeIslandPowerFail (d : Nat) (finish : List Nat) : Statement (.computeIslandPowerFail d finish) := of_event rfl
theorem coreResume (d : Nat) (a : Nat) : Statement (.coreResume d a) := of_event rfl
theorem fabricC0Arrival (m : FabMsg) : Statement (.fabricC0Arrival m) := of_event rfl
theorem fabricC1Arrival (m : FabMsg) : Statement (.fabricC1Arrival m) := of_event rfl
theorem fabricC2Arrival (m : FabMsg) : Statement (.fabricC2Arrival m) := of_event rfl
theorem fabricAck (o : Nat) (status : Word) : Statement (.fabricAck o status) := of_event rfl
theorem fabricResend (o : Nat) : Statement (.fabricResend o) := of_event rfl
theorem portDown (p : Nat) : Statement (.portDown p) := of_event rfl
theorem portUp (p : Nat) : Statement (.portUp p) := of_event rfl
theorem fabricManagement (dev : Nat) : Statement (.fabricManagement dev) := of_event rfl
theorem fdiscWrite (d : Nat) : Statement (.fdiscWrite d) := of_event rfl
theorem controlRegisterWrite (d : Nat) (off : Nat) (x : Word) : Statement (.controlRegisterWrite d off x) := of_event rfl
theorem moduleBringUp : Statement (.moduleBringUp) := of_event rfl
theorem modulePowerLoss (keep : List Nat) : Statement (.modulePowerLoss keep) := of_event rfl
theorem uncoreIslandPowerLoss (d : Nat) (keep : List Nat) : Statement (.uncoreIslandPowerLoss d keep) := of_event rfl
theorem unitRetirement (u : RetUnit) : Statement (.unitRetirement u) := of_event rfl
theorem clockSourceFail (d : Nat) (a : Nat) : Statement (.clockSourceFail d a) := of_event rfl
theorem powerLimitStep (d : Nat) (isl : Nat) (lower : Bool) : Statement (.powerLimitStep d isl lower) := of_event rfl
theorem supplyDroop (d : Nat) (isl : Nat) : Statement (.supplyDroop d isl) := of_event rfl
theorem thermalTrip : Statement (.thermalTrip) := of_event rfl
theorem islandPowerOff (d : Nat) : Statement (.islandPowerOff d) := of_event rfl
theorem uncoreIslandPowerReturn (d : Nat) : Statement (.uncoreIslandPowerReturn d) := of_event rfl
theorem acknowledgementReceiptConfirmed (d : Nat) (id : FabId) : Statement (.acknowledgementReceiptConfirmed d id) := of_event rfl
theorem correctedError (d : Nat) (ue : Option Nat) : Statement (.correctedError d ue) := of_event rfl

end Sys2Proof.Laws.HeadWord
end

