-- ==== Sys2Proof/Laws/Regs.lean ====
section
/-! SUPPORT. Laws of the register files: a write of v_j in a set of lanes is read in those lanes of that register and nowhere else. -/

namespace Sys2Proof.Machine

theorem vwrite_rf (b : Block) (wp : Warp) (j L k : Nat) (x : Word) : mget 0#32 (b.vwrite wp j L x).rf k =
    if wp.rows[j]?.any (fun r => decide (k = 32 * r + L)) then x else mget 0#32 b.rf k := by
  unfold Block.vwrite
  split
  · rename_i r h; rw [h]; simp [mget_mset]
  · rename_i h; rw [h]; rfl
@[simp] theorem vwrite_warps (b : Block) (wp : Warp) (j L : Nat) (x : Word) : (b.vwrite wp j L x).warps = b.warps := by
  unfold Block.vwrite; split <;> rfl
theorem vwriteList_rf (wp : Warp) (j : Nat) (f : Nat → Word) (l : List Nat) (hl : ∀ L ∈ l, L < 32) (b : Block) (r L : Nat) (hL : L < 32) :
    mget 0#32 (l.foldl (fun b L => b.vwrite wp j L (f L)) b).rf (32 * r + L)
      = if wp.rows[j]? = some r ∧ L ∈ l then f L else mget 0#32 b.rf (32 * r + L) := by
  induction l generalizing b with
  | nil => simp
  | cons a l ih =>
    have ha := hl a (by simp)
    rw [List.foldl_cons, ih (fun x hx => hl x (by simp [hx])), vwrite_rf]
    by_cases h2 : wp.rows[j]? = some r ∧ L ∈ l
    · rw [if_pos h2, if_pos ⟨h2.1, List.mem_cons_of_mem _ h2.2⟩]
    · rw [if_neg h2]
      cases h : wp.rows[j]? with
      | none => simp
      | some q =>
        by_cases h3 : q = r ∧ a = L
        · obtain ⟨rfl, rfl⟩ := h3; simp
        · rw [if_neg (by simp; omega), if_neg]
          rintro ⟨h4, h5⟩
          rcases List.mem_cons.1 h5 with h5 | h5
          · exact h3 ⟨by simpa using h4, h5.symm⟩
          · exact h2 ⟨h ▸ h4, h5⟩
theorem vwriteList_warps (wp : Warp) (j : Nat) (f : Nat → Word) (l : List Nat) (b : Block) :
    (l.foldl (fun b L => b.vwrite wp j L (f L)) b).warps = b.warps := by
  induction l generalizing b with
  | nil => rfl
  | cons a l ih => rw [List.foldl_cons, ih, vwrite_warps]
@[simp] theorem vwriteLanes_warps (b : Block) (wp : Warp) (j : Nat) (m : Mask) (f : Nat → Word) : (b.vwriteLanes wp j m f).warps = b.warps :=
  vwriteList_warps wp j f _ b

end Sys2Proof.Machine
end

