-- ==== Sys2Proof/Laws/Words.lean ====
section
/-! SUPPORT. Every word but the quartet forms is `issue` of its own checks and its own effect, so that what `issue` can answer holds of it. -/

namespace Sys2Proof.Machine

theorem word_nop {f} {s : State} : ∃ g lit pre act, exec (.nop f) s = issue (.nop f) g lit s pre act := by
  rw [exec_nop]; unfold execNop; exact ⟨_, _, _, _, rfl⟩
theorem word_bra {f} {s : State} : ∃ g lit pre act, exec (.bra f) s = issue (.bra f) g lit s pre act := by
  rw [exec_bra]; unfold execBra; exact ⟨_, _, _, _, rfl⟩
theorem word_brx {f} {s : State} : ∃ g lit pre act, exec (.brx f) s = issue (.brx f) g lit s pre act := by
  rw [exec_brx]; unfold execBrx; exact ⟨_, _, _, _, rfl⟩
theorem word_call {f} {s : State} : ∃ g lit pre act, exec (.call f) s = issue (.call f) g lit s pre act := by
  rw [exec_call]; unfold execCall; exact ⟨_, _, _, _, rfl⟩
theorem word_callx {f} {s : State} : ∃ g lit pre act, exec (.callx f) s = issue (.callx f) g lit s pre act := by
  rw [exec_callx]; unfold execCallx; exact ⟨_, _, _, _, rfl⟩
theorem word_ret {f} {s : State} : ∃ g lit pre act, exec (.ret f) s = issue (.ret f) g lit s pre act := by
  rw [exec_ret]; unfold execRet; exact ⟨_, _, _, _, rfl⟩
theorem word_loop {f} {s : State} : ∃ g lit pre act, exec (.loop f) s = issue (.loop f) g lit s pre act := by
  rw [exec_loop]; unfold execLoop; exact ⟨_, _, _, _, rfl⟩
theorem word_rpt {f} {s : State} : ∃ g lit pre act, exec (.rpt f) s = issue (.rpt f) g lit s pre act := by
  rw [exec_rpt]; unfold execRpt; exact ⟨_, _, _, _, rfl⟩
theorem word_exit {f} {s : State} : ∃ g lit pre act, exec (.exit f) s = issue (.exit f) g lit s pre act := by
  rw [exec_exit]; unfold execExit; exact ⟨_, _, _, _, rfl⟩
theorem word_exits {f} {s : State} : ∃ g lit pre act, exec (.exits f) s = issue (.exits f) g lit s pre act := by
  rw [exec_exits]; unfold execExits; exact ⟨_, _, _, _, rfl⟩
theorem word_bar {f} {s : State} : ∃ g lit pre act, exec (.bar f) s = issue (.bar f) g lit s pre act := by
  rw [exec_bar]; unfold execBar; exact ⟨_, _, _, _, rfl⟩
theorem word_bara {f} {s : State} : ∃ g lit pre act, exec (.bara f) s = issue (.bara f) g lit s pre act := by
  rw [exec_bara]; unfold execBara; exact ⟨_, _, _, _, rfl⟩
theorem word_barm {f} {s : State} : ∃ g lit pre act, exec (.barm f) s = issue (.barm f) g lit s pre act := by
  rw [exec_barm]; unfold execBarm; exact ⟨_, _, _, _, rfl⟩
theorem word_barw {f} {s : State} : ∃ g lit pre act, exec (.barw f) s = issue (.barw f) g lit s pre act := by
  rw [exec_barw]; unfold execBarw; exact ⟨_, _, _, _, rfl⟩
theorem word_yield {f} {s : State} : ∃ g lit pre act, exec (.yield f) s = issue (.yield f) g lit s pre act := by
  rw [exec_yield]; unfold execYield; exact ⟨_, _, _, _, rfl⟩
theorem word_vote {f} {s : State} : ∃ g lit pre act, exec (.vote f) s = issue (.vote f) g lit s pre act := by
  rw [exec_vote]; unfold execVote; exact ⟨_, _, _, _, rfl⟩
theorem word_plop {f} {s : State} : ∃ g lit pre act, exec (.plop f) s = issue (.plop f) g lit s pre act := by
  rw [exec_plop]; unfold execPlop; exact ⟨_, _, _, _, rfl⟩
theorem word_movs {f} {s : State} : ∃ g lit pre act, exec (.movs f) s = issue (.movs f) g lit s pre act := by
  rw [exec_movs]; unfold execMovs; exact ⟨_, _, _, _, rfl⟩
theorem word_smov {f} {s : State} : ∃ g lit pre act, exec (.smov f) s = issue (.smov f) g lit s pre act := by
  rw [exec_smov]; unfold execSmov; exact ⟨_, _, _, _, rfl⟩
theorem word_reggive {f} {s : State} : ∃ g lit pre act, exec (.reggive f) s = issue (.reggive f) g lit s pre act := by
  rw [exec_reggive]; unfold execReggive; exact ⟨_, _, _, _, rfl⟩
theorem word_regclaim {f} {s : State} : ∃ g lit pre act, exec (.regclaim f) s = issue (.regclaim f) g lit s pre act := by
  rw [exec_regclaim]; unfold execRegclaim; exact ⟨_, _, _, _, rfl⟩
theorem word_settid {f} {s : State} : ∃ g lit pre act, exec (.settid f) s = issue (.settid f) g lit s pre act := by
  rw [exec_settid]; unfold execSettid; exact ⟨_, _, _, _, rfl⟩
theorem word_qbind {f} {s : State} : ∃ g lit pre act, exec (.qbind f) s = issue (.qbind f) g lit s pre act := by
  rw [exec_qbind]; unfold execQbind; exact ⟨_, _, _, _, rfl⟩
theorem word_chput {f} {s : State} : ∃ g lit pre act, exec (.chput f) s = issue (.chput f) g lit s pre act := by
  rw [exec_chput]; unfold execChput; exact ⟨_, _, _, _, rfl⟩
theorem word_chget {f} {s : State} : ∃ g lit pre act, exec (.chget f) s = issue (.chget f) g lit s pre act := by
  rw [exec_chget]; unfold execChget; exact ⟨_, _, _, _, rfl⟩
theorem word_chclose {f} {s : State} : ∃ g lit pre act, exec (.chclose f) s = issue (.chclose f) g lit s pre act := by
  rw [exec_chclose]; unfold execChclose; exact ⟨_, _, _, _, rfl⟩
theorem word_sleep {f} {s : State} : ∃ g lit pre act, exec (.sleep f) s = issue (.sleep f) g lit s pre act := by
  rw [exec_sleep]; unfold execSleep; exact ⟨_, _, _, _, rfl⟩
theorem word_trap {f} {s : State} : ∃ g lit pre act, exec (.trap f) s = issue (.trap f) g lit s pre act := by
  rw [exec_trap]; unfold execTrap; exact ⟨_, _, _, _, rfl⟩
theorem word_assert {f} {s : State} : ∃ g lit pre act, exec (.assert f) s = issue (.assert f) g lit s pre act := by
  rw [exec_assert]; unfold execAssert; exact ⟨_, _, _, _, rfl⟩
theorem word_tret {f} {s : State} : ∃ g lit pre act, exec (.tret f) s = issue (.tret f) g lit s pre act := by
  rw [exec_tret]; unfold execTret; exact ⟨_, _, _, _, rfl⟩
theorem word_kill {f} {s : State} : ∃ g lit pre act, exec (.kill f) s = issue (.kill f) g lit s pre act := by
  rw [exec_kill]; unfold execKill; exact ⟨_, _, _, _, rfl⟩
theorem word_movsys {f} {s : State} : ∃ g lit pre act, exec (.movsys f) s = issue (.movsys f) g lit s pre act := by
  rw [exec_movsys]; unfold execMovsys; exact ⟨_, _, _, _, rfl⟩
theorem word_movsysW {f} {s : State} : ∃ g lit pre act, exec (.movsysW f) s = issue (.movsysW f) g lit s pre act := by
  rw [exec_movsysW]; unfold execMovsysW; exact ⟨_, _, _, _, rfl⟩
theorem word_iadd {f} {s : State} : ∃ g lit pre act, exec (.iadd f) s = issue (.iadd f) g lit s pre act := by
  rw [exec_iadd]; unfold execIadd; exact ⟨_, _, _, _, rfl⟩
theorem word_isub {f} {s : State} : ∃ g lit pre act, exec (.isub f) s = issue (.isub f) g lit s pre act := by
  rw [exec_isub]; unfold execIsub; exact ⟨_, _, _, _, rfl⟩
theorem word_imul {f} {s : State} : ∃ g lit pre act, exec (.imul f) s = issue (.imul f) g lit s pre act := by
  rw [exec_imul]; unfold execImul; exact ⟨_, _, _, _, rfl⟩
theorem word_imulh {f} {s : State} : ∃ g lit pre act, exec (.imulh f) s = issue (.imulh f) g lit s pre act := by
  rw [exec_imulh]; unfold execImulh; exact ⟨_, _, _, _, rfl⟩
theorem word_imad {f} {s : State} : ∃ g lit pre act, exec (.imad f) s = issue (.imad f) g lit s pre act := by
  rw [exec_imad]; unfold execImad; exact ⟨_, _, _, _, rfl⟩
theorem word_imin {f} {s : State} : ∃ g lit pre act, exec (.imin f) s = issue (.imin f) g lit s pre act := by
  rw [exec_imin]; unfold execImin; exact ⟨_, _, _, _, rfl⟩
theorem word_imax {f} {s : State} : ∃ g lit pre act, exec (.imax f) s = issue (.imax f) g lit s pre act := by
  rw [exec_imax]; unfold execImax; exact ⟨_, _, _, _, rfl⟩
theorem word_iabs {f} {s : State} : ∃ g lit pre act, exec (.iabs f) s = issue (.iabs f) g lit s pre act := by
  rw [exec_iabs]; unfold execIabs; exact ⟨_, _, _, _, rfl⟩
theorem word_and {f} {s : State} : ∃ g lit pre act, exec (.and f) s = issue (.and f) g lit s pre act := by
  rw [exec_and]; unfold execAnd; exact ⟨_, _, _, _, rfl⟩
theorem word_or {f} {s : State} : ∃ g lit pre act, exec (.or f) s = issue (.or f) g lit s pre act := by
  rw [exec_or]; unfold execOr; exact ⟨_, _, _, _, rfl⟩
theorem word_xor {f} {s : State} : ∃ g lit pre act, exec (.xor f) s = issue (.xor f) g lit s pre act := by
  rw [exec_xor]; unfold execXor; exact ⟨_, _, _, _, rfl⟩
theorem word_not {f} {s : State} : ∃ g lit pre act, exec (.not f) s = issue (.not f) g lit s pre act := by
  rw [exec_not]; unfold execNot; exact ⟨_, _, _, _, rfl⟩
theorem word_shl {f} {s : State} : ∃ g lit pre act, exec (.shl f) s = issue (.shl f) g lit s pre act := by
  rw [exec_shl]; unfold execShl; exact ⟨_, _, _, _, rfl⟩
theorem word_shr {f} {s : State} : ∃ g lit pre act, exec (.shr f) s = issue (.shr f) g lit s pre act := by
  rw [exec_shr]; unfold execShr; exact ⟨_, _, _, _, rfl⟩
theorem word_shra {f} {s : State} : ∃ g lit pre act, exec (.shra f) s = issue (.shra f) g lit s pre act := by
  rw [exec_shra]; unfold execShra; exact ⟨_, _, _, _, rfl⟩
theorem word_rot {f} {s : State} : ∃ g lit pre act, exec (.rot f) s = issue (.rot f) g lit s pre act := by
  rw [exec_rot]; unfold execRot; exact ⟨_, _, _, _, rfl⟩
theorem word_popc {f} {s : State} : ∃ g lit pre act, exec (.popc f) s = issue (.popc f) g lit s pre act := by
  rw [exec_popc]; unfold execPopc; exact ⟨_, _, _, _, rfl⟩
theorem word_clz {f} {s : State} : ∃ g lit pre act, exec (.clz f) s = issue (.clz f) g lit s pre act := by
  rw [exec_clz]; unfold execClz; exact ⟨_, _, _, _, rfl⟩
theorem word_brev {f} {s : State} : ∃ g lit pre act, exec (.brev f) s = issue (.brev f) g lit s pre act := by
  rw [exec_brev]; unfold execBrev; exact ⟨_, _, _, _, rfl⟩
theorem word_bfe {f} {s : State} : ∃ g lit pre act, exec (.bfe f) s = issue (.bfe f) g lit s pre act := by
  rw [exec_bfe]; unfold execBfe; exact ⟨_, _, _, _, rfl⟩
theorem word_bfi {f} {s : State} : ∃ g lit pre act, exec (.bfi f) s = issue (.bfi f) g lit s pre act := by
  rw [exec_bfi]; unfold execBfi; exact ⟨_, _, _, _, rfl⟩
theorem word_bymix {f} {s : State} : ∃ g lit pre act, exec (.bymix f) s = issue (.bymix f) g lit s pre act := by
  rw [exec_bymix]; unfold execBymix; exact ⟨_, _, _, _, rfl⟩
theorem word_sel {f} {s : State} : ∃ g lit pre act, exec (.sel f) s = issue (.sel f) g lit s pre act := by
  rw [exec_sel]; unfold execSel; exact ⟨_, _, _, _, rfl⟩
theorem word_icmp {f} {s : State} : ∃ g lit pre act, exec (.icmp f) s = issue (.icmp f) g lit s pre act := by
  rw [exec_icmp]; unfold execIcmp; exact ⟨_, _, _, _, rfl⟩
theorem word_mov {f} {s : State} : ∃ g lit pre act, exec (.mov f) s = issue (.mov f) g lit s pre act := by
  rw [exec_mov]; unfold execMov; exact ⟨_, _, _, _, rfl⟩
theorem word_movi {f} {s : State} : ∃ g lit pre act, exec (.movi f) s = issue (.movi f) g lit s pre act := by
  rw [exec_movi]; unfold execMovi; exact ⟨_, _, _, _, rfl⟩
theorem word_iacc {f} {s : State} : ∃ g lit pre act, exec (.iacc f) s = issue (.iacc f) g lit s pre act := by
  rw [exec_iacc]; unfold execIacc; exact ⟨_, _, _, _, rfl⟩
theorem word_isad {f} {s : State} : ∃ g lit pre act, exec (.isad f) s = issue (.isad f) g lit s pre act := by
  rw [exec_isad]; unfold execIsad; exact ⟨_, _, _, _, rfl⟩
theorem word_idot4 {f} {s : State} : ∃ g lit pre act, exec (.idot4 f) s = issue (.idot4 f) g lit s pre act := by
  rw [exec_idot4]; unfold execIdot4; exact ⟨_, _, _, _, rfl⟩
theorem word_fadd {f} {s : State} : ∃ g lit pre act, exec (.fadd f) s = issue (.fadd f) g lit s pre act := by
  rw [exec_fadd]; unfold execFadd; exact ⟨_, _, _, _, rfl⟩
theorem word_fsub {f} {s : State} : ∃ g lit pre act, exec (.fsub f) s = issue (.fsub f) g lit s pre act := by
  rw [exec_fsub]; unfold execFsub; exact ⟨_, _, _, _, rfl⟩
theorem word_fmul {f} {s : State} : ∃ g lit pre act, exec (.fmul f) s = issue (.fmul f) g lit s pre act := by
  rw [exec_fmul]; unfold execFmul; exact ⟨_, _, _, _, rfl⟩
theorem word_ffma {f} {s : State} : ∃ g lit pre act, exec (.ffma f) s = issue (.ffma f) g lit s pre act := by
  rw [exec_ffma]; unfold execFfma; exact ⟨_, _, _, _, rfl⟩
theorem word_fmin {f} {s : State} : ∃ g lit pre act, exec (.fmin f) s = issue (.fmin f) g lit s pre act := by
  rw [exec_fmin]; unfold execFmin; exact ⟨_, _, _, _, rfl⟩
theorem word_fmax {f} {s : State} : ∃ g lit pre act, exec (.fmax f) s = issue (.fmax f) g lit s pre act := by
  rw [exec_fmax]; unfold execFmax; exact ⟨_, _, _, _, rfl⟩
theorem word_fcmp {f} {s : State} : ∃ g lit pre act, exec (.fcmp f) s = issue (.fcmp f) g lit s pre act := by
  rw [exec_fcmp]; unfold execFcmp; exact ⟨_, _, _, _, rfl⟩
theorem word_frnd {f} {s : State} : ∃ g lit pre act, exec (.frnd f) s = issue (.frnd f) g lit s pre act := by
  rw [exec_frnd]; unfold execFrnd; exact ⟨_, _, _, _, rfl⟩
theorem word_fclmp {f} {s : State} : ∃ g lit pre act, exec (.fclmp f) s = issue (.fclmp f) g lit s pre act := by
  rw [exec_fclmp]; unfold execFclmp; exact ⟨_, _, _, _, rfl⟩
theorem word_fscale {f} {s : State} : ∃ g lit pre act, exec (.fscale f) s = issue (.fscale f) g lit s pre act := by
  rw [exec_fscale]; unfold execFscale; exact ⟨_, _, _, _, rfl⟩
theorem word_fexp {f} {s : State} : ∃ g lit pre act, exec (.fexp f) s = issue (.fexp f) g lit s pre act := by
  rw [exec_fexp]; unfold execFexp; exact ⟨_, _, _, _, rfl⟩
theorem word_addmin {f} {s : State} : ∃ g lit pre act, exec (.addmin f) s = issue (.addmin f) g lit s pre act := by
  rw [exec_addmin]; unfold execAddmin; exact ⟨_, _, _, _, rfl⟩
theorem word_addmax {f} {s : State} : ∃ g lit pre act, exec (.addmax f) s = issue (.addmax f) g lit s pre act := by
  rw [exec_addmax]; unfold execAddmax; exact ⟨_, _, _, _, rfl⟩
theorem word_rcp {f} {s : State} : ∃ g lit pre act, exec (.rcp f) s = issue (.rcp f) g lit s pre act := by
  rw [exec_rcp]; unfold execRcp; exact ⟨_, _, _, _, rfl⟩
theorem word_rsq {f} {s : State} : ∃ g lit pre act, exec (.rsq f) s = issue (.rsq f) g lit s pre act := by
  rw [exec_rsq]; unfold execRsq; exact ⟨_, _, _, _, rfl⟩
theorem word_sqrt {f} {s : State} : ∃ g lit pre act, exec (.sqrt f) s = issue (.sqrt f) g lit s pre act := by
  rw [exec_sqrt]; unfold execSqrt; exact ⟨_, _, _, _, rfl⟩
theorem word_exp2 {f} {s : State} : ∃ g lit pre act, exec (.exp2 f) s = issue (.exp2 f) g lit s pre act := by
  rw [exec_exp2]; unfold execExp2; exact ⟨_, _, _, _, rfl⟩
theorem word_log2 {f} {s : State} : ∃ g lit pre act, exec (.log2 f) s = issue (.log2 f) g lit s pre act := by
  rw [exec_log2]; unfold execLog2; exact ⟨_, _, _, _, rfl⟩
theorem word_hadd2 {f} {s : State} : ∃ g lit pre act, exec (.hadd2 f) s = issue (.hadd2 f) g lit s pre act := by
  rw [exec_hadd2]; unfold execHadd2; exact ⟨_, _, _, _, rfl⟩
theorem word_hmul2 {f} {s : State} : ∃ g lit pre act, exec (.hmul2 f) s = issue (.hmul2 f) g lit s pre act := by
  rw [exec_hmul2]; unfold execHmul2; exact ⟨_, _, _, _, rfl⟩
theorem word_hfma2 {f} {s : State} : ∃ g lit pre act, exec (.hfma2 f) s = issue (.hfma2 f) g lit s pre act := by
  rw [exec_hfma2]; unfold execHfma2; exact ⟨_, _, _, _, rfl⟩
theorem word_hmin2 {f} {s : State} : ∃ g lit pre act, exec (.hmin2 f) s = issue (.hmin2 f) g lit s pre act := by
  rw [exec_hmin2]; unfold execHmin2; exact ⟨_, _, _, _, rfl⟩
theorem word_hmax2 {f} {s : State} : ∃ g lit pre act, exec (.hmax2 f) s = issue (.hmax2 f) g lit s pre act := by
  rw [exec_hmax2]; unfold execHmax2; exact ⟨_, _, _, _, rfl⟩
theorem word_dot2 {f} {s : State} : ∃ g lit pre act, exec (.dot2 f) s = issue (.dot2 f) g lit s pre act := by
  rw [exec_dot2]; unfold execDot2; exact ⟨_, _, _, _, rfl⟩
theorem word_cvt {f} {s : State} : ∃ g lit pre act, exec (.cvt f) s = issue (.cvt f) g lit s pre act := by
  rw [exec_cvt]; unfold execCvt; exact ⟨_, _, _, _, rfl⟩
theorem word_pkcv {f} {s : State} : ∃ g lit pre act, exec (.pkcv f) s = issue (.pkcv f) g lit s pre act := by
  rw [exec_pkcv]; unfold execPkcv; exact ⟨_, _, _, _, rfl⟩
theorem word_xpcv {f} {s : State} : ∃ g lit pre act, exec (.xpcv f) s = issue (.xpcv f) g lit s pre act := by
  rw [exec_xpcv]; unfold execXpcv; exact ⟨_, _, _, _, rfl⟩
theorem word_scext {f} {s : State} : ∃ g lit pre act, exec (.scext f) s = issue (.scext f) g lit s pre act := by
  rw [exec_scext]; unfold execScext; exact ⟨_, _, _, _, rfl⟩
theorem word_scins {f} {s : State} : ∃ g lit pre act, exec (.scins f) s = issue (.scins f) g lit s pre act := by
  rw [exec_scins]; unfold execScins; exact ⟨_, _, _, _, rfl⟩
theorem word_scmax {f} {s : State} : ∃ g lit pre act, exec (.scmax f) s = issue (.scmax f) g lit s pre act := by
  rw [exec_scmax]; unfold execScmax; exact ⟨_, _, _, _, rfl⟩
theorem word_dot4 {f} {s : State} : ∃ g lit pre act, exec (.dot4 f) s = issue (.dot4 f) g lit s pre act := by
  rw [exec_dot4]; unfold execDot4; exact ⟨_, _, _, _, rfl⟩
theorem word_pack {f} {s : State} : ∃ g lit pre act, exec (.pack f) s = issue (.pack f) g lit s pre act := by
  rw [exec_pack]; unfold execPack; exact ⟨_, _, _, _, rfl⟩
theorem word_qxch {f} {s : State} : ∃ g lit pre act, exec (.qxch f) s = issue (.qxch f) g lit s pre act := by
  rw [exec_qxch]; unfold execQxch; exact ⟨_, _, _, _, rfl⟩
theorem word_qbc {f} {s : State} : ∃ g lit pre act, exec (.qbc f) s = issue (.qbc f) g lit s pre act := by
  rw [exec_qbc]; unfold execQbc; exact ⟨_, _, _, _, rfl⟩
theorem word_qsum {f} {s : State} : ∃ g lit pre act, exec (.qsum f) s = issue (.qsum f) g lit s pre act := by
  rw [exec_qsum]; unfold execQsum; exact ⟨_, _, _, _, rfl⟩
theorem word_lshf {f} {s : State} : ∃ g lit pre act, exec (.lshf f) s = issue (.lshf f) g lit s pre act := by
  rw [exec_lshf]; unfold execLshf; exact ⟨_, _, _, _, rfl⟩
theorem word_lrot {f} {s : State} : ∃ g lit pre act, exec (.lrot f) s = issue (.lrot f) g lit s pre act := by
  rw [exec_lrot]; unfold execLrot; exact ⟨_, _, _, _, rfl⟩
theorem word_lbc {f} {s : State} : ∃ g lit pre act, exec (.lbc f) s = issue (.lbc f) g lit s pre act := by
  rw [exec_lbc]; unfold execLbc; exact ⟨_, _, _, _, rfl⟩
theorem word_lidx {f} {s : State} : ∃ g lit pre act, exec (.lidx f) s = issue (.lidx f) g lit s pre act := by
  rw [exec_lidx]; unfold execLidx; exact ⟨_, _, _, _, rfl⟩
theorem word_wred {f} {s : State} : ∃ g lit pre act, exec (.wred f) s = issue (.wred f) g lit s pre act := by
  rw [exec_wred]; unfold execWred; exact ⟨_, _, _, _, rfl⟩
theorem word_wscan {f} {s : State} : ∃ g lit pre act, exec (.wscan f) s = issue (.wscan f) g lit s pre act := by
  rw [exec_wscan]; unfold execWscan; exact ⟨_, _, _, _, rfl⟩
theorem word_rnds {f} {s : State} : ∃ g lit pre act, exec (.rnds f) s = issue (.rnds f) g lit s pre act := by
  rw [exec_rnds]; unfold execRnds; exact ⟨_, _, _, _, rfl⟩
theorem word_rnd {f} {s : State} : ∃ g lit pre act, exec (.rnd f) s = issue (.rnd f) g lit s pre act := by
  rw [exec_rnd]; unfold execRnd; exact ⟨_, _, _, _, rfl⟩
theorem word_ld {f} {s : State} : ∃ g lit pre act, exec (.ld f) s = issue (.ld f) g lit s pre act := by
  rw [exec_ld]; unfold execLd; exact ⟨_, _, _, _, rfl⟩
theorem word_st {f} {s : State} : ∃ g lit pre act, exec (.st f) s = issue (.st f) g lit s pre act := by
  rw [exec_st]; unfold execSt; exact ⟨_, _, _, _, rfl⟩
theorem word_ldx {f} {s : State} : ∃ g lit pre act, exec (.ldx f) s = issue (.ldx f) g lit s pre act := by
  rw [exec_ldx]; unfold execLdx; exact ⟨_, _, _, _, rfl⟩
theorem word_stx {f} {s : State} : ∃ g lit pre act, exec (.stx f) s = issue (.stx f) g lit s pre act := by
  rw [exec_stx]; unfold execStx; exact ⟨_, _, _, _, rfl⟩
theorem word_ldw {f} {s : State} : ∃ g lit pre act, exec (.ldw f) s = issue (.ldw f) g lit s pre act := by
  rw [exec_ldw]; unfold execLdw; exact ⟨_, _, _, _, rfl⟩
theorem word_stw {f} {s : State} : ∃ g lit pre act, exec (.stw f) s = issue (.stw f) g lit s pre act := by
  rw [exec_stw]; unfold execStw; exact ⟨_, _, _, _, rfl⟩
theorem word_ldmx {f} {s : State} : ∃ g lit pre act, exec (.ldmx f) s = issue (.ldmx f) g lit s pre act := by
  rw [exec_ldmx]; unfold execLdmx; exact ⟨_, _, _, _, rfl⟩
theorem word_stmx {f} {s : State} : ∃ g lit pre act, exec (.stmx f) s = issue (.stmx f) g lit s pre act := by
  rw [exec_stmx]; unfold execStmx; exact ⟨_, _, _, _, rfl⟩
theorem word_ldn {f} {s : State} : ∃ g lit pre act, exec (.ldn f) s = issue (.ldn f) g lit s pre act := by
  rw [exec_ldn]; unfold execLdn; exact ⟨_, _, _, _, rfl⟩
theorem word_stn {f} {s : State} : ∃ g lit pre act, exec (.stn f) s = issue (.stn f) g lit s pre act := by
  rw [exec_stn]; unfold execStn; exact ⟨_, _, _, _, rfl⟩
theorem word_pref {f} {s : State} : ∃ g lit pre act, exec (.pref f) s = issue (.pref f) g lit s pre act := by
  rw [exec_pref]; unfold execPref; exact ⟨_, _, _, _, rfl⟩
theorem word_fence {f} {s : State} : ∃ g lit pre act, exec (.fence f) s = issue (.fence f) g lit s pre act := by
  rw [exec_fence]; unfold execFence; exact ⟨_, _, _, _, rfl⟩
theorem word_cwb {f} {s : State} : ∃ g lit pre act, exec (.cwb f) s = issue (.cwb f) g lit s pre act := by
  rw [exec_cwb]; unfold execCwb; exact ⟨_, _, _, _, rfl⟩
theorem word_cinv {f} {s : State} : ∃ g lit pre act, exec (.cinv f) s = issue (.cinv f) g lit s pre act := by
  rw [exec_cinv]; unfold execCinv; exact ⟨_, _, _, _, rfl⟩
theorem word_setb {f} {s : State} : ∃ g lit pre act, exec (.setb f) s = issue (.setb f) g lit s pre act := by
  rw [exec_setb]; unfold execSetb; exact ⟨_, _, _, _, rfl⟩
theorem word_ldb {f} {s : State} : ∃ g lit pre act, exec (.ldb f) s = issue (.ldb f) g lit s pre act := by
  rw [exec_ldb]; unfold execLdb; exact ⟨_, _, _, _, rfl⟩
theorem word_badd {f} {s : State} : ∃ g lit pre act, exec (.badd f) s = issue (.badd f) g lit s pre act := by
  rw [exec_badd]; unfold execBadd; exact ⟨_, _, _, _, rfl⟩
theorem word_lds {f} {s : State} : ∃ g lit pre act, exec (.lds f) s = issue (.lds f) g lit s pre act := by
  rw [exec_lds]; unfold execLds; exact ⟨_, _, _, _, rfl⟩
theorem word_mms {f} {s : State} : ∃ g lit pre act, exec (.mms f) s = issue (.mms f) g lit s pre act := by
  rw [exec_mms]; unfold execMms; exact ⟨_, _, _, _, rfl⟩
theorem word_mmss {f} {s : State} : ∃ g lit pre act, exec (.mmss f) s = issue (.mmss f) g lit s pre act := by
  rw [exec_mmss]; unfold execMmss; exact ⟨_, _, _, _, rfl⟩
theorem word_mmz {f} {s : State} : ∃ g lit pre act, exec (.mmz f) s = issue (.mmz f) g lit s pre act := by
  rw [exec_mmz]; unfold execMmz; exact ⟨_, _, _, _, rfl⟩
theorem word_accmv {f} {s : State} : ∃ g lit pre act, exec (.accmv f) s = issue (.accmv f) g lit s pre act := by
  rw [exec_accmv]; unfold execAccmv; exact ⟨_, _, _, _, rfl⟩
theorem word_accld {f} {s : State} : ∃ g lit pre act, exec (.accld f) s = issue (.accld f) g lit s pre act := by
  rw [exec_accld]; unfold execAccld; exact ⟨_, _, _, _, rfl⟩
theorem word_accsc {f} {s : State} : ∃ g lit pre act, exec (.accsc f) s = issue (.accsc f) g lit s pre act := by
  rw [exec_accsc]; unfold execAccsc; exact ⟨_, _, _, _, rfl⟩
theorem word_acccv {f} {s : State} : ∃ g lit pre act, exec (.acccv f) s = issue (.acccv f) g lit s pre act := by
  rw [exec_acccv]; unfold execAcccv; exact ⟨_, _, _, _, rfl⟩
theorem word_spld {f} {s : State} : ∃ g lit pre act, exec (.spld f) s = issue (.spld f) g lit s pre act := by
  rw [exec_spld]; unfold execSpld; exact ⟨_, _, _, _, rfl⟩
theorem word_dst {f} {s : State} : ∃ g lit pre act, exec (.dst f) s = issue (.dst f) g lit s pre act := by
  rw [exec_dst]; unfold execDst; exact ⟨_, _, _, _, rfl⟩
theorem word_dsta {f} {s : State} : ∃ g lit pre act, exec (.dsta f) s = issue (.dsta f) g lit s pre act := by
  rw [exec_dsta]; unfold execDsta; exact ⟨_, _, _, _, rfl⟩
theorem word_dstm {f} {s : State} : ∃ g lit pre act, exec (.dstm f) s = issue (.dstm f) g lit s pre act := by
  rw [exec_dstm]; unfold execDstm; exact ⟨_, _, _, _, rfl⟩
theorem word_dstv {f} {s : State} : ∃ g lit pre act, exec (.dstv f) s = issue (.dstv f) g lit s pre act := by
  rw [exec_dstv]; unfold execDstv; exact ⟨_, _, _, _, rfl⟩
theorem word_atom {f} {s : State} : ∃ g lit pre act, exec (.atom f) s = issue (.atom f) g lit s pre act := by
  rw [exec_atom]; unfold execAtom; exact ⟨_, _, _, _, rfl⟩
theorem word_atomc {f} {s : State} : ∃ g lit pre act, exec (.atomc f) s = issue (.atomc f) g lit s pre act := by
  rw [exec_atomc]; unfold execAtomc; exact ⟨_, _, _, _, rfl⟩
theorem word_red {f} {s : State} : ∃ g lit pre act, exec (.red f) s = issue (.red f) g lit s pre act := by
  rw [exec_red]; unfold execRed; exact ⟨_, _, _, _, rfl⟩
theorem word_dfence {f} {s : State} : ∃ g lit pre act, exec (.dfence f) s = issue (.dfence f) g lit s pre act := by
  rw [exec_dfence]; unfold execDfence issueDrn; exact ⟨_, _, _, _, rfl⟩
theorem word_cpy {f} {s : State} : ∃ g lit pre act, exec (.cpy f) s = issue (.cpy f) g lit s pre act := by
  rw [exec_cpy]; unfold execCpy; exact ⟨_, _, _, _, rfl⟩
theorem word_cpy2 {f} {s : State} : ∃ g lit pre act, exec (.cpy2 f) s = issue (.cpy2 f) g lit s pre act := by
  rw [exec_cpy2]; unfold execCpy2; exact ⟨_, _, _, _, rfl⟩
theorem word_cpym {f} {s : State} : ∃ g lit pre act, exec (.cpym f) s = issue (.cpym f) g lit s pre act := by
  rw [exec_cpym]; unfold execCpym; exact ⟨_, _, _, _, rfl⟩
theorem word_cpytProm {f} {s : State} : ∃ g lit pre act, exec (.cpytProm f) s = issue (.cpytProm f) g lit s pre act := by
  rw [exec_cpytProm]; unfold execCpytProm; exact ⟨_, _, _, _, rfl⟩
theorem word_cpytEvct {f} {s : State} : ∃ g lit pre act, exec (.cpytEvct f) s = issue (.cpytEvct f) g lit s pre act := by
  rw [exec_cpytEvct]; unfold execCpytEvct; exact ⟨_, _, _, _, rfl⟩
theorem word_cpytScr {f} {s : State} : ∃ g lit pre act, exec (.cpytScr f) s = issue (.cpytScr f) g lit s pre act := by
  rw [exec_cpytScr]; unfold execCpytScr; exact ⟨_, _, _, _, rfl⟩
theorem word_cpytGlb {f} {s : State} : ∃ g lit pre act, exec (.cpytGlb f) s = issue (.cpytGlb f) g lit s pre act := by
  rw [exec_cpytGlb]; unfold execCpytGlb; exact ⟨_, _, _, _, rfl⟩
theorem word_cpyw {f} {s : State} : ∃ g lit pre act, exec (.cpyw f) s = issue (.cpyw f) g lit s pre act := by
  rw [exec_cpyw]; unfold execCpyw; exact ⟨_, _, _, _, rfl⟩
theorem word_waitt {f} {s : State} : ∃ g lit pre act, exec (.waitt f) s = issue (.waitt f) g lit s pre act := by
  rw [exec_waitt]; unfold execWaitt; exact ⟨_, _, _, _, rfl⟩
theorem word_tqry {f} {s : State} : ∃ g lit pre act, exec (.tqry f) s = issue (.tqry f) g lit s pre act := by
  rw [exec_tqry]; unfold execTqry; exact ⟨_, _, _, _, rfl⟩
theorem word_cpyc {f} {s : State} : ∃ g lit pre act, exec (.cpyc f) s = issue (.cpyc f) g lit s pre act := by
  rw [exec_cpyc]; unfold execCpyc; exact ⟨_, _, _, _, rfl⟩
theorem word_spawn {f} {s : State} : ∃ g lit pre act, exec (.spawn f) s = issue (.spawn f) g lit s pre act := by
  rw [exec_spawn]; unfold execSpawn issueAsy issueWord; exact ⟨_, _, _, _, rfl⟩
theorem word_enq {f} {s : State} : ∃ g lit pre act, exec (.enq f) s = issue (.enq f) g lit s pre act := by
  rw [exec_enq]; unfold execEnq issueAsy issueWord; exact ⟨_, _, _, _, rfl⟩
theorem word_tdec {f} {s : State} : ∃ g lit pre act, exec (.tdec f) s = issue (.tdec f) g lit s pre act := by
  rw [exec_tdec]; unfold execTdec issueAsy issueWord; exact ⟨_, _, _, _, rfl⟩
theorem word_tinc {f} {s : State} : ∃ g lit pre act, exec (.tinc f) s = issue (.tinc f) g lit s pre act := by
  rw [exec_tinc]; unfold execTinc issueAsy issueWord; exact ⟨_, _, _, _, rfl⟩
theorem word_twait {f} {s : State} : ∃ g lit pre act, exec (.twait f) s = issue (.twait f) g lit s pre act := by
  rw [exec_twait]; unfold execTwait issueAsy issueWord; exact ⟨_, _, _, _, rfl⟩
theorem word_tstat {f} {s : State} : ∃ g lit pre act, exec (.tstat f) s = issue (.tstat f) g lit s pre act := by
  rw [exec_tstat]; unfold execTstat issueAsy issueWord; exact ⟨_, _, _, _, rfl⟩
theorem word_tcancel {f} {s : State} : ∃ g lit pre act, exec (.tcancel f) s = issue (.tcancel f) g lit s pre act := by
  rw [exec_tcancel]; unfold execTcancel issueAsy issueWord; exact ⟨_, _, _, _, rfl⟩
theorem word_trearm {f} {s : State} : ∃ g lit pre act, exec (.trearm f) s = issue (.trearm f) g lit s pre act := by
  rw [exec_trearm]; unfold execTrearm issueAsy issueWord; exact ⟨_, _, _, _, rfl⟩
theorem word_vpost {f} {s : State} : ∃ g lit pre act, exec (.vpost f) s = issue (.vpost f) g lit s pre act := by
  rw [exec_vpost]; unfold execVpost issueAsy issueWord; exact ⟨_, _, _, _, rfl⟩
theorem word_vpostf {f} {s : State} : ∃ g lit pre act, exec (.vpostf f) s = issue (.vpostf f) g lit s pre act := by
  rw [exec_vpostf]; unfold execVpostf issueAsy issueWord; exact ⟨_, _, _, _, rfl⟩
theorem word_subs {f} {s : State} : ∃ g lit pre act, exec (.subs f) s = issue (.subs f) g lit s pre act := by
  rw [exec_subs]; unfold execSubs issueAsy issueWord; exact ⟨_, _, _, _, rfl⟩
theorem word_verq {f} {s : State} : ∃ g lit pre act, exec (.verq f) s = issue (.verq f) g lit s pre act := by
  rw [exec_verq]; unfold execVerq issueAsy issueWord; exact ⟨_, _, _, _, rfl⟩
theorem word_rstop {f} {s : State} : ∃ g lit pre act, exec (.rstop f) s = issue (.rstop f) g lit s pre act := by
  rw [exec_rstop]; unfold execRstop issueAsy issueWord; exact ⟨_, _, _, _, rfl⟩
theorem word_grpsetNew {f} {s : State} : ∃ g lit pre act, exec (.grpsetNew f) s = issue (.grpsetNew f) g lit s pre act := by
  rw [exec_grpsetNew]; unfold execGrpsetNew issueAsy issueWord; exact ⟨_, _, _, _, rfl⟩
theorem word_grpsetAdd {f} {s : State} : ∃ g lit pre act, exec (.grpsetAdd f) s = issue (.grpsetAdd f) g lit s pre act := by
  rw [exec_grpsetAdd]; unfold execGrpsetAdd issueAsy issueWord; exact ⟨_, _, _, _, rfl⟩
theorem word_grpsetArm {f} {s : State} : ∃ g lit pre act, exec (.grpsetArm f) s = issue (.grpsetArm f) g lit s pre act := by
  rw [exec_grpsetArm]; unfold execGrpsetArm issueAsy issueWord; exact ⟨_, _, _, _, rfl⟩
theorem word_grpsetFree {f} {s : State} : ∃ g lit pre act, exec (.grpsetFree f) s = issue (.grpsetFree f) g lit s pre act := by
  rw [exec_grpsetFree]; unfold execGrpsetFree issueAsy issueWord; exact ⟨_, _, _, _, rfl⟩
theorem word_shmap {f} {s : State} : ∃ g lit pre act, exec (.shmap f) s = issue (.shmap f) g lit s pre act := by
  rw [exec_shmap]; unfold execShmap issueAsy issueWord; exact ⟨_, _, _, _, rfl⟩
theorem word_shmapFree {f} {s : State} : ∃ g lit pre act, exec (.shmapFree f) s = issue (.shmapFree f) g lit s pre act := by
  rw [exec_shmapFree]; unfold execShmapFree issueAsy issueWord; exact ⟨_, _, _, _, rfl⟩
theorem word_ssack {f} {s : State} : ∃ g lit pre act, exec (.ssack f) s = issue (.ssack f) g lit s pre act := by
  rw [exec_ssack]; unfold execSsack issueAsy issueWord; exact ⟨_, _, _, _, rfl⟩
theorem word_seqld {f} {s : State} : ∃ g lit pre act, exec (.seqld f) s = issue (.seqld f) g lit s pre act := by
  rw [exec_seqld]; unfold execSeqld issueSys issueWord; exact ⟨_, _, _, _, rfl⟩
theorem word_seqgo {f} {s : State} : ∃ g lit pre act, exec (.seqgo f) s = issue (.seqgo f) g lit s pre act := by
  rw [exec_seqgo]; unfold execSeqgo issueSys issueWord; exact ⟨_, _, _, _, rfl⟩
theorem word_seqstop {f} {s : State} : ∃ g lit pre act, exec (.seqstop f) s = issue (.seqstop f) g lit s pre act := by
  rw [exec_seqstop]; unfold execSeqstop issueSys issueWord; exact ⟨_, _, _, _, rfl⟩
theorem word_qset {f} {s : State} : ∃ g lit pre act, exec (.qset f) s = issue (.qset f) g lit s pre act := by
  rw [exec_qset]; unfold execQset issueSys issueWord; exact ⟨_, _, _, _, rfl⟩
theorem word_qdec {f} {s : State} : ∃ g lit pre act, exec (.qdec f) s = issue (.qdec f) g lit s pre act := by
  rw [exec_qdec]; unfold execQdec issueSys issueWord; exact ⟨_, _, _, _, rfl⟩
theorem word_qwait {f} {s : State} : ∃ g lit pre act, exec (.qwait f) s = issue (.qwait f) g lit s pre act := by
  rw [exec_qwait]; unfold execQwait; exact ⟨_, _, _, _, rfl⟩
theorem word_seqsig {f} {s : State} : ∃ g lit pre act, exec (.seqsig f) s = issue (.seqsig f) g lit s pre act := by
  rw [exec_seqsig]; unfold execSeqsig issueSys issueWord; exact ⟨_, _, _, _, rfl⟩
theorem word_seqq {f} {s : State} : ∃ g lit pre act, exec (.seqq f) s = issue (.seqq f) g lit s pre act := by
  rw [exec_seqq]; unfold execSeqq issueSys issueWord; exact ⟨_, _, _, _, rfl⟩
theorem word_pfence {f} {s : State} : ∃ g lit pre act, exec (.pfence f) s = issue (.pfence f) g lit s pre act := by
  rw [exec_pfence]; unfold execPfence issueSys issueWord; exact ⟨_, _, _, _, rfl⟩
theorem word_chks {f} {s : State} : ∃ g lit pre act, exec (.chks f) s = issue (.chks f) g lit s pre act := by
  rw [exec_chks]; unfold execChks issueSys issueWord; exact ⟨_, _, _, _, rfl⟩
theorem word_umq {f} {s : State} : ∃ g lit pre act, exec (.umq f) s = issue (.umq f) g lit s pre act := by
  rw [exec_umq]; unfold execUmq issueSys issueWord; exact ⟨_, _, _, _, rfl⟩
theorem word_umset {f} {s : State} : ∃ g lit pre act, exec (.umset f) s = issue (.umset f) g lit s pre act := by
  rw [exec_umset]; unfold execUmset issueSys issueWord; exact ⟨_, _, _, _, rfl⟩
theorem word_fsend {f} {s : State} : ∃ g lit pre act, exec (.fsend f) s = issue (.fsend f) g lit s pre act := by
  rw [exec_fsend]; unfold execFsend issueSys issueWord; exact ⟨_, _, _, _, rfl⟩
theorem word_fenq {f} {s : State} : ∃ g lit pre act, exec (.fenq f) s = issue (.fenq f) g lit s pre act := by
  rw [exec_fenq]; unfold execFenq issueSys issueWord; exact ⟨_, _, _, _, rfl⟩
theorem word_fsig {f} {s : State} : ∃ g lit pre act, exec (.fsig f) s = issue (.fsig f) g lit s pre act := by
  rw [exec_fsig]; unfold execFsig issueSys issueWord; exact ⟨_, _, _, _, rfl⟩
theorem word_ffence {f} {s : State} : ∃ g lit pre act, exec (.ffence f) s = issue (.ffence f) g lit s pre act := by
  rw [exec_ffence]; unfold execFfence issueSys issueWord; exact ⟨_, _, _, _, rfl⟩
theorem word_tlbi {f} {s : State} : ∃ g lit pre act, exec (.tlbi f) s = issue (.tlbi f) g lit s pre act := by
  rw [exec_tlbi]; unfold execTlbi; exact ⟨_, _, _, _, rfl⟩
theorem word_hflush {f} {s : State} : ∃ g lit pre act, exec (.hflush f) s = issue (.hflush f) g lit s pre act := by
  rw [exec_hflush]; unfold execHflush; exact ⟨_, _, _, _, rfl⟩
theorem word_hprobe {f} {s : State} : ∃ g lit pre act, exec (.hprobe f) s = issue (.hprobe f) g lit s pre act := by
  rw [exec_hprobe]; unfold execHprobe; exact ⟨_, _, _, _, rfl⟩
theorem word_atr {f} {s : State} : ∃ g lit pre act, exec (.atr f) s = issue (.atr f) g lit s pre act := by
  rw [exec_atr]; unfold execAtr; exact ⟨_, _, _, _, rfl⟩
theorem word_svcVf {f} {s : State} : ∃ g lit pre act, exec (.svcVf f) s = issue (.svcVf f) g lit s pre act := by
  rw [exec_svcVf]; unfold execSvcVf issueSys issueWord; exact ⟨_, _, _, _, rfl⟩
theorem word_svcRetire {f} {s : State} : ∃ g lit pre act, exec (.svcRetire f) s = issue (.svcRetire f) g lit s pre act := by
  rw [exec_svcRetire]; unfold execSvcRetire issueSys issueWord; exact ⟨_, _, _, _, rfl⟩
theorem word_svcPkill {f} {s : State} : ∃ g lit pre act, exec (.svcPkill f) s = issue (.svcPkill f) g lit s pre act := by
  rw [exec_svcPkill]; unfold execSvcPkill issueSys issueWord; exact ⟨_, _, _, _, rfl⟩
theorem word_svcQuote {f} {s : State} : ∃ g lit pre act, exec (.svcQuote f) s = issue (.svcQuote f) g lit s pre act := by
  rw [exec_svcQuote]; unfold execSvcQuote issueSys issueWord; exact ⟨_, _, _, _, rfl⟩
theorem word_capq {f} {s : State} : ∃ g lit pre act, exec (.capq f) s = issue (.capq f) g lit s pre act := by
  rw [exec_capq]; unfold execCapq issueSys issueWord; exact ⟨_, _, _, _, rfl⟩
theorem word_pwrq {f} {s : State} : ∃ g lit pre act, exec (.pwrq f) s = issue (.pwrq f) g lit s pre act := by
  rw [exec_pwrq]; unfold execPwrq issueSys issueWord; exact ⟨_, _, _, _, rfl⟩
theorem word_clkq {f} {s : State} : ∃ g lit pre act, exec (.clkq f) s = issue (.clkq f) g lit s pre act := by
  rw [exec_clkq]; unfold execClkq issueSys issueWord; exact ⟨_, _, _, _, rfl⟩
theorem word_evlogPut {f} {s : State} : ∃ g lit pre act, exec (.evlogPut f) s = issue (.evlogPut f) g lit s pre act := by
  rw [exec_evlogPut]; unfold execEvlogPut issueSys issueWord; exact ⟨_, _, _, _, rfl⟩
theorem word_evlogGet {f} {s : State} : ∃ g lit pre act, exec (.evlogGet f) s = issue (.evlogGet f) g lit s pre act := by
  rw [exec_evlogGet]; unfold execEvlogGet issueSys issueWord; exact ⟨_, _, _, _, rfl⟩
theorem word_hstat {f} {s : State} : ∃ g lit pre act, exec (.hstat f) s = issue (.hstat f) g lit s pre act := by
  rw [exec_hstat]; unfold execHstat issueSys issueWord; exact ⟨_, _, _, _, rfl⟩
theorem word_issues {i : Instr} {s : State} (hw : i.isWord = true) (hq : mtxOf i = none) :
    ∃ g lit pre act, exec i s = issue i g lit s pre act := by
  cases i
  case nop => exact word_nop
  case bra => exact word_bra
  case brx => exact word_brx
  case call => exact word_call
  case callx => exact word_callx
  case ret => exact word_ret
  case loop => exact word_loop
  case rpt => exact word_rpt
  case exit => exact word_exit
  case exits => exact word_exits
  case bar => exact word_bar
  case bara => exact word_bara
  case barm => exact word_barm
  case barw => exact word_barw
  case yield => exact word_yield
  case vote => exact word_vote
  case plop => exact word_plop
  case movs => exact word_movs
  case smov => exact word_smov
  case reggive => exact word_reggive
  case regclaim => exact word_regclaim
  case settid => exact word_settid
  case qbind => exact word_qbind
  case chput => exact word_chput
  case chget => exact word_chget
  case chclose => exact word_chclose
  case sleep => exact word_sleep
  case trap => exact word_trap
  case assert => exact word_assert
  case tret => exact word_tret
  case kill => exact word_kill
  case movsys => exact word_movsys
  case movsysW => exact word_movsysW
  case iadd => exact word_iadd
  case isub => exact word_isub
  case imul => exact word_imul
  case imulh => exact word_imulh
  case imad => exact word_imad
  case imin => exact word_imin
  case imax => exact word_imax
  case iabs => exact word_iabs
  case and => exact word_and
  case or => exact word_or
  case xor => exact word_xor
  case not => exact word_not
  case shl => exact word_shl
  case shr => exact word_shr
  case shra => exact word_shra
  case rot => exact word_rot
  case popc => exact word_popc
  case clz => exact word_clz
  case brev => exact word_brev
  case bfe => exact word_bfe
  case bfi => exact word_bfi
  case bymix => exact word_bymix
  case sel => exact word_sel
  case icmp => exact word_icmp
  case mov => exact word_mov
  case movi => exact word_movi
  case iacc => exact word_iacc
  case isad => exact word_isad
  case idot4 => exact word_idot4
  case fadd => exact word_fadd
  case fsub => exact word_fsub
  case fmul => exact word_fmul
  case ffma => exact word_ffma
  case fmin => exact word_fmin
  case fmax => exact word_fmax
  case fcmp => exact word_fcmp
  case frnd => exact word_frnd
  case fclmp => exact word_fclmp
  case fscale => exact word_fscale
  case fexp => exact word_fexp
  case addmin => exact word_addmin
  case addmax => exact word_addmax
  case rcp => exact word_rcp
  case rsq => exact word_rsq
  case sqrt => exact word_sqrt
  case exp2 => exact word_exp2
  case log2 => exact word_log2
  case hadd2 => exact word_hadd2
  case hmul2 => exact word_hmul2
  case hfma2 => exact word_hfma2
  case hmin2 => exact word_hmin2
  case hmax2 => exact word_hmax2
  case dot2 => exact word_dot2
  case cvt => exact word_cvt
  case pkcv => exact word_pkcv
  case xpcv => exact word_xpcv
  case scext => exact word_scext
  case scins => exact word_scins
  case scmax => exact word_scmax
  case dot4 => exact word_dot4
  case pack => exact word_pack
  case qxch => exact word_qxch
  case qbc => exact word_qbc
  case qsum => exact word_qsum
  case lshf => exact word_lshf
  case lrot => exact word_lrot
  case lbc => exact word_lbc
  case lidx => exact word_lidx
  case wred => exact word_wred
  case wscan => exact word_wscan
  case rnds => exact word_rnds
  case rnd => exact word_rnd
  case ld => exact word_ld
  case st => exact word_st
  case ldx => exact word_ldx
  case stx => exact word_stx
  case ldw => exact word_ldw
  case stw => exact word_stw
  case ldmx => exact word_ldmx
  case stmx => exact word_stmx
  case ldn => exact word_ldn
  case stn => exact word_stn
  case pref => exact word_pref
  case fence => exact word_fence
  case cwb => exact word_cwb
  case cinv => exact word_cinv
  case setb => exact word_setb
  case ldb => exact word_ldb
  case badd => exact word_badd
  case lds => exact word_lds
  case mmq => cases hq
  case mmqs => cases hq
  case mmqx => cases hq
  case mmqt => cases hq
  case mms => exact word_mms
  case mmss => exact word_mmss
  case mmz => exact word_mmz
  case accmv => exact word_accmv
  case accld => exact word_accld
  case accsc => exact word_accsc
  case acccv => exact word_acccv
  case spld => exact word_spld
  case dst => exact word_dst
  case dsta => exact word_dsta
  case dstm => exact word_dstm
  case dstv => exact word_dstv
  case atom => exact word_atom
  case atomc => exact word_atomc
  case red => exact word_red
  case dfence => exact word_dfence
  case cpy => exact word_cpy
  case cpy2 => exact word_cpy2
  case cpym => exact word_cpym
  case cpytProm => exact word_cpytProm
  case cpytEvct => exact word_cpytEvct
  case cpytScr => exact word_cpytScr
  case cpytGlb => exact word_cpytGlb
  case cpyw => exact word_cpyw
  case waitt => exact word_waitt
  case tqry => exact word_tqry
  case cpyc => exact word_cpyc
  case spawn => exact word_spawn
  case enq => exact word_enq
  case tdec => exact word_tdec
  case tinc => exact word_tinc
  case twait => exact word_twait
  case tstat => exact word_tstat
  case tcancel => exact word_tcancel
  case trearm => exact word_trearm
  case vpost => exact word_vpost
  case vpostf => exact word_vpostf
  case subs => exact word_subs
  case verq => exact word_verq
  case rstop => exact word_rstop
  case grpsetNew => exact word_grpsetNew
  case grpsetAdd => exact word_grpsetAdd
  case grpsetArm => exact word_grpsetArm
  case grpsetFree => exact word_grpsetFree
  case shmap => exact word_shmap
  case shmapFree => exact word_shmapFree
  case ssack => exact word_ssack
  case seqld => exact word_seqld
  case seqgo => exact word_seqgo
  case seqstop => exact word_seqstop
  case qset => exact word_qset
  case qdec => exact word_qdec
  case qwait => exact word_qwait
  case seqsig => exact word_seqsig
  case seqq => exact word_seqq
  case pfence => exact word_pfence
  case chks => exact word_chks
  case umq => exact word_umq
  case umset => exact word_umset
  case fsend => exact word_fsend
  case fenq => exact word_fenq
  case fsig => exact word_fsig
  case ffence => exact word_ffence
  case tlbi => exact word_tlbi
  case hflush => exact word_hflush
  case hprobe => exact word_hprobe
  case atr => exact word_atr
  case svcVf => exact word_svcVf
  case svcRetire => exact word_svcRetire
  case svcPkill => exact word_svcPkill
  case svcQuote => exact word_svcQuote
  case capq => exact word_capq
  case pwrq => exact word_pwrq
  case clkq => exact word_clkq
  case evlogPut => exact word_evlogPut
  case evlogGet => exact word_evlogGet
  case hstat => exact word_hstat
  all_goals exact absurd hw (by simp [Instr.isWord, Instr.parts])

end Sys2Proof.Machine
end

