-- ==== Sys2Proof/Tests/Slice0.lean ====
section
/-! SUPPORT. Tests: words written out from the spec's encodings, ill-formed words, values from the spec, and for every statement with
hypotheses a state and operands that meet them. -/

open Sys2Proof Sys2Proof.Machine Sys2Proof.Spec
namespace Sys2Proof.Tests
set_option Elab.async false

/-! ## Decoding (Tables 03-5 to 03-10) -/

/-- Every listed word decodes to its instruction, with nothing left over. -/
def allDecode (l : List (List Word × Instr)) : Bool := l.all fun p => match decode p.1 with | .ok (i, []) => decide (i = p.2) | _ => false
theorem test_decodeControl : allDecode [
    ([0x00200000#32], .nop ⟨1, 0, 0, 0, 0, none⟩),
    ([0x01600050#32], .bra ⟨3, 80⟩),
    ([0x02A00100#32], .brx ⟨5, 0, 0, 2, 0, none⟩),
    ([0x03E0009A#32], .call ⟨7, 154⟩),
    ([0x04400E00#32], .callx ⟨2, 0, 0, 28, 0, none⟩),
    ([0x05800000#32], .ret ⟨4, 0, 0, 0, 0, none⟩),
    ([0x06D94109#32], .loop ⟨6, 3, 20, 265, none⟩),
    ([0x07200380#32], .rpt ⟨1, 0, 0, 7, 0, none⟩),
    ([0x08600000#32], .exit ⟨3, 0, 0, 0, 0, none⟩),
    ([0x09A00000#32], .exits ⟨5, 0, 0, 0, 0, none⟩),
    ([0x0AE3170B#32], .bar ⟨7, 0, 12, 46, 11, none⟩),
    ([0x0B411D98#32], .bara ⟨2, 0, 4, 59, 24, none⟩),
    ([0x0C82C625#32], .barm ⟨4, 0, 11, 12, 37, none⟩),
    ([0x0DC0C032#32], .barw ⟨6, 0, 3, 0, 50, none⟩),
    ([0x0E200000#32], .yield ⟨1, 0, 0, 0, 0, none⟩),
    ([0x0F6EC18B#32], .vote ⟨3, 0, 59, 3, 11, none⟩),
    ([0x10A14E85#32], .plop ⟨5, 0, 5, 29, 5, none⟩),
    ([0x11E1C880#32], .movs ⟨7, 0, 7, 17, 0, none⟩),
    ([0x12420F00#32], .smov ⟨2, 0, 8, 30, 0, none⟩),
    ([0x13801580#32], .reggive ⟨4, 0, 0, 43, 0, none⟩),
    ([0x14C01C00#32], .regclaim ⟨6, 0, 0, 56, 0, none⟩),
    ([0x15200480#32], .settid ⟨1, 0, 0, 9, 0, none⟩),
    ([0x16718180#32], .qbind ⟨3, 1, 6, 3, 0, none⟩),
    ([0x17A151BC#32], .chput ⟨5, 0, 5, 35, 60, none⟩),
    ([0x18E3838D#32], .chget ⟨7, 0, 14, 7, 13, none⟩),
    ([0x19408000#32], .chclose ⟨2, 0, 2, 0, 0, none⟩),
    ([0x1A800700#32], .sleep ⟨4, 0, 0, 14, 0, none⟩),
    ([0x1BC00D80#32], .trap ⟨6, 0, 0, 27, 0, none⟩),
    ([0x1C200085#32], .assert ⟨1, 0, 0, 1, 5, none⟩),
    ([0x1D601A80#32], .tret ⟨3, 0, 0, 53, 0, none⟩),
    ([0x1EA00300#32], .kill ⟨5, 0, 0, 6, 0, none⟩),
    ([0x1FE54038#32], .movsys ⟨7, 0, 21, 0, 56, none⟩),
    ([0x1F40105E#32], .movsysW ⟨2, 0, 0, 32, 94, none⟩)] = true := by decide +kernel
theorem test_decodeVector1 : allDecode [
    ([0x3088168A#32], .iadd ⟨4, 0, 32, 45, 10, none⟩),
    ([0x31C19D17#32], .isub ⟨6, 0, 6, 58, 23, none⟩),
    ([0x322AC5A4#32], .imul ⟨1, 0, 43, 11, 36, none⟩),
    ([0x33644C31#32], .imulh ⟨3, 0, 17, 24, 49, none⟩),
    ([0x34AD9282#32], .imad ⟨5, 0, 54, 37, 2, none⟩),
    ([0x35E7190F#32], .imin ⟨7, 0, 28, 50, 15, none⟩),
    ([0x3640819C#32], .imax ⟨2, 0, 2, 3, 28, none⟩),
    ([0x3789C800#32], .iabs ⟨4, 0, 39, 16, 0, none⟩),
    ([0x38C34EB6#32], .and ⟨6, 0, 13, 29, 54, none⟩),
    ([0x392C9507#32], .or ⟨1, 0, 50, 42, 7, none⟩),
    ([0x3A661B94#32], .xor ⟨3, 0, 24, 55, 20, none⟩),
    ([0x3BAF4400#32], .not ⟨5, 0, 61, 8, 0, none⟩),
    ([0x3CE8CAAE#32], .shl ⟨7, 0, 35, 21, 46, none⟩),
    ([0x3D42513B#32], .shr ⟨2, 0, 9, 34, 59, none⟩),
    ([0x3E8B978C#32], .shra ⟨4, 0, 46, 47, 12, none⟩),
    ([0x3FC51E19#32], .rot ⟨6, 0, 20, 60, 25, none⟩),
    ([0x402E4680#32], .popc ⟨1, 0, 57, 13, 0, none⟩),
    ([0x4167CD00#32], .clz ⟨3, 0, 31, 26, 0, none⟩),
    ([0x42A15380#32], .brev ⟨5, 0, 5, 39, 0, none⟩),
    ([0x43EA9A11#32], .bfe ⟨7, 0, 42, 52, 17, none⟩),
    ([0x4444029E#32], .bfi ⟨2, 0, 16, 5, 30, none⟩),
    ([0x458D492B#32], .bymix ⟨4, 0, 53, 18, 43, none⟩),
    ([0x46C6CFB8#32], .sel ⟨6, 0, 27, 31, 56, none⟩),
    ([0x472C5609#32], .icmp ⟨1, 0, 49, 44, 9, none⟩),
    ([0x48699C80#32], .mov ⟨3, 0, 38, 57, 0, none⟩),
    ([0x49A3088D#32], .movi ⟨5, 0, 12, 17, 13, none⟩),
    ([0x4AEC4BB0#32], .iacc ⟨7, 0, 49, 23, 48, none⟩),
    ([0x4B45D201#32], .isad ⟨2, 0, 23, 36, 1, none⟩),
    ([0x4C8F188E#32], .idot4 ⟨4, 0, 60, 49, 14, none⟩),
    ([0x4DC8811B#32], .fadd ⟨6, 0, 34, 2, 27, none⟩),
    ([0x4E2207A8#32], .fsub ⟨1, 0, 8, 15, 40, none⟩),
    ([0x4F6B4E35#32], .fmul ⟨3, 0, 45, 28, 53, none⟩),
    ([0x50A4D486#32], .ffma ⟨5, 0, 19, 41, 6, none⟩),
    ([0x51EE1B13#32], .fmin ⟨7, 0, 56, 54, 19, none⟩),
    ([0x524783A0#32], .fmax ⟨2, 0, 30, 7, 32, none⟩),
    ([0x53850A2D#32], .fcmp ⟨4, 0, 20, 20, 45, none⟩),
    ([0x54CA5081#32], .frnd ⟨6, 0, 41, 33, 1, none⟩),
    ([0x5523D70B#32], .fclmp ⟨1, 0, 15, 46, 11, none⟩),
    ([0x566D1D98#32], .fscale ⟨3, 0, 52, 59, 24, none⟩),
    ([0x57A68600#32], .fexp ⟨5, 0, 26, 12, 0, none⟩),
    ([0x58EFCCB2#32], .addmin ⟨7, 0, 63, 25, 50, none⟩),
    ([0x59495303#32], .addmax ⟨2, 0, 37, 38, 3, none⟩),
    ([0x5A82D980#32], .rcp ⟨4, 0, 11, 51, 0, none⟩),
    ([0x5BCC0200#32], .rsq ⟨6, 0, 48, 4, 0, none⟩),
    ([0x5C258880#32], .sqrt ⟨1, 0, 22, 17, 0, none⟩)] = true := by decide +kernel
theorem test_decodeVector2 : allDecode [
    ([0x5D6ECF00#32], .exp2 ⟨3, 0, 59, 30, 0, none⟩),
    ([0x5EA85580#32], .log2 ⟨5, 0, 33, 43, 0, none⟩),
    ([0x5FE1DC15#32], .hadd2 ⟨7, 0, 7, 56, 21, none⟩),
    ([0x604B04A2#32], .hmul2 ⟨2, 0, 44, 9, 34, none⟩),
    ([0x61848B2F#32], .hfma2 ⟨4, 0, 18, 22, 47, none⟩),
    ([0x62CDD1BC#32], .hmin2 ⟨6, 0, 55, 35, 60, none⟩),
    ([0x6327580D#32], .hmax2 ⟨1, 0, 29, 48, 13, none⟩),
    ([0x6460C09A#32], .dot2 ⟨3, 0, 3, 1, 26, none⟩),
    ([0x65AA0721#32], .cvt ⟨5, 0, 40, 14, 33, none⟩),
    ([0x68E38D87#32], .scext ⟨7, 0, 14, 27, 7, none⟩),
    ([0x694CD402#32], .scins ⟨2, 0, 51, 40, 2, none⟩),
    ([0x6A865A92#32], .scmax ⟨4, 0, 25, 53, 18, none⟩),
    ([0x6BCF831F#32], .dot4 ⟨6, 0, 62, 6, 31, none⟩),
    ([0x6C2909AC#32], .pack ⟨1, 0, 36, 19, 44, none⟩),
    ([0x6D629003#32], .qxch ⟨3, 0, 10, 32, 3, none⟩),
    ([0x6EABD681#32], .qbc ⟨5, 0, 47, 45, 1, none⟩),
    ([0x6FE55D00#32], .qsum ⟨7, 0, 21, 58, 0, none⟩),
    ([0x704E85A4#32], .lshf ⟨2, 0, 58, 11, 36, none⟩),
    ([0x71880C31#32], .lrot ⟨4, 0, 32, 24, 49, none⟩),
    ([0x72C19282#32], .lbc ⟨6, 0, 6, 37, 2, none⟩),
    ([0x732AD90F#32], .lidx ⟨1, 0, 43, 50, 15, none⟩),
    ([0x74644181#32], .wred ⟨3, 0, 17, 3, 1, none⟩),
    ([0x75AD8808#32], .wscan ⟨5, 0, 54, 16, 8, none⟩),
    ([0x76E00EB6#32], .rnds ⟨7, 0, 0, 29, 54, none⟩),
    ([0x77408000#32], .rnd ⟨2, 0, 2, 0, 0, none⟩)] = true := by decide +kernel
theorem test_decodeLoadStore : allDecode [
    ([0x8085246A#32], .ld ⟨4, 2, 4, 36, 3, 10, none⟩),
    ([0x81C98AB0#32], .st ⟨6, 4, 6, 10, 5, 16, none⟩),
    ([0x822C6FF6#32], .ldx ⟨1, 6, 1, 47, 7, 22, none⟩),
    ([0x8362D55C#32], .stx ⟨3, 1, 3, 21, 2, 28, none⟩),
    ([0x84A77A83#32], .ldw ⟨5, 3, 5, 58, 4, 3, none⟩),
    ([0x85EBE0C9#32], .stw ⟨7, 5, 7, 32, 6, 9, none⟩),
    ([0x864EC62F#32], .ldmx ⟨2, 7, 3, 6, 1, 15, none⟩),
    ([0x87846B75#32], .stmx ⟨4, 2, 1, 43, 3, 21, none⟩),
    ([0x88C991BB#32], .ldn ⟨6, 4, 6, 17, 5, 27, none⟩),
    ([0x892C76E2#32], .stn ⟨1, 6, 1, 54, 7, 2, none⟩),
    ([0x8A6C0048#32], .pref ⟨3, 6, 0, 0, 2, 8, none⟩),
    ([0x8CA6008E#32], .cwb ⟨5, 3, 0, 0, 4, 14, none⟩),
    ([0x8DEA00D4#32], .cinv ⟨7, 5, 0, 0, 6, 20, none⟩),
    ([0x8E4C8D3A#32], .setb ⟨2, 6, 2, 13, 1, 26, none⟩),
    ([0x8F850161#32], .ldb ⟨4, 2, 4, 1, 3, 1, none⟩),
    ([0x90CD80A7#32], .badd ⟨6, 6, 6, 0, 5, 7, none⟩),
    ([0x912C44ED#32], .lds ⟨1, 6, 1, 4, 7, 13, none⟩)] = true := by decide +kernel
theorem test_decodeCopy : allDecode [
    ([0xB862CDD0#32], .cpy ⟨3, 1, 3, 3, 3, 5, none⟩),
    ([0xB9A76AF0#32], .cpy2 ⟨5, 3, 5, 10, 5, 7, none⟩),
    ([0xBAEA0BA0#32], .cpym ⟨7, 5, 0, 2, 7, 2, none⟩),
    ([0xBB4E2400#32], .cpytProm ⟨2, 7, 0, 9, 0, 0, none⟩),
    ([0xBB844400#32], .cpytEvct ⟨4, 2, 1, 1, 0, 0, none⟩),
    ([0xBBC8A300#32], .cpytScr ⟨6, 4, 2, 8, 6, 0, none⟩),
    ([0xBB2CFC80#32], .cpytGlb ⟨1, 6, 3, 15, 1, 0, none⟩),
    ([0xBC62DDD0#32], .cpyw ⟨3, 1, 3, 7, 3, 5, none⟩),
    ([0xBDAD7800#32], .waitt ⟨5, 6, 5, 14, 0, 0, none⟩),
    ([0xBEEBD800#32], .tqry ⟨7, 5, 7, 6, 0, 0, none⟩),
    ([0xBF4EB400#32], .cpyc ⟨2, 7, 2, 13, 0, 0, none⟩),
    ([0xC0841600#32], .spawn ⟨4, 2, 0, 5, 4, 0, none⟩)] = true := by decide +kernel
theorem test_decodeTaskPublish : allDecode [
    ([0xC1C83300#32], .enq ⟨6, 4, 0, 12, 6, 0, none⟩),
    ([0xC22C1000#32], .tdec ⟨1, 6, 0, 4, 0, 0, none⟩),
    ([0xC3622C00#32], .tinc ⟨3, 1, 0, 11, 0, 0, none⟩),
    ([0xC4AC0C00#32], .twait ⟨5, 6, 0, 3, 0, 0, none⟩),
    ([0xC5EA2800#32], .tstat ⟨7, 5, 0, 10, 0, 0, none⟩),
    ([0xC64E0800#32], .tcancel ⟨2, 7, 0, 2, 0, 0, none⟩),
    ([0xC8842400#32], .vpost ⟨4, 2, 0, 9, 0, 0, none⟩),
    ([0xC9C80400#32], .vpostf ⟨6, 4, 0, 1, 0, 0, none⟩),
    ([0xCA2C2000#32], .subs ⟨1, 6, 0, 8, 0, 0, none⟩),
    ([0xCB623C00#32], .verq ⟨3, 1, 0, 15, 0, 0, none⟩),
    ([0xCCA61C00#32], .rstop ⟨5, 3, 0, 7, 0, 0, none⟩),
    ([0xCDEA3800#32], .grpsetNew ⟨7, 5, 0, 14, 0, 0, none⟩),
    ([0xCD4E5800#32], .grpsetAdd ⟨2, 7, 1, 6, 0, 0, none⟩),
    ([0xCD84B400#32], .grpsetArm ⟨4, 2, 2, 13, 0, 0, none⟩),
    ([0xCDC8D400#32], .grpsetFree ⟨6, 4, 3, 5, 0, 0, none⟩),
    ([0xCE2C7000#32], .shmapFree ⟨1, 6, 1, 12, 0, 0, none⟩),
    ([0xCF621000#32], .ssack ⟨3, 1, 0, 4, 0, 0, none⟩)] = true := by decide +kernel
theorem test_decodeSystem : allDecode [
    ([0xD0A60480#32], .seqld ⟨5, 3, 0, 4, 4, none⟩),
    ([0xD1EA0B00#32], .seqgo ⟨7, 5, 0, 11, 0, none⟩),
    ([0xD24E0300#32], .seqstop ⟨2, 7, 0, 3, 0, none⟩),
    ([0xD3843A00#32], .qset ⟨4, 2, 3, 10, 0, none⟩),
    ([0xD4C85200#32], .qdec ⟨6, 4, 5, 2, 0, none⟩),
    ([0xD52C7900#32], .qwait ⟨1, 6, 7, 9, 0, none⟩),
    ([0xD7620100#32], .seqq ⟨3, 1, 0, 1, 0, none⟩),
    ([0xD8A60000#32], .pfence ⟨5, 3, 0, 0, 0, none⟩),
    ([0xD9EA0F00#32], .chks ⟨7, 5, 0, 15, 0, none⟩),
    ([0xDA4E3700#32], .umq ⟨2, 7, 3, 7, 0, none⟩),
    ([0xDB840E00#32], .umset ⟨4, 2, 0, 14, 0, none⟩),
    ([0xDCC806A0#32], .fsend ⟨6, 4, 0, 6, 5, none⟩),
    ([0xDD2C0DE0#32], .fenq ⟨1, 6, 0, 13, 7, none⟩),
    ([0xDE621540#32], .fsig ⟨3, 1, 1, 5, 2, none⟩),
    ([0xDFA60000#32], .ffence ⟨5, 3, 0, 0, 0, none⟩),
    ([0xE0EA74C0#32], .tlbi ⟨7, 5, 7, 4, 6, none⟩),
    ([0xE14E1B20#32], .hflush ⟨2, 7, 1, 11, 1, none⟩),
    ([0xE2842360#32], .hprobe ⟨4, 2, 2, 3, 3, none⟩),
    ([0xE3C83AA0#32], .atr ⟨6, 4, 3, 10, 5, none⟩),
    ([0xE42C0200#32], .svcVf ⟨1, 6, 0, 2, 0, none⟩),
    ([0xE4621900#32], .svcRetire ⟨3, 1, 1, 9, 0, none⟩),
    ([0xE4A62100#32], .svcPkill ⟨5, 3, 2, 1, 0, none⟩),
    ([0xE4EA38C0#32], .svcQuote ⟨7, 5, 3, 8, 6, none⟩),
    ([0xE54E2F20#32], .capq ⟨2, 7, 2, 15, 1, none⟩),
    ([0xE6843700#32], .pwrq ⟨4, 2, 3, 7, 0, none⟩),
    ([0xE7C80E00#32], .clkq ⟨6, 4, 0, 14, 0, none⟩),
    ([0xE82C0600#32], .evlogPut ⟨1, 6, 0, 6, 0, none⟩),
    ([0xE8621D40#32], .evlogGet ⟨3, 1, 1, 13, 2, none⟩),
    ([0xE9A61500#32], .hstat ⟨5, 3, 1, 5, 0, none⟩)] = true := by decide +kernel
theorem test_decodeMatrix : allDecode [
    ([0xA0260908#32, 0x08800040#32], .mmq ⟨1, 3, 0, 9, 2, 0x08800040⟩),
    ([0xA1484E24#32, 0x08800041#32], .mmqs ⟨2, 4, 1, 14, 9, 0x08800041⟩),
    ([0xA26A9340#32, 0x08800042#32], .mmqx ⟨3, 5, 2, 19, 16, 0x08800042⟩),
    ([0xA38CD85C#32, 0x08800043#32], .mmqt ⟨4, 6, 3, 24, 23, 0x08800043⟩),
    ([0xA4AF1D78#32, 0x08800044#32], .mms ⟨5, 7, 4, 29, 30, 0x08800044⟩),
    ([0xA5D16294#32, 0x08800045#32], .mmss ⟨6, 8, 5, 34, 37, 0x08800045⟩),
    ([0xA6F3A7B0#32, 0x08800046#32], .mmz ⟨7, 9, 6, 39, 44, 0x08800046⟩),
    ([0xA7342CCC#32, 0x08800047#32], .accmv ⟨1, 10, 0, 44, 51, 0x08800047⟩),
    ([0xA85671E8#32, 0x08800048#32], .accld ⟨2, 11, 1, 49, 58, 0x08800048⟩),
    ([0xA978B604#32, 0x08800049#32], .accsc ⟨3, 12, 2, 54, 1, 0x08800049⟩),
    ([0xAA9AFB20#32, 0x0880004A#32], .acccv ⟨4, 13, 3, 59, 8, 0x0880004A⟩),
    ([0xABBD003C#32, 0x0880004B#32], .spld ⟨5, 14, 4, 0, 15, 0x0880004B⟩)] = true := by decide +kernel
theorem test_decodeDrain : allDecode [
    ([0xB02A8962#32, 0x57000000#32], .dst ⟨1, 5, 2, 9, 3, 2, 0x57000000⟩),
    ([0xB14CCE89#32, 0x57000001#32], .dsta ⟨2, 6, 3, 14, 4, 9, 0x57000001⟩),
    ([0xB26F13B0#32, 0x57000002#32], .dstm ⟨3, 7, 4, 19, 5, 16, 0x57000002⟩),
    ([0xB39158D7#32, 0x57000003#32], .dstv ⟨4, 8, 5, 24, 6, 23, 0x57000003⟩),
    ([0xB4B39DFE#32, 0x57000004#32], .atom ⟨5, 9, 6, 29, 7, 30, 0x57000004⟩),
    ([0xB5D42205#32, 0x57000005#32], .atomc ⟨6, 10, 0, 34, 0, 5, 0x57000005⟩),
    ([0xB6F6672C#32, 0x57000006#32], .red ⟨7, 11, 1, 39, 1, 12, 0x57000006⟩),
    ([0xB738AC53#32, 0x57000007#32], .dfence ⟨1, 12, 2, 44, 2, 19, 0x57000007⟩)] = true := by decide +kernel
theorem test_decodeLiteral : allDecode [
    ([0x66E250FC#32, 0x0000041D#32], .pkcv ⟨7, 0, 9, 33, 124, some 0x41D⟩),
    ([0x67E250FC#32, 0x0000041D#32], .xpcv ⟨7, 0, 9, 33, 124, some 0x41D⟩),
    ([0x8BF60000#32, 0x90000000#32], .fence ⟨7, 3, 0, 0, 0, 0, some 0x90000000⟩),
    ([0xC7F41400#32, 0x00000040#32], .trearm ⟨7, 2, 0, 5, 0, 0, some 0x40⟩),
    ([0xCE3C3900#32, 0x00004000#32], .shmap ⟨1, 6, 0, 14, 2, 0, some 0x4000⟩),
    ([0xD6FC0000#32, 0x00000003#32], .seqsig ⟨7, 6, 0, 0, 0, some 3⟩)] = true := by decide +kernel

/-! ## Ill-formed words: one for each check of `fieldsOk` that some other check does not already make -/

def noneWf (l : List Instr) : Bool := l.all fun i => !i.wf

theorem test_illFormedControl : noneWf [
    .nop ⟨7, 0, 1, 0, 0, none⟩, .brx ⟨7, 0, 0, 1, 1, none⟩, .brx ⟨7, 0, 0, 124, 0, none⟩, .callx ⟨7, 0, 0, 125, 0, none⟩, .loop ⟨7, 0, 105, 0, none⟩,
    .loop ⟨7, 0, 124, 5, none⟩, .rpt ⟨7, 1, 0, 1, 0, none⟩, .bar ⟨7, 0, 16, 1, 0, none⟩, .barm ⟨7, 1, 0, 1, 0, none⟩, .bara ⟨7, 0, 32, 1, 0, none⟩,
    .barw ⟨7, 0, 0, 1, 0, none⟩, .vote ⟨7, 0, 0, 16, 0, none⟩, .vote ⟨7, 0, 0, 0, 24, none⟩, .vote ⟨7, 1, 8, 0, 0, none⟩, .plop ⟨7, 0, 7, 0, 0, none⟩,
    .plop ⟨7, 0, 0, 64, 0, none⟩, .plop ⟨7, 0, 0, 0, 16, none⟩, .movs ⟨7, 0, 0, 17, 0, none⟩, .smov ⟨7, 0, 16, 1, 0, none⟩, .smov ⟨7, 0, 0, 1, 2, none⟩,
    .reggive ⟨7, 0, 0, 1, 2, none⟩, .regclaim ⟨7, 0, 0, 126, 0, none⟩, .settid ⟨7, 0, 0, 1, 0, some 0#32⟩, .qbind ⟨7, 1, 5, 8, 0, none⟩,
    .qbind ⟨7, 1, 6, 1, 0, none⟩, .qbind ⟨7, 0, 6, 8, 0, none⟩, .chput ⟨7, 0, 8, 1, 0, none⟩, .chget ⟨7, 0, 0, 8, 0, none⟩, .chclose ⟨7, 0, 8, 0, 0, none⟩,
    .sleep ⟨7, 0, 1, 1, 0, none⟩, .trap ⟨7, 0, 0, 1, 1, none⟩, .assert ⟨7, 0, 0, 16, 1, none⟩, .tret ⟨7, 0, 0, 1, 2, none⟩, .kill ⟨7, 0, 0, 1, 1, none⟩,
    .movsys ⟨7, 0, 0, 0, 12, none⟩, .movsysW ⟨7, 0, 0, 1, 75, none⟩] = true := by decide +kernel

theorem test_illFormedVector : noneWf [
    .iadd ⟨7, 0, 0, 125, 0, none⟩, .iadd ⟨7, 1, 8, 0, 0, none⟩, .iadd ⟨7, 0, 0, 124, 0, none⟩, .iabs ⟨7, 0, 0, 0, 1, none⟩, .icmp ⟨7, 0, 7, 0, 0, none⟩,
    .icmp ⟨7, 0, 48, 0, 0, none⟩, .movi ⟨7, 1, 9, 0, 0, none⟩, .fcmp ⟨7, 1, 0, 0, 0, none⟩, .frnd ⟨7, 0, 0, 0, 4, none⟩, .hadd2 ⟨7, 0, 0, 127, 0, none⟩,
    .cvt ⟨7, 0, 0, 0, 20, none⟩, .cvt ⟨7, 0, 0, 0, 42, none⟩, .cvt ⟨7, 0, 0, 0, 96, none⟩, .pkcv ⟨7, 0, 0, 0, 124, some 512#32⟩,
    .pkcv ⟨7, 0, 0, 0, 124, some 0x60#32⟩, .pkcv ⟨7, 0, 0, 0, 124, some 0x9C#32⟩, .pkcv ⟨7, 0, 0, 0, 0, none⟩, .xpcv ⟨7, 0, 0, 0, 124, some 30#32⟩,
    .xpcv ⟨7, 0, 0, 0, 124, some 0x20#32⟩, .xpcv ⟨7, 0, 0, 0, 124, some 0x21C#32⟩, .xpcv ⟨7, 0, 0, 0, 124, some 0x9D#32⟩, .scext ⟨7, 0, 0, 0, 28, none⟩,
    .qxch ⟨7, 0, 0, 0, 4, none⟩, .qsum ⟨7, 0, 0, 0, 2, none⟩, .wred ⟨7, 0, 0, 0, 9, none⟩, .wscan ⟨7, 0, 0, 0, 9, none⟩, .rnds ⟨7, 0, 1, 0, 0, none⟩,
    .rnd ⟨7, 0, 0, 0, 2, none⟩] = true := by decide +kernel

theorem test_illFormedMemory : noneWf [
    .ld ⟨7, 7, 4, 0, 0, 31, none⟩, .ld ⟨7, 0, 7, 0, 0, 31, none⟩, .ld ⟨7, 0, 5, 63, 0, 31, none⟩, .ld ⟨7, 0, 4, 0, 0, 31, some 0x40000000#32⟩,
    .st ⟨7, 0, 4, 0, 0, 31, some 0x20000000#32⟩, .ldw ⟨7, 0, 3, 0, 0, 31, none⟩, .stw ⟨7, 0, 4, 0, 0, 31, some 0x40000000#32⟩, .ldmx ⟨7, 0, 0, 56, 0, 31, none⟩,
    .stmx ⟨7, 0, 0, 0, 7, 31, none⟩, .ldmx ⟨7, 0, 4, 0, 0, 31, none⟩, .pref ⟨7, 0, 0, 0, 0, 31, none⟩, .pref ⟨7, 6, 2, 0, 0, 31, none⟩,
    .fence ⟨7, 0, 0, 0, 0, 31, none⟩, .fence ⟨7, 0, 0, 0, 0, 31, some 1#32⟩, .fence ⟨7, 0, 0, 0, 0, 31, some 0x20000001#32⟩, .cwb ⟨7, 0, 0, 1, 0, 31, none⟩,
    .cinv ⟨7, 0, 0, 0, 0, 31, some 0x20000000#32⟩, .setb ⟨7, 6, 0, 62, 0, 31, none⟩, .setb ⟨7, 6, 1, 0, 0, 8, none⟩, .setb ⟨7, 6, 4, 0, 0, 0, none⟩,
    .ldb ⟨7, 0, 4, 0, 0, 31, none⟩, .ldb ⟨7, 0, 6, 8, 0, 31, none⟩, .badd ⟨7, 6, 5, 0, 0, 0, none⟩, .lds ⟨7, 0, 5, 0, 0, 31, none⟩, .lds ⟨7, 0, 4, 16, 0, 31, none⟩]
    = true := by decide +kernel

theorem test_illFormedMatrix : noneWf [
    .mmq ⟨7, 13, 0, 0, 8, 0⟩, .mmq ⟨7, 0, 7, 0, 8, 0⟩, .mmq ⟨7, 0, 0, 57, 8, 0⟩, .mmqs ⟨7, 0, 0, 61, 8, 0⟩, .mmqx ⟨7, 0, 0, 16, 8, 0⟩, .mmqt ⟨7, 0, 0, 0, 16, 0⟩,
    .mms ⟨7, 0, 0, 0, 57, 0⟩, .mmss ⟨7, 0, 0, 61, 0, 0⟩, .mmz ⟨7, 0, 0, 1, 0, 0⟩, .accmv ⟨7, 0, 0, 0, 0, 1⟩, .accld ⟨7, 0, 0, 0, 0, 0⟩, .accsc ⟨7, 0, 0, 0, 1, 0⟩,
    .acccv ⟨7, 0, 0, 0, 0, 0xF0000000#32⟩, .acccv ⟨7, 0, 0, 0, 0, 0x00C00000#32⟩, .spld ⟨7, 1, 0, 0, 0, 0⟩, .dst ⟨7, 0, 0, 0, 0, 31, 0⟩, .dst ⟨7, 0, 0, 1, 0, 31, 0x300000#32⟩,
    .dsta ⟨7, 0, 0, 1, 0, 31, 0x40000#32⟩, .dsta ⟨7, 0, 0, 1, 0, 31, 0x10000#32⟩, .dstm ⟨7, 0, 0, 4, 0, 31, 0⟩, .dstm ⟨7, 0, 0, 1, 7, 31, 0⟩, .dstv ⟨7, 1, 0, 0, 0, 31, 0⟩,
    .atom ⟨7, 0, 0, 0, 0, 31, 0xD0000#32⟩, .atomc ⟨7, 0, 0, 63, 0, 31, 0⟩, .red ⟨7, 0, 0, 0, 0, 31, 0x90000#32⟩, .dfence ⟨7, 0, 0, 0, 0, 0, 0⟩] = true := by decide +kernel

theorem test_illFormedCopyTaskPublish : noneWf [
    .cpy ⟨7, 0, 5, 0, 0, 0, none⟩, .cpy2 ⟨7, 0, 0, 14, 0, 0, none⟩, .cpym ⟨7, 0, 2, 0, 0, 0, none⟩, .cpytProm ⟨7, 0, 0, 0, 1, 0, none⟩, .cpytEvct ⟨7, 0, 0, 0, 0, 0, none⟩,
    .cpytScr ⟨7, 0, 2, 0, 0, 1, none⟩, .cpytGlb ⟨7, 0, 2, 0, 0, 0, none⟩, .cpyw ⟨7, 0, 4, 0, 0, 0, none⟩, .waitt ⟨7, 0, 0, 0, 0, 0, none⟩, .tqry ⟨7, 0, 0, 15, 0, 0, none⟩,
    .cpyc ⟨7, 0, 6, 0, 0, 0, none⟩, .spawn ⟨7, 0, 0, 0, 0, 1, none⟩, .enq ⟨7, 0, 2, 0, 0, 0, none⟩, .tdec ⟨7, 0, 0, 0, 0, 0, some 0#32⟩, .tinc ⟨7, 0, 0, 15, 0, 0, none⟩,
    .twait ⟨7, 0, 0, 0, 0, 0, none⟩, .tstat ⟨7, 0, 1, 0, 0, 0, none⟩, .tcancel ⟨7, 0, 0, 0, 1, 0, none⟩, .trearm ⟨7, 0, 0, 0, 0, 0, none⟩, .vpost ⟨7, 0, 0, 15, 0, 0, none⟩,
    .vpostf ⟨7, 0, 0, 0, 0, 0, some 1#32⟩, .verq ⟨7, 0, 0, 0, 1, 0, none⟩, .subs ⟨7, 0, 1, 0, 0, 0, none⟩, .subs ⟨7, 0, 0, 14, 0, 0, none⟩, .rstop ⟨7, 0, 1, 0, 0, 0, none⟩,
    .grpsetNew ⟨7, 0, 0, 0, 0, 0, some 0#32⟩, .grpsetAdd ⟨7, 0, 0, 0, 0, 0, none⟩, .grpsetArm ⟨7, 0, 2, 0, 0, 0, some 1#32⟩, .grpsetFree ⟨7, 0, 3, 15, 0, 0, none⟩,
    .shmap ⟨7, 0, 0, 0, 0, 0, some 128#32⟩, .shmap ⟨7, 0, 0, 0, 0, 0, none⟩, .shmapFree ⟨7, 0, 1, 0, 1, 0, none⟩, .ssack ⟨7, 0, 2, 0, 0, 0, none⟩] = true := by decide +kernel

theorem test_illFormedSystem : noneWf [
    .seqld ⟨7, 0, 1, 0, 0, none⟩, .seqgo ⟨7, 0, 0, 0, 1, none⟩, .seqstop ⟨7, 0, 2, 0, 0, none⟩, .qset ⟨7, 0, 8, 0, 0, none⟩, .qdec ⟨7, 0, 0, 0, 1, none⟩,
    .qwait ⟨7, 0, 0, 0, 0, none⟩, .seqsig ⟨7, 0, 0, 0, 0, some 0#32⟩, .seqsig ⟨7, 0, 0, 0, 0, none⟩, .seqq ⟨7, 0, 0, 15, 0, none⟩, .pfence ⟨7, 0, 0, 1, 0, none⟩,
    .chks ⟨7, 0, 2, 0, 0, none⟩, .umq ⟨7, 0, 3, 0, 0, none⟩, .umset ⟨7, 0, 1, 0, 0, none⟩, .fsend ⟨7, 0, 1, 15, 0, none⟩, .fsend ⟨7, 0, 0, 0, 7, none⟩,
    .fenq ⟨7, 0, 2, 0, 0, none⟩, .fsig ⟨7, 0, 2, 0, 1, none⟩, .ffence ⟨7, 0, 0, 1, 0, none⟩, .tlbi ⟨7, 0, 3, 0, 0, none⟩, .tlbi ⟨7, 0, 2, 1, 0, none⟩,
    .tlbi ⟨7, 0, 1, 0, 1, none⟩, .hflush ⟨7, 0, 3, 0, 0, none⟩, .hflush ⟨7, 0, 2, 0, 1, none⟩, .hprobe ⟨7, 0, 1, 15, 0, none⟩, .atr ⟨7, 0, 3, 0, 0, none⟩,
    .svcVf ⟨7, 0, 1, 0, 0, none⟩, .svcRetire ⟨7, 0, 0, 0, 0, none⟩, .svcPkill ⟨7, 0, 2, 0, 1, none⟩, .svcQuote ⟨7, 7, 3, 0, 0, none⟩, .capq ⟨7, 0, 0, 0, 1, none⟩,
    .pwrq ⟨7, 0, 4, 0, 0, none⟩, .clkq ⟨7, 0, 0, 15, 0, none⟩, .evlogPut ⟨7, 0, 0, 0, 1, none⟩, .evlogGet ⟨7, 0, 0, 0, 0, none⟩, .hstat ⟨7, 0, 4, 0, 0, none⟩] = true := by
  decide +kernel

/-! ## Values the spec's examples give -/

/-- R159: the control 0x00001083 reverses the bytes of a; 0x00000008 complements byte 0 into byte 0 and copies it elsewhere. -/
theorem test_bymixReverses : bymix 0x00001083#32 0x11223344#32 0#32 = 0x44332211#32 ∧ bymix 0x00000008#32 0x11223344#32 0#32 = 0x444444BB#32 := by decide +kernel
/-- R166: CVT.I32.FP32.RZ of −7.9, of NaN, of 3.0e9. -/
theorem test_cvtToInteger : cvt 0 1 0#32 0xC0FCCCCD#32 = (0xFFFFFFF9#32, .none) ∧ cvt 0 1 0#32 0x7FC00000#32 = (0#32, .nan) ∧
    cvt 0 1 0#32 0x4F32D05E#32 = (0x7FFFFFFF#32, .sat) := by decide +kernel
/-- 06, the example on an MX pair: amax 3.0, scale 0x79, factors 192.0 and −19.2, codes 0x7C and 0xE2. -/
theorem test_quantise : scmax32 0#32 0x40400000#32 0xBE99999A#32 = 0x40400000#32 ∧ scext 13 0x40400000#32 = 0x79#32 ∧
    fscale32 0x40400000#32 6#32 = 0x43400000#32 ∧ roundTo 13 0 0#32 (f32 0x43400000#32) = (0x7C, .none) ∧
    roundTo 13 0 0#32 (f32 (fscale32 0xBE99999A#32 6#32)) = (0xE2, .none) := by decide +kernel
/-- 11, the example of two store-adds to a BF16 word of 1.0: X then Y leaves 0x3F81, Y then X leaves 0x3F82. -/
theorem test_storeAddOrder :
    let add := fun (x : Nat) (y : Word) => (roundTo 28 0 0#32 ((valOf 28 x).add (f32 y))).1
    add (add 0x3F80 0x3B800000#32) 0x3C000000#32 = 0x3F81 ∧ add (add 0x3F80 0x3C000000#32) 0x3B800000#32 = 0x3F82 := by decide +kernel
/-- 17, the example of domain 37 with five dead cores: the cores that serve positions (5, 10), (5, 2), (2, 4) and (10, 0). -/
theorem test_mapBorrowedSpare :
    let s := { State.reset with svc := { Service.reset with dead := [(37, 2 ^ 28 + 2 ^ 61 + 2 ^ 68 + 2 ^ 107 + 2 ^ 120)] } }
    s.serve 37 65 = some (4, 11, true) ∧ s.serve 37 57 = some (5, 3, false) ∧ s.serve 37 26 = some (2, 5, false) ∧ s.serve 37 110 = some (10, 1, false) := by
  decide +kernel
/-- 05, Table 05-3: the headers of the example give the classes and counts named, and its loop words END 5 and 3. -/
theorem test_loopExample : decode [0x06E6A005#32] = .ok (.loop ⟨7, 0, 106, 5, none⟩, []) ∧ decode [0x06E88003#32] = .ok (.loop ⟨7, 1, 8, 3, none⟩, []) ∧
    hdrN 0x20000000#32 = 2 ∧ hdrN 0x1A000000#32 = 1 := by refine ⟨rfl, rfl, ?_, ?_⟩ <;> decide +kernel
/-- R95: one step of the generator. -/
theorem test_generatorStep : advGen 1#32 = 0x80200003#32 ∧ advGen 2#32 = 1#32 := by decide +kernel

/-! ## Witnesses: states in which the statements' words pass their checks -/

/-- The page at 0, for every ASID. -/
def big : TlbEnt := { asid := 0, g := true, size := 0, vpn := 0, pa := 0, wr := true, x := true, u := true, ty := 0 }
/-- The word `i` at issue in a fresh block of core 0, whose addresses translate. -/
def here (i : Instr) : State := (State.reset.placed (encode i)).updCore 0 0 fun c => { c with tlb := [big] }
def hereW (i : Instr) (f : Warp → Warp) : State := (here i).updWarp 0 0 f
def hereB (i : Instr) (f : Block → Block) : State := (here i).updBlock 0 f
def any : Env → Bool := fun _ => true
/-- A continuation runs: the probe, which nothing else answers, comes back. -/
def goes (f : Out → Out) : Bool := match f (.fault .noIssuingWarp) with | .fault _ => true | _ => false
/-- A step is taken before the continuation runs. -/
def holds (f : Out → Out) : Bool := match f (.fault .noIssuingWarp) with | .next _ => true | _ => false
/-- A domain's slice can ask for the line of an address. -/
def asks (s : State) (d pa : Nat) : Bool := !s.unreachable pa && !s.backing (.slice d) pa && !s.lineRefuses pa (.slice d)
/-- What an unlisted byte of the reset machine reads as. -/
def zero : Nat → Byte := fun _ => 0#8
/-- A register-format, branch or loop word passes its checks in `s`, with `c`. -/
def passes (i : Instr) (s : State) (c : Env → Bool) : Bool :=
  match i.parts with
  | some (_, .reg f) => (readyReg i f s).any c
  | some (_, .br f) => (readyWord i f.g none [] (fun _ => true) s).any c
  | some (_, .loop f) => (readyLoop f s).any c
  | _ => false
def passing (l : List Instr) : Bool := l.all fun i => passes i (here i) any
/-- A word of another format passes its checks in `s`, with `c`. -/
def passW (i : Instr) (vs : List Nat) (u : Env → Bool) (s : State) (c : Env → Bool) : Bool :=
  let go := fun (g : BitVec 3) (lit : Option Word) => (readyWord i g lit vs u s).any c
  match i.parts with
  | some (_, .mem f) => go f.g f.lit
  | some (_, .mtx f) => go f.g (some f.lit)
  | some (_, .drn f) => go f.g (some f.lit)
  | some (_, .asy f) => go f.g f.lit
  | some (_, .sys f) => go f.g f.lit
  | _ => false
/-- v4 from v1 (and v2); the word without operands; the word with the uniform operand `a`. -/
def two : RegW := ⟨7, 0, 4, 1, 2, none⟩
def one : RegW := ⟨7, 0, 4, 1, 0, none⟩
def uni (a : BitVec 7) : RegW := ⟨7, 0, 0, a, 0, none⟩

/-! ### Vector words -/

theorem witness_IntegerResults : passing [.iadd two, .isub two, .imul two, .imulh two, .imad two, .imin two, .imax two, .iabs one, .iacc two, .isad two,
    .idot4 two, .addmin two, .addmax two, .sel two, .mov one, .movi one, .pack two] = true := by decide +kernel
theorem witness_BitResults : passing [.and two, .or two, .xor two, .not one, .shl two, .shr two, .shra two, .rot two, .popc one, .clz one, .brev one, .bfe two,
    .bfi two, .bymix two] = true := by decide +kernel
theorem witness_BitOperationValues : (0x80#32 ≠ 0#32) ∧ bfPos 0x00010304#32 ≤ 5 ∧ 5 < bfPos 0x00010304#32 + bfLen 0x00010304#32 := by decide +kernel
theorem witness_FloatResults : passing [.fadd two, .fsub two, .fmul two, .ffma two, .fmin two, .fmax two, .fclmp two, .fscale two, .fexp one, .frnd one,
    .rcp one, .rsq one, .sqrt one, .exp2 one, .log2 one, .hmin2 two, .hmax2 two, .dot2 two, .dot4 two, .scmax two, .scext one, .scins one] = true := by
  decide +kernel
theorem witness_FloatSpecialValues : isNaN32 0xFFC00001#32 = true ∧ (isNaN32 0x80000000#32 = false ∧ 0x80000000#32 ≠ 0xFF800000#32 ∧ 0x80000000#32 ≠ 0x7F800000#32) ∧
    isNaN32 0x7F800000#32 = false ∧ (0x807FFFFF#32 : Word) &&& 0x7FFFFFFF#32 ≠ 0x7F800000#32 ∧
    (isNaN32 0x80000001#32 = false ∧ (0x80000001#32 : Word).getLsbD 31 = true ∧ 0x80000001#32 ≠ 0x80000000#32) := by decide +kernel
theorem witness_CountedResults : passing [.hadd2 two, .hmul2 two, .hfma2 two, .cvt one, .cvt ⟨7, 0, 4, 1, 72, none⟩, .pkcv ⟨7, 0, 4, 1, 124, some 0x3D#32⟩,
    .pkcv ⟨7, 0, 4, 1, 124, some 0x41#32⟩, .xpcv ⟨7, 0, 4, 1, 124, some 0xD#32⟩, .xpcv ⟨7, 0, 4, 1, 124, some 0x28D#32⟩] = true := by decide +kernel
theorem witness_CompareResults : passing [.icmp ⟨7, 0, 8, 1, 2, none⟩, .icmp ⟨7, 1, 47 - 1, 1, 2, none⟩, .fcmp ⟨7, 0, 8, 1, 2, none⟩] = true ∧
    isNaN32 0x7F800001#32 = true := by decide +kernel
theorem witness_ExchangeResults : passing [.qxch one, .qbc one, .qsum one, .qsum ⟨7, 0, 4, 1, 1, none⟩, .lidx two, .lshf two, .lrot two, .lbc two,
    .lshf ⟨7, 0, 4, 1, 124, some 0xFFFFFFFF#32⟩] = true := by decide +kernel
theorem witness_ReduceScanResults : passing [.wred one, .wred ⟨7, 0, 4, 1, 8, none⟩, .wscan one, .wscan ⟨7, 0, 4, 1, 16, none⟩] = true := by decide +kernel
theorem witness_ReduceTreeIsFold : (8 ∈ [0, 1, 2, 6, 7, 8]) ∧ (List.replicate 32 0#32).length = 32 := by decide +kernel
theorem witness_RandomWords : passing [.rnds ⟨7, 0, 0, 1, 2, none⟩, .rnd ⟨7, 0, 4, 0, 0, none⟩, .rnd ⟨7, 0, 4, 0, 1, none⟩] = true ∧ (5#32 ≠ 0#32) := by decide +kernel

/-! ### Control words -/

theorem witness_BranchesAndCallsComplete : passing [.nop (uni 0), .yield (uni 0), .bra ⟨7, 4⟩, .call ⟨7, 4⟩] = true ∧
    passes (.brx (uni 1)) (here (.brx (uni 1))) (fun e => (List.range 32).all fun L => !e.gr.getLsbD L || (e.src 1 L).toNat % 4 == 0) = true ∧
    passes (.callx (uni 1)) (here (.callx (uni 1))) (fun e => (List.range 32).all fun L => !e.gr.getLsbD L ||
      ((e.src 1 L).toNat % 4 == 0 && (e.lane L).calls.length != 8)) = true ∧
    passes (.ret (uni 0)) (hereW (.ret (uni 0)) fun wp => wp.updLanes 0xFFFFFFFF#32 fun _ ln => { ln with calls := [(16#32, 0)] })
      (fun e => (List.range 32).all fun L => !(e.lane L).calls.isEmpty) = true := by decide +kernel
theorem witness_LoopsComplete :
    passes (.loop ⟨7, 0, 105, 4, none⟩) (here (.loop ⟨7, 0, 105, 4, none⟩)) (fun e => (List.range 32).all fun L => (e.lane L).loops.isEmpty) = true ∧
    passes (.rpt (uni 105)) (here (.rpt (uni 105))) (fun e => e.any && decide ((e.uni 105).toNat ≤ 4096)) = true ∧
    passes (.rpt { uni 105 with g := 0 }) (here (.rpt { uni 105 with g := 0 })) (fun e => !e.any) = true := by decide +kernel
theorem witness_ExitsComplete : passes (.exit (uni 0)) (here (.exit (uni 0))) (!·.blk.isHandler) = true ∧
    passes (.exits (uni 0)) (here (.exits (uni 0))) (fun e => e.any && !e.blk.isHandler) = true ∧
    passes (.exits { uni 0 with g := 0 }) (here (.exits { uni 0 with g := 0 })) (!·.any) = true := by decide +kernel

/-- The conditions under which an arrival at k0 with `n` warps goes through. -/
def arrivesOk (n : Nat) (e : Env) : Bool := e.any && decide (e.gr = e.cl.run) && decide (e.cl.run = e.wp.present) && decide (n ≤ e.blk.warps.length) &&
  !e.s.lsBusy e.bid e.w false && !(e.blk.bar 0).brk && (!(e.blk.bar 0).set || decide ((e.blk.bar 0).exp = n)) && !(e.blk.warp e.w).arr.getLsbD 0
def bar2 : RegW := ⟨7, 0, 0, 106, 0, none⟩
def barWait (ph : Nat) (b : Bar) : State :=
  hereB (.barw ⟨7, 0, 0, 0, 0, none⟩) fun x => (x.setBar 0 b).updWarp 0 fun wp => { wp with bara := [(0, ph)] }
theorem witness_BarriersComplete : (passes (.bar bar2) (here (.bar bar2)) (arrivesOk 2) && passes (.barm bar2) (here (.barm bar2)) (arrivesOk 2) &&
    passes (.bara bar2) (here (.bara bar2)) (arrivesOk 2) &&
    [(3, { Bar.zero with ph := 4 }), (4, { Bar.zero with ph := 4, brk := true }), (4, { Bar.zero with ph := 4 })].all fun p =>
      passes (.barw ⟨7, 0, 0, 0, 0, none⟩) (barWait p.1 p.2) fun e => e.any && decide (e.gr = e.cl.run) && decide (e.cl.run = e.wp.present) &&
        !e.s.lsBusy e.bid e.w true && decide (mfind e.wp.bara 0 = some p.1)) = true ∧
    (let b := (State.reset.placed []).block 0 |>.setBar 3 { Bar.zero with set := true, exp := 2, cnt := 2 }
     (b.bar 3).set = true ∧ (b.bar 3).brk = false ∧ (b.bar 3).cnt = if (b.bar 3).exp = 0 then b.liveWarps else (b.bar 3).exp) := by decide +kernel
theorem witness_VoteMoveAndBindingWordsComplete : passing [.vote ⟨7, 0, 4, 0, 0, none⟩, .plop ⟨7, 0, 1, 1, 2, none⟩, .movsys ⟨7, 0, 4, 0, 3, none⟩] = true ∧
    passes (.movs ⟨7, 0, 4, 12, 0, none⟩) (here (.movs ⟨7, 0, 4, 12, 0, none⟩)) (fun e => !e.s.sidHeld e.loc.d) = true ∧
    passes (.smov ⟨7, 0, 1, 1, 0, none⟩) (here (.smov ⟨7, 0, 1, 1, 0, none⟩)) (·.any) = true ∧
    passes (.reggive (uni 112)) (here (.reggive (uni 112))) (fun e => e.any && decide (e.wp.pend = 0#6) && decide (e.wp.d6 = 0) && decide ((e.uni 112).toNat = 8)) = true ∧
    passes (.regclaim (uni 76)) (hereW (.regclaim (uni 76)) fun wp => wp.setS 0 64#32) (fun e => e.any && decide ((e.uni 76).toNat = 64) && decide (e.wp.vcnt ≤ 64)) = true ∧
    passes (.settid (uni 105)) (here (.settid (uni 105))) (fun e => e.any && decide ((e.uni 105).toNat ≤ 63)) = true ∧
    passes (.qbind ⟨7, 1, 6, 8, 0, none⟩) (hereB (.qbind ⟨7, 1, 6, 8, 0, none⟩) fun b => b.setChan 0 { Chan.zero with opn := true })
      (fun e => e.any && (e.blk.openChan 0).isSome) = true ∧
    passes (.qbind ⟨7, 1, 7, 0, 0, none⟩) (here (.qbind ⟨7, 1, 7, 0, 0, none⟩)) (·.any) = true := by decide +kernel
theorem witness_ChannelWordsComplete :
    passes (.chput ⟨7, 0, 1, 1, 0, none⟩) (hereB (.chput ⟨7, 0, 1, 1, 0, none⟩) fun b => b.setChan 1 { Chan.zero with opn := true })
      (fun e => e.any && !e.s.lsBusy e.bid e.w false && (e.blk.openChan 1).any fun b => (b.chanServe e.w (.chput 1 (mkRow e.contrib (e.src 1)) 0 e.gr)).isSome) = true ∧
    passes (.chget ⟨7, 0, 4, 1, 0, none⟩) (hereB (.chget ⟨7, 0, 4, 1, 0, none⟩) fun b => b.setChan 1 { Chan.zero with opn := true })
      (fun e => e.any && !e.s.lsBusy e.bid e.w true && (e.blk.openChan 1).any fun b => (b.chanServe e.w (.chget 1 0 4 0 e.g e.gr)).isNone) = true ∧
    passes (.chclose ⟨7, 0, 1, 0, 0, none⟩) (here (.chclose ⟨7, 0, 1, 0, 0, none⟩)) (·.any) = true := by decide +kernel
theorem witness_SleepAndSoftwareTraps :
    passes (.sleep (uni 104)) (here (.sleep (uni 104))) (fun e => e.any && !e.s.sidHeld e.loc.d && decide (e.uni 104 = 0#32)) = true ∧
    passes (.sleep (uni 105)) (here (.sleep (uni 105))) (fun e => e.any && !e.s.sidHeld e.loc.d && decide (e.uni 105 ≠ 0#32)) = true ∧
    passes (.trap (uni 105)) (here (.trap (uni 105))) (fun e => decide (e.contrib ≠ 0#32)) = true ∧
    passes (.trap { uni 105 with g := 0 }) (here (.trap { uni 105 with g := 0 })) (fun e => decide (e.contrib = 0#32)) = true ∧
    passes (.assert ⟨7, 0, 0, 0, 105, none⟩) (here (.assert ⟨7, 0, 0, 0, 105, none⟩)) (fun e => !(e.lane 0).pred 0 && e.contrib.getLsbD 0) = true ∧
    passes (.assert ⟨7, 0, 0, 8, 105, none⟩) (here (.assert ⟨7, 0, 0, 8, 105, none⟩)) (fun e => (List.range 32).all fun L => !(e.lane L).pred 0) = true := by decide +kernel
theorem witness_HandlerWordsComplete : passes (.tret (uni 105)) (here (.tret (uni 105))) (·.any) = true ∧ passes (.kill (uni 105)) (here (.kill (uni 105))) (·.any) = true ∧
    passes (.movsysW ⟨7, 0, 0, 108, 73, none⟩) (here (.movsysW ⟨7, 0, 0, 108, 73, none⟩)) (fun e => e.any && decide ((e.uni 108).toNat % 4 = 0)) = true ∧
    passes (.movsysW ⟨7, 0, 0, 104, 74, none⟩) (here (.movsysW ⟨7, 0, 0, 104, 74, none⟩)) (fun e => e.any && decide ((e.uni 104).toNat = 0)) = true := by decide +kernel

/-! ### Engine operations, load/store, matrix and drain words -/

/-- The context of a plain word at issue in `here`. -/
def envHere (i : Instr) (g : BitVec 3) : Option Env := envOf (here i) g none
theorem witness_StartedOperation : (envHere (.nop (uni 0)) 7).any (fun e => !e.sq && (mfind (here (.nop (uni 0))).blocks e.bid).any fun b => e.w < b.warps.length) = true := by
  decide +kernel
/-- A word with no true guard passes its checks. -/
def idle (i : Instr) (vs : List Nat) (u : Env → Bool) : Bool := passW i vs u (here i) fun e => !e.any && !e.slotBusy 0 && !e.s.sidHeld e.loc.d
theorem witness_NoGuardNoOperation :
    (let f : MemW := ⟨0, 0, 4, 8, 0, 31, none⟩
     let b : MemW := ⟨0, 6, 3, 0, 1, 2, none⟩
     [Instr.ld f, .ldn f, .st f, .stn f, .ldx f, .stx f, .ldw f, .stw f].all (fun i => idle i (memGroupVs f) fun _ => true) &&
     [Instr.ldmx { f with sz := 0 }, .stmx { f with sz := 0 }].all (fun i => idle i (mxVs { f with sz := 0 }) fun _ => true) &&
     idle (.lds { f with dat := 3 }) (memVs f) (·.idxOne f) && idle (.ldb { f with sz := 6, dat := 3 }) (memVs f) (·.idxOne f) &&
     idle (.fence { f with sz := 0, dat := 0, lit := some 0x90000000#32 }) [] (fun _ => true) &&
     [Instr.cwb { f with sz := 0, dat := 0 }, .cinv { f with sz := 0, dat := 0 }].all (fun i => idle i (memVs { f with sz := 0, dat := 0 }) fun _ => true) &&
     passW (.setb b) (setbVs b) (fun e => (setbVs b).all fun j => e.uniform (e.v j)) (here (.setb b)) (!·.any) &&
     passW (.badd b) (memVs b) (·.idxUniform b) (here (.badd b)) (!·.any)) = true ∧
    ([(Instr.dst, (0xB0 : Nat), (⟨0, 0, 0, 4, 0, 31, 0x57800000#32⟩ : DrnW)), (.dsta, 0xB1, ⟨0, 0, 0, 4, 0, 31, 0x17820000⟩), (.dstm, 0xB2, ⟨0, 0, 0, 1, 0, 31, 0x03400000#32⟩),
      (.dstv, 0xB3, ⟨0, 0, 0, 4, 0, 31, 0x07000000#32⟩), (.atom, 0xB4, ⟨0, 0, 0, 4, 0, 31, 0⟩), (.atomc, 0xB5, ⟨0, 0, 0, 4, 0, 31, 0⟩), (.red, 0xB6, ⟨0, 0, 0, 4, 0, 31, 0⟩),
      (.dfence, 0xB7, ⟨0, 0, 0, 0, 0, 31, 0⟩)].all fun p => idle (p.1 p.2.2) (drnVs p.2.1 p.2.2) fun _ => true) = true ∧
    (let f : AsyW := ⟨0, 0, 0, 1, 0, 1, none⟩
     let q : AsyW := { f with bb := 0 }
     [Instr.cpy f, .cpy2 f, .cpym f, .cpyw f, .cpytProm q, .cpytEvct { q with v := 1 }, .cpytScr { q with v := 2 }, .cpytGlb { q with v := 3 }, .tqry q, .cpyc q,
      .enq q, .spawn q, .tdec q, .tinc q, .tstat q, .tcancel q, .trearm { q with lit := some 1#32 }, .vpost q, .vpostf q, .subs q, .verq q, .rstop q, .ssack q,
      .grpsetNew q, .grpsetAdd { q with v := 1 }, .grpsetArm { q with v := 2 }, .grpsetFree { q with v := 3 }, .shmap { q with lit := some 256#32 },
      .shmapFree { q with v := 1 }].all fun i => idle i [] fun _ => true) = true ∧
    (let f : SysW := ⟨0, 0, 0, 1, 0, none⟩
     let z := { f with s := 0 }
     [Instr.seqld f, .seqgo f, .seqstop f, .qset f, .qdec f, .seqsig { z with lit := some 3#32 }, .seqq f, .pfence z, .chks f, .umq f, .umset f, .fsend f, .fenq f, .fsig f,
      .ffence z, .svcQuote { f with f := 3 }, .capq f, .pwrq f, .clkq f, .evlogPut f, .hstat f, .tlbi f, .hflush f, .hprobe f, .atr f].all (fun i => idle i [] fun _ => true) &&
     [Instr.svcVf f, .svcRetire { f with f := 1 }, .svcPkill { f with f := 2 }, .evlogGet { f with f := 1 }].all fun i =>
       passW i [] (fun _ => true) ((here i).updBlock 0 fun b => { b with loc := some ⟨0, 0, 4⟩ }) fun e => !e.any && !e.slotBusy 0 && !e.s.sidHeld e.loc.d) = true := by
  decide +kernel

def lanesOk {α : Type} (r : List (Nat × LaneRes α) × State) : Bool := (passed r).isSome
/-- v8 with slot 0, base 0, no index. -/
def m32 : MemW := ⟨7, 0, 4, 8, 0, 31, none⟩
def mem (i : MemW → Instr) (f : MemW) (s : State) (c : Env → Bool) : Bool :=
  passW (i f) (memGroupVs f) (fun _ => true) s fun e => e.slotFree f.d && !e.lsFull && c e
def glob (i : MemW → Instr) (st : Bool) : Bool := mem i m32 (here (i m32)) fun e =>
  lanesOk (checkLanes (fun s L => e.checkGlobal s (e.gva m32 L) 4 4 (if st then .store else .load) (!st)) (lanesOf (if st then e.contrib else e.g)) e.s)
theorem witness_GlobalAccessesComplete : (glob .ld false && glob .ldn false && glob .st true && glob .stn true) = true := by decide +kernel

/-- The block's record gives 4 KiB of scratch. -/
def scr (i : MemW → Instr) : Bool := mem i m32 (hereB (i m32) fun b => { b with lrec := recPut b.lrec 8 5 16 }) fun e =>
  lanesOk (checkLanes (e.checkScratch m32) (lanesOf e.g) e.s)
/-- Window 0: rows that can be read and written. -/
def win0 : Nat := 1 + 2 + 4 + 32 + 2 ^ 64 * 128
def win (i : MemW → Instr) (w : Bool) : Bool := mem i m32 (hereB (i m32) fun b => { b with wins := [(0, win0)] }) fun e =>
  lanesOk (checkLanes (e.checkWindow m32 w) (lanesOf e.g) e.s)
def mx : MemW := ⟨7, 0, 0, 8, 0, 31, none⟩
def mxOk (i : MemW → Instr) (k : Kind) (part : Env → Mask) : Bool := passW (i mx) (mxVs mx) (fun _ => true) (here (i mx)) fun e =>
  e.slotFree 0 && !e.lsFull && lanesOk (checkLanes (e.checkMx mx k) (lanesOf (part e)) e.s)
def uniform (i : MemW → Instr) (f : MemW) : Bool := passW (i f) (memVs f) (·.idxOne f) (here (i f)) fun e => e.slotFree f.d && !e.lsFull &&
  (laneOk (e.checkGlobal e.s (e.gva f (lowLane e.g)) (szBytes f.sz) (szBytes f.sz) .load true).1).isSome
theorem witness_ScratchWindowAndUniformAccessesComplete : (scr .ldx && scr .stx && win .ldw false && win .stw true && mxOk .ldmx .load (·.g) &&
    mxOk .stmx .store (·.contrib) && uniform .lds ⟨7, 0, 4, 3, 0, 31, none⟩ && uniform .ldb ⟨7, 0, 6, 3, 0, 31, none⟩) = true := by decide +kernel

def sb (z : BitVec 3) : MemW := ⟨7, 6, z, 0, 1, if z = 0 then 31 else 2, none⟩
def ba : MemW := ⟨7, 6, 3, 0, 1, 2, none⟩
def pr : MemW := ⟨7, 6, 0, 0, 0, 31, none⟩
def fe : MemW := ⟨7, 0, 0, 0, 0, 31, some 0x90000000#32⟩
def cl : MemW := ⟨7, 0, 0, 0, 0, 31, none⟩
def lineOk (i : MemW → Instr) : Bool := passW (i cl) (memVs cl) (fun _ => true) (here (i cl)) fun e =>
  e.slotFree 0 && !e.lsFull && lanesOk (checkLanes (e.checkLine cl) (lanesOf e.g) e.s)
theorem witness_BaseFenceAndCacheWordsComplete :
    (([0, 1, 2, 3] : List (BitVec 3)).all fun z => passW (.setb (sb z)) (setbVs (sb z)) (fun e => (setbVs (sb z)).all fun j => e.uniform (e.v j)) (here (.setb (sb z))) fun e => e.any && !e.lsFull) = true ∧
    (passW (.badd ba) (memVs ba) (·.idxUniform ba) (here (.badd ba)) (fun e => e.any && !e.lsFull) && passW (.pref pr) (memVs pr) (fun _ => true) (here (.pref pr)) (!·.lsFull) &&
     passW (.fence fe) [] (fun _ => true) (here (.fence fe)) (fun e => e.slotFree 0 && !e.lsFull) && lineOk .cwb && lineOk .cinv) = true := by decide +kernel
theorem witness_MisalignedFails : (0x40000002 % 4 ≠ 0) ∧ (envHere (.ldx { m32 with lit := some 2#32 }) 7).any (fun e => e.poff { m32 with lit := some 2#32 } 0 % szBytes 4#3 ≠ 0) = true := by
  decide +kernel

def mtx (i : MtxW → Instr) (op : Nat) (f : MtxW) (c : Env → Bool) : Bool := passW (i f) (mtxVs op f) (fun _ => true) (here (i f)) fun e =>
  e.slotFree f.d && decide (e.cl.run = e.wp.present) && !e.s.matrixFull e.loc.d e.loc.a && decide (f.t.toNat < rACCF e.blk.lrec) && c e
theorem witness_OneWarpMatrixWordsComplete : (mtx .mms 0xA4 ⟨7, 2, 0, 8, 16, 0xE7400000⟩ any && mtx .mmss 0xA5 ⟨7, 2, 0, 8, 16, 0xE7400000⟩ (fun e => decide (e.wp.spmMap.toNat < 2 ^ 32)) &&
    mtx .mmz 0xA6 ⟨7, 2, 0, 0, 0, 0⟩ any && mtx .accmv 0xA7 ⟨7, 2, 0, 8, 0, 0⟩ any && mtx .accld 0xA8 ⟨7, 2, 0, 8, 0, 0xF8000000#32⟩ any &&
    mtx .accsc 0xA9 ⟨7, 2, 0, 8, 0, 0⟩ any && mtx .acccv 0xAA ⟨7, 2, 0, 8, 0, 0xE0000000#32⟩ any &&
    mtx .spld 0xAB ⟨7, 0, 0, 8, 16, 0⟩ fun e => decide (e.v 16 1 ++ e.v 16 0 = 0#64)) = true := by decide +kernel

/-- A quartet word at issue in four warps that all stand at it. -/
def quartet (i : Instr) : State := (here i).updBlock 0 fun b =>
  (List.range 4).foldl (fun b v => b.updWarp v fun wp => { wp with rdv := true }) { b with lrec := recPut b.lrec 8 5 64 }
def quartetOk (i : Instr) (f : MtxW) : Bool :=
  let s := quartet i
  match s.focus with
  | some (b, w) => match ((s.block b).warp w).clause with
    | some cl =>
      let t := (s.updWarp b w fun wp => { wp with rdv := true, clause := some { cl with ibuf := encode i ++ cl.ibuf.drop 2 } }).leavePort b w
      let x := t.block b
      let l := x.loc.getD ⟨0, 0, 0⟩
      (t.quartetBroken b 0).isNone && (quartetWarps 0).all (fun v => x.atQuartet v && (match x.memberCheck v with | .ok p => decide (p = (i.opcode, f)) | _ => false) &&
        !(x.warp v).slotBusy f.d.toNat && (x.memberBad i.opcode f v (f.t.toNat + v % 4) (x.warp v)).isNone &&
        (x.warp v).clause.any fun c => decide (c.ibuf.take 2 = encode i)) && !t.matrixFull l.d l.a &&
      (i.opcode != 0xA3 || (imageBad ((x.warp 0).sreg (f.br.toNat % 16)).toNat 4096 x.share).isNone)
    | none => false
  | none => false
theorem witness_QuartetWordsComplete : (quartetOk (.mmq ⟨7, 0, 0, 8, 16, 0xE7400000⟩) ⟨7, 0, 0, 8, 16, 0xE7400000⟩ &&
    quartetOk (.mmqs ⟨7, 0, 0, 8, 16, 0xE7400000⟩) ⟨7, 0, 0, 8, 16, 0xE7400000⟩ && quartetOk (.mmqx ⟨7, 0, 0, 1, 16, 0xE7400000⟩) ⟨7, 0, 0, 1, 16, 0xE7400000⟩ &&
    quartetOk (.mmqt ⟨7, 0, 0, 8, 1, 0xE7400000⟩) ⟨7, 0, 0, 8, 1, 0xE7400000⟩) = true := by decide +kernel
theorem witness_TileOperations : mZ 0x10#32 = true ∧ mBSB 0x50#32 = 17 / 16 := by decide +kernel
theorem witness_ProductCellValues : mFA 0xF8000000#32 = 31 ∧ mFA 0xE7400000#32 = 28 ∧ mSC 0xE7400000#32 = false ∧ mFA 0x68000000#32 ≤ 27 := by decide +kernel

def drn (i : DrnW → Instr) (op : Nat) (f : DrnW) (c : Env → Bool) : Bool := passW (i f) (drnVs op f) (fun _ => true) (here (i f)) fun e => e.slotFree f.d && !e.drainFull && c e
def tileP (i : DrnW → Instr) (op : Nat) (f : DrnW) : Bool := drn i op f fun e =>
  decide (f.t.toNat < rACCF e.blk.lrec) && lanesOk (checkLanes (e.tileCheck op f) (List.range (e.tileElems op f).length) e.s) && !e.core.umb.armed
def laneP (i : DrnW → Instr) (op : Nat) (f : DrnW) (n : Nat) : Bool := drn i op f fun e =>
  decide (e.contrib ≠ 0#32) && lanesOk (checkLanes (e.laneCheck op f n) (lanesOf e.contrib) e.s) && !e.core.umb.armed
/-- A DSTV whose lanes are all helpers. -/
def helpP (f : DrnW) : Bool := passW (.dstv f) (drnVs 0xB3 f) (fun _ => true) (hereW (.dstv f) fun wp => wp.updLanes 0xFFFFFFFF#32 fun _ ln => { ln with st := .launchHelper }) fun e =>
  e.slotFree f.d && !e.drainFull && decide (e.contrib = 0#32) && e.any
theorem witness_DrainWordsComplete : (tileP .dst 0xB0 ⟨7, 0, 0, 4, 0, 31, 0x57800000#32⟩ && tileP .dsta 0xB1 ⟨7, 0, 0, 4, 0, 31, 0x17820000⟩ &&
    tileP .dstm 0xB2 ⟨7, 0, 0, 1, 0, 31, 0x03400000#32⟩ && laneP .dstv 0xB3 ⟨7, 0, 0, 4, 0, 31, 0x07000000#32⟩ 2 && laneP .atom 0xB4 ⟨7, 0, 0, 4, 0, 31, 0x00000000#32⟩ 4 &&
    laneP .atomc 0xB5 ⟨7, 0, 0, 4, 0, 31, 0⟩ 4 && helpP ⟨7, 0, 0, 4, 0, 31, 0x07000000#32⟩ && laneP .red 0xB6 ⟨7, 0, 0, 4, 0, 31, 0⟩ 4 && drn .dfence 0xB7 ⟨7, 0, 0, 0, 0, 31, 0⟩ any) = true := by decide +kernel
theorem witness_DrainElementValues : dFMT 0x07800000#32 = 30 ∧ dFMT 0x07000000#32 ≤ 29 ∧ dOP 0x000C0000#32 = 12 := by decide +kernel

/-! ### Copy, task and publish words -/

/-- The word `i` at issue with s- and b-registers set. -/
def hereR (i : Instr) (ss : List (Nat × Word)) (bs : List (Nat × Ptr)) : State :=
  hereW i fun wp => bs.foldl (fun wp p => wp.setB p.1 p.2) (ss.foldl (fun wp p => wp.setS p.1 p.2) wp)
def passA (i : Instr) (s : State) (c : Env → Bool) : Bool := passW i [] (fun _ => true) s c
/-- A non-tier copy passes its checks; with no bytes to move or some, as `none` says. -/
def copyOk (i : AsyW → Instr) (op : Nat) (f : AsyW) (s : State) (none : Bool) : Bool := passA (i f) s fun e => e.slotFree f.d && !e.copyFull &&
  match e.s.copyPlan e.copyCx (e.copyRec op f) with | .ok segs _ _ => segs.isEmpty == none | _ => false
/-- An object table with the valid object 5 of 4 KiB, tag 3. -/
def obj5 : Obj := { Obj.zero with raw := [1, 0, 3, 1, 0, 0, 0, 0, 0x10000, 0, 0, 0, 0, 0, 0, 0] }
def withObj (s : State) : State := s.updObj 0 5 fun _ => obj5
def f0 : AsyW := ⟨7, 0, 0, 1, 0, 1, none⟩
def tierOk (i : AsyW → Instr) (v : BitVec 3) : Bool :=
  let f : AsyW := ⟨7, 0, v, 1, 0, 0, none⟩
  passA (i f) (withObj (hereR (i f) [(1, 0xC005#32)] [])) fun e => e.slotFree 0 && !e.copyFull &&
    (match (e.s.dom e.loc.d).named (e.sreg 1) with
     | some x => decide (v.toNat < 2) || (match e.s.copyPlan e.copyCx { e.copyRec 0xBB f with key := e.sreg 1, len := BitVec.ofNat 32 (4096 * ((e.s.dom e.loc.d).obj x).size) } with
        | .ok _ _ _ => true | _ => false)
     | none => false)
theorem witness_StartedCopy : (envHere (.nop (uni 0)) 7).any (fun e => !e.sq && (mfind (here (.nop (uni 0))).blocks e.bid).any fun b => e.w < b.warps.length) = true := by
  decide +kernel
/-- A copy in slot 2 of the warp at issue. -/
def withCopy (s : State) (r : CopyRec) (k : OpK) : State :=
  { s.updBlock 0 fun b => (b.updWarp 0 fun wp => { wp with pend := 4#6 }).updWarp 0 fun wp => wp with
    ops := [{ id := 7, bid := 0, ws := [(0, 2)], d := 0, a := 0, word := 0xB8E00000#32, seq := false, k := k, res := [], performed := false, flushed := false,
              acq := false, txn := [], jent := none, pins := [], foot := [], shads := [], pers := false }] } |>.updBlock 0 fun b => { b with copies := [(2, r)] }
def rec0 : CopyRec := { op := 0xB8, v := 0, w := 0, ds := 2, sq := false, ord := 0, scp := 1, st := 1, late := false, rsm := false, len := 64, dst := 0, src := 0, sstr := 0,
                        dstr := 0, prom := 9, iss := 0, key := 0, done := 0 }
def waittF : AsyW := ⟨7, 6, 2, 1, 0, 0, none⟩
def q2 : AsyW := ⟨7, 0, 2, 1, 0, 0, none⟩
theorem witness_CopyEngineComplete :
    (copyOk .cpy 0xB8 f0 (hereR (.cpy f0) [(1, 256#32)] [(0, 0#80), (1, 0x1000#80)]) false && copyOk .cpy 0xB8 f0 (here (.cpy f0)) true &&
     copyOk .cpy2 0xB9 f0 (hereR (.cpy2 f0) [(1, 0x00020040#32), (2, 64#32), (3, 128#32)] [(0, 0#80), (1, 0x1000#80)]) false &&
     copyOk .cpym 0xBA { f0 with v := 1 } (hereR (.cpym { f0 with v := 1 }) [(1, 128#32)] [(0, 0#80), (1, 0x1000#80)]) false &&
     copyOk .cpyw 0xBC f0 ((hereR (.cpyw f0) [(1, 64#32)] [(0, 0#80), (1, 0x1000#80)]).updBlock 0 fun b => { b with wins := [(0, win0)] }) false) = true ∧
    (tierOk .cpytProm 0 && tierOk .cpytEvct 1 && tierOk .cpytGlb 3) = true ∧
    passA (.cpytScr { q2 with v := 2 }) (withObj ((hereR (.cpytScr { q2 with v := 2 }) [(1, 0xC005#32)] []).updBlock 0 fun b => { b with lrec := recPut b.lrec 8 5 64 }))
      (fun e => (e.s.dom 0).named (e.sreg 1) = some 5) = true ∧
    (passA (.waitt waittF) (here (.waitt waittF)) (fun e => !e.wp.slotBusy 2) &&
     passA (.waitt waittF) (withCopy (hereR (.waitt waittF) [(1, 9#32)] []) rec0 (.copy 0 1 false [] [])) (fun e => e.any && e.wp.slotBusy 2 && !e.s.sidHeld e.loc.d &&
       decide (2 ^ 31 ≤ ((e.s.sid e.loc.d).setWidth 32 - e.sreg 1).toNat)) &&
     passA (.waitt waittF) (withCopy (hereR (.waitt waittF) [(1, 0#32)] []) rec0 (.copy 0 1 false [] [])) (fun e => e.any && e.wp.slotBusy 2 &&
       decide (((e.s.sid e.loc.d).setWidth 32 - e.sreg 1).toNat < 2 ^ 31)) &&
     passA (.tqry q2) (here (.tqry q2)) (fun e => e.slotFree 0 && (e.slotRec 2).isNone) &&
     passA (.tqry q2) (withCopy (here (.tqry q2)) rec0 (.copy 0 1 false [] [])) (fun e => e.slotFree 0 && (e.slotRec 2).isSome) &&
     passA (.cpyc q2) (here (.cpyc q2)) (fun e => e.slotFree 0 && (e.slotOp 2).isNone) &&
     passA (.cpyc q2) (withCopy (here (.cpyc q2)) rec0 (.copy 0 1 false [] [])) (fun e => e.slotFree 0 && (e.slotOp 2).any fun x => x.k.isCopy && !e.s.sidHeld x.d) &&
     passA (.cpyc q2) (withCopy (here (.cpyc q2)) rec0 .plain) (fun e => e.slotFree 0 && (e.slotOp 2).any fun x => !x.k.isCopy)) = true := by decide +kernel

/-- Memory holds the words of a record at address 0. -/
def withRec (s : State) (ws : List Word) : State := { s with mem := memPut zero [] 0 (ws.flatMap fun w => leBytes 4 w.toNat) }
/-- The domain holds record 9. -/
def rec9 (s : State) (st : RecSt) (parent : Option Nat) : State := s.updRec 0 9 fun _ => { Rec.free with ws := placedRec, st := st, parent := parent }
def t0 : AsyW := ⟨7, 0, 0, 1, 0, 0, none⟩
def taskOk (i : AsyW → Instr) (f : AsyW) (s : State) (c : Env → Bool) : Bool := passA (i f) s fun e => e.slotFree f.d && !e.core.umb.armed && c e
def tw : AsyW := ⟨7, 6, 0, 1, 0, 0, none⟩
def twT : AsyW := ⟨7, 6, 1, 1, 0, 0, none⟩
def with9 (i : Instr) : State := hereR i [(1, 9#32), (2, 0#32)] []
theorem witness_TaskEngineComplete :
    (taskOk .enq t0 (withRec (hereR (.enq t0) [(1, 9#32)] []) placedRec) (fun e => (e.recordAt 0 false).any fun p => !e.recEnding p.2 (e.enqHandle t0 p.2)) &&
     taskOk .spawn t0 (withRec (here (.spawn t0)) placedRec) (fun e => (e.recordAt 0 true).any (fun p => (p.2.spawnNow e.bid e.loc.d p.1 false).isSome) && decide (rDEPTH e.blk.lrec ≠ 8)) &&
     taskOk .tinc t0 (with9 (.tinc t0)) any && taskOk .tdec t0 (with9 (.tdec t0)) (fun e => !e.s.lsBusy e.bid e.w false) &&
     taskOk .tcancel t0 (rec9 (with9 (.tcancel t0)) .ready none) any &&
     taskOk .trearm { t0 with lit := some 1#32 } (rec9 (with9 (.trearm { t0 with lit := some 1#32 })) .done none)
       (fun e => (e.released e.s 3).any fun t => match t.rearmReady (e.rearmAt t (e.sreg 1)) with | .ok _ => true | _ => false)) = true ∧
    (passA (.twait { tw with g := 0 }) (here (.twait { tw with g := 0 })) (!·.any) &&
     passA (.twait tw) (hereR (.twait tw) [(1, 0xFFFFFFFF#32)] []) (fun e => e.any && (e.useRec e.s (e.sreg 1)).isNone) &&
     passA (.twait tw) (rec9 (with9 (.twait tw)) .done none) (fun e => e.any && (e.useRec e.s (e.sreg 1)).any fun p => (e.s.recAt p.1 p.2).st.terminal) &&
     passA (.twait tw) (rec9 (with9 (.twait tw)) .running none) (fun e => e.any && (e.useRec e.s (e.sreg 1)).any fun p => !(e.s.recAt p.1 p.2).st.terminal) &&
     passA (.twait twT) (rec9 (with9 (.twait twT)) .running none) (fun e => e.any && !e.s.sidHeld e.loc.d && ((e.useRec e.s (e.sreg 1)).any fun p => !(e.s.recAt p.1 p.2).st.terminal) &&
       decide (((e.s.sid e.loc.d).setWidth 32 - e.sreg 2).toNat < 2 ^ 31)) &&
     passA (.tstat t0) (hereR (.tstat t0) [(1, 0xFFFFFFFF#32)] []) (fun e => e.slotFree 0 && (e.useRec e.s (e.sreg 1)).isNone) &&
     passA (.tstat t0) (rec9 (with9 (.tstat t0)) .waiting none) (fun e => e.slotFree 0 && (e.useRec e.s (e.sreg 1)).isSome)) = true := by decide +kernel
theorem witness_DecrementEffect : [RecSt.waiting, .ready].all (fun st => match mfind ((rec9 State.reset st none).dom 0).recs 9 with
    | some r => decide (r.st = st) && decide (0 < r.ws.length) | none => false) = true := by decide +kernel

/-- Tile 3 is mapped at 0x10000. -/
def tile3 (s : State) : State := s.updTile 0 3 fun _ => { Tile.zero with mapped := true, base := 0x10000, szu := 1 }
def with3 (i : Instr) : State := tile3 (hereR i [(1, 3#32)] [])
def pubOk (i : AsyW → Instr) (f : AsyW) (s : State) (c : Env → Bool) : Bool := passA (i f) s fun e => e.slotFree f.d && !e.core.umb.armed && c e
def usable3 (e : Env) : Bool := decide (e.useTile e.s (e.sreg 1) = some (0, 3))
def grpOk (i : AsyW → Instr) (v : BitVec 3) : Bool :=
  let f : AsyW := ⟨7, 0, v, 1, 0, 0, none⟩
  pubOk i f (hereR (i f) [(1, 0#32), (2, 3#32)] []) (fun e => (e.useGroup e.s (e.sreg 1)).isSome) && pubOk i f (hereR (i f) [(1, 0xFFFFFFFF#32)] []) (fun e => (e.useGroup e.s (e.sreg 1)).isNone)
def shF : AsyW := ⟨7, 0, 0, 1, 0, 0, some 256#32⟩
def ssF : AsyW := ⟨7, 0, 0, 1, 0, 0, none⟩
def shfF : AsyW := ⟨7, 0, 1, 1, 0, 0, none⟩
theorem witness_PublishEngineComplete :
    ([Instr.vpost t0, .vpostf t0].all (fun i => passA i (with3 i) fun e => e.slotFree 0 && usable3 e && !e.s.lsBusy e.bid e.w false && !e.core.umb.armed &&
        !e.shadowBusy e.s 0 3 && decide ((e.s.tile 0 3).ver ≠ 65535)) &&
     [Instr.vpost t0, .vpostf t0, .verq t0, .rstop t0].all (fun i => passA i (hereR i [(1, 0xFFFFFFFF#32)] []) fun e => e.slotFree 0 && (e.useTile e.s (e.sreg 1)).isNone) &&
     [Instr.verq t0, .rstop t0].all (fun i => passA i (with3 i) fun e => e.slotFree 0 && usable3 e) &&
     pubOk .subs t0 (with3 (.subs t0)) any &&
     pubOk .ssack ssF (here (.ssack ssF)) (fun e => (recLink (e.s.recAt e.blk.rdom e.blk.ridx).ws 0).isNone) &&
     pubOk .ssack ssF ((tile3 (here (.ssack ssF))).updRec 0 0 fun _ => { Rec.free with ws := recPut placedRec 56 0 (2 ^ 31 + 3) })
       (fun e => !e.blk.isHandler && (recLink (e.s.recAt e.blk.rdom e.blk.ridx).ws 0).isSome)) = true ∧
    (grpOk .grpsetNew 0 && grpOk .grpsetAdd 1 && grpOk .grpsetArm 2 && grpOk .grpsetFree 3) = true ∧
    (let shmapAt := fun (s : State) (c : State → Option (Nat × Nat) → Bool) => pubOk .shmap shF s fun e => match e.s.lookup e.loc.d e.loc.a e.blk.asid 0 with
        | (.ok p, t) => (entryCode t p .store true 512).isNone && decide (p.ty = 0) && c t (t.tileNamed (e.sreg 1))
        | _ => false
     shmapAt (hereR (.shmap shF) [(1, 3#32)] [(0, 0#80)]) (fun t n => (n.any fun q => !(t.tile q.1 q.2).mapped) && [0, 256].all fun pa => asks t 0 pa) &&
     shmapAt (tile3 (hereR (.shmap shF) [(1, 3#32)] [(0, 0#80)])) (fun t n => n.any fun q => (t.tile q.1 q.2).mapped) &&
     shmapAt (hereR (.shmap shF) [(1, 0xFFFFFFFF#32)] [(0, 0#80)]) (fun _ n => n.isNone) &&
     pubOk .shmapFree shfF (tile3 (hereR (.shmapFree shfF) [(1, 3#32)] [])) (fun e => decide (e.s.tileNamed (e.sreg 1) = some (0, 3)) && (e.s.tile 0 3).asid == e.blk.asid &&
       (e.s.tile 0 3).subs.isEmpty && (e.s.tile 0 3).grp.isNone && !e.s.bufferHeld e.s.nextOp (tileKey 0 3) false && !e.s.bufferHeld e.s.nextOp (tileKey 0 3) true)) = true := by
  decide +kernel

/-! ### Sequencer, umbra, home, fabric and service words -/

def passS (i : SysW → Instr) (f : SysW) (s : State) (c : Env → Bool) : Bool := passA (i f) s fun e => e.slotFree f.d && c e
def y0 : SysW := ⟨7, 0, 0, 1, 0, none⟩
/-- The block at issue holds the core's sequencer, with two states of no words. -/
def held (m : Nat) (s : State) : State := s.updSeq 0 0 fun q => { q with hold := some (0, 0), mode := m, tab := List.replicate 2 (List.replicate 16 0#32) }
def mineOk (e : Env) : Bool := decide (e.core.seq.holder = some e.bid) && !e.s.lsBusy e.bid e.w false
def qF : SysW := ⟨7, 6, 2, 1, 0, none⟩
theorem witness_SequencerComplete :
    (let ld := fun (s : State) (c : Env → State → Seq → List (List Word) → Bool) => passS .seqld y0 s fun e => match e.readTable 2 0 e.s with
        | .ok tab t => !e.core.seq.ending && decide ((e.sreg 1).toNat = 2) && c e t (t.seqOf e.loc.d e.loc.a) tab | _ => false
     let at2 := hereR (.seqld y0) [(1, 2#32)] []
     ld at2 (fun e t q tab => decide (e.loc.k ≠ 4) && q.hold.isNone && (seqTableBad t.fresh 2 tab).isNone) && ld (held 2 at2) (fun e _ q _ => q.holder = some e.bid && q.mode = 2) &&
     ld (at2.updSeq 0 0 fun q => { q with hold := some (1, 5) }) (fun e _ q _ => q.hold.isSome && q.holder != some e.bid)) = true ∧
    (passS .seqgo y0 (here (.seqgo y0)) (fun e => decide (e.core.seq.holder ≠ some e.bid)) &&
     [(0, 64), (0, 0), (2, 0), (1, 3), (1, 1)].all (fun p => passS .seqgo y0 (held p.1 (hereR (.seqgo y0) [(1, BitVec.ofNat 32 p.2)] [])) fun e =>
       !e.core.seq.ending && decide (e.core.seq.holder = some e.bid) && decide ((e.sreg 1).toNat = p.2) && decide (e.core.seq.mode = p.1)) &&
     passS .seqgo y0 ((held 1 (hereR (.seqgo y0) [(1, 0x100#32)] [])).updSeq 0 0 fun q => { q with tab := [0xA0000000#32 :: List.replicate 15 0] })
       (fun e => decide (e.core.seq.holder = some e.bid) && decide (e.blk.warps.length ≤ 4 * 1 + 3)) &&
     [0, 1].all (fun z => passS .seqstop { y0 with f := z } (held 2 (here (.seqstop { y0 with f := z }))) fun e => decide (e.core.seq.holder = some e.bid)) &&
     passS .seqstop y0 (here (.seqstop y0)) (fun e => decide (e.core.seq.holder ≠ some e.bid))) = true ∧
    ([Instr.qset y0, .qdec y0, .seqsig { y0 with s := 0, lit := some 3#32 }].all (fun i => passA i (held 1 (here i)) (fun e => e.slotFree 0 && mineOk e) &&
       passA i (here i) fun e => e.slotFree 0 && decide (e.core.seq.holder ≠ some e.bid)) && passA (.qwait qF) (held 2 (here (.qwait qF))) (·.any) &&
     passA (.qwait qF) (held 2 (here (.qwait qF))) (·.any) && passA (.qwait qF) (here (.qwait qF)) (·.any) && passS .seqq y0 (here (.seqq y0)) any) = true := by decide +kernel

theorem witness_UmbraAndHomeWordsComplete :
    ([Instr.pfence { y0 with s := 0 }, .pfence { y0 with s := 0, f := 1 }, .chks y0, .chks { y0 with f := 1 }, .umq y0, .umq { y0 with f := 1 }, .umq { y0 with f := 2 }].all fun i =>
       passA i (here i) (fun e => e.slotFree 0 && decide (e.wp.cut.1 ≤ e.core.umb.sealedNo)) &&
       passA i (hereW i fun wp => { wp with cut := (1, 1, 0) }) (fun e => e.slotFree 0 && decide (e.core.umb.sealedNo < e.wp.cut.1))) = true ∧
    passS .umset y0 (hereR (.umset y0) [(1, 0x1000000#32)] []) (fun e => decide ((e.sreg 1).toNat = 2 ^ 24)) = true ∧
    ([0, 1, 8, 9].all (fun z => passS .tlbi { y0 with f := z } (hereR (.tlbi { y0 with f := z }) [(1, 4095#32)] []) fun e => decide ((e.sreg 1).toNat = 4095)) &&
     passS .tlbi { y0 with f := 2, s := 0 } (here (.tlbi { y0 with f := 2, s := 0 })) any &&
     passS .hflush { y0 with f := 2, s := 0 } (here (.hflush { y0 with f := 2, s := 0 })) any &&
     [0, 1, 4].all (fun z => passS .hflush { y0 with f := z } (hereR (.hflush { y0 with f := z }) [(1, 4096#32)] []) fun e => match e.rangePages .load 65538 e.s 0 4096 with
       | (.ok ps, t) => !ps.isEmpty && (t.heldSectors 0).isEmpty | _ => false) &&
     [0, 1, 2].all (fun z => passS .hprobe { y0 with f := z } (here (.hprobe { y0 with f := z })) fun e => match e.translate e.s 0 .load 1 with | (.ok _ _, _) => true | _ => false) &&
     [0, 1, 2].all (fun z => passS .atr { y0 with f := z } (here (.atr { y0 with f := z })) fun e => (e.atrWords e.s 0 (if z = 0 then .load else if z = 1 then .store else .fetch)).1.isSome)) = true := by
  decide +kernel

/-- A fabric pointer to device 9, which no route reaches. -/
def fp9 : Ptr := BitVec.ofNat 80 (9 * 2 ^ 74)
/-- The route to the device itself. -/
def routed (s : State) : State := s.updDom 0 fun x => { x with fab := [(2049, 3#32)] }
def isGone (r : Route) : Bool := match r with | .gone => true | _ => false
def fabOk (i : SysW → Instr) (f : SysW) (s : State) (c : Env → Bool) : Bool := passS i f s fun e => !e.core.umb.armed && c e
theorem witness_FabricWordsComplete :
    (let send := fun (z : BitVec 5) (n : Word) (p : Ptr) (gone : Bool) =>
       let f := { y0 with f := z }
       fabOk .fsend f (routed (hereR (.fsend f) [(1, n), (2, 9#32)] [(0, p), (1, 0x1000#80)])) fun e => (match e.sendSectors (n.toNat / 64) 0x1000 e.s with
         | (.ok _, t) => isGone (t.route e.loc.d (fpDev p)) == gone | _ => false) && !fpRes p && decide (fpOff p % 64 = 0)
     send 0 64#32 0#80 false && send 1 128#32 0#80 false && send 2 64#32 0#80 false &&
     [0, 1].all (fun z => let f := { y0 with f := z }
       fabOk .fenq f (routed (hereR (.fenq f) [(1, 9#32)] [])) fun e => match e.sendSectors 1 0 e.s with
         | (.ok ps, t) => (e.released t 3).any fun v => !e.acquiring v && (match v.readSector (.core e.loc.d e.loc.a) e.loc.d [] false (.glob (ps.headD (0, 0)).1) with | .ok _ _ _ => true | _ => false)
         | _ => false) &&
     [0, 1, 2].all (fun z => let f := { y0 with f := z }
       fabOk .fsig f (routed (hereR (.fsig f) [(2, 9#32)] [])) fun e => !fpRes (e.breg 0) && decide (fpOff (e.breg 0) + 4 ≤ 2 ^ 40)) &&
     fabOk .fsig y0 (hereR (.fsig y0) [] [(0, fp9)]) (fun e => !fpRes (e.breg 0) && decide (fpOff (e.breg 0) % 4 = 0) && isGone (e.s.route e.loc.d (fpDev (e.breg 0)))) &&
     passS .ffence { y0 with s := 0 } (here (.ffence { y0 with s := 0 })) any) = true := by decide +kernel
/-- A word of the handler slot passes its checks. -/
def sup (i : SysW → Instr) (f : SysW) (s : State) (c : Env → Bool) : Bool :=
  passS i f (s.updBlock 0 fun b => { b with loc := some ⟨0, 0, 4⟩ }) fun e => e.blk.isHandler && c e
def s1 (i : SysW → Instr) (f : SysW) (v : Word) : State := hereR (i f) [(1, v)] []
def y1 : SysW := { y0 with f := 1 }
def y2 : SysW := { y0 with f := 2 }
def y3 : SysW := { y0 with f := 3 }
/-- Core 0 can ask for the line of an address. -/
def asksCore (s : State) (pa : Nat) : Bool := !s.unreachable pa && !s.backing (.core 0 0) pa && !s.lineRefuses pa (.core 0 0)
theorem witness_ServiceWords1 : (sup .svcVf y0 (s1 .svcVf y0 0x1C0#32) (fun e => decide ((e.sreg 1).toNat = 448)) && sup .svcVf y0 (s1 .svcVf y0 0x105#32) any) = true := by
  decide +kernel
theorem witness_ServiceWords2 : sup .svcRetire y1 (s1 .svcRetire y1 0x4000#32) (fun e => decide ((e.s.retireAt 0 0 0 1 0).1 = 0#32) &&
    (mfind (e.s.retireAt 0 0 0 1 0).2.blocks e.bid).isSome) = true := by decide +kernel
theorem witness_ServiceWords3 : (sup .svcPkill y2 (s1 .svcPkill y2 0xFFFFFFFF#32) (fun e => (e.s.named (e.sreg 1)).isNone) &&
    sup .svcPkill y2 ((s1 .svcPkill y2 0xE000#32).updRec 0 0xE000 fun _ => { Rec.free with kind := .park 0 0 0, st := .ready })
      (fun e => (e.s.named (e.sreg 1)).any fun p => decide ((e.s.recAt p.1 p.2).kind = .park 0 0 0) && decide ((e.s.recAt p.1 p.2).st ≠ .free))) = true := by decide +kernel
theorem witness_ServiceWords4 : passS .svcQuote y3 (here (.svcQuote y3)) (fun e => match e.buffer true 258 0 16480 e.s with | (.ok ps, t) => ps.all (fun p => asksCore t p.1) | _ => false) = true := by
  decide +kernel
theorem witness_ServiceWords5 : (passS .capq y0 (s1 .capq y0 7#32) any && passS .capq y1 (s1 .capq y1 31#32) any && passS .capq y3 (s1 .capq y3 255#32) any &&
    passS .capq y2 (here (.capq y2)) (fun e => match e.translate e.s 0 .load 32 with | (.ok pa _, t) => (t.tileAt pa).isNone && (match t.readSector (.core 0 0) 0 [] false (.glob (pa / 64 * 64)) with | .ok _ _ _ => true | _ => false) | _ => false) &&
    [0, 1, 2, 3].all (fun z => passS .pwrq { y0 with f := z } (here (.pwrq { y0 with f := z })) any && passS .hstat { y0 with f := z } (here (.hstat { y0 with f := z })) any) &&
    passS .clkq y0 (here (.clkq y0)) any && passS .evlogPut y0 (s1 .evlogPut y0 0x8000#32) (fun e => decide ((e.sreg 1).toNat = 0x8000))) = true := by decide +kernel
theorem witness_ServiceWords6 : sup .evlogGet y1 { s1 .evlogGet y1 1#32 with log := [⟨0, 0x30, 0, 0, 0⟩] } (fun e => match e.buffer false 1 0 32 e.s with
    | (.ok ps, t) => ps.all (fun p => asksCore t p.1) && t.log[0]?.isSome | _ => false) = true := by decide +kernel

/-! ### Events -/

/-- A block at issue, and operation 7 of its warp 0 in slot 2. -/
def s0 : State := here (.nop (uni 0))
def op7 (k : OpK) : Op :=
  { id := 7, bid := 0, ws := [(0, 2)], d := 0, a := 0, word := 0x80E00000#32, seq := false, k := k, res := [], performed := false, flushed := false, acq := false,
    txn := [], jent := none, pins := [], foot := [], shads := [], pers := false }
def with7 (x : Op) : State := { s0 with ops := [x], nextOp := 8 }
def waiting (w : Wait) (f : Warp → Warp) : State := s0.updWarp 0 0 fun wp => f { wp with wait := some w }
/-- Warp 0 of the block has no clause open, and code of one NOP at address 0. -/
def closed : State := { (s0.updWarp 0 0 fun wp => { wp with clause := none }).updCore 0 0 fun c => { c with ports := [] } with mem := memPut zero [] 0 [0, 0, 0, 0x1A] }

theorem witness_ClauseIssue :
    (s0.coreOn 0 0 && decide (mfind (s0.core 0 0).ports 0 = some (0, 0)) && ((s0.block 0).warp 0).clause.isSome && !((s0.block 0).warp 0).parked && ((s0.block 0).warp 0).wait.isNone) = true ∧
    (closed.coreOn 0 0 && decide (mfind (closed.core 0 0).ports 1 = none) && (State.pick (closed.core 0 0) (closed.rrOrder (closed.core 0 0)) closed).isSome) = true := by decide +kernel
theorem witness_QuartetRendezvous :
    (let s := (quartet (.mmq ⟨7, 0, 0, 8, 16, 0xE7400000⟩)).updBlock 0 fun b => { b with warps := b.warps.take 2 }
     (s.block 0).loc.isSome && (s.quartetBroken 0 0).isSome) = true ∧
    (let i : Instr := .mmq ⟨7, 0, 0, 8, 16, 0xE7400000⟩
     let s := (quartet i).updBlock 0 fun b => { b with warps := b.warps.map fun wp => { wp with clause := wp.clause.map fun c => { c with ibuf := encode i } } }
     let x := s.block 0
     x.loc.isSome && (s.quartetBroken 0 0).isNone && (x.warp 0).rdv && (quartetWarps 0).all (fun v => x.atQuartet v &&
       (match x.memberCheck v with | .ok p => decide (p = (0xA0, ⟨7, 0, 0, 8, 16, 0xE7400000⟩)) | _ => false) && !(x.warp v).slotBusy 0 &&
       (x.memberBad 0xA0 ⟨7, 0, 0, 8, 16, 0xE7400000⟩ v v (x.warp v)).isNone &&
       (x.warp v).clause.any fun c => decide (2 ≤ c.ibuf.length) && x.channelsServe (x.warp v) c.ibuf) && decide (x.differing (quartetWarps 0) = 0) && !s.matrixFull 0 0) = true := by
  decide +kernel
/-- Warp 1 of the block has nothing open and waits outside the active set. -/
def pendingW : State := (s0.updWarp 0 1 fun wp => { wp with clause := none, readyFor := 3 }).updCore 0 0 fun c => { c with pending := [(0, 1)] }
/-- Eight warps are active, six of them asleep and one on a port; warp 0 waits outside, ready for `age` cycles. -/
def eight (age : Nat) : State :=
  { (s0.updBlock 0 fun b => { b with warps := (List.range 9).map fun i =>
      let wp := b.warp 0
      if i = 0 then { wp with clause := none, readyFor := age } else if i = 8 then wp else { wp with wait := some .sleep, clause := none, notReadyFor := i } }).updCore 0 0 fun c =>
    { c with pending := [(0, 0)], active := (List.range 8).map fun i => (0, i + 1), ports := [(0, (0, 8))], rr := [] } with mem := memPut zero [] 0 [0, 0, 0, 0x1A] }
theorem witness_ActiveSetExchange : ([3, 1024].all fun age =>
      let s := eight age
      let c' := s.pruned (s.core 0 0)
      let ready := c'.pending.filter fun p => s.warpReady p.1 p.2
      let idle := c'.active.filter fun p => !(c'.ports.any fun q => decide (q.2 = p)) && !s.warpReady p.1 p.2
      argMax (fun p => ((s.block p.1).warp p.2).readyFor) ready == some (0, 0) && c'.active.length == 8 && idle.head? == some (0, 1) &&
        argMax (fun p => ((s.block p.1).warp p.2).notReadyFor) idle == some (0, 7)) = true ∧
    -- every active warp ready
    (let s := (eight 1024).updBlock 0 fun b => { b with warps := b.warps.map fun wp => { wp with wait := none, clause := none } }
     let c' := s.pruned (s.core 0 0)
     argMax (fun p => ((s.block p.1).warp p.2).readyFor) (c'.pending.filter fun p => s.warpReady p.1 p.2) == some (0, 0) && c'.active.length == 8 &&
       (c'.active.filter fun p => !(c'.ports.any fun q => decide (q.2 = p)) && !s.warpReady p.1 p.2).isEmpty && c'.ring.getLast?.isSome) = true ∧
    (let s := { pendingW with mem := memPut zero [] 0 [0, 0, 0, 0x1A] }
     let c' := s.pruned (s.core 0 0)
     decide (argMax (fun p : Nat × Nat => ((s.block p.1).warp p.2).readyFor) (c'.pending.filter fun p => s.warpReady p.1 p.2) = some (0, 1)) && decide (c'.active.length < 8)) = true := by
  decide +kernel
theorem witness_HandlerStart : [false, true].all (fun v =>
    let s := ((s0.updCore 0 0 fun c => { c with hq := [0] }).updDom 0 fun x => { x with hv := v })
    let c := s.core 0 0
    !c.hrun && s.coreOn 0 0 && !c.moving && c.hq == [0] && (s.dom 0).hv == v) = true := by decide +kernel

theorem witness_SlotComplete :
    (let y := { op7 .plain with performed := true }
     (with7 y).opDone y && (with7 y).tagAcked 0 0 none && !(with7 y).dfenceWaits y && ((with7 y).cutRefused y).isNone) = true ∧
    (let y := { op7 (.cut 8 false true) with performed := true }
     let s := { (with7 y).updCore 0 0 fun c => { c with pst := [(dramSize / 64, 0)] } with pinv := [{ d := 5, sec := dramSize / 64, txn := true, op := none }] }
     s.opDone y && s.tagAcked 0 0 none && !s.dfenceWaits y && (s.cutRefused y).isSome) = true ∧
    (let y := { op7 (.dfence 1) with performed := true, id := 9 }
     let s := { s0 with ops := [op7 (.load (.v 4 4) 0 1 []), y], nextOp := 10 }
     s.opDone y && s.tagAcked 0 0 none && !s.dfenceWaits y && (s.cutRefused y).isNone && (s.earlier y).any (·.k.isLs) && !(y.ws.all (·.2 = 7))) = true := by decide +kernel
theorem witness_Waits :
    (let s := waiting .sleep id
     decide (((s.block 0).warp 0).dl ≤ s.sid 0) && !s.sidHeld 0) = true ∧
    (let s := waiting (.waitt 2 0) fun wp => { wp with pend := 4#6 }
     ((s.block 0).warp 0).clause.isSome && ((s.block 0).warp 0).slotBusy 2 && decide (((s.sid 0).setWidth 32 - (0#64).setWidth 32).toNat < 2 ^ 31)) = true ∧
    (let s := waiting (.twait 9 1 (some 0)) id
     decide (((s.block 0).warp 0).wait = some (.twait 9 1 (some 0))) && (s.named 9).all fun p => !(s.recAt p.1 p.2).st.terminal) = true ∧
    [[], List.replicate 8 ((0 : Word), 0)].all (fun l =>
      let s := s0.updWarp 0 0 fun wp => { wp.updLanes 0xFFFFFFFF#32 (fun _ ln => { ln with calls := l }) with ev := [64], evDue := true }
      let wp := (s.block 0).warp 0
      !wp.exited && !wp.parked && ((lanesOf wp.present).any (fun L => decide (8 ≤ (wp.lane L).calls.length)) == !l.isEmpty)) = true ∧
    (let s := s0.updBlock 0 fun b => { b with winq := [(128 * 64 + 12, 5)] }
     (s.block 0).winq.any fun q => match (s.block 0).rowOwner (q.1 / 128) with | some v => ((s.block 0).warp v).clause.isNone | none => true) = true ∧
    State.reset.svc.powered = true ∧ State.reset.tick.toNat % 4096 = 0 := by decide +kernel

def pt (pa : Nat) (n : Nat) (data : List Byte) : Part := { lane := 0, pl := .glob pa, n := n, data := data, sc := none, ty := 0, sty := 0 }
/-- A sector with a home in another domain than 0; domain 0 holds a dirty byte of it; its line has a transaction open. -/
def farSec : Nat := dramSize / 64
def remote (s : State) : State := s.updDom 0 fun x => x.setRs farSec { clean := none, dirty := [(0, 1)] }
def opened (s : State) : State := { s with pinv := [{ d := 5, sec := farSec, txn := true, op := none }] }
theorem witness_AccessesOfASectorAreOne : (OpK.load (.v 4 4) 0 1 ((List.range 32).map fun L => { pt (0x100 + 4 * L) 4 [] with lane := L })).parts.length ≤ 32 := by decide +kernel
theorem witness_CopyRecordWords : rec0.op < 256 ∧ rec0.v < 8 ∧ rec0.ds < 7 ∧ rec0.w < 16 ∧ rec0.ord < 8 ∧ rec0.scp < 4 ∧ rec0.st < 8 := by decide +kernel
theorem witness_PerformEventsComplete :
    (let x := op7 (.load (.v 4 4) 0 1 [pt 0x100 4 []])
     let s := with7 x
     regionOf 0x100 == .dram && (s.tileAt 0x100).isNone && s.partMay x (pt 0x100 4 []) && !s.partBlocked x false 1 (pt 0x100 4 []) && (s.partRefused x false 1 (pt 0x100 4 [])).isNone) = true ∧
    (let x := op7 (.store 0 1 [pt 0x100 4 [1, 2, 3, 4]])
     let s := with7 x
     s.partMay x (pt 0x100 4 [1, 2, 3, 4]) && !s.partBlocked x true 1 (pt 0x100 4 [1, 2, 3, 4]) && (s.partRefused x true 1 (pt 0x100 4 [1, 2, 3, 4])).isNone) = true ∧
    (let x := op7 (.fence 2 2 false)
     (with7 x).fenceMay x false && ordRel 2 && !ordRel 1 && (with7 (op7 (.fence 1 1 true))).fenceMay (op7 (.fence 1 1 true)) true && !(with7 x).confirming 7 &&
       (match (with7 x).flush 0 (.op 7) 7 false with | .made _ => true | _ => false) &&
       (match (opened (remote (with7 x))).flush 0 (.op 7) 7 false with | .refused _ => true | _ => false)) = true ∧
    (let x := op7 (.cache 1 true [1])
     (with7 x).cacheMay x && !(with7 x).unreachable 256 && !(with7 x).backing (.op 7) 256 && !(with7 x).lineRefuses 256 (.op 7)) = true ∧
    (let s := remote (with7 (op7 (.flush true false false [])))
     (s.dom 0).dirtyList 0 = [farSec] ∧ s.unreachable (64 * farSec) = false ∧ s.backing (.op 7) (64 * farSec) = false ∧ s.lineRefuses (64 * farSec) (.op 7) = false) ∧
    (∃ r ∈ ({ s0 with retries := [{ q := .op 7, line := 1, tries := 1, back := 1, since := 0 }] } : State).retries, r.q = .op 7 ∧ r.line = 1 ∧ r.back = 1) := by
  decide +kernel

/-- Page tables for ASID 0 that map page 0 of 4 TiB. -/
def tables : State := { s0 with mem := memPut zero (memPut zero (memPut zero (memPut zero [] 0 [1, 0, 1]) 0x10000 [1, 0, 2]) 0x20000 [1, 0, 3]) 0x30000 [0x1F] }
def openedAt (s : State) : State := { s with pinv := [{ d := 5, sec := 0, txn := true, op := none }] }
def line0 : L1Line := { line := 1, way := 0, ws := 0, secs := [4] }
theorem witness_CacheEventsComplete :
    (s0.usable 0 0 && cacheable 0x100 && (s0.tileAt 0x100).isNone && !s0.unreachable 0x100 && !s0.asksHome 0 false false 0x100) = true ∧
    (cacheable dramSize && decide (homeOf dramSize ≠ 0) && (s0.tileAt dramSize).isNone && asks s0 0 dramSize && s0.asksHome 0 false false dramSize) = true ∧
    (let s := opened s0
     s.unreachable dramSize = false ∧ s.backing (.slice 0) dramSize = false ∧ s.lineRefuses dramSize (.slice 0) = true) ∧
    (((s0.updCore 0 0 fun c => { c with l1 := [line0] }).core 0 0).l1.find? (fun l => l.secs.contains 4)).isSome = true ∧
    (let s := remote s0
     !((s.dom 0).rs farSec).dirty.isEmpty && asks s 0 dramSize && ((List.range 4).map (4 * (dramSize / 256) + ·)).any ((s.dom 0).dirtyList 0).contains) = true ∧
    (let s := { s0 with pinv := [{ d := 2, sec := 4, txn := true, op := none }] }
     (s.pinv.find? fun p => p.d = 2 && p.sec = 4).isSome && !s.unreachable 0x100 && decide (homeOf 0x100 = 0)) = true ∧
    (mfind ({ s0 with hdir := [(1, { HomeLine.zero with sharers := 2, refused := [.op 9, .op 7], resv := some (.op 9, 2048) })] }).hdir 1).any (fun l => l.sharers ≠ 0#64 && l.resv = some (.op 9, 2048)) = true ∧
    (match (walk tables 0 0 0x1234).1 with | .ok _ => true | _ => false) = true ∧ (walk { tables with poison := [0] } 0 0 0x1234).1 = .bad 4 5 ∧ (walk (openedAt tables) 0 0 0x1234).1 = .refused 0 ∧
    (regionOf poolBase == .pool && !s0.unreachable poolBase && !s0.svc.poolGone.contains (poolPort poolBase) && regionOf hostBase == .host && decide (3 ∉ s0.svc.poolGone) && decide (3 ∉ s0.svc.poolDown)) = true := by
  decide +kernel

/-- A CPYM of one page to scratch-free memory, before and after its request has arrived; an open group of its tuple. -/
def mc (g : Option Nat) (got : AMap (List Byte)) (segs : List Seg) : OpK := .mcast 0 g [0x1000] 64 5 0 1 9 segs got
def grp (age : Nat) (closed : Bool) (sent : Nat) (late : List (Nat × Nat)) : Mcast :=
  { pages := [0x1000], n := 64, key := 5, scp := 1, members := [3], late := late, age := age, closed := closed, sent := sent, pins := [] }
def withGrp (s : State) (m : Mcast) : State := s.updDom 0 fun x => { x with mcasts := [(0, m)] }
def seg0 : Seg := { dst := .glob 0x2000, src := .glob 0x1000, n := 64, ty := 0 }
def sameGrp (s : State) : Option (Nat × Mcast) :=
  (s.dom 0).mcasts.find? fun q => q.2.pages = [0x1000] && q.2.n = 64 && q.2.key = 5 && q.2.scp = 1 && q.2.sent < 64 / 64
theorem witness_CopyEventsComplete :
    (let s := with7 (op7 (mc none [] []))
     goes (s.copyGo (op7 (mc none [] [])) 0 1) && (sameGrp s).isNone && (sameGrp (withGrp s (grp 3 false 0 []))).any (fun q => q.2.age < 64 && !q.2.closed) &&
     (sameGrp (withGrp s (grp 64 true 0 []))).any fun q => q.2.closed) = true ∧
    ((match s0.resend 0 7 [0x1000] 0 1 [] 1 with | (.ok _, _) => true | _ => false) && s0.retries.isEmpty && !s0.unreachable (sourceSector [0x1000] 0) && (mfind ((withGrp s0 (grp 64 false 0 [])).dom 0).mcasts 0).isSome &&
     (mfind ((withGrp s0 (grp 64 true 1 [(7, 1)])).dom 0).mcasts 0).any fun m => m.n / 64 ≤ m.sent && !m.late.isEmpty) = true ∧
    (let x := op7 (.copy 0 1 false [seg0] [])
     let s := with7 x
     goes (s.copyGo x 0 (segsScp 1 [seg0])) && !s.copyBlocked x false (seg0.scp 1) seg0.dst && (s.copyRefused x false (seg0.scp 1) seg0.dst).isNone && (match s.gather x [] [seg0] with | .ok _ _ _ => true | _ => false)) = true ∧
    (let x := op7 (.copy 2 2 false [seg0] [])
     holds ((with7 x).copyGo x 2 (segsScp 2 [seg0]))) = true ∧
    (let x := op7 (.tier 5 2 2 0 1 [seg0] [])
     let s := ((withObj (with7 x)).updObj 0 5 fun y => { y with st := 1 }).updDom 0 fun x => { x with dtlb := [big] }
     let y := (s.dom 0).obj 5
     goes (s.copyGo x 0 (segsScp 1 [seg0])) && !s.copyBlocked x false (seg0.scp 1) seg0.dst && (s.copyRefused x false (seg0.scp 1) seg0.dst).isNone &&
       (match s.imageSectors x y.asid [] (y.srcSectors seg0) with | .ok _ _ => true | _ => false) && !s.sidHeld 0) = true ∧
    (let s := (withObj s0).updDom 0 fun x => { x with promq := [(5, 7)] }
     decide ((s.dom 0).promrun.length < 4) && (s.dom 0).agedPromotion.isNone && (s.dom 0).promq == [(5, 7)] &&
     ((s.updDom 0 fun x => { x with promq := [(5, 2 ^ 20)] }).dom 0).agedPromotion == some 5) = true ∧
    (let s := (withObj s0).updObj 0 5 fun y => { y with st := 3 }
     ((s.dom 0).obj 5).st == 3 && !((s.dom 0).obj 5).wb) = true := by decide +kernel
theorem witness_ObjectMove : [true, false].all (fun up =>
    let s := (State.updObj { s0 with cores := [], ops := [] } 0 5 fun _ => { obj5 with raw := [if up then 1 else 9, 0, 3, 1, 0x8000, 0, 0, 0, 0x1000, 0, 0, 0, 0, 0, 0, 0], st := if up then 2 else 3 }).updDom 0 fun x =>
      { x with promrun := [5], dtlb := [big] }
    (s.dom 0).promrun.contains 5 && match ((s.dom 0).obj 5).move s 0 up with | .ok _ => true | _ => false) = true := by decide +kernel

/-- The state table of 14, Table 14-8. -/
def layers : List (List Word) :=
  let z := List.replicate 6 0#32
  [[0xBBE09080#32, 0, 0, 0, 0, 0, 0, 0, 0x00061001#32, 0x00000101#32, 0, 0, 0, 70000#32, 0x00028010#32, 0x00028011#32],
   [0xA3E04018#32, 0xE7000010#32, 0, 0, 0, 0, 0, 0, 0x00484002#32, 0] ++ z,
   [0xBBE09480#32, 0, 0, 0, 0, 0, 0, 0, 0x00021083#32, 0x00000104#32, 0, 0, 0, 70000#32, 0x00028011#32, 0],
   [0xA3E04018#32, 0xE7000010#32, 0, 0, 0, 0, 0, 0, 0x00586003#32, 0] ++ z]
/-- 14, the example: its table passes SEQLD's checks; QWAIT on q3 ends with status 0x0305. -/
theorem test_layerTable : seqTableBad 0 4 layers = none ∧
    ({ Seq.empty with mode := 1, cur := 3, tev := true } : Seq).status 3 = 0x0305#32 ∧ ({ Seq.empty with mode := 2, cur := 2 } : Seq).status 1 = 0x0201#32 := by decide +kernel

def mem0 : MtxMem := { w := 0, tile := 0, tid := 0, areg := [], breg := [], sa := [], sb := [], map := 0, idx := [], aoff := 0, boff := 0, live := 0, img := [], seq := false }
def elem0 : DElem := { lane := 0, col := 0, pl := .glob 0x100, n := 4, x := 5, cmp := 0, draw := 0, sc := none, ty := 0, sty := 0 }
theorem witness_EngineOperations :
    (let x := op7 (.matrix 0xA6 0 0 [mem0])
     (with7 x).op 7 = some x ∧ (with7 x).tilesFree x = true) ∧
    ([(0x08000000#32, false), (0x50000000#32, false), (0x50000000#32, true)].all fun p =>
      let x := { op7 (.drain 0xB3 p.1 0 none 0 [elem0]) with flushed := p.2 }
      let s := with7 x
      s.tilesFree x && s.drainMay x p.1 [elem0] && (drainSectors [elem0]).all (fun q => !s.drainBlocked x q) && !s.lineRefuses 0x100 (.op 7) && !s.confirming 7 &&
        (match s.flush 0 (.op 7) 7 false with | .made _ => true | _ => false) &&
        (ordRel (litOrd p.1) == (p.1 == 0x50000000#32)) && (p.1 == 0x08000000#32 || decide (2 ≤ drainScope p.1 [elem0]))) = true ∧
    -- two homes: the transactions still to be opened, and all of them open
    ([[], [1, dramSize / 256]].all fun txn =>
      let es := [elem0, { elem0 with pl := .glob dramSize }]
      let x := { op7 (.drain 0xB3 0x08000000#32 0 none 0 es) with txn := txn }
      let s := with7 x
      let asked := (drainSectors es).filterMap fun c => match c with | .glob pa => some (s.drainHome pa) | _ => none
      let rest := asked.filter fun pa => !x.txn.contains (pa / 256)
      s.tilesFree x && s.drainMay x 0x08000000#32 es && (drainSectors es).all (fun q => !s.drainBlocked x q) && (asked.map homeOf).eraseDups.length == 2 &&
        (rest.isEmpty == !txn.isEmpty) && rest.all fun pa => !s.lineRefuses pa (.op 7)) = true := by decide +kernel

/-- The block at issue holds a running sequencer with a table of one or two states. -/
def runs (tab : List (List Word)) (f : Seq → Seq) : State := s0.updSeq 0 0 fun q => f { q with hold := some (0, 0), mode := 2, tab := tab }
def zeros (n : Nat) : List Word := List.replicate n 0#32
theorem witness_SequencerEvents :
    (let s := runs [zeros 16] fun q => { q with phase := 1 }
     let q := s.seqOf 0 0
     q.holder == some 0 && s.coreRuns 0 0 && q.running && q.phase == 1 && q.nextWord.isNone) = true ∧
    ([[0xA6E00000#32, 0#32] ++ zeros 14, [0xA0E00080#32, 0xE7000010#32] ++ zeros 14].all fun ent =>
      let s := runs [ent] fun q => { q with phase := 1 }
      let q := s.seqOf 0 0
      match q.nextWord with
      | some (k, w, lit) =>
        !s.seqParked 0 0 && !(s.core 0 0).cutting && !(s.core 0 0).moving && (match decode (seqWords w lit) with
          | .ok (i, _) =>
            let e := s.seqEnv 0 q k w lit
            (match mtxOf i with
             | none => !e.wp.exited && e.vsOk (seqVs i) && (match e.replay i with | some (.done _) => true | _ => false)
             | some f => match e.replayQuartet q.qd i.opcode f with | .done _ => true | _ => false)
          | _ => false)
      | none => false) = true ∧
    (let s := runs [zeros 16] fun q => { q with phase := 2 }
     s.coreRuns 0 0 && !(s.seqOf 0 0).ending && (s.seqOf 0 0).running && s.seqTests 0 0 && !s.seqParked 0 0) = true ∧
    (let s := runs [zeros 16] fun q => { q with ending := true }
     (s.seqOf 0 0).ending && s.ops.isEmpty) = true ∧
    (let s := runs [zeros 8 ++ [0x1040#32, 1#32] ++ zeros 6, zeros 16] fun q => { q with phase := 2, q := [(0, 3#32)] }
     let q := s.seqOf 0 0
     q.ten && !s.seqTests 0 0 && decide (q.t0 + BitVec.ofNat 64 q.tout ≤ s.sid 0) && decide (q.tnext ≠ q.cur)) = true := by decide +kernel
def image0 : Image := { no := 0, blocks := [], slots := [], seq := .empty, hq := [], hent := 0, evth := 4096 }
def bank0 : Bank := { Bank.empty with magic := 0x00554D42, fmt := 1, hseq := 1, fseq := 1, img := some image0 }
theorem witness_CutEvents :
    (let s := s0.updUmbra 0 0 fun u => { u with timer := 65536 }
     let u := (s.core 0 0).umb
     s.coreRuns 0 0 && u.openCut.isNone && u.per != 0 && decide (u.per ≤ u.timer) && !(s.core 0 0).held.isEmpty && u.reqs.isEmpty) = true ∧
    (let s := (s0.updUmbra 0 0 fun u => { u with reqs := [{ kind := 0, warp := none, exit := none }] }).updBlock 0 fun b =>
       { b with warps := b.warps.map fun wp => { wp with clause := none } }
     let u := (s.core 0 0).umb
     !u.reqs.isEmpty && (s.core 0 0).slots.all (fun p => (List.range (s.block p.2).warps.length).all (s.block p.2).cuttable) && (s.core 0 0).held.all (fun p => !s.exitOpen u p.2) && !(s.ops.any (s.cutWaits 0 0))) = true ∧
    (let s := s0.updUmbra 0 0 fun u => { u with openCut := some false, cutNo := 1 }
     s.coreRuns 0 0 && s.sealReady 0 0 && !(s.core 0 0).moving) = true ∧
    (let s := (s0.updUmbra 0 0 fun u => { u with openCut := some false, cutNo := 1 }).updCore 0 0 fun c => { c with moving := true }
     s.sealReady 0 0 && (s.core 0 0).moving && ((s.sealed 0 0).moveCore 0 0).isSome) = true ∧
    (let e : JEnt := { op := 0, warp := 0, slot := 0, st := 1, pc := 0, mask := 0, tag := 16, tgt := 0, data := [], matched := true, ack := some 0, lanes := 0, doms := [] }
     let s := s0.updUmbra 0 0 fun u => { u with bankA := { bank0 with jn := [e] } }
     (s.core 0 0).umb.journal[0]? == some e && s.coreRuns 0 0) = true := by decide +kernel

/-- All warps of the block wait for record 9, with a deadline. -/
def blocked (dl : Nat) : State := (rec9 s0 .running none).updBlock 0 fun b =>
  { b with rdom := 5, idle := 5000, warps := b.warps.map fun wp => { wp with wait := some (.twait 9 1 (some (BitVec.ofNat 64 dl))) } }
/-- The block is parked with hardware record 57,344. -/
def parked (dl : Nat) : Option State := (blocked dl).parkAll false [0]
def offered : Option State := (parked 0).map fun s => ((s.updDom 0 fun x => { x with coff := true }).updRec 0 57344 fun r => { r with st := .ready, waited := 65536 }).updDom 0 fun x => { x with ready := [57344] }
def queued : State := (s0.updRec 0 9 fun _ => { Rec.free with ws := placedRec, st := .ready }).updDom 0 fun x => { x with ready := [9] }
/-- Record 9 waits, and every core of the domain holds a block of another partition. -/
def busy : State := (List.range 132).foldl (fun s a => s.updCore 0 a fun c => { c with slots := [(0, 0)], part := 7 }) queued
/-- The block's lanes have all exited; its exit's cut has been taken. -/
def gone : State := s0.updBlock 0 fun b => { b with rdom := 5, warps := b.warps.map fun wp => wp.updLanes 0xFFFFFFFF#32 fun _ ln => { ln with st := .exited } }
def cutGone : State := (gone.updBlock 0 fun b => { b with exiting := true }).updUmbra 0 0 fun u => { u with bankA := bank0 }
def jent0 : JEnt := { op := 0, warp := 0, slot := 0, st := 1, pc := 0, mask := 0, tag := 16, tgt := 0, data := [], matched := true, ack := none, lanes := 0, doms := [] }
/-- With a full journal; with an exception count to write out. -/
def fullGone : State := cutGone.updUmbra 0 0 fun u => { u with bankA := { u.bankA with jn := List.replicate 16 jent0 } }
def countGone : State := cutGone.updBlock 0 fun b => { b with lrec := recPut b.lrec 52 0 0x1000, cnt := [(3, 5#32)] }
theorem witness_PlacementOfRecords :
    (let s := s0.updRec 0 9 fun _ => { Rec.free with ws := placedRec, st := .running, wafer := true, cursor := 2 }
     let r := s.recAt 0 9
     r.wafer && r.st == .running && r.cursor.testBit 1 && (s.dom 1).freeHw == some 57344) = true ∧
    ((parked 0).any fun s => match (s.recAt 0 57344).kind with
      | .park k _ _ => (s.recAt 0 57344).st == .waiting && decide (recBits (s.recAt 0 57344).ws 20 0 5 ≠ 0) && s.woken 0 57344 k
      | _ => false) = true ∧
    (offered.any fun s => match s.unitOf 0 57344 with
      | some (u, _) => !u.pins.any Option.isSome && (s.choose 0 u (s.takes 0 u.part)).isNone && (s.choose 0 u (s.eligible 0 57344 u.part)).isNone &&
          ((neighbours 0).findSome? fun t => (s.choose t { u with pref := [] } (s.takes t u.part)).map fun as => (t, as)) == some (1, [0]) &&
          holds (s.blockRelease 0 u.bids false) &&
          (let v := u.bids.foldl (fun (s : State) b => s.updBlock b fun y => { y with rel := some 3 }) s
           goes (v.blockRelease 0 u.bids false) && (v.resumeUnit { u with pref := [] } 1 [0]).isSome)
      | none => false) = true ∧
    ([RecKind.launch, .range 1 9].all fun k =>
      let s := s0.updRec 0 9 fun _ => { Rec.free with ws := placedRec, kind := k, st := .running, placed := true }
      !s.sidHeld 0 && !(s.dom 0).ready.contains 9 && (s.recAt 0 9).live == 0 && (s.recAt 0 9).fin.isNone && !(s.recAt 0 9).refire && !(s.dom 0).uoff && s.svc.powered) = true ∧
    ([RecEnd.due, .released 3 0, .stored 3].all fun e =>
      let s := s0.updRec 0 9 fun _ => { Rec.free with ws := placedRec, st := .done, fin := some e }
      (s.stepFin 0 9).isSome && !s.sidHeld 0 && !(s.dom 0).uoff && s.svc.powered) = true := by decide +kernel
theorem witness_PlacementEventsComplete :
    ((List.range 132).all (fun a => (queued.core 0 a).drain.isNone) && (State.serveQueue 0 (queued.dom 0).queue queued).isSome) = true ∧
    ((List.range 132).all (fun a => (busy.core 0 a).drain.isNone) && (State.serveQueue 0 (busy.dom 0).queue busy).isNone && State.serveWaiting 0 (busy.dom 0).ready busy != busy) = true ∧
    (let s := blocked 9
     s.mates 0 == [0] && s.mayEvict 0 && !(s.block 0).warps.all Warp.exited && !(s.block 0).evicting && s.saveReady 0 && (s.parkAll false [0]).isSome) = true ∧
    ((gone.block 0).warps.all Warp.exited && gone.coreRuns 0 0 && !(gone.block 0).exiting && gone.ops.isEmpty) = true ∧
    ((cutGone.core 0 0).umb.openCut.isNone && (cutGone.core 0 0).umb.reqs.isEmpty && cutGone.mates 0 == [0] && !cutGone.copyTouches 0 && !((cutGone.core 0 0).umb.journal.any (!·.matched) && cutGone.travelling 0 0) && (rCounters (cutGone.block 0).lrec).isNone &&
     holds (cutGone.blockRelease 0 [0] true) && goes ((cutGone.updBlock 0 fun y => { y with rel := some 5 }).blockRelease 0 [0] true) &&
     (cutGone.exitEntry ⟨0, 0, 0⟩ 0 (recHandle 0 (cutGone.block 0).qdom (cutGone.block 0).qidx).toNat 0xFFFFFFFF#32).isSome &&
     (fullGone.exitEntry ⟨0, 0, 0⟩ 0 (recHandle 0 (cutGone.block 0).qdom (cutGone.block 0).qidx).toNat 0xFFFFFFFF#32).isNone &&
     (match rCounters (countGone.block 0).lrec with
      | some area => !(countGone.block 0).killed && (countGone.block 0).rel.isNone && (countGone.writeOut 0 ⟨0, 0, 0⟩ area (countGone.block 0).cnt).1 != countGone
      | none => false)) = true ∧
    (s0.svc.winOpen && match s0.windowEnq 0 false 9 placedRec with | .done _ _ => true | _ => false) = true := by decide +kernel

/-- An aperture of all devices on the first 64 KiB. -/
def ap (s : State) : State := s.updDom 0 fun x => { x with fab := [(0, 7#32), (2, 0xFFFFFFFF#32), (3, 0xFFFFFFFF#32), (6, 0x10000#32)] }
def msg (local' : Bool) (b : FabBody) : FabMsg :=
  { src := if local' then 0 else 5, id := { dev := if local' then 0 else 5, dom := 0, num := 3 }, port := if local' then none else some 0,
    op := if local' then some 7 else none, jtag := none, body := b }
def out (b : FabBody) (srcs : List Nat) (rel : Bool) : FabOut := { dev := 0, port := none, rel := rel, srcs := srcs, sent := [], code := 0, ended := none, tries := 0, back := 0, msg := msg true b }
def sending (b : FabBody) (srcs : List Nat) (rel : Bool) : State := ap (with7 (op7 (.fabric (out b srcs rel))))
def fullInbox (s : State) : State := s.updDom 0 fun x => { x with inbox := List.replicate 4096 ({ dev := 9, dom := 0, num := 0 }, 0#32) }
/-- The message is under way at its target, `rel` its release. -/
def underway (s : State) (m : FabMsg) (got : List Nat) (rel : Option Nat) : State :=
  s.updDom (s.fabTarget 0 m) fun x => { x with fabIn := [{ msg := m, tbl := 0, base := s.fabBase 0 m, got := got, code := 0, rel := rel, made := false }] }
def fits (b : FabBody) : Bool := match bodyRange b with | some r => r.2.1 % (if r.2.2.2 then 4 else 64) == 0 && r.2.2.1 != 0 | none => true
/-- A first arrival by the table of domain 0 is accepted. -/
def accepts (s : State) (m : FabMsg) : Bool :=
  let t := s.fabTarget 0 m
  (s.fabEntry m).isNone && decide (t < 64) && !(s.dom t).uoff && fits m.body && !(m.op.isNone && bodyNamed m.body && ((s.dom t).inboxOf m.id).isSome) && !s.fabFull t m
theorem witness_FabricArrivals : [FabBody.enq 0 9 false placedRec, .dec 9, .set 0 0x100 5, .add 0 0x100 5].all (fun b =>
    let s := sending b [] true
    let m := msg true b
    (match s.fabSender m with
     | some (x, f) => f.msg.body == b && holds (s.fabGo x f none) && (let f' := out b [] false
         goes (s.fabGo x f' none)) && accepts s m
     | none => false) &&
    (let t := ap s0
     let r := msg false b
     t.fabFrom r == some 0 && (t.fabSender r).isNone && accepts t r &&
     (((t.updDom 0 fun x => { x with inbox := [(r.id, 0#32)] }).dom 0).inboxOf r.id).isSome &&
     [none, some 3].all fun n =>
       let u := underway t r [] n
       match u.fabEntry r with | some (k, e) => !(u.dom k).uoff && u.fabStep k e != u | none => false)) = true := by decide +kernel
theorem witness_FabricRefusal : (let s := fullInbox s0
    let m := msg false (.dec 9)
    s.fabFull 0 m && s.fabTarget 0 m == 0 && s.fabFrom m == some 0 && (s.fabEntry m).isNone && ((s.dom 0).inboxOf m.id).isNone) = true := by decide +kernel
/-- A packet of one sector of a message of `n`. -/
def data (n k : Nat) (x : Byte) (tag : Option Word) : FabBody := .data 0 0x100 n k (List.replicate 64 x) tag
def packed (s : State) (m : FabMsg) (n k : Nat) (x : Byte) (tag : Option Word) : Bool := match s.fabEntry m with
  | some (t, e) => !(s.dom t).uoff && (match s.fabPacket t e n k (List.replicate 64 x) tag with | .ok _ _ => true | _ => false)
  | none => false
theorem witness_FabricSectors :
    (let s := sending (.data 0 0x100 1 0 [] none) [0x2000] false
     let m := msg true (data 1 0 0#8 none)
     match s.fabSender m with
     | some (x, f) => f.msg.body == .data 0 0x100 1 0 [] none && f.sent.isEmpty && accepts s m && goes (s.fabGo x f (some (0, 1))) &&
         (match s.readSector (.op x.id) x.d x.pins true (.glob (f.srcs.getD 0 0)) with
          | .ok bs pins r => bs == List.replicate 64 0#8 && packed (underway (r.setOp { x with k := .fabric { f with sent := [0] }, pins := pins }) m [] none) m 1 0 0#8 none
          | _ => false)
     | none => false) = true ∧
    ([(1, 0, none), (2, 0, none), (2, 1, none), (1, 0, some 9#32)].all fun p =>
      let s := ap s0
      let m := msg false (data p.1 p.2.1 1#8 p.2.2)
      s.fabFrom m == some 0 && (s.fabSender m).isNone && accepts s m && packed (underway s m [] none) m p.1 p.2.1 1#8 p.2.2) = true := by decide +kernel
theorem witness_FabricAcknowledgements :
    (let f := { out (.dec 9) [] false with ended := some 0#32 }
     (with7 (op7 (.fabric f))).op 7 = some (op7 (.fabric f))) ∧
    (let f := { out (.data 0 0x100 1 0 [] none) [0x2000] false with port := some 0 }
     let x := op7 (.fabric f)
     let s := with7 x
     (s.portLive 0 && statusOk f.msg.body 3#32 && goes (s.fabGo x f none) && (match State.fabReads (.op 7) 0 f.srcs [] s with | .ok _ _ _ => true | _ => false)) = true) ∧
    (with7 (op7 (.fabric { out (.dec 9) [] false with back := 1 }))).portLive 31 = true ∧
    (3 ∈ ({ s0 with svc := { s0.svc with portDown := [3] } } : State).svc.portDown) ∧
    (((s0.updDom 0 fun x => { x with inbox := [((msg false (.dec 9)).id, 0#32)] }).dom 0).inboxOf (msg false (.dec 9)).id).isSome = true ∧ (5 ≠ s0.svc.dev) := by decide +kernel

/-- The core has stopped; it holds bank A, or none. -/
def stopped (bank : Bool) : State := (s0.updCore 0 0 fun c => { c with stopped := true }).updUmbra 0 0 fun u =>
  if bank then { u with bankA := bank0 } else u
/-- A block is held at position 0, which nothing serves any more. -/
def unserved : State := { stopped false with svc := { s0.svc with unusable := [0] } }
def noPorts : State := { s0 with svc := { s0.svc with portDown := List.range 32 } }
theorem witness_ServiceEventsComplete2 :
    (s0.hostDev 0x1000 [1#8] = none ∧ noPorts.hostDev 0x0600000C [5#8] = some 5) ∧
    ((let s := { s0 with svc := { s0.svc with winOpen := false } }
      s.svc.powered && s.cores.all fun p => !s.resuming (p.1 / 132) (p.1 % 132)) = true) ∧
    (RetUnit.core 0 0 0 ∈ ({ s0 with svc := { s0.svc with retired := [.core 0 0 0] } } : State).svc.retired) ∧
    (!unserved.usable 0 0 && (unserved.core 0 0).stopped && !(unserved.core 0 0).held.isEmpty && (unserved.settleCore 0 0).isSome && unserved.svc.powered && !(unserved.dom 0).uoff) = true :=
  by decide +kernel
theorem witness_ServiceEventsComplete :
    (barAddr 0 0x1000 = some (ctlBase + 0x1000) ∧ regionOf (ctlBase + 0x1000) = .ctl ∧ windowOf 0x1000 = none) ∧
    (barAddr 2 0x1000 = some 0x1000 ∧ regionOf 0x1000 ≠ .ctl ∧ s0.tileAt 0x1000 = none ∧ s0.backing (.host 0) 0x1000 = false ∧ s0.lineRefuses 0x1000 (.host 0) = false ∧ (opened s0).lineRefuses dramSize (.host 0) = true ∧ s0.unreachable 0x1000 = false) ∧
    (s0.svc.powered = true ∧ (s0.dom 3).uoff = false ∧ (s0.dom 0).coff = false ∧ s0.coreRuns 0 0 = true) ∧
    ((stopped false).usable 0 0 = true ∧ ((stopped false).core 0 0).stopped = true ∧ ((stopped false).core 0 0).umb.newest = none) ∧
    (let s := stopped true
     (s.core 0 0).umb.newest = some false ∧ s.bankPoisoned 0 0 false = false ∧ ((s.core 0 0).umb.bank false).img = some image0 ∧ (s.resumeFrom 0 0 false image0).isSome = true) ∧
    ((s0.updDom 0 fun x => { x with uoff := true }).dom 0).uoff = true ∧
    (({ s0 with svc := { s0.svc with tripped := true } } : State).cores.all (fun p => p.2.stopped || (p.2.umb.openCut.isNone && p.2.umb.reqs.isEmpty)) = true) ∧
    ({ s0 with svc := { s0.svc with powered := false } } : State).svc.powered = false ∧
    (s0.retireAt 0 0 0 0 0).1 = 0#32 ∧ (s0.retireAt 0 0 0 1 3).1 = 0#32 ∧ (s0.retireAt 0 0 0 2 7).1 = 0#32 ∧ RetUnit.dram 0 23 ∉ s0.svc.retired ∧ RetUnit.umbra 0 1023 ∉ s0.svc.retired ∧
    (RetUnit.port 31 ∉ s0.svc.retired ∧ s0.portPresent 31 = true) ∧ (RetUnit.pool 7 ∉ s0.svc.retired ∧ 7 ∉ s0.svc.poolGone) ∧ s0.clockSource 0 0 ≠ 2 ∧
    ((s0.dom 0).effC < 2 ∧ (s0.dom 0).effU < 2) ∧ (let x := (s0.updDom 0 fun x => { x with effC := 1, effU := 1 }).dom 0
      x.reqC < x.effC ∧ x.reqU < x.effU) ∧
    (let s := State.reset.updDom 0 fun x => { x with reqC := 3 }
     (s.dom 0).reqC = 3 ∧ (∀ a < 132, (s.core 0 a).slots = [] ∧ (s.core 0 a).umb.openCut = none ∧ (s.core 0 a).umb.reqs = []) ∧ s.ops = []) := by decide +kernel

/-! ### The whole machine -/

theorem witness_DecodeEncodeRoundTrip : (Instr.ld ⟨7, 3, 4, 8, 2, 4, some 0x30000100⟩).isWord = true ∧ (Instr.ld ⟨7, 3, 4, 8, 2, 4, some 0x30000100⟩).wf = true := by decide +kernel
theorem witness_EncodeDecodeRoundTrip : decode [0x80F70844#32, 0x30000100#32, 5#32] = .ok (.ld ⟨7, 3, 4, 8, 2, 4, some 0x30000100⟩, [5#32]) := by rfl
theorem witness_StepRunsIssuedWord :
    (let s := here (.iadd two)
     match s.focus with
     | some (b, w) => match ((s.block b).warp w).clause with
       | some cl => s.agenda.isEmpty && decide (1 ≤ cl.idx) && !((s.block b).warp w).parked && ((s.block b).warp w).wait.isNone && decide (cl.idx ≤ cl.ibuf.length) &&
           ((s.block b).warp w).placeOk cl cl.word (hdrN cl.hdr + 1 - cl.idx) && !takesLiteral cl.word &&
           (match decode ((cl.ibuf.drop (cl.idx - 1)).take (hdrN cl.hdr + 1 - cl.idx)) with | .ok (i, _) => decide (i = .iadd two) | _ => false)
       | none => false
     | none => false) = true ∧
    (let s := { (s0.updWarp 0 0 fun wp => { wp with clause := wp.clause.map fun c => { c with ibuf := [] } }) with mem := memPut zero [] 4 [0x69, 0x83, 0x21, 0x30] }
     match s.fetchAt 0 4#32 with | (.word x, _) => x == 0x30218369#32 | _ => false) = true ∧
    Instr.siderealBeacon.isWord = false ∧ (State.reset.agenda = [] ∧ State.reset.focus = none ∧ State.reset.svc.powered = true) := by decide +kernel
def nextOk (o : Out) : Bool := match o with | .next _ => true | _ => false
theorem witness_StepAlwaysAnswers : s0.agenda = [] ∧ s0.focus ≠ none := by decide +kernel
theorem witness_StepKeepsMemoryCanonical : State.reset.memOk ∧ nextOk (step s0) = true := by decide +kernel
theorem witness_WordsLeaveMemory : (Instr.iadd two).isWord = true ∧ reachesHome (.iadd two) = false ∧ nextOk (exec (.iadd two) (here (.iadd two))) = true := by
  decide +kernel
theorem witness_WriteResultEffect : (let b := s0.block 0
    let wp := b.warp 0
    decide (0 < b.warps.length) && wp.clause.isSome && decide (wp.lanes.length = 32) && decide wp.rows.Nodup && decide (4 < wp.rows.length) && wp.bnd6.isNone) = true := by decide +kernel
theorem witness_TrapTaking : (match mfind s0.blocks 0 with
      | some x => x.loc == some ⟨0, 0, 0⟩ && decide (0 < x.warps.length) && (x.warp 0).clause.isSome
      | none => false) = true ∧
    opSuper (Instr.kill (uni 105)).opcode = true ∧ (s0.block 0).isHandler = false ∧ (Instr.iadd { two with a := 125 }).wf = false ∧ opSuper (Instr.iadd { two with a := 125 }).opcode = false ∧
    ((s0.updBlock 0 fun b => { b with loc := some ⟨0, 0, 4⟩ }).block 0).loc = some ⟨0, 0, 4⟩ ∧
    -- a quartet whose words name a reserved operand
    (let i : Instr := .mmq ⟨7, 13, 0, 0, 8, 0⟩
     let s := (quartet i).updBlock 0 fun b => { b with warps := b.warps.map fun wp => { wp with clause := wp.clause.map fun c => { c with ibuf := encode i } } }
     let x := s.block 0
     x.loc.isSome && (s.quartetBroken 0 0).isNone && (x.warp 0).rdv && (quartetWarps 0).all (fun v => x.atQuartet v && decide (2 ≤ (x.quartetWords v).length)) &&
       (match x.memberCheck 0, (x.warp 0).clause with | .error _, some _ => true | _, _ => false)) = true := by
  decide +kernel
theorem witness_StoreWritesItsBytes : regionOf 0x3C ≠ .ctl ∧ 0x3C % 64 + [1#8, 2, 3, 4].length ≤ 64 ∧ ((s0.dom 0).rs 0).dirty = [] ∧ homeOf 0x3C = 0 ∧ homeOf dramSize ≠ 0 ∧ s0.tileAt dramSize = none := by decide +kernel

end Sys2Proof.Tests
end

-- ==== Engine operations: what starting one does, what a word without a true guard leaves (O21, O22) ====
section
/-! PROOF. An engine word that starts an operation: what a claim does to a warp, what the copy record's going leaves of a block, and what entering
the operation leaves of the state. A word without a true guard: it waits for its slot before all else, and only the slot's copy record goes. -/

namespace Sys2Proof.Machine

/-! ## A claimed slot (R63) -/

@[simp] theorem Warp.claim_lanes (wp : Warp) (d : Nat) : (wp.claim d).lanes = wp.lanes := by
  unfold Warp.claim; split <;> rfl
theorem Warp.claim_six_d6 (wp : Warp) : (wp.claim 6).d6 = wp.d6 + 1 := rfl
theorem Warp.claim_slotBusy (wp : Warp) {d : Nat} (c : Nat) (hd : d ≠ 6) :
    (wp.claim d).slotBusy c = (wp.slotBusy c || decide (d < 6) && decide (d = c)) := by
  simp [Warp.claim, Warp.slotBusy, hd, BitVec.getLsbD_twoPow]
theorem Warp.claim_slotBusy_same (wp : Warp) {d : Nat} (hd : d < 6) : (wp.claim d).slotBusy d = true := by
  rw [Warp.claim_slotBusy wp d (by omega)]; simp [hd]
theorem Warp.claim_slotBusy_ne (wp : Warp) {c d : Nat} (hc : c ≠ d) : (wp.claim d).slotBusy c = wp.slotBusy c := by
  by_cases hd : d = 6
  · subst hd; rfl
  · rw [Warp.claim_slotBusy wp c hd]; simp [Ne.symm hc]

/-! ## The copy record of the slot (R228) -/

@[simp] theorem Block.unrecord_warp (b : Block) (w d v : Nat) : (b.unrecord w d).warp v = b.warp v := by
  unfold Block.unrecord; split <;> rfl
@[simp] theorem Block.unrecord_rf (b : Block) (w d : Nat) : (b.unrecord w d).rf = b.rf := by
  unfold Block.unrecord; split <;> rfl
@[simp] theorem Block.unrecord_scr (b : Block) (w d : Nat) : (b.unrecord w d).scr = b.scr := by
  unfold Block.unrecord; split <;> rfl
theorem Block.unrecord_copies (b : Block) (w : Nat) {d : Nat} (hd : d < 6) : mfind (b.unrecord w d).copies (8 * w + d) = none := by
  simp [Block.unrecord, hd]

/-! ## The operation entered -/

/-- The block of the issuing warp once the operation has started. -/
theorem Env.start_block {e : Env} {s : State} {b : Block} (hq : e.sq = false) (hb : mfind s.blocks e.bid = some b) (d : BitVec 3) (k : OpK)
    (res : List (Nat × Word)) (j : Option Nat) :
    (e.start s d k res j).block e.bid = (b.updWarp e.w (·.claim d.toNat)).unrecord e.w d.toNat := by
  unfold Env.start Env.claim
  rw [if_neg (by simp [hq])]
  exact State.block_updBlock _ hb
theorem Env.start_block_ne {e : Env} (hq : e.sq = false) (s : State) (d : BitVec 3) (k : OpK) (res : List (Nat × Word)) (j : Option Nat) {b : Nat}
    (hb : b ≠ e.bid) : (e.start s d k res j).block b = s.block b := by
  unfold Env.start Env.claim
  rw [if_neg (by simp [hq])]
  exact State.block_updBlock_ne s _ hb
/-- A warp's claim leaves memory, the domains and the cores as they are, and the list of operations. -/
theorem Env.claim_frame {e : Env} (hq : e.sq = false) (s : State) (d : Nat) :
    (e.claim s d).mem = s.mem ∧ (e.claim s d).cores = s.cores ∧ (e.claim s d).doms = s.doms := by
  unfold Env.claim
  rw [if_neg (by simp [hq])]
  exact ⟨rfl, rfl, rfl⟩

/-- Settles O21, by the claim's effect on the warp and the frame of a change of one block. -/
theorem startedOperation : Obligations.StartedOperation := by
  unfold Obligations.StartedOperation
  intro e s d k res j b hq hb hw hd
  obtain ⟨hmem, hcores, hdoms⟩ := Env.claim_frame hq s d.toNat
  have hblock := Env.start_block hq hb d k res j
  have hwarp : ((e.start s d k res j).block e.bid).warp e.w = (b.warp e.w).claim d.toNat := by
    rw [hblock, Block.unrecord_warp, Block.warp_updWarp _ hw]
  refine ⟨by simp [Env.start, hq], rfl, hmem, hcores, hdoms, fun h6 => ⟨?_, ?_⟩, fun h6 => ?_, fun c _ hc => ?_, ?_, ?_, ?_,
    fun b' hb' => Env.start_block_ne hq s d k res j hb'⟩
  · rw [hwarp]; exact Warp.claim_slotBusy_same _ h6
  · rw [hblock]; exact Block.unrecord_copies _ _ h6
  · rw [hwarp, h6]; exact Warp.claim_six_d6 _
  · rw [hwarp]; exact Warp.claim_slotBusy_ne _ hc
  · rw [hblock, Block.unrecord_rf]; rfl
  · rw [hblock, Block.unrecord_scr]; rfl
  · rw [hwarp, Warp.claim_lanes]

/-! ## A word without a true guard (R14, R63) -/

/-- Without a true guard only the slot's copy record goes (R228). -/
theorem Env.slotted_idle {e : Env} {d : BitVec 3} {act : Env → Act} (hany : e.any = false) (hbusy : (d.toNat < 6 && e.slotBusy d.toNat) = false)
    (hsid : e.s.sidHeld e.loc.d = false) : e.slotted d act = .done (e.s.updBlock e.bid fun b => b.unrecord e.w d.toNat) := by
  unfold Env.slotted
  rw [if_neg (by rw [hbusy, hsid]; decide), if_pos (by simp [hany])]

/-- An engine word's effect waits for slot `d` before all else (R63). -/
def Env.WaitsSlot (e : Env) (d : BitVec 3) (a : Act) : Prop := ∃ k, a = e.slotted d k

theorem Env.slotted_waitsSlot (e : Env) (d : BitVec 3) (k : Env → Act) : e.WaitsSlot d (e.slotted d k) := ⟨k, rfl⟩
theorem Env.memIssue_waitsSlot (e : Env) (d : BitVec 3) (k : Act) : e.WaitsSlot d (e.memIssue d k) := ⟨_, rfl⟩
theorem Env.drainTile_waitsSlot (e : Env) (op : Nat) (f : DrnW) : e.WaitsSlot f.d (e.drainTile op f) := ⟨_, rfl⟩
theorem Env.drainLanes_waitsSlot (e : Env) (op : Nat) (f : DrnW) (n : Nat) (x : Nat → Nat × Nat × List NumEvent) :
    e.WaitsSlot f.d (e.drainLanes op f n x) := ⟨_, rfl⟩
theorem Env.atomc_waitsSlot (e : Env) (f : DrnW) : e.WaitsSlot f.d (e.atomc f) := by
  unfold Env.atomc
  dsimp only
  split
  · exact e.drainLanes_waitsSlot 0xB5 f 4 _
  · exact e.drainLanes_waitsSlot 0xB5 f 8 _

/-- A word that waits for its slot before all else makes no effect without a true guard, but that the slot's copy record goes. -/
theorem issueWord_idle {i : Instr} {g : BitVec 3} {lit : Option Word} {vs : List Nat} {uni : Env → Bool} {d : BitVec 3} {act : Env → Act}
    (hx : ∀ s, exec i s = issueWord i g lit vs s uni act) (hact : ∀ e : Env, e.WaitsSlot d (act e)) (s : State) (e : Env)
    (h : readyWord i g lit vs uni s = some e) (hany : e.any = false) (hbusy : (d.toNat < 6 && e.slotBusy d.toNat) = false)
    (hsid : e.s.sidHeld e.loc.d = false) :
    exec i s = e.retires i (e.s.updBlock e.bid fun b => b.unrecord e.w d.toNat) ∧
    (e.s.updBlock e.bid fun b => b.unrecord e.w d.toNat).ops = e.s.ops := by
  obtain ⟨k, hk⟩ := hact e
  rw [hx]
  exact ⟨issueWord_done h (hk.trans (Env.slotted_idle hany hbusy hsid)), rfl⟩

theorem exec_setb_idle (f : MemW) {s : State} {e : Env}
    (h : readyWord (.setb f) f.g f.lit (setbVs f) (fun e => (setbVs f).all fun j => e.uniform (e.v j)) s = some e) (hany : e.any = false) :
    exec (.setb f) s = e.retires (.setb f) e.s :=
  issueWord_done h (by simp [hany])
theorem exec_badd_idle (f : MemW) {s : State} {e : Env} (h : readyWord (.badd f) f.g f.lit (memVs f) (·.idxUniform f) s = some e)
    (hany : e.any = false) : exec (.badd f) s = e.retires (.badd f) e.s :=
  issueWord_done h (by simp [hany])

/-- Settles O22: every one of the words waits for its slot before all else, SETB and BADD test for a true guard first. -/
theorem noGuardNoOperation : Obligations.NoGuardNoOperation := by
  unfold Obligations.NoGuardNoOperation
  refine ⟨fun f => ?mem, fun f => ?drn, fun f => ?asy, fun f => ?sys⟩
  case mem =>
    refine ⟨?_, ?_, ?_, ?_, ?_, ?_, ?_, ?_, ?_, ?_, ?_, ?_, ?_, ?_, ?_, fun _ _ => exec_setb_idle f, fun _ _ => exec_badd_idle f⟩
    all_goals exact issueWord_idle (fun _ => rfl) fun e => e.memIssue_waitsSlot f.d _
  case drn =>
    exact ⟨issueWord_idle (fun _ => rfl) fun e => e.drainTile_waitsSlot 0xB0 f, issueWord_idle (fun _ => rfl) fun e => e.drainTile_waitsSlot 0xB1 f,
      issueWord_idle (fun _ => rfl) fun e => e.drainTile_waitsSlot 0xB2 f, issueWord_idle (fun _ => rfl) fun e => e.drainLanes_waitsSlot 0xB3 f _ _,
      issueWord_idle (fun _ => rfl) fun e => e.drainLanes_waitsSlot 0xB4 f _ _, issueWord_idle (fun _ => rfl) fun e => e.atomc_waitsSlot f,
      issueWord_idle (fun _ => rfl) fun e => e.drainLanes_waitsSlot 0xB6 f _ _, issueWord_idle (fun _ => rfl) fun e => e.slotted_waitsSlot f.d _⟩
  case asy =>
    refine ⟨?_, ?_, ?_, ?_, ?_, ?_, ?_, ?_, ?_, ?_, ?_, ?_, ?_, ?_, ?_, ?_, ?_, ?_, ?_, ?_, ?_, ?_, ?_, ?_, ?_, ?_, ?_, ?_, ?_⟩
    all_goals exact issueWord_idle (fun _ => rfl) fun e => e.slotted_waitsSlot f.d _
  case sys =>
    refine ⟨?_, ?_, ?_, ?_, ?_, ?_, ?_, ?_, ?_, ?_, ?_, ?_, ?_, ?_, ?_, ?_, ?_, ?_, ?_, ?_, ?_, ?_, ?_, ?_, ?_, ?_, ?_, ?_, ?_⟩
    all_goals exact issueWord_idle (fun _ => rfl) fun e => e.slotted_waitsSlot f.d _

/-! ## The first bring-up -/

/-- Settles O53: every value is a field of the reset state, read. -/
theorem resetValues : Obligations.ResetValues := by
  unfold Obligations.ResetValues
  exact ⟨rfl, rfl, rfl, rfl, rfl, rfl, rfl, rfl, fun _ => ⟨rfl, rfl, rfl, rfl, rfl, rfl, rfl, rfl, fun _ => rfl⟩,
    fun _ _ => ⟨rfl, rfl, rfl, rfl, rfl, rfl, rfl, rfl, rfl⟩⟩

end Sys2Proof.Machine
end

-- ==== What no operation but a writer changes: memory and the positions that serve ====
section
/-! PROOF. What is kept: each operation of the model that writes no byte of memory leaves memory, the draws of the domains that have
lost theirs and the positions no core serves as they were; the words and events of the model that write none leave what any `Q` asks of the three. -/

namespace Sys2Proof.Machine

variable {Q : Kept → Prop}

/-! ## What few operations change -/

/-- The bytes memory lists, the draws of the domains that have lost theirs, the positions that no core serves. -/
abbrev Kept := List Host.Cell × AMap Nat × List Nat
/-- What few operations change: the contents of memory, and which positions no core serves. -/
def State.kept (s : State) : Kept := (s.mem, s.lost, s.svc.unusable)

@[simp] theorem State.kept_mk (doms cores blocks mem lost hsec back hdir pinv retries ops tick maxTick log svc replies poison agenda focus nextOp
    nextBid fresh) :
    State.kept ⟨doms, cores, blocks, mem, lost, hsec, back, hdir, pinv, retries, ops, tick, maxTick, log, svc, replies, poison, agenda, focus, nextOp,
      nextBid, fresh⟩ = (mem, lost, svc.unusable) := rfl
@[simp] theorem State.kept_eta (s : State) : (s.mem, s.lost, s.svc.unusable) = s.kept := rfl
@[simp] theorem State.kept_ite (c : Prop) [Decidable c] (s t : State) : (if c then s else t).kept = if c then s.kept else t.kept := by
  split <;> rfl
theorem State.kept_foldl {β : Type} {f : State → β → State} (h : ∀ s x, (f s x).kept = s.kept) (l : List β) (s : State) :
    (l.foldl f s).kept = s.kept := foldl_keeps State.kept f h l s
/-- What every step of a fold leaves alone, the whole fold leaves alone, whatever it carries along with the state. -/
theorem foldl_keeps_of {α β γ : Type} (p : α → γ) {f : α → β → α}
    (h : ∀ a x, p (f a x) = p a) (l : List β) (a : α) : p (l.foldl f a) = p a := by
  induction l generalizing a with
  | nil => rfl
  | cons x l ih => rw [List.foldl_cons, ih, h]

/-! ## Blocks, warps, records, traps and operations -/

@[simp] theorem State.setDom_kept (s : State) (d : Nat) (x : Domain) : (s.setDom d x).kept = s.kept := rfl
@[simp] theorem State.updDom_kept (s : State) (d : Nat) (f : Domain → Domain) : (s.updDom d f).kept = s.kept := rfl
@[simp] theorem State.setCore_kept (s : State) (d a : Nat) (x : Core) : (s.setCore d a x).kept = s.kept := rfl
@[simp] theorem State.updCore_kept (s : State) (d a : Nat) (f : Core → Core) : (s.updCore d a f).kept = s.kept := rfl
@[simp] theorem State.setBlock_kept (s : State) (b : Nat) (x : Block) : (s.setBlock b x).kept = s.kept := rfl
@[simp] theorem State.updBlock_kept (s : State) (b : Nat) (f : Block → Block) : (s.updBlock b f).kept = s.kept := rfl
@[simp] theorem State.updWarp_kept (s : State) (b w : Nat) (f : Warp → Warp) : (s.updWarp b w f).kept = s.kept := rfl
@[simp] theorem State.fresh1_kept (s : State) : s.fresh1.2.kept = s.kept := rfl
@[simp] theorem State.spread_kept (s : State) (b : Nat) : (s.spread b).kept = s.kept := by
  unfold State.spread; split <;> simp
@[simp] theorem State.onScr_kept (s : State) (f : Nat → Block → Block) : (s.onScr f).kept = s.kept := by
  unfold State.onScr; exact State.kept_foldl (fun _ _ => by simp) _ _
@[simp] theorem State.awaitSlots_kept (s : State) (b w : Nat) (is : List Nat) (x : Nat → Agent) : (s.awaitSlots b w is x).kept = s.kept := by
  unfold State.awaitSlots; simp
@[simp] theorem State.updCoreOf_kept (s : State) (b : Nat) (f : Core → Core) : (s.updCoreOf b f).kept = s.kept := by
  unfold State.updCoreOf; split <;> simp
@[simp] theorem State.leavePort_kept (s : State) (b w : Nat) : (s.leavePort b w).kept = s.kept := by
  unfold State.leavePort; simp
@[simp] theorem State.logData_kept (s : State) (code dom area : Nat) (data : BitVec 64) : (s.logData code dom area data).kept = s.kept := rfl
@[simp] theorem State.logEvent_kept (s : State) (code dom area : Nat) : (s.logEvent code dom area).kept = s.kept := rfl
@[simp] theorem State.updRec_kept (s : State) (d i : Nat) (f : Rec → Rec) : (s.updRec d i f).kept = s.kept := rfl
@[simp] theorem State.poolReturn_kept (s : State) (d i : Nat) : (s.poolReturn d i).kept = s.kept := by
  unfold State.poolReturn; split <;> simp
@[simp] theorem State.childrenEnd_kept (s : State) (b : Nat) : (s.childrenEnd b).kept = s.kept := by
  unfold State.childrenEnd; exact State.kept_foldl (fun _ _ => by split <;> simp) _ _
@[simp] theorem State.endHandler_kept (s : State) (d a : Nat) : (s.endHandler d a).kept = s.kept := by
  unfold State.endHandler; split <;> simp
@[simp] theorem State.updObj_kept (s : State) (d i : Nat) (f : Obj → Obj) : (s.updObj d i f).kept = s.kept := rfl
@[simp] theorem State.updSeq_kept (s : State) (d a : Nat) (f : Seq → Seq) : (s.updSeq d a f).kept = s.kept := rfl
@[simp] theorem State.setOp_kept (s : State) (x : Op) : (s.setOp x).kept = s.kept := rfl
@[simp] theorem State.dropOp_kept (s : State) (o : Nat) : (s.dropOp o).kept = s.kept := rfl
@[simp] theorem State.tierPhase_kept (s : State) (x : Op) (ph : Nat) : (s.tierPhase x ph).kept = s.kept := rfl
@[simp] theorem State.settleObj_kept (s : State) (d i : Nat) : (s.settleObj d i).kept = s.kept := by
  unfold State.settleObj; dsimp only; repeat' split
  all_goals simp [State.kept_foldl]
@[simp] theorem State.unpin_kept (s : State) (d i : Nat) : (s.unpin d i).kept = s.kept := by
  unfold State.unpin; simp
@[simp] theorem State.seqUnpin_kept (s : State) (d a : Nat) : (s.seqUnpin d a).kept = s.kept := by
  unfold State.seqUnpin; dsimp only; repeat' split
  all_goals simp
@[simp] theorem State.seqStop_kept (s : State) (d a : Nat) : (s.seqStop d a).kept = s.kept := by
  unfold State.seqStop; simp
@[simp] theorem State.killWarp_kept (s : State) (d a h : Nat) : (s.killWarp d a h).kept = s.kept := by
  unfold State.killWarp; split <;> simp
@[simp] theorem State.handlerFault_kept (s : State) (d a : Nat) : (s.handlerFault d a).kept = s.kept := by
  unfold State.handlerFault; split <;> simp
@[simp] theorem State.takeTrap_kept (s : State) (b w : Nat) (cause : Cause) (mask : Mask) (addr : Ptr) (info : Word) : (s.takeTrap b w cause mask
    addr info).kept = s.kept := by
  unfold State.takeTrap; dsimp only; repeat' split
  all_goals simp
@[simp] theorem State.retire_kept (s : State) (b w nw : Nat) : (s.retire b w nw).kept = s.kept := by
  unfold State.retire; dsimp only; repeat' split
  all_goals simp
@[simp] theorem State.resumeTrap_kept (s : State) (d a h : Nat) (skip : Bool) : (s.resumeTrap d a h skip).kept = s.kept := by
  unfold State.resumeTrap; dsimp only; repeat' split
  all_goals simp
@[simp] theorem State.claimTraps_kept (s : State) (b : Nat) : (s.claimTraps b).kept = s.kept := by
  unfold State.claimTraps
  refine State.kept_foldl (fun s w => ?_) _ _
  dsimp only; split
  · split <;> simp
  · rfl
@[simp] theorem State.settleClaims_kept (s : State) (b : Nat) : (s.settleClaims b).kept = s.kept := by
  unfold State.settleClaims; simp
@[simp] theorem State.opPast_kept (s : State) (x : Op) : (s.opPast x).kept = s.kept := by
  unfold State.opPast; simp
@[simp] theorem State.freeSlots_kept (s : State) (x : Op) : (s.freeSlots x).kept = s.kept := by
  unfold State.freeSlots; simp
@[simp] theorem State.completeOp_kept (s : State) (x : Op) : (s.completeOp x).kept = s.kept := by
  unfold State.completeOp; simp
@[simp] theorem Env.setBlk_kept (e : Env) (f : Block → Block) : (e.setBlk f).kept = e.s.kept := rfl
@[simp] theorem Env.setWarp_kept (e : Env) (f : Warp → Warp) : (e.setWarp f).kept = e.s.kept := rfl

/-! ## Outcomes, and the frame of an issue -/

/-- The state an outcome hands on has home memory as `Q` asks. -/
def Out.Leaves (Q : Kept → Prop) : Out → Prop
  | .next t => Q t.kept
  | _ => True
/-- The state in which an instruction ends at issue has home memory as `Q` asks; where it names no state, it ends in the one it began in. -/
def Act.Leaves (Q : Kept → Prop) : Act → Prop
  | .done t | .trapAt t _ _ _ _ | .wait t | .ended t => Q t.kept
  | _ => True

@[simp] theorem Out.leaves_next (t : State) : Out.Leaves Q (.next t) = Q t.kept := rfl
@[simp] theorem Out.leaves_fault (f : Fault) : Out.Leaves Q (.fault f) = True := rfl
@[simp] theorem Out.leaves_refused (r : Refusal) : Out.Leaves Q (.refused r) = True := rfl
@[simp] theorem Out.leaves_ite (c : Prop) [Decidable c] (x y : Out) : Out.Leaves Q (if c then x else y) = if c then Out.Leaves Q x else Out.Leaves Q
    y := by
  split <;> rfl
@[simp] theorem Act.leaves_done (t : State) : (Act.done t).Leaves Q = Q t.kept := rfl
@[simp] theorem Act.leaves_trapAt (t : State) (c : Cause) (m : Mask) (p : Ptr) (x : Word) : (Act.trapAt t c m p x).Leaves Q = Q t.kept := rfl
@[simp] theorem Act.leaves_wait (t : State) : (Act.wait t).Leaves Q = Q t.kept := rfl
@[simp] theorem Act.leaves_ended (t : State) : (Act.ended t).Leaves Q = Q t.kept := rfl
@[simp] theorem Act.leaves_trap (c : Cause) (m : Mask) (p : Ptr) (x : Word) : (Act.trap c m p x).Leaves Q = True := rfl
@[simp] theorem Act.leaves_trapOpen (c : Cause) (x : Option Word) : (Act.trapOpen c x).Leaves Q = True := rfl
@[simp] theorem Act.leaves_stall : Act.stall.Leaves Q = True := rfl
@[simp] theorem Act.leaves_ite (c : Prop) [Decidable c] (x y : Act) : (if c then x else y).Leaves Q = if c then x.Leaves Q else y.Leaves Q := by
  split <;> rfl

theorem Out.leaves_if {c : Prop} [Decidable c] {x y : Out} (hx : Out.Leaves Q x) (hy : Out.Leaves Q y) : Out.Leaves Q (if c then x else y) := by
  split <;> assumption
theorem Act.leaves_if {c : Prop} [Decidable c] {x y : Act} (hx : x.Leaves Q) (hy : y.Leaves Q) : (if c then x else y).Leaves Q := by
  split <;> assumption
@[simp] theorem Env.popped_kept (e : Env) (n : Bool) : (e.popped n).s.kept = e.s.kept := by
  unfold Env.popped; repeat' split
  all_goals simp
theorem envOf_kept {s : State} {g : BitVec 3} {lit : Option Word} {e : Env} (h : envOf s g lit = some e) : e.s = s := by
  unfold envOf at h
  split at h
  · cases h
  · dsimp only at h
    split at h <;> simp only [Option.some.injEq, reduceCtorEq] at h
    subst h; rfl
@[simp] theorem State.stands_kept (s : State) (b w : Nat) : (s.stands b w).kept = s.kept := by
  unfold State.stands; simp
@[simp] theorem Env.claim_kept (e : Env) (s : State) (d : Nat) : (e.claim s d).kept = s.kept := by
  unfold Env.claim; simp
@[simp] theorem Env.start_kept (e : Env) (s : State) (d : BitVec 3) (k : OpK) (res : List (Nat × Word)) (j : Option Nat) :
    (e.start s d k res j).kept = s.kept := by
  unfold Env.start; simp
theorem Env.finish_leaves {e : Env} {n : Nat} {a : Act} (h : Q e.s.kept) (ha : a.Leaves Q) : Out.Leaves Q (e.finish n a) := by
  cases a <;> simpa [Env.finish] using by assumption
theorem issue_leaves {i : Instr} {g : BitVec 3} {lit : Option Word} {s : State} {pre : Env → List (Bool × Cause)} {act : Env → Act}
    (h : Q s.kept) (ha : ∀ e, Q e.s.kept → (act e).Leaves Q) : Out.Leaves Q (issue i g lit s pre act) := by
  unfold issue
  split
  · trivial
  · rename_i e he
    have hs := envOf_kept he
    unfold Env.decodeTrap
    repeat' split
    · simpa [hs] using h
    · simpa [hs] using h
    · simpa [hs] using h
    · exact Env.finish_leaves (hs ▸ h) (ha e (hs ▸ h))
theorem issueReg_leaves {i : Instr} {f : RegW} {s : State} {act : Env → Act} (h : Q s.kept) (ha : ∀ e, Q e.s.kept → (act e).Leaves Q) :
    Out.Leaves Q (issueReg i f s act) := issue_leaves h fun e he => ha _ (by simp [he])
theorem issueWord_leaves {i : Instr} {g : BitVec 3} {lit : Option Word} {vs : List Nat} {s : State} {uni : Env → Bool} {act : Env → Act}
    (h : Q s.kept) (ha : ∀ e, Q e.s.kept → (act e).Leaves Q) : Out.Leaves Q (issueWord i g lit vs s uni act) := issue_leaves h ha
theorem issueResult_leaves {i : Instr} {f : RegW} {s : State} {x : Env → Nat → Word} (h : Q s.kept) :
    Out.Leaves Q (issueResult i f s x) := issueReg_leaves h fun e h => by simpa using h
/-- An engine word leaves what its own effect leaves. -/
theorem Env.slotted_leaves {e : Env} {d : BitVec 3} {act : Env → Act} (h : Q e.s.kept) (ha : (act e).Leaves Q) : (e.slotted d act).Leaves Q := by
  unfold Env.slotted; repeat' split
  · trivial
  · simpa using h
  · exact ha

/-! ## Words of the issue engine -/

@[simp] theorem Env.jump_kept (e : Env) (m : Mask) (f : Nat → Lane → Lane) : (e.jump m f).kept = e.s.kept := rfl
theorem execNop_leaves (f : RegW) (s : State) (h : Q s.kept) : Out.Leaves Q (execNop f s) :=
  issueReg_leaves h fun e h => by simp [h]
theorem execYield_leaves (f : RegW) (s : State) (h : Q s.kept) : Out.Leaves Q (execYield f s) :=
  issueReg_leaves h fun e h => by simp [h]
@[simp] theorem Env.branch_kept (e : Env) (t : Nat → Word) : (e.branch t).kept = e.s.kept := rfl
@[simp] theorem Env.call_leaves (e : Env) (t : Nat → Word) (h : Q e.s.kept) : (e.call t).Leaves Q := by
  unfold Env.call; simp [h]
theorem execBra_leaves (f : BrW) (s : State) (h : Q s.kept) : Out.Leaves Q (execBra f s) :=
  issueWord_leaves h fun e h => by simp [h]
theorem execCall_leaves (f : BrW) (s : State) (h : Q s.kept) : Out.Leaves Q (execCall f s) :=
  issueWord_leaves h fun e h => by simp [h]
@[simp] theorem Env.trapFree_leaves (e : Env) (c : Cause) (mask : Mask) (addr : Ptr) (h : Q e.s.kept) : (e.trapFree c mask addr).Leaves Q := by
  unfold Env.trapFree; simp [h]
@[simp] theorem Env.aligned_leaves {e : Env} {t : Nat → Word} {k : Act} (h : Q e.s.kept) (hk : k.Leaves Q) : (e.aligned t k).Leaves Q := by
  unfold Env.aligned; dsimp only; split <;> simp [h, hk]
theorem execBrx_leaves (f : RegW) (s : State) (h : Q s.kept) : Out.Leaves Q (execBrx f s) :=
  issueReg_leaves h fun _ h => Env.aligned_leaves h (by simpa using h)
theorem execCallx_leaves (f : RegW) (s : State) (h : Q s.kept) : Out.Leaves Q (execCallx f s) :=
  issueReg_leaves h fun e h => by simp [h]
theorem execRet_leaves (f : RegW) (s : State) (h : Q s.kept) : Out.Leaves Q (execRet f s) :=
  issueReg_leaves h fun e h => by simp [h]
theorem execLoop_leaves (f : LoopW) (s : State) (h : Q s.kept) : Out.Leaves Q (execLoop f s) :=
  issue_leaves h fun e h => by simp [h]
theorem execRpt_leaves (f : RegW) (s : State) (h : Q s.kept) : Out.Leaves Q (execRpt f s) :=
  issueReg_leaves h fun e h => by simp [h]
theorem execExit_leaves (f : RegW) (s : State) (h : Q s.kept) : Out.Leaves Q (execExit f s) :=
  issueReg_leaves h fun e h => by simp [h]
theorem execExits_leaves (f : RegW) (s : State) (h : Q s.kept) : Out.Leaves Q (execExits f s) :=
  issueReg_leaves h fun e h => by simp [h]
@[simp] theorem Env.converged_leaves {e : Env} {k : Nat} {go : Act} (h : Q e.s.kept) (hg : go.Leaves Q) : (e.converged k go).Leaves Q := by
  unfold Env.converged; repeat' split
  all_goals simp [h, hg]
@[simp] theorem Env.barrier_leaves (e : Env) (f : RegW) (pth : Bool) (h : Q e.s.kept) : (e.barrier f pth).Leaves Q := by
  refine Env.converged_leaves h ?_
  dsimp only; repeat' split
  all_goals simp [h]
theorem execBar_leaves (f : RegW) (s : State) (h : Q s.kept) : Out.Leaves Q (execBar f s) :=
  issueReg_leaves h fun e h => by simp [h]
theorem execBarm_leaves (f : RegW) (s : State) (h : Q s.kept) : Out.Leaves Q (execBarm f s) :=
  issueReg_leaves h fun e h => by simp [h]
theorem execBara_leaves (f : RegW) (s : State) (h : Q s.kept) : Out.Leaves Q (execBara f s) := by
  refine issueReg_leaves h fun e h => Env.converged_leaves h ?_
  dsimp only; repeat' split
  all_goals simp [h]
theorem execBarw_leaves (f : RegW) (s : State) (h : Q s.kept) : Out.Leaves Q (execBarw f s) := by
  refine issueReg_leaves h fun e h => Env.converged_leaves h ?_
  dsimp only; repeat' split
  all_goals simp [h]
theorem execVote_leaves (f : RegW) (s : State) (h : Q s.kept) : Out.Leaves Q (execVote f s) :=
  issueReg_leaves h fun e h => by simp [h]
theorem execPlop_leaves (f : RegW) (s : State) (h : Q s.kept) : Out.Leaves Q (execPlop f s) :=
  issueReg_leaves h fun e h => by simp [h]
theorem execMovs_leaves (f : RegW) (s : State) (h : Q s.kept) : Out.Leaves Q (execMovs f s) :=
  issueReg_leaves h fun e h => by simp [h]
theorem execSmov_leaves (f : RegW) (s : State) (h : Q s.kept) : Out.Leaves Q (execSmov f s) :=
  issueReg_leaves h fun e h => by simp [h]
theorem execReggive_leaves (f : RegW) (s : State) (h : Q s.kept) : Out.Leaves Q (execReggive f s) :=
  issueReg_leaves h fun e h => by simp [h]
theorem execRegclaim_leaves (f : RegW) (s : State) (h : Q s.kept) : Out.Leaves Q (execRegclaim f s) :=
  issueReg_leaves h fun e h => by simp [h]
theorem execSettid_leaves (f : RegW) (s : State) (h : Q s.kept) : Out.Leaves Q (execSettid f s) :=
  issueReg_leaves h fun e h => by simp [h]
theorem execQbind_leaves (f : RegW) (s : State) (h : Q s.kept) : Out.Leaves Q (execQbind f s) := by
  refine issueReg_leaves h fun e h => ?_
  dsimp only; repeat' split
  all_goals simp [h]
@[simp] theorem Env.channel_leaves (e : Env) (c : Nat) (i : Wait) (loadsOnly : Bool) (h : Q e.s.kept) : (e.channel c i loadsOnly).Leaves Q := by
  unfold Env.channel; repeat' split
  all_goals simp [h]
theorem execChput_leaves (f : RegW) (s : State) (h : Q s.kept) : Out.Leaves Q (execChput f s) :=
  issueReg_leaves h fun e h => by simp [h]
theorem execChget_leaves (f : RegW) (s : State) (h : Q s.kept) : Out.Leaves Q (execChget f s) :=
  issueReg_leaves h fun e h => by simp [h]
theorem execChclose_leaves (f : RegW) (s : State) (h : Q s.kept) : Out.Leaves Q (execChclose f s) :=
  issueReg_leaves h fun e h => by simp [h]
theorem execSleep_leaves (f : RegW) (s : State) (h : Q s.kept) : Out.Leaves Q (execSleep f s) :=
  issueReg_leaves h fun e h => by simp [h]
theorem execTrap_leaves (f : RegW) (s : State) (h : Q s.kept) : Out.Leaves Q (execTrap f s) :=
  issueReg_leaves h fun e h => by simp [h]
theorem execAssert_leaves (f : RegW) (s : State) (h : Q s.kept) : Out.Leaves Q (execAssert f s) :=
  issueReg_leaves h fun e h => by simp [h]
theorem execTret_leaves (f : RegW) (s : State) (h : Q s.kept) : Out.Leaves Q (execTret f s) :=
  issueReg_leaves h fun e h => by simp [h]
theorem execKill_leaves (f : RegW) (s : State) (h : Q s.kept) : Out.Leaves Q (execKill f s) :=
  issueReg_leaves h fun e h => by simp [h]
theorem execMovsys_leaves (f : RegW) (s : State) (h : Q s.kept) : Out.Leaves Q (execMovsys f s) :=
  issue_leaves h fun e h => by simp [h]
theorem execMovsysW_leaves (f : RegW) (s : State) (h : Q s.kept) : Out.Leaves Q (execMovsysW f s) :=
  issueReg_leaves h fun e h => by simp [h]
@[simp] theorem State.touch_kept (s : State) (sec : Nat) : (s.touch sec).kept = s.kept := by
  unfold State.touch; split <;> simp
@[simp] theorem State.invalidate_kept (s : State) (sec d : Nat) (txn : Bool) (op : Option Nat) : (s.invalidate sec d txn op).kept = s.kept := by
  unfold State.invalidate; split <;> simp
@[simp] theorem State.homeUpdated_kept (s : State) (sec : Nat) (old : List Byte) (sys : Bool) : (s.homeUpdated sec old sys).kept = s.kept := by
  unfold State.homeUpdated; simp
@[simp] theorem State.onL1s_kept (s : State) (d : Nat) (f : Nat → Core → Core) : (s.onL1s d f).kept = s.kept := by
  unfold State.onL1s; exact State.kept_foldl (fun _ _ => by simp) _ _
@[simp] theorem State.l1Forget_kept (s : State) (d : Nat) (keep : Option Nat) (sec : Nat) : (s.l1Forget d keep sec).kept = s.kept := by
  unfold State.l1Forget; simp
@[simp] theorem State.setL1_kept (s : State) (d sec : Nat) (e : Option L1Sec) : (s.setL1 d sec e).kept = s.kept := rfl
@[simp] theorem State.l1WriteBack_kept (s : State) (d sec : Nat) : (s.l1WriteBack d sec).kept = s.kept := by
  unfold State.l1WriteBack; simp
@[simp] theorem State.l1Recall_kept (s : State) (d sec : Nat) : (s.l1Recall d sec).kept = s.kept := by
  unfold State.l1Recall; repeat' split
  all_goals simp
@[simp] theorem State.l1Drop_kept (s : State) (d sec : Nat) : (s.l1Drop d sec).kept = s.kept := by
  unfold State.l1Drop; split <;> simp
@[simp] theorem State.l1Clean_kept (s : State) (d a sec : Nat) : (s.l1Clean d a sec).kept = s.kept := by
  unfold State.l1Clean; split <;> simp
@[simp] theorem State.l1Evict_kept (s : State) (d a : Nat) (l : L1Line) : (s.l1Evict d a l).kept = s.kept := by
  unfold State.l1Evict; exact State.kept_foldl (fun _ _ => by simp) _ _
@[simp] theorem State.l1Fill_kept (s : State) (d a sec : Nat) : (s.l1Fill d a sec).kept = s.kept := by
  unfold State.l1Fill; dsimp only; repeat' split
  all_goals simp
@[simp] theorem State.l1Read_kept (s : State) (d a sec : Nat) : (s.l1Read d a sec).kept = s.kept := by
  unfold State.l1Read; simp
@[simp] theorem State.l1Write_kept (s : State) (d a k sec : Nat) : (s.l1Write d a k sec).kept = s.kept := by
  unfold State.l1Write; dsimp only; repeat' split
  all_goals simp [State.kept_foldl]
@[simp] theorem State.homeServe_kept (s : State) (d sec : Nat) : (s.homeServe d sec).kept = s.kept := by
  unfold State.homeServe; simp
@[simp] theorem State.fetched_kept (s : State) (d : Nat) (wide : Bool) (sec : Nat) : (s.fetched d wide sec).kept = s.kept := by
  unfold State.fetched
  split
  · simp
  · split
    · rfl
    · exact s.homeServe_kept d sec
@[simp] theorem State.acquireWide_kept (s : State) (d : Nat) : (s.acquireWide d).kept = s.kept := by
  unfold State.acquireWide; simp
@[simp] theorem State.loadSec_kept (s : State) (d : Nat) (alloc : Option Nat) (wide keep : Bool) (pa n : Nat) : (s.loadSec d alloc wide keep pa
    n).2.kept = s.kept := by
  unfold State.loadSec; repeat' split
  all_goals simp
@[simp] theorem State.refuse_kept (s : State) (q : Asker) (pa : Nat) : (s.refuse q pa).kept = s.kept := rfl
@[simp] theorem State.served_kept (s : State) (q : Asker) (pa : Nat) : (s.served q pa).kept = s.kept := by
  unfold State.served; simp
@[simp] theorem State.pushHome_kept (s : State) (sec : Nat) : (s.pushHome sec).kept = s.kept := by
  unfold State.pushHome; simp
@[simp] theorem State.walked_kept (s : State) (d a : Nat) (r : WalkRes × List Nat) (q : Asker) : (s.walked d a r q).kept = s.kept := by
  unfold State.walked; dsimp only; repeat' split
  all_goals simp [State.kept_foldl]
@[simp] theorem State.lookup_kept (s : State) (d a asid va : Nat) : (s.lookup d a asid va).2.kept = s.kept := by
  unfold State.lookup; dsimp only; repeat' split
  all_goals simp
theorem State.kept_of_lookup {s t : State} {d a asid va : Nat} {x : WalkRes} (h : s.lookup d a asid va = (x, t)) : t.kept = s.kept := by
  rw [← s.lookup_kept d a asid va, h]
@[simp] theorem State.translate_kept (s : State) (d a asid : Nat) (blk : Bool) (va : Nat) (kind : Kind) (n : Nat) :
    (s.translate d a asid blk va kind n).2.kept = s.kept := by
  unfold State.translate; repeat' split
  all_goals exact State.kept_of_lookup ‹_›
theorem State.kept_of_translate {s t : State} {d a asid : Nat} {blk : Bool} {va : Nat} {kind : Kind} {n : Nat} {x : Trans}
    (h : s.translate d a asid blk va kind n = (x, t)) : t.kept = s.kept := by
  rw [← s.translate_kept d a asid blk va kind n, h]
@[simp] theorem Env.translate_kept (e : Env) (s : State) (va : Nat) (kind : Kind) (n : Nat) : (e.translate s va kind n).2.kept = s.kept := by
  unfold Env.translate; simp
theorem Env.kept_of_translate {e : Env} {s t : State} {va : Nat} {kind : Kind} {n : Nat} {x : Trans} (h : e.translate s va kind n = (x, t)) :
    t.kept = s.kept := State.kept_of_translate h

/-! ## Promotions, writes of the control space, fetch and clauses -/

@[simp] theorem State.requestPromotion_kept (s : State) (d i : Nat) : (s.requestPromotion d i).kept = s.kept := by
  unfold State.requestPromotion; simp
@[simp] theorem State.requestEviction_kept (s : State) (d i : Nat) : (s.requestEviction d i).kept = s.kept := rfl
@[simp] theorem State.qwaitJoin_kept (s : State) (b w : Nat) : (s.qwaitJoin b w).kept = s.kept := by
  unfold State.qwaitJoin; simp
@[simp] theorem State.qwaitServe_kept (s : State) (d a : Nat) : (s.qwaitServe d a).kept = s.kept := by
  unfold State.qwaitServe; split
  · rfl
  · refine State.kept_foldl (fun s w => ?_) _ _
    dsimp only; split <;> simp
@[simp] theorem State.seqFault_kept (s : State) (d a cause word absent : Nat) : (s.seqFault d a cause word absent).kept = s.kept := by
  unfold State.seqFault; simp
@[simp] theorem State.seqRecheck_kept (s : State) (d a : Nat) : (s.seqRecheck d a).kept = s.kept := by
  unfold State.seqRecheck; simp
@[simp] theorem State.seqRecheckAll_kept (s : State) (d : Nat) : (s.seqRecheckAll d).kept = s.kept := by
  unfold State.seqRecheckAll; exact State.kept_foldl (fun _ _ => by simp) _ _
@[simp] theorem State.setWinDesc_kept (s : State) (d a k i v : Nat) : (s.setWinDesc d a k i v).kept = s.kept := by
  unfold State.setWinDesc; repeat' split
  all_goals simp
@[simp] theorem State.ctlWrite_kept (s : State) (d o : Nat) (bs : List Byte) : (s.ctlWrite d o bs).kept = s.kept := by
  unfold State.ctlWrite
  simp
  intros; split <;> simp
@[simp] theorem State.fetchAt_kept (s : State) (b : Nat) (pc : Word) : (s.fetchAt b pc).2.kept = s.kept := by
  unfold State.fetchAt; dsimp only; split
  all_goals rename_i ht; have ht := State.kept_of_translate ht
  · repeat' split
    all_goals simpa using ht
  · exact ht
  · exact ht
theorem State.kept_of_fetchAt {s t : State} {b : Nat} {pc : Word} {x : Fetch} (h : s.fetchAt b pc = (x, t)) : t.kept = s.kept := by
  rw [← s.fetchAt_kept b pc, h]
@[simp] theorem State.fetchRun_kept (s : State) (b : Nat) (pc : Word) (n : Nat) : (s.fetchRun b pc n).2.2.kept = s.kept := by
  induction n generalizing s pc with
  | zero => rfl
  | succ n ih =>
    unfold State.fetchRun; split
    · exact (ih ..).trans (State.kept_of_fetchAt ‹_›)
    · exact State.kept_of_fetchAt ‹_›
    · exact State.kept_of_fetchAt ‹_›
theorem State.kept_of_fetchRun {s t : State} {b : Nat} {pc : Word} {n : Nat} {ws : List Word} {w : Bool}
    (h : s.fetchRun b pc n = (ws, w, t)) : t.kept = s.kept := by
  rw [← s.fetchRun_kept b pc n, h]
theorem State.snd_kept_if {α : Type} {c : Prop} [Decidable c] {p q : α × State} {m : Kept} (hp : p.2.kept = m)
    (hq : q.2.kept = m) : (if c then p else q).2.kept = m := by split <;> assumption
@[simp] theorem State.begin_kept (s : State) (b w : Nat) : (s.begin b w).2.kept = s.kept := by
  unfold State.begin; dsimp only
  split
  · rfl
  refine State.snd_kept_if rfl ?_
  split
  · rfl
  iterate 3 refine State.snd_kept_if rfl ?_
  split
  · exact State.kept_of_fetchAt ‹_›
  · exact State.kept_of_fetchAt ‹_›
  rename_i hf
  have hf := State.kept_of_fetchAt hf
  iterate 3 refine State.snd_kept_if hf ?_
  split
  · exact (State.kept_of_fetchRun ‹_›).trans hf
  rename_i hr
  have hr := (State.kept_of_fetchRun hr).trans hf
  iterate 2 refine State.snd_kept_if hr ?_
  exact State.snd_kept_if (State.snd_kept_if hr hr) (State.snd_kept_if hr hr)
theorem State.pick_kept {c : Core} {l : List (Nat × Nat)} {s : State} {r : (Nat × Nat) × Begin × State} (h : State.pick c l s = some r) :
    r.2.2.kept = s.kept := by
  induction l with
  | nil => cases h
  | cons p ps ih =>
    unfold State.pick at h
    split at h
    · exact ih h
    · have hb := s.begin_kept p.1 p.2
      generalize s.begin p.1 p.2 = x at h hb
      obtain ⟨bg, t⟩ := x
      cases bg
      case no => exact ih h
      all_goals cases h; exact hb
@[simp] theorem State.awaited_kept (s : State) (b w : Nat) (hdr : Word) : (s.awaited b w hdr).kept = s.kept := by
  unfold State.awaited; simp
@[simp] theorem State.begun_kept (s : State) (d a : Nat) (bw : Nat × Nat) : (s.begun d a bw).kept = s.kept := by
  unfold State.begun; split
  · rw [State.kept_foldl fun _ _ => by simp]; simp
  · rfl
@[simp] theorem State.beginClause_kept (s : State) (d a p : Nat) (bw : Nat × Nat) (bg : Begin) : (s.beginClause d a p bw bg).kept = s.kept := by
  unfold State.beginClause; repeat' split
  all_goals simp
theorem execClauseIssue_leaves (d a p : Nat) (s : State) (h : Q s.kept) : Out.Leaves Q (execClauseIssue d a p s) := by
  unfold execClauseIssue
  dsimp only
  refine Out.leaves_if trivial ?_
  split
  · exact Out.leaves_if h (by simpa using h)
  · split
    · rename_i hp
      have hp := State.pick_kept hp
      simpa [hp] using h
    · trivial
theorem State.fetchMore_leaves (s : State) (b w : Nat) (cl : Clause) (h : Q s.kept) : Out.Leaves Q (s.fetchMore b w cl) := by
  have hf := s.fetchAt_kept b (cl.pc + BitVec.ofNat 32 (4 * (cl.ibuf.length + 1)))
  unfold State.fetchMore; dsimp only
  generalize s.fetchAt b _ = r at hf ⊢
  obtain ⟨x, t⟩ := r
  rw [← hf] at h
  cases x <;> simpa using h
theorem execActiveSetExchange_leaves (d a : Nat) (s : State) (h : Q s.kept) : Out.Leaves Q (execActiveSetExchange d a s) := by
  unfold execActiveSetExchange; dsimp only; repeat' split
  all_goals simp [h]
theorem execHandlerStart_leaves (d a : Nat) (s : State) (h : Q s.kept) : Out.Leaves Q (execHandlerStart d a s) := by
  unfold execHandlerStart; dsimp only; repeat' split
  all_goals simp [h]
theorem execSleepDeadline_leaves (b w : Nat) (s : State) (h : Q s.kept) : Out.Leaves Q (execSleepDeadline b w s) := by
  unfold execSleepDeadline; dsimp only; repeat' split
  all_goals simp [h]
@[simp] theorem State.updJournal_kept (s : State) (d a : Nat) (f : List JEnt → List JEnt) : (s.updJournal d a f).kept = s.kept := rfl
@[simp] theorem State.sent_kept (s : State) (d a : Nat) (j : Option Nat) : (s.sent d a j).kept = s.kept := by
  unfold State.sent; split <;> simp
@[simp] theorem State.applyTag_kept (s : State) (d a : Nat) (j : Option Nat) (targets : List Nat) (data : List (Nat × Word)) :
    (s.applyTag d a j targets data).kept = s.kept := by
  unfold State.applyTag; repeat' split
  · rfl
  · rfl
  · rw [State.updJournal_kept, State.kept_foldl fun _ _ => by simp]
@[simp] theorem State.applyTagPart_kept (s : State) (d a : Nat) (j : Option Nat) (last : Bool) (m : Mask) (targets : List Nat) (data : List (Nat ×
    Word)) : (s.applyTagPart d a j last m targets data).kept = s.kept := by
  unfold State.applyTagPart; repeat' split
  all_goals simp
@[simp] theorem Env.stay_leaves (e : Env) (s : State) (h : Q s.kept) : (e.stay s).Leaves Q := by
  unfold Env.stay; simp [h]
@[simp] theorem Env.hold_leaves (e : Env) (s : State) (h : Q s.kept) : (e.hold s).Leaves Q := by
  unfold Env.hold; simp [h]
theorem State.journalAppend_kept {s : State} {l : Loc} {op w : Nat} {pc mask : Word} {tgt : Nat} {p : Nat × State}
    (h : s.journalAppend l op w pc mask tgt = some p) : p.2.kept = s.kept := by
  unfold State.journalAppend at h; dsimp only at h
  split at h <;> simp only [Option.some.injEq, reduceCtorEq] at h
  subst h; simp
@[simp] theorem State.askCut_kept (s : State) (d a : Nat) (r : CutReq) : (s.askCut d a r).kept = s.kept := rfl
/-- Whether or not there is an entry, home memory stays. -/
theorem State.journalNow_kept {s : State} {l : Loc} {op w : Nat} {pc mask : Word} {tgt : Nat} {own : Bool} :
    (∀ j t, s.journalNow l op w pc mask tgt own = .ok (j, t) → t.kept = s.kept) ∧
      ∀ t, s.journalNow l op w pc mask tgt own = .error t → t.kept = s.kept := by
  have ha := fun p => State.journalAppend_kept (s := s) (l := l) (op := op) (w := w) (pc := pc) (mask := mask) (tgt := tgt) (p := p)
  unfold State.journalNow; dsimp only
  repeat' split
  all_goals simp
  all_goals simp_all
@[simp] theorem State.entryApplied_kept (s : State) (l : Loc) (i : Nat) (x : JEnt) : (s.entryApplied l i x).2.kept = s.kept := by
  unfold State.entryApplied; simp
theorem State.exitEntry_kept {s : State} {l : Loc} {op tgt : Nat} {mask : Word} {p : Option Nat × State}
    (h : s.exitEntry l op tgt mask = some p) : p.2.kept = s.kept := by
  have ha := fun s p => State.journalAppend_kept (s := s) (l := l) (op := op) (w := 0) (pc := 0#32) (mask := mask) (tgt := tgt) (p := p)
  unfold State.exitEntry at h
  extract_lets new at h
  have hn : ∀ t q, new t = some q → q.2.kept = t.kept := by
    intro t q hq
    dsimp only [new] at hq
    split at hq
    · cases hq
    · obtain ⟨r, hr, rfl⟩ := Option.map_eq_some_iff.mp hq
      simpa using ha _ _ hr
  clear_value new
  split at h
  · exact hn _ _ h
  · dsimp only at h
    repeat' split at h
    · simpa using hn _ _ h
    all_goals cases h; simp
theorem Env.journal_leaves {e : Env} {s : State} {tgt : Nat} {mask : Word} {wr : List (Nat × Word) → State → State} {go : Option Nat → State → Act}
    (h : Q s.kept) (hw : ∀ x t, Q t.kept → Q (wr x t).kept) (hg : ∀ j t, Q t.kept → (go j t).Leaves Q) : (e.journal s tgt mask wr go).Leaves Q := by
  unfold Env.journal
  extract_lets l u count fresh
  have hu : Q u.kept := by simpa [u] using h
  have hf : ∀ t, Q t.kept → (fresh t).Leaves Q := by
    intro t ht
    dsimp only [fresh]; split
    · exact hg _ _ (by rwa [State.journalNow_kept.1 _ _ ‹_›])
    · exact Env.hold_leaves _ _ (by rwa [State.journalNow_kept.2 _ ‹_›])
  have hc : ∀ t f, (count t f).kept = t.kept := fun _ _ => rfl
  clear_value fresh count u
  split
  · exact hf _ hu
  · dsimp only
    repeat' split
    · trivial
    · exact hf _ (by simpa using hu)
    · exact hw _ _ (by simpa [hc] using hu)
    · exact hw _ _ (by simpa [hc] using hu)
    · exact hg _ _ (by simpa [hc] using hu)

/-! ## Words of the load/store engine -/

theorem checkLanes_kept {α : Type} {f : State → Nat → LaneRes α × State} (hf : ∀ s L, (f s L).2.kept = s.kept) (l : List Nat) (s : State) :
    (checkLanes f l s).2.kept = s.kept := by
  induction l generalizing s with
  | nil => rfl
  | cons L ls ih => exact (ih _).trans (hf s L)
theorem Env.itemsChecked_leaves {α : Type} {e : Env} {items : List Nat} {lane : Nat → Nat} {f : State → Nat → LaneRes α × State}
    {k : List (Nat × α) → State → Act} (h : Q e.s.kept) (hf : ∀ s L, (f s L).2.kept = s.kept) (hk : ∀ ps t, Q t.kept → (k ps t).Leaves Q) :
    (e.itemsChecked items lane f k).Leaves Q := by
  have hr : Q (checkLanes f items e.s).2.kept := by rwa [checkLanes_kept hf]
  unfold Env.itemsChecked; dsimp only; repeat' split
  · exact Env.stay_leaves _ _ hr
  · exact hr
  · exact hk _ _ hr
theorem Env.lanesChecked_leaves {α : Type} {e : Env} {part : Mask} {f : State → Nat → LaneRes α × State} {k : List (Nat × α) → State → Act}
    (h : Q e.s.kept) (hf : ∀ s L, (f s L).2.kept = s.kept) (hk : ∀ ps t, Q t.kept → (k ps t).Leaves Q) : (e.lanesChecked part f k).Leaves Q :=
  Env.itemsChecked_leaves h hf hk
@[simp] theorem Env.checkGlobal_kept (e : Env) (s : State) (va n align : Nat) (kind : Kind) (tileOk : Bool) :
    (e.checkGlobal s va n align kind tileOk).2.kept = s.kept := by
  unfold Env.checkGlobal; split
  · rfl
  · split
    case' h_3 => repeat' split
    all_goals exact Env.kept_of_translate ‹_›
theorem Env.kept_of_checkGlobal {e : Env} {s t : State} {va n align : Nat} {kind : Kind} {tileOk : Bool} {x : LaneRes (Nat × Nat)}
    (h : e.checkGlobal s va n align kind tileOk = (x, t)) : t.kept = s.kept := by
  rw [← e.checkGlobal_kept s va n align kind tileOk, h]
theorem Env.memIssue_leaves {e : Env} {d : BitVec 3} {k : Act} (h : Q e.s.kept) (hk : k.Leaves Q) : (e.memIssue d k).Leaves Q :=
  Env.slotted_leaves h (by split <;> simp [hk])
@[simp] theorem Env.restoreV_kept (e : Env) (dat k sz : Nat) (data : List (Nat × Word)) (s : State) : (e.restoreV dat k sz data s).kept = s.kept :=
    rfl
theorem Env.device_leaves {e : Env} {s : State} {ps : List Part} {tgt : Nat} {mask : Mask} {wr : List (Nat × Word) → State → State}
    {go : Option Nat → List Part → State → Act} (h : Q s.kept) (hw : ∀ x t, Q t.kept → Q (wr x t).kept)
    (hg : ∀ j ps t, Q t.kept → (go j ps t).Leaves Q) : (e.device s ps tgt mask wr go).Leaves Q := by
  unfold Env.device; split
  · refine Env.journal_leaves h hw fun j t ht => ?_
    dsimp only; split
    · exact hg _ _ _ ht
    · exact hg _ _ _ (hw _ _ ht)
  · exact hg _ _ _ h
@[simp] theorem Env.loadGlobal_leaves (e : Env) (f : MemW) (h : Q e.s.kept) : (e.loadGlobal f).Leaves Q :=
  Env.memIssue_leaves h <| Env.lanesChecked_leaves h (by simp) fun _ _ h => Env.device_leaves h (by simp) (by simp)
@[simp] theorem Env.storeGlobal_leaves (e : Env) (f : MemW) (h : Q e.s.kept) : (e.storeGlobal f).Leaves Q :=
  Env.memIssue_leaves h <| Env.lanesChecked_leaves h (by simp) fun _ _ h => Env.device_leaves h (by simp) (by simp)
theorem execLd_leaves (f : MemW) (s : State) (h : Q s.kept) : Out.Leaves Q (execLd f s) :=
  issueWord_leaves h fun e h => by simp [h]
theorem execLdn_leaves (f : MemW) (s : State) (h : Q s.kept) : Out.Leaves Q (execLdn f s) :=
  issueWord_leaves h fun e h => by simp [h]
theorem execSt_leaves (f : MemW) (s : State) (h : Q s.kept) : Out.Leaves Q (execSt f s) :=
  issueWord_leaves h fun e h => by simp [h]
theorem execStn_leaves (f : MemW) (s : State) (h : Q s.kept) : Out.Leaves Q (execStn f s) :=
  issueWord_leaves h fun e h => by simp [h]
@[simp] theorem Env.checkScratch_kept (e : Env) (f : MemW) (s : State) (L : Nat) : (e.checkScratch f s L).2.kept = s.kept := by
  unfold Env.checkScratch; dsimp only; repeat' split
  all_goals simp
theorem execLdx_leaves (f : MemW) (s : State) (h : Q s.kept) : Out.Leaves Q (execLdx f s) :=
  issueWord_leaves h fun _ h => Env.memIssue_leaves h <| Env.lanesChecked_leaves h (by simp) (by simp)
theorem execStx_leaves (f : MemW) (s : State) (h : Q s.kept) : Out.Leaves Q (execStx f s) :=
  issueWord_leaves h fun _ h => Env.memIssue_leaves h <| Env.lanesChecked_leaves h (by simp) (by simp)
@[simp] theorem Env.checkWindow_kept (e : Env) (f : MemW) (write : Bool) (s : State) (L : Nat) : (e.checkWindow f write s L).2.kept = s.kept := by
  unfold Env.checkWindow; dsimp only; repeat' split
  all_goals simp
theorem execLdw_leaves (f : MemW) (s : State) (h : Q s.kept) : Out.Leaves Q (execLdw f s) :=
  issueWord_leaves h fun _ h => Env.memIssue_leaves h <| Env.lanesChecked_leaves h (by simp) (by simp)
theorem execStw_leaves (f : MemW) (s : State) (h : Q s.kept) : Out.Leaves Q (execStw f s) :=
  issueWord_leaves h fun _ h => Env.memIssue_leaves h <| Env.lanesChecked_leaves h (by simp) (by simp)
@[simp] theorem Env.checkMx_kept (e : Env) (f : MemW) (kind : Kind) (s : State) (L : Nat) : (e.checkMx f kind s L).2.kept = s.kept := by
  unfold Env.checkMx
  extract_lets a one
  have hone : ∀ s va n align, (one s va n align).2.kept = s.kept := by
    intro s va n align
    dsimp only [one]; split
    · split <;> exact Env.kept_of_checkGlobal ‹_›
    · simp
  have of_one : ∀ {s t va n align x}, one s va n align = (x, t) → t.kept = s.kept := fun {s _ va n align _} hx => by
    rw [← hone s va n align, hx]
  clear_value one
  split
  case h_1 hx =>
    split
    all_goals exact (of_one ‹_›).trans (of_one hx)
  all_goals exact of_one ‹_›
theorem execLdmx_leaves (f : MemW) (s : State) (h : Q s.kept) : Out.Leaves Q (execLdmx f s) :=
  issueWord_leaves h fun _ h => Env.memIssue_leaves h <| Env.lanesChecked_leaves h (by simp) (by simp)
theorem execStmx_leaves (f : MemW) (s : State) (h : Q s.kept) : Out.Leaves Q (execStmx f s) :=
  issueWord_leaves h fun _ h => Env.memIssue_leaves h <| Env.lanesChecked_leaves h (by simp) (by simp)
@[simp] theorem Env.restoreU_kept (e : Env) (dst : LdDst) (data : List (Nat × Word)) (s : State) : (e.restoreU dst data s).kept = s.kept := rfl
theorem Env.uniformChecked_leaves {α : Type} {e : Env} {f : State → LaneRes α × State} {k : α → State → Act} (h : Q e.s.kept)
    (hf : ∀ s, (f s).2.kept = s.kept) (hk : ∀ x t, Q t.kept → (k x t).Leaves Q) : (e.uniformChecked f k).Leaves Q := by
  rw [← hf] at h
  unfold Env.uniformChecked
  split <;> rename_i hx <;> rw [hx] at h
  · exact hk _ _ h
  · exact h
  · exact Env.stay_leaves _ _ h
@[simp] theorem Env.loadUniform_leaves (e : Env) (f : MemW) (n : Nat) (dst : LdDst) (h : Q e.s.kept) : (e.loadUniform f n dst).Leaves Q :=
  Env.memIssue_leaves h <| Env.uniformChecked_leaves h (by simp) fun _ _ h => Env.device_leaves h (by simp) (by simp)
theorem execLds_leaves (f : MemW) (s : State) (h : Q s.kept) : Out.Leaves Q (execLds f s) :=
  issueWord_leaves h fun e h => by simp [h]
theorem execLdb_leaves (f : MemW) (s : State) (h : Q s.kept) : Out.Leaves Q (execLdb f s) :=
  issueWord_leaves h fun e h => by simp [h]
theorem execSetb_leaves (f : MemW) (s : State) (h : Q s.kept) : Out.Leaves Q (execSetb f s) :=
  issueWord_leaves h fun e h => by simp [h]
theorem execBadd_leaves (f : MemW) (s : State) (h : Q s.kept) : Out.Leaves Q (execBadd f s) :=
  issueWord_leaves h fun e h => by simp [h]
@[simp] theorem State.prefetch_kept (s : State) (d a : Nat) (l1 : Bool) (line : Nat) : (s.prefetch d a l1 line).kept = s.kept := by
  unfold State.prefetch; exact State.kept_foldl (fun _ _ => by simp) _ _
@[simp] theorem Env.prefLane_kept (e : Env) (f : MemW) (s : State) (L : Nat) : (e.prefLane f s L).kept = s.kept := by
  unfold Env.prefLane; split
  · rename_i ht
    rw [← Env.kept_of_translate ht]; dsimp only; repeat' split
    · rfl
    · exact State.kept_foldl (fun _ _ => by simp) _ _
    · simp
  · exact Env.kept_of_translate ‹_›
theorem execPref_leaves (f : MemW) (s : State) (h : Q s.kept) : Out.Leaves Q (execPref f s) := by
  refine issueWord_leaves h fun e h => ?_
  split
  · trivial
  · simpa [State.kept_foldl] using h
theorem execFence_leaves (f : MemW) (s : State) (h : Q s.kept) : Out.Leaves Q (execFence f s) :=
  issueWord_leaves h fun _ h => Env.memIssue_leaves h (by simpa using h)
@[simp] theorem Env.checkLine_kept (e : Env) (f : MemW) (s : State) (L : Nat) : (e.checkLine f s L).2.kept = s.kept := by
  unfold Env.checkLine; split <;> exact Env.kept_of_translate ‹_›
@[simp] theorem Env.cacheOp_leaves (e : Env) (f : MemW) (inv : Bool) (h : Q e.s.kept) : (e.cacheOp f inv).Leaves Q :=
  Env.memIssue_leaves h <| Env.lanesChecked_leaves h (by simp) (by simp)
theorem execCwb_leaves (f : MemW) (s : State) (h : Q s.kept) : Out.Leaves Q (execCwb f s) :=
  issueWord_leaves h fun e h => by simp [h]
theorem execCinv_leaves (f : MemW) (s : State) (h : Q s.kept) : Out.Leaves Q (execCinv f s) :=
  issueWord_leaves h fun e h => by simp [h]
@[simp] theorem State.makeReady_kept (s : State) (d i : Nat) : (s.makeReady d i).kept = s.kept := rfl
@[simp] theorem State.arm_kept (s : State) (d i : Nat) : (s.arm d i).kept = s.kept := by
  unfold State.arm; simp
@[simp] theorem State.walkStore_kept (s : State) (d asid va : Nat) (q : Asker) : (s.walkStore d asid va q).2.kept = s.kept := by
  unfold State.walkStore; dsimp only; split <;> simp
@[simp] theorem State.walkStores_kept (s : State) (d asid : Nat) (q : Asker) (l : List Nat) : (s.walkStores d asid q l).2.kept = s.kept := by
  induction l generalizing s with
  | nil => rfl
  | cons va l ih => exact (ih _).trans (s.walkStore_kept d asid va q)
@[simp] theorem State.recCode_kept (s : State) (d : Nat) (issuer : Option Nat) (again : Bool) (r : List Word) (q : Asker) :
    (s.recCode d issuer again r q).2.kept = s.kept := by
  unfold State.recCode; dsimp only; repeat' split
  all_goals simp
theorem State.kept_of_recCode {s t : State} {d : Nat} {issuer : Option Nat} {again : Bool} {r : List Word} {q : Asker} {x : Option Nat}
    (h : s.recCode d issuer again r q = (x, t)) : t.kept = s.kept := by
  rw [← s.recCode_kept d issuer again r q, h]
@[simp] theorem State.twaitEnd_kept (s : State) (b w r : Nat) (x : Word) (ended : Option (Nat × Nat)) : (s.twaitEnd b w r x ended).kept = s.kept := by
  unfold State.twaitEnd; dsimp only; repeat' split
  all_goals simp
@[simp] theorem State.wakeTwaits_kept (s : State) (d i : Nat) : (s.wakeTwaits d i).kept = s.kept := by
  unfold State.wakeTwaits
  refine State.kept_foldl (fun s p => State.kept_foldl (fun s w => ?_) _ _) _ _
  split <;> simp
@[simp] theorem State.updTile_kept (s : State) (d i : Nat) (f : Tile → Tile) : (s.updTile d i f).kept = s.kept := rfl
@[simp] theorem State.updGroup_kept (s : State) (d i : Nat) (f : Group → Group) : (s.updGroup d i f).kept = s.kept := rfl
@[simp] theorem State.updSub_kept (s : State) (l : Nat × Nat × Nat) (f : Sub → Sub) : (s.updSub l f).kept = s.kept := rfl
@[simp] theorem State.decrement_kept (s : State) (d i m : Nat) : (s.decrement d i m).kept = s.kept := by
  unfold State.decrement; simp
@[simp] theorem State.settleGroups_kept (s : State) : s.settleGroups.kept = s.kept := by
  unfold State.settleGroups
  refine State.kept_foldl (fun _ _ => ?_) _ _
  dsimp only; repeat' split
  all_goals simp
@[simp] theorem State.rearm_kept (s : State) (d i c : Nat) : (s.rearm d i c).2.kept = s.kept := by
  unfold State.rearm
  split <;> simpa using State.kept_of_recCode ‹_›
theorem State.kept_of_rearm {s t : State} {d i c : Nat} {x : Option Nat} (h : s.rearm d i c = (x, t)) : t.kept = s.kept := by
  rw [← s.rearm_kept d i c, h]
@[simp] theorem State.refireTry_kept (s : State) (d i : Nat) : (s.refireTry d i).kept = s.kept := by
  unfold State.refireTry; dsimp only
  split <;> rename_i h <;> rw [← State.kept_of_rearm h]
  · exact State.kept_foldl (fun _ _ => by simp) _ _
  · exact State.kept_foldl (fun _ _ => by simp) _ _
  · simp
@[simp] theorem State.refire_kept (s : State) (d i : Nat) : (s.refire d i).kept = s.kept := by
  unfold State.refire; simp
@[simp] theorem State.subsEnd_kept (s : State) (d i : Nat) : (s.subsEnd d i).kept = s.kept := by
  unfold State.subsEnd; dsimp only; split
  · exact State.kept_foldl (fun _ _ => by simp) _ _
  · split
    · rw [State.kept_ite, State.refire_kept, ite_self]; exact State.kept_foldl (fun _ _ => by simp) _ _
    · rfl
@[simp] theorem State.finEnd_kept (s : State) (d i : Nat) : (s.finEnd d i).kept = s.kept := by
  unfold State.finEnd; dsimp only; repeat' split
  all_goals simp
@[simp] theorem State.finishRec_kept (s : State) (d i : Nat) (st : RecSt) : (s.finishRec d i st).kept = s.kept := by
  unfold State.finishRec; simp
@[simp] theorem State.installRec_kept (s : State) (d i : Nat) (ws : List Word) (wafer : Bool) (parent : Option Nat) : (s.installRec d i ws wafer
    parent).kept = s.kept := by
  unfold State.installRec; simp
@[simp] theorem State.enqDrop_kept (s : State) (d : Nat) : (s.enqDrop d).kept = s.kept := rfl
theorem State.waiting_leaves (old s : State) (h : Q s.kept) : Out.Leaves Q (old.waiting s) := by
  unfold State.waiting; split <;> simp [h]
/-- A write of a record to an enqueue window, made or not, leaves home memory alone. -/
theorem State.windowEnq_kept {s : State} {d : Nat} {wafer : Bool} {i : Nat} {ws : List Word} :
    (∀ c t, s.windowEnq d wafer i ws = .done c t → t.kept = s.kept) ∧ ∀ t, s.windowEnq d wafer i ws = .wait t → t.kept = s.kept := by
  unfold State.windowEnq; repeat' split
  case isTrue | isTrue => simp
  all_goals rename_i hr; have hr := State.kept_of_recCode hr; simp [hr]
/-- A write of a sector of control space, made or not, leaves home memory alone. -/
theorem State.ctlSector_kept {s : State} {d o : Nat} {bs : List Byte} :
    (∀ t, s.ctlSector d o bs = .ok t → t.kept = s.kept) ∧ ∀ t, s.ctlSector d o bs = .wait t → t.kept = s.kept := by
  unfold State.ctlSector; repeat' split
  · have := State.windowEnq_kept.1 _ _ ‹_›; simp [this]
  · have := State.windowEnq_kept.2 _ ‹_›; simp [this]
  · simp
  · simp

/-! ## Loads, home accesses and cache events -/

@[simp] theorem State.passTo_kept (s : State) (bid w : Nat) (rel : Bool) (scp : Nat) (pl : Place) : (s.passTo bid w rel scp pl).kept = s.kept := by
  unfold State.passTo; simp
@[simp] theorem State.takeFrom_kept (s : State) (bid w : Nat) (acq : Bool) (scp : Nat) (pl : Place) : (s.takeFrom bid w acq scp pl).kept = s.kept :=
    by
  unfold State.takeFrom; simp
@[simp] theorem State.fenced_kept (s : State) (bid w : Nat) (ord scp : Nat) (pth : Bool) : (s.fenced bid w ord scp pth).kept = s.kept := by
  unfold State.fenced; simp
@[simp] theorem State.readPart_kept (s : State) (x : Op) (nt wide : Bool) (ty : Nat) (pl : Place) (n : Nat) :
    (s.readPart x nt wide ty pl n).2.2.kept = s.kept := by
  unfold State.readPart
  split
  · split
    · rfl
    · split <;> simp
  all_goals rfl
@[simp] theorem State.notePersist_kept (s : State) (d a id pa : Nat) : (s.notePersist d a id pa).kept = s.kept := by
  unfold State.notePersist; simp
@[simp] theorem State.partServed_kept (s : State) (x : Op) (store : Bool) (scp : Nat) (p : Part) : (s.partServed x store scp p).kept = s.kept := by
  unfold State.partServed; exact State.kept_foldl (fun _ _ => by simp) _ _
@[simp] theorem State.loadDone_kept (s : State) (x : Op) : (s.loadDone x).kept = s.kept := by
  unfold State.loadDone; simp
@[simp] theorem State.loadPart_kept (s : State) (x : Op) (dst : LdDst) (ord scp : Nat) (p : Part) :
    (s.loadPart x dst ord scp p).2.1.kept = s.kept := by
  unfold State.loadPart; dsimp only
  split <;> simp
theorem execLoadComplete_leaves (o : Nat) (pl : Place) (s : State) (h : Q s.kept) : Out.Leaves Q (execLoadComplete o pl s) := by
  unfold execLoadComplete; split
  case h_2 => trivial
  split
  case h_2 => trivial
  extract_lets ps r k src
  have hr : r.2.1.kept = s.kept := foldl_keeps_of (fun acc : Op × State × List (Nat × Word) => acc.2.1.kept) (fun _ _ => by simp) _ _
  clear_value src r
  refine Out.leaves_if trivial (Out.leaves_if (by simpa using h) (Out.leaves_if trivial ?_))
  split
  · simpa using h
  · simpa [hr] using h
theorem execHomeRetry_leaves (o : Asker × Nat) (s : State) (h : Q s.kept) : Out.Leaves Q (execHomeRetry o s) := by
  unfold execHomeRetry; simp [h]
theorem execReservationLapse_leaves (home line : Nat) (s : State) (h : Q s.kept) : Out.Leaves Q (execReservationLapse home line s) := by
  unfold execReservationLapse; repeat' split
  all_goals simp [h]
@[simp] theorem State.imageSlots_kept (s : State) (x : Op) : (s.imageSlots x).kept = s.kept := by
  unfold State.imageSlots; split <;> simp
@[simp] theorem State.dfenceSys_kept (s : State) (x : Op) : (s.dfenceSys x).kept = s.kept := by
  unfold State.dfenceSys; split
  · rw [State.updWarp_kept]; exact State.kept_foldl (fun _ _ => by simp) _ _
  · rfl
theorem execWindowWriteEntry_leaves (b : Nat) (s : State) (h : Q s.kept) : Out.Leaves Q (execWindowWriteEntry b s) := by
  unfold execWindowWriteEntry; simp [h]
@[simp] theorem Env.answered_kept (e : Env) (s : State) (d : BitVec 3) (res : List (Nat × Word)) (j : Option Nat) : (e.answered s d res j).kept =
    s.kept := by
  unfold Env.answered; simp
@[simp] theorem Env.quick_leaves (e : Env) (s : State) (d : BitVec 3) (res : List (Nat × Word)) (j : Option Nat) (h : Q s.kept) : (e.quick s d res
    j).Leaves Q := by
  unfold Env.quick; simp [h]
theorem execTlbi_leaves (f : SysW) (s : State) (h : Q s.kept) : Out.Leaves Q (execTlbi f s) := by
  refine issueWord_leaves h fun e h => Env.slotted_leaves h ?_
  dsimp only; split <;> simp [h]
theorem Env.rangePages_kept (e : Env) (kind : Kind) (k : Nat) (s : State) (va n : Nat) : (e.rangePages kind k s va n).2.kept = s.kept := by
  induction k generalizing s va n with
  | zero => rfl
  | succ k ih =>
    unfold Env.rangePages; split
    · rfl
    split
    · exact Env.kept_of_translate ‹_›
    · exact Env.kept_of_translate ‹_›
    rename_i ht
    rw [← Env.kept_of_translate ht]; dsimp only; split
    · rename_i u _ _ _ hr; exact (congrArg (·.2.kept) hr).symm.trans (ih u _ _)
    · exact ih ..
theorem execHflush_leaves (f : SysW) (s : State) (h : Q s.kept) : Out.Leaves Q (execHflush f s) := by
  refine issueWord_leaves h fun e h => Env.slotted_leaves h ?_
  dsimp only; split
  · simp [h]
  · split <;> rename_i hr <;> rw [← Env.rangePages_kept e .load 65538 e.s (e.breg f.ba.toNat).toNat (e.sreg f.s.toNat).toNat, hr] at h
    · exact h
    · exact Env.stay_leaves _ _ h
    · split <;> simp [h]
theorem execHprobe_leaves (f : SysW) (s : State) (h : Q s.kept) : Out.Leaves Q (execHprobe f s) := by
  refine issueWord_leaves h fun e h => Env.slotted_leaves h ?_
  dsimp only; split <;> rename_i ht <;> rw [← Env.kept_of_translate ht] at h <;> simp [h]
@[simp] theorem Env.atrWords_kept (e : Env) (s : State) (va : Nat) (kind : Kind) : (e.atrWords s va kind).2.kept = s.kept := by
  unfold Env.atrWords; dsimp only; split
  case h_4 => split <;> exact State.kept_of_lookup ‹_›
  all_goals exact State.kept_of_lookup ‹_›
theorem Env.kept_of_atrWords {e : Env} {s t : State} {va : Nat} {kind : Kind} {x : Option (List Word)} (h : e.atrWords s va kind = (x, t)) :
    t.kept = s.kept := by
  rw [← e.atrWords_kept s va kind, h]
theorem execAtr_leaves (f : SysW) (s : State) (h : Q s.kept) : Out.Leaves Q (execAtr f s) := by
  refine issueWord_leaves h fun e h => Env.slotted_leaves h ?_
  dsimp only; split <;> rename_i ha <;> rw [← Env.kept_of_atrWords ha] at h <;> simp [h]
theorem State.sliceAsks_leaves (s : State) (d pa : Nat) (go : State) (h : Q s.kept) (hg : Q go.kept) : Out.Leaves Q (s.sliceAsks d pa go) := by
  unfold State.sliceAsks; dsimp only; repeat' split
  all_goals simp [h, hg]
theorem execL1DirectoryRequest_leaves (d a : Nat) (q : L1Req) (sec : Nat) (s : State) (h : Q s.kept) :
    Out.Leaves Q (execL1DirectoryRequest d a q sec s) := by
  unfold execL1DirectoryRequest; dsimp only; split
  · trivial
  split
  · split
    · exact State.sliceAsks_leaves _ _ _ _ h (by simpa using h)
    · simpa using h
  · simp [h]
  · split <;> simp [h]
theorem execRemoteFetch_leaves (d sec : Nat) (s : State) (h : Q s.kept) : Out.Leaves Q (execRemoteFetch d sec s) := by
  unfold execRemoteFetch; split
  · trivial
  · exact State.sliceAsks_leaves _ _ _ _ h (by simpa using h)
theorem execRemoteInvalidation_leaves (d sec : Nat) (s : State) (h : Q s.kept) : Out.Leaves Q (execRemoteInvalidation d sec s) := by
  unfold execRemoteInvalidation; dsimp only; repeat' split
  all_goals simp [h]
@[simp] theorem State.evictHome_kept (s : State) (d sec : Nat) : (s.evictHome d sec).kept = s.kept := s.l1Drop_kept d sec
@[simp] theorem State.invalidateLine_kept (s : State) (line : Nat) : (s.invalidateLine line).kept = s.kept := rfl
theorem execDirectoryEntryDrop_leaves (home line : Nat) (s : State) (h : Q s.kept) : Out.Leaves Q (execDirectoryEntryDrop home line s) := by
  unfold execDirectoryEntryDrop; repeat' split
  all_goals simp [h]
theorem execPageWalk_leaves (d asid : Nat) (va : Ptr) (s : State) (h : Q s.kept) : Out.Leaves Q (execPageWalk d asid va s) := by
  unfold execPageWalk; dsimp only; repeat' split
  all_goals simp [h]
@[simp] theorem State.snoop_kept (s : State) (line : Nat) : (s.snoop line).kept = s.kept := by
  unfold State.snoop; dsimp only
  all_goals simp [State.kept_foldl]
theorem execBackInvalidationSnoop_leaves (line : Nat) (s : State) (h : Q s.kept) : Out.Leaves Q (execBackInvalidationSnoop line s) := by
  unfold execBackInvalidationSnoop; simp [h]
theorem execHostSnoop_leaves (line : Nat) (s : State) (h : Q s.kept) : Out.Leaves Q (execHostSnoop line s) := by
  unfold execHostSnoop; simp [h]
theorem execPoolLinkDown_leaves (p : Nat) (s : State) (h : Q s.kept) : Out.Leaves Q (execPoolLinkDown p s) := by
  unfold execPoolLinkDown; simp [h]

/-! ## Copies and objects -/

@[simp] theorem State.updCopyRec_kept (s : State) (x : Op) (f : CopyRec → CopyRec) : (s.updCopyRec x f).kept = s.kept := rfl
@[simp] theorem State.leaveGroups_kept (s : State) (home o : Nat) : (s.leaveGroups home o).kept = s.kept := rfl
@[simp] theorem State.slotPast_kept (s : State) (x : Op) : (s.slotPast x).kept = s.kept := by
  unfold State.slotPast; simp
@[simp] theorem State.endCopy_kept (s : State) (x : Op) (st : Nat) : (s.endCopy x st).kept = s.kept := by
  unfold State.endCopy; split <;> simp
@[simp] theorem State.noted_kept (s : State) (o : Nat) : (s.noted o).kept = s.kept := rfl
@[simp] theorem State.globalPieces_kept (cx : CopyCx) (side : Side) (k : Nat) (s : State) (va n : Nat) :
    (State.globalPieces cx side k s va n).2.kept = s.kept := by
  induction k generalizing s va n with
  | zero => rfl
  | succ k ih =>
    unfold State.globalPieces; split
    · rfl
    · exact (ih ..).trans (State.translate_kept ..)
@[simp] theorem State.copySide_kept (cx : CopyCx) (side : Side) (scr : Bool) (p : Ptr) (rows : List (Int × Nat)) (s : State) :
    (State.copySide cx side scr p rows s).2.kept = s.kept := by
  induction rows generalizing s with
  | nil => rfl
  | cons r rows ih =>
    unfold State.copySide
    refine (ih _).trans ?_
    split
    · dsimp only; split <;> rfl
    · simp
/-- The state a plan hands on has home memory as `Q` asks. -/
def PlanRes.Leaves (Q : Kept → Prop) : PlanRes → Prop
  | .ok _ _ t | .trap _ _ t | .wait t => Q t.kept
  | _ => True
@[simp] theorem PlanRes.leaves_ok (segs : List Seg) (srcs : List Piece) (t : State) : (PlanRes.ok segs srcs t).Leaves Q = Q t.kept := rfl
@[simp] theorem PlanRes.leaves_trap (c : Cause) (p : Ptr) (t : State) : (PlanRes.trap c p t).Leaves Q = Q t.kept := rfl
@[simp] theorem PlanRes.leaves_wait (t : State) : (PlanRes.wait t).Leaves Q = Q t.kept := rfl
theorem planOf_leaves (srcs dsts : List PieceRes) (s : State) (h : Q s.kept) : (planOf srcs dsts s).Leaves Q := by
  unfold planOf
  dsimp only; repeat' split
  all_goals exact h
theorem State.copyPlan_leaves {s : State} (cx : CopyCx) (r : CopyRec) (h : Q s.kept) : (s.copyPlan cx r).Leaves Q := by
  unfold State.copyPlan
  extract_lets n aligned dp sp both side w h' b toWin win o
  have hb : ∀ x a b y z, (both x a b y z).Leaves Q := fun _ _ _ _ _ => planOf_leaves _ _ _ (by simp [h])
  have ha : ∀ l go, PlanRes.Leaves Q go → (aligned l go).Leaves Q := by
    intro l go hg
    dsimp only [aligned]; split
    · exact hg
    · trivial
  clear_value aligned both
  split
  · split
    · trivial
    · refine ha _ _ ?_; split
      · exact h
      · exact hb ..
  · split
    · trivial
    · refine ha _ _ ?_; split
      · exact h
      · exact hb ..
  · split
    · trivial
    · exact ha _ _ (hb ..)
  · exact planOf_leaves _ _ _ (by simp [b, h])
  · split
    · trivial
    · refine ha _ _ ?_
      have ho : Q o.2.kept := by dsimp only [o]; repeat' split <;> simp [h]
      clear_value o
      split <;> exact planOf_leaves _ _ _ ho
@[simp] theorem State.objTrans_kept (s : State) (d asid va : Nat) (kind : Kind) : (s.objTrans d asid va kind).2.kept = s.kept := by
  unfold State.objTrans; dsimp only; repeat' split
  all_goals simp
@[simp] theorem State.tierFail_kept (s : State) (x : Op) : (s.tierFail x).kept = s.kept := rfl
@[simp] theorem State.servePromotion_kept (s : State) (d i : Nat) : (s.servePromotion d i).kept = s.kept := rfl
theorem execPromotionServe_leaves (d : Nat) (s : State) (h : Q s.kept) : Out.Leaves Q (execPromotionServe d s) := by
  unfold execPromotionServe; dsimp only; repeat' split
  all_goals simp [h]
theorem execPromotionAging_leaves (d : Nat) (s : State) (h : Q s.kept) : Out.Leaves Q (execPromotionAging d s) := by
  unfold execPromotionAging; repeat' split
  all_goals simp [h]
theorem execObjectTableWrite_leaves (d idx wd : Nat) (x : Word) (s : State) (h : Q s.kept) : Out.Leaves Q (execObjectTableWrite d idx wd x s) := by
  unfold execObjectTableWrite; simp [h]
@[simp] theorem State.issued_kept (s : State) (p : Tick) : (s.issued p).kept = s.kept := rfl
@[simp] theorem Env.firstPromise_kept (e : Env) (s : State) (k : OpK) : (e.firstPromise s k).2.kept = s.kept := by
  unfold Env.firstPromise; dsimp only; repeat' split
  all_goals rfl
@[simp] theorem Env.startCopy_kept (e : Env) (s : State) (d S : Nat) (r : CopyRec) (k : OpK) : (e.startCopy s d S r k).1.kept = s.kept := by
  unfold Env.startCopy; simp
@[simp] theorem Env.copyMisaligned_leaves (e : Env) (ps : List Ptr) (h : Q e.s.kept) : (e.copyMisaligned ps).Leaves Q := by
  unfold Env.copyMisaligned; simp [h]
@[simp] theorem Env.copy_leaves (e : Env) (op : Nat) (f : AsyW) (h : Q e.s.kept) : (e.copy op f).Leaves Q := by
  refine Env.slotted_leaves h ?_
  have hp := State.copyPlan_leaves e.copyCx (e.copyRec op f) h
  dsimp only; split <;> rename_i hq <;> rw [hq] at hp
  · trivial
  · exact Env.copyMisaligned_leaves _ _ h
  · exact hp
  · exact Env.stay_leaves _ _ hp
  · refine Act.leaves_if (Env.stay_leaves _ _ hp) (Act.leaves_if ?_ (Act.leaves_if (Env.stay_leaves _ _ hp) ?_))
    · simpa using hp
    · simpa using hp
theorem execCpy_leaves (f : AsyW) (s : State) (h : Q s.kept) : Out.Leaves Q (execCpy f s) :=
  issueWord_leaves h fun e h => by simp [h]
theorem execCpy2_leaves (f : AsyW) (s : State) (h : Q s.kept) : Out.Leaves Q (execCpy2 f s) :=
  issueWord_leaves h fun e h => by simp [h]
theorem execCpym_leaves (f : AsyW) (s : State) (h : Q s.kept) : Out.Leaves Q (execCpym f s) :=
  issueWord_leaves h fun e h => by simp [h]
theorem execCpyw_leaves (f : AsyW) (s : State) (h : Q s.kept) : Out.Leaves Q (execCpyw f s) :=
  issueWord_leaves h fun e h => by simp [h]
@[simp] theorem Env.tierGo_kept (e : Env) (s : State) (f : AsyW) (r : CopyRec) (i scp : Nat) (segs : List Seg) :
    (e.tierGo s f r i scp segs).kept = s.kept := by
  unfold Env.tierGo; simp
@[simp] theorem Env.tier_leaves (e : Env) (f : AsyW) (h : Q e.s.kept) : (e.tier f).Leaves Q := by
  refine Env.slotted_leaves h ?_
  dsimp only; split
  · trivial
  · rename_i i _
    have hp := State.copyPlan_leaves e.copyCx
      { e.copyRec 0xBB f with key := e.sreg f.s.toNat, len := BitVec.ofNat 32 (4096 * ((e.s.dom e.loc.d).obj i).size) } h
    split
    · refine Act.leaves_if trivial ?_; simpa using h
    · split <;> rename_i hq <;> rw [hq] at hp
      · trivial
      · exact Env.copyMisaligned_leaves _ _ h
      · exact hp
      · exact Env.stay_leaves _ _ hp
      · refine Act.leaves_if (Env.stay_leaves _ _ hp) ?_; simpa using hp
theorem execCpytProm_leaves (f : AsyW) (s : State) (h : Q s.kept) : Out.Leaves Q (execCpytProm f s) :=
  issueWord_leaves h fun e h => by simp [h]
theorem execCpytEvct_leaves (f : AsyW) (s : State) (h : Q s.kept) : Out.Leaves Q (execCpytEvct f s) :=
  issueWord_leaves h fun e h => by simp [h]
theorem execCpytScr_leaves (f : AsyW) (s : State) (h : Q s.kept) : Out.Leaves Q (execCpytScr f s) :=
  issueWord_leaves h fun e h => by simp [h]
theorem execCpytGlb_leaves (f : AsyW) (s : State) (h : Q s.kept) : Out.Leaves Q (execCpytGlb f s) :=
  issueWord_leaves h fun e h => by simp [h]
@[simp] theorem State.missTransit_kept (s : State) (b w v S : Nat) : (s.missTransit b w v S).kept = s.kept := by
  unfold State.missTransit; simp
theorem execWaitt_leaves (f : AsyW) (s : State) (h : Q s.kept) : Out.Leaves Q (execWaitt f s) :=
  issueWord_leaves h fun e h => by simp [h]
theorem execTqry_leaves (f : AsyW) (s : State) (h : Q s.kept) : Out.Leaves Q (execTqry f s) :=
  issueWord_leaves h fun _ h => Env.slotted_leaves h (by simp [h])
@[simp] theorem State.cancelCopy_kept (s : State) (x : Op) : (s.cancelCopy x).kept = s.kept := by
  unfold State.cancelCopy; split <;> simp
theorem execCpyc_leaves (f : AsyW) (s : State) (h : Q s.kept) : Out.Leaves Q (execCpyc f s) := by
  refine issueWord_leaves h fun e h => Env.slotted_leaves h ?_
  dsimp only; split
  · simp [h]
  · refine Act.leaves_if trivial (Act.leaves_if ?_ ?_) <;> simp [h]
theorem execTransitTick_leaves (b w : Nat) (s : State) (h : Q s.kept) : Out.Leaves Q (execTransitTick b w s) := by
  unfold execTransitTick; dsimp only; repeat' split
  all_goals simp [h]
@[simp] theorem State.keepCopy_kept (s : State) (d ty : Nat) (pl : Place) : (s.keepCopy d ty pl).kept = s.kept := by
  unfold State.keepCopy; split
  · split <;> simp
  · rfl
theorem State.kept_of_readSector {s t : State} {q : Asker} {d : Nat} {pins ps : List (Nat × Bool)} {wide : Bool} {pl : Place} {bs : List Byte}
    (h : s.readSector q d pins wide pl = .ok bs ps t) : t.kept = s.kept := by
  unfold State.readSector at h; dsimp only at h; repeat' split at h
  all_goals cases h
  all_goals simp
theorem State.kept_of_readNear {s t : State} {q : Asker} {d ty pa : Nat} {ps : List (Nat × Bool)} {bs : List Byte}
    (h : s.readNear q d ty pa = .ok bs ps t) : t.kept = s.kept := by
  unfold State.readNear at h; split at h
  · exact State.kept_of_readSector h
  · dsimp only at h; repeat' split at h
    all_goals cases h
    all_goals simp
@[simp] theorem State.receive_kept (s : State) (o i : Nat) (bs : List Byte) : (s.receive o i bs).kept = s.kept := rfl
@[simp] theorem State.updMcast_kept (s : State) (d g : Nat) (f : Mcast → Mcast) : (s.updMcast d g f).kept = s.kept := rfl
@[simp] theorem State.closeGroup_kept (s : State) (d g : Nat) : (s.closeGroup d g).kept = s.kept := by
  unfold State.closeGroup; split
  · split <;> simp
  · rfl
theorem State.kept_of_sendThrough {s t : State} {d g i fuel : Nat} (h : s.sendThrough d g i fuel = .ok t) : t.kept = s.kept := by
  induction fuel generalizing s with
  | zero => cases h; rfl
  | succ fuel ih =>
    unfold State.sendThrough at h; split at h
    · cases h; rfl
    split at h
    · cases h; rfl
    split at h
    · cases h
    · cases h
    · rename_i hr
      rw [ih h, State.updMcast_kept, State.kept_foldl fun _ _ => by simp, State.kept_of_readSector hr]
theorem State.kept_of_resend {s t : State} {d o : Nat} {pages : List Nat} {i n : Nat} {pins ps : List (Nat × Bool)} {fuel : Nat}
    (h : s.resend d o pages i n pins fuel = (.ok t, ps)) : t.kept = s.kept := by
  induction fuel generalizing s i pins with
  | zero => cases h; rfl
  | succ fuel ih =>
    unfold State.resend at h; split at h
    · cases h; rfl
    split at h
    · cases h
    · cases h
    · rename_i hr
      rw [ih h, State.receive_kept, State.kept_of_readSector hr]
theorem execMulticastWindowClose_leaves (d g : Nat) (s : State) (h : Q s.kept) : Out.Leaves Q (execMulticastWindowClose d g s) := by
  unfold execMulticastWindowClose; repeat' split
  all_goals simp [h]
theorem execLateJoinerResend_leaves (d g : Nat) (s : State) (h : Q s.kept) : Out.Leaves Q (execLateJoinerResend d g s) := by
  unfold execLateJoinerResend; split
  case h_2 => trivial
  refine Out.leaves_if trivial ?_
  split
  · trivial
  split
  · rename_i hr; have hr := State.kept_of_resend hr; simpa [hr] using h
  · trivial
  · simpa using h
theorem execCopyCompletion_leaves (o : Nat) (s : State) (h : Q s.kept) : Out.Leaves Q (execCopyCompletion o s) := by
  unfold execCopyCompletion; repeat' split
  all_goals simp [h]

/-! ## Words of the matrix engine -/

theorem execMatrixCompletion_leaves (o : Nat) (stale : Bool) (s : State) (h : Q s.kept) : Out.Leaves Q (execMatrixCompletion o stale s) := by
  unfold execMatrixCompletion; repeat' split
  all_goals simp [h]
theorem Env.mtx_leaves {e : Env} {f : MtxW} {tile : Bool} {k : Env → Act} (h : Q e.s.kept) (hk : (k e).Leaves Q) : (e.mtx f tile k).Leaves Q := by
  unfold Env.mtx
  refine Act.leaves_if trivial (Env.slotted_leaves h ?_)
  exact Act.leaves_if trivial (Act.leaves_if trivial hk)
@[simp] theorem Env.mtxGo_leaves (e : Env) (op : Nat) (f : MtxW) (h : Q e.s.kept) : (e.mtxGo op f).Leaves Q := by
  unfold Env.mtxGo; simp [h]
theorem issueMtx_leaves {i : Instr} {op : Nat} {f : MtxW} {s : State} {act : Env → Act} (h : Q s.kept) (ha : ∀ e, Q e.s.kept → (act e).Leaves Q) :
    Out.Leaves Q (issueMtx i op f s act) := issueWord_leaves h ha
@[simp] theorem Env.mms_leaves (e : Env) (f : MtxW) (h : Q e.s.kept) : (e.mms f).Leaves Q := Env.mtx_leaves h (by simp [h])
theorem execMms_leaves (f : MtxW) (s : State) (h : Q s.kept) : Out.Leaves Q (execMms f s) :=
  issueMtx_leaves h fun e h => Env.mms_leaves e f h
@[simp] theorem Env.mmss_leaves (e : Env) (f : MtxW) (h : Q e.s.kept) : (e.mmss f).Leaves Q := by
  refine Env.mtx_leaves h ?_
  split
  · trivial
  · simp [h]
theorem execMmss_leaves (f : MtxW) (s : State) (h : Q s.kept) : Out.Leaves Q (execMmss f s) :=
  issueMtx_leaves h fun e h => Env.mmss_leaves e f h
@[simp] theorem Env.mmz_leaves (e : Env) (f : MtxW) (h : Q e.s.kept) : (e.mmz f).Leaves Q := Env.mtx_leaves h (by simp [h])
theorem execMmz_leaves (f : MtxW) (s : State) (h : Q s.kept) : Out.Leaves Q (execMmz f s) :=
  issueMtx_leaves h fun e h => Env.mmz_leaves e f h
@[simp] theorem Env.accmv_leaves (e : Env) (f : MtxW) (h : Q e.s.kept) : (e.accmv f).Leaves Q := Env.mtx_leaves h (by simp [h])
theorem execAccmv_leaves (f : MtxW) (s : State) (h : Q s.kept) : Out.Leaves Q (execAccmv f s) :=
  issueMtx_leaves h fun e h => Env.accmv_leaves e f h
@[simp] theorem Env.accld_leaves (e : Env) (f : MtxW) (h : Q e.s.kept) : (e.accld f).Leaves Q := Env.mtx_leaves h (by simp [h])
theorem execAccld_leaves (f : MtxW) (s : State) (h : Q s.kept) : Out.Leaves Q (execAccld f s) :=
  issueMtx_leaves h fun e h => Env.accld_leaves e f h
@[simp] theorem Env.accsc_leaves (e : Env) (f : MtxW) (h : Q e.s.kept) : (e.accsc f).Leaves Q := Env.mtx_leaves h (by simp [h])
theorem execAccsc_leaves (f : MtxW) (s : State) (h : Q s.kept) : Out.Leaves Q (execAccsc f s) :=
  issueMtx_leaves h fun e h => Env.accsc_leaves e f h
@[simp] theorem Env.acccv_leaves (e : Env) (f : MtxW) (h : Q e.s.kept) : (e.acccv f).Leaves Q := by
  refine Env.mtx_leaves h ?_
  unfold Env.mtxGo
  exact Act.leaves_if (by simp [h]) (by simp [h])
theorem execAcccv_leaves (f : MtxW) (s : State) (h : Q s.kept) : Out.Leaves Q (execAcccv f s) :=
  issueMtx_leaves h fun e h => Env.acccv_leaves e f h
@[simp] theorem Env.spld_leaves (e : Env) (f : MtxW) (h : Q e.s.kept) : (e.spld f).Leaves Q := by
  refine Env.mtx_leaves h ?_
  dsimp only; split
  · trivial
  · simp [Env.mtxGo, h]
theorem execSpld_leaves (f : MtxW) (s : State) (h : Q s.kept) : Out.Leaves Q (execSpld f s) :=
  issueMtx_leaves h fun e h => Env.spld_leaves e f h
@[simp] theorem State.quartetTrap_kept (s : State) (b : Nat) (ws : List Nat) (own : Nat → Option (Cause × Option Ptr × Option Word)) (info : Word) :
    (s.quartetTrap b ws own info).kept = s.kept := by
  unfold State.quartetTrap
  refine State.kept_foldl (fun _ _ => ?_) _ _
  dsimp only; repeat' split
  all_goals simp
@[simp] theorem State.quartetOp_kept (s : State) (b : Nat) (l : Loc) (q op : Nat) (f : MtxW) (word : Word) (driver : Option Nat) : (s.quartetOp b l q
    op f word driver).kept = s.kept := by
  unfold State.quartetOp; split <;> simp
theorem State.settle_leaves (s : State) (b q : Nat) (h : Q s.kept) : Out.Leaves Q (s.settle b q) := by
  unfold State.settle; dsimp only; split
  · split
    · trivial
    · split <;> rename_i hf <;> rw [← State.kept_of_fetchAt hf] at h
      · simpa using h
      · simpa using h
      · exact State.waiting_leaves _ _ h
  · refine Out.leaves_if (by simpa using h) ?_
    split
    · trivial
    · refine Out.leaves_if (by simpa using h) (Out.leaves_if trivial ?_)
      split
      · simpa using h
      · refine Out.leaves_if (by simpa using h) ?_
        rw [Out.leaves_next, State.kept_foldl fun _ _ => by simp]
        simpa using h
theorem State.quartetBroken_kept {s t : State} {b q : Nat} (h : s.quartetBroken b q = some t) : t.kept = s.kept := by
  unfold State.quartetBroken at h; dsimp only at h; repeat' split at h
  all_goals cases h
  all_goals simp
theorem execQuartetRendezvous_leaves (b q : Nat) (s : State) (h : Q s.kept) : Out.Leaves Q (execQuartetRendezvous b q s) := by
  unfold execQuartetRendezvous; dsimp only
  refine Out.leaves_if trivial ?_
  split
  · rename_i hq; simpa [State.quartetBroken_kept hq] using h
  · exact Out.leaves_if (State.settle_leaves _ _ _ h) trivial
theorem issueQuartet_leaves (i : Instr) (s : State) (h : Q s.kept) : Out.Leaves Q (issueQuartet i s) := by
  unfold issueQuartet; split
  · trivial
  split
  · trivial
  extract_lets t q
  have ht : Q t.kept := by simpa [t] using h
  clear_value t
  split
  · rename_i hq; simpa [State.quartetBroken_kept hq] using ht
  · refine Out.leaves_if ?_ ht
    rename_i b _ _ _ _ _ _ _
    have hs := State.settle_leaves t b q ht
    split <;> rename_i hq
    · rw [hq] at hs; exact hs
    · exact ht
theorem execMmq_leaves (f : MtxW) (s : State) (h : Q s.kept) : Out.Leaves Q (execMmq f s) := issueQuartet_leaves _ _ h
theorem execMmqs_leaves (f : MtxW) (s : State) (h : Q s.kept) : Out.Leaves Q (execMmqs f s) := issueQuartet_leaves _ _ h
theorem execMmqx_leaves (f : MtxW) (s : State) (h : Q s.kept) : Out.Leaves Q (execMmqx f s) := issueQuartet_leaves _ _ h
theorem execMmqt_leaves (f : MtxW) (s : State) (h : Q s.kept) : Out.Leaves Q (execMmqt f s) := issueQuartet_leaves _ _ h

/-! ## Vector words; drains, records and blocks -/

theorem vec1_leaves (i : Instr) (f : RegW) (s : State) (x : Word → Word) (h : Q s.kept) : Out.Leaves Q (vec1 i f s x) :=
  issueResult_leaves h
theorem vec2_leaves (i : Instr) (f : RegW) (s : State) (x : Word → Word → Word) (h : Q s.kept) : Out.Leaves Q (vec2 i f s x) :=
  issueResult_leaves h
theorem vec3_leaves (i : Instr) (f : RegW) (s : State) (x : Word → Word → Word → Word) (h : Q s.kept) : Out.Leaves Q (vec3 i f s x) :=
  issueResult_leaves h
theorem vecCounted_leaves (i : Instr) (f : RegW) (s : State) (stochastic : Bool) (x : Env → Nat → Word → Word × List NumEvent) (h : Q s.kept) :
    Out.Leaves Q (vecCounted i f s stochastic x) :=
  issueReg_leaves h fun e h => by simp [h]
theorem vecCompare_leaves (i : Instr) (f : RegW) (s : State) (x : Word → Word → Bool) (h : Q s.kept) : Out.Leaves Q (vecCompare i f s x) :=
  issueReg_leaves h fun e h => by simp [h]
theorem packed_leaves (i : Instr) (f : RegW) (s : State) (x : Val → Val → Val → Val) (h : Q s.kept) : Out.Leaves Q (packed i f s x) :=
  issue_leaves h fun e h => by simp [h]
theorem vecLane_leaves (i : Instr) (f : RegW) (s : State) (x : Env → Word → Nat → Word) (h : Q s.kept) : Out.Leaves Q (vecLane i f s x) :=
  issueReg_leaves h fun e h => by simp [h]
theorem execIadd_leaves (f : RegW) (s : State) (h : Q s.kept) : Out.Leaves Q (execIadd f s) := vec2_leaves _ f s _ h
theorem execIsub_leaves (f : RegW) (s : State) (h : Q s.kept) : Out.Leaves Q (execIsub f s) := vec2_leaves _ f s _ h
theorem execImul_leaves (f : RegW) (s : State) (h : Q s.kept) : Out.Leaves Q (execImul f s) := vec2_leaves _ f s _ h
theorem execImulh_leaves (f : RegW) (s : State) (h : Q s.kept) : Out.Leaves Q (execImulh f s) := vec2_leaves _ f s _ h
theorem execImad_leaves (f : RegW) (s : State) (h : Q s.kept) : Out.Leaves Q (execImad f s) := vec3_leaves _ f s _ h
theorem execImin_leaves (f : RegW) (s : State) (h : Q s.kept) : Out.Leaves Q (execImin f s) := vec2_leaves _ f s _ h
theorem execImax_leaves (f : RegW) (s : State) (h : Q s.kept) : Out.Leaves Q (execImax f s) := vec2_leaves _ f s _ h
theorem execIabs_leaves (f : RegW) (s : State) (h : Q s.kept) : Out.Leaves Q (execIabs f s) := vec1_leaves _ f s _ h
theorem execAnd_leaves (f : RegW) (s : State) (h : Q s.kept) : Out.Leaves Q (execAnd f s) := vec2_leaves _ f s _ h
theorem execOr_leaves (f : RegW) (s : State) (h : Q s.kept) : Out.Leaves Q (execOr f s) := vec2_leaves _ f s _ h
theorem execXor_leaves (f : RegW) (s : State) (h : Q s.kept) : Out.Leaves Q (execXor f s) := vec2_leaves _ f s _ h
theorem execNot_leaves (f : RegW) (s : State) (h : Q s.kept) : Out.Leaves Q (execNot f s) := vec1_leaves _ f s _ h
theorem execShl_leaves (f : RegW) (s : State) (h : Q s.kept) : Out.Leaves Q (execShl f s) := vec2_leaves _ f s _ h
theorem execShr_leaves (f : RegW) (s : State) (h : Q s.kept) : Out.Leaves Q (execShr f s) := vec2_leaves _ f s _ h
theorem execShra_leaves (f : RegW) (s : State) (h : Q s.kept) : Out.Leaves Q (execShra f s) := vec2_leaves _ f s _ h
theorem execRot_leaves (f : RegW) (s : State) (h : Q s.kept) : Out.Leaves Q (execRot f s) := vec2_leaves _ f s _ h
theorem execPopc_leaves (f : RegW) (s : State) (h : Q s.kept) : Out.Leaves Q (execPopc f s) := vec1_leaves _ f s _ h
theorem execClz_leaves (f : RegW) (s : State) (h : Q s.kept) : Out.Leaves Q (execClz f s) := vec1_leaves _ f s _ h
theorem execBrev_leaves (f : RegW) (s : State) (h : Q s.kept) : Out.Leaves Q (execBrev f s) := vec1_leaves _ f s _ h
theorem execBfe_leaves (f : RegW) (s : State) (h : Q s.kept) : Out.Leaves Q (execBfe f s) := vec2_leaves _ f s _ h
theorem execBfi_leaves (f : RegW) (s : State) (h : Q s.kept) : Out.Leaves Q (execBfi f s) := vec3_leaves _ f s _ h
theorem execBymix_leaves (f : RegW) (s : State) (h : Q s.kept) : Out.Leaves Q (execBymix f s) := vec3_leaves _ f s _ h
theorem execSel_leaves (f : RegW) (s : State) (h : Q s.kept) : Out.Leaves Q (execSel f s) := vec3_leaves _ f s _ h
theorem execMov_leaves (f : RegW) (s : State) (h : Q s.kept) : Out.Leaves Q (execMov f s) := vec1_leaves _ f s _ h
theorem execIacc_leaves (f : RegW) (s : State) (h : Q s.kept) : Out.Leaves Q (execIacc f s) := vec3_leaves _ f s _ h
theorem execIsad_leaves (f : RegW) (s : State) (h : Q s.kept) : Out.Leaves Q (execIsad f s) := vec3_leaves _ f s _ h
theorem execIdot4_leaves (f : RegW) (s : State) (h : Q s.kept) : Out.Leaves Q (execIdot4 f s) := vec3_leaves _ f s _ h
theorem execPack_leaves (f : RegW) (s : State) (h : Q s.kept) : Out.Leaves Q (execPack f s) := vec2_leaves _ f s _ h
theorem execAddmin_leaves (f : RegW) (s : State) (h : Q s.kept) : Out.Leaves Q (execAddmin f s) := vec3_leaves _ f s _ h
theorem execAddmax_leaves (f : RegW) (s : State) (h : Q s.kept) : Out.Leaves Q (execAddmax f s) := vec3_leaves _ f s _ h
theorem execMovi_leaves (f : RegW) (s : State) (h : Q s.kept) : Out.Leaves Q (execMovi f s) := issueResult_leaves h
theorem execIcmp_leaves (f : RegW) (s : State) (h : Q s.kept) : Out.Leaves Q (execIcmp f s) := vecCompare_leaves _ f s _ h
theorem execFcmp_leaves (f : RegW) (s : State) (h : Q s.kept) : Out.Leaves Q (execFcmp f s) := vecCompare_leaves _ f s _ h
theorem execFadd_leaves (f : RegW) (s : State) (h : Q s.kept) : Out.Leaves Q (execFadd f s) := vec2_leaves _ f s _ h
theorem execFsub_leaves (f : RegW) (s : State) (h : Q s.kept) : Out.Leaves Q (execFsub f s) := vec2_leaves _ f s _ h
theorem execFmul_leaves (f : RegW) (s : State) (h : Q s.kept) : Out.Leaves Q (execFmul f s) := vec2_leaves _ f s _ h
theorem execFfma_leaves (f : RegW) (s : State) (h : Q s.kept) : Out.Leaves Q (execFfma f s) := vec3_leaves _ f s _ h
theorem execFmin_leaves (f : RegW) (s : State) (h : Q s.kept) : Out.Leaves Q (execFmin f s) := vec2_leaves _ f s _ h
theorem execFmax_leaves (f : RegW) (s : State) (h : Q s.kept) : Out.Leaves Q (execFmax f s) := vec2_leaves _ f s _ h
theorem execFclmp_leaves (f : RegW) (s : State) (h : Q s.kept) : Out.Leaves Q (execFclmp f s) := vec3_leaves _ f s _ h
theorem execFscale_leaves (f : RegW) (s : State) (h : Q s.kept) : Out.Leaves Q (execFscale f s) := vec2_leaves _ f s _ h
theorem execFexp_leaves (f : RegW) (s : State) (h : Q s.kept) : Out.Leaves Q (execFexp f s) := vec1_leaves _ f s _ h
theorem execRcp_leaves (f : RegW) (s : State) (h : Q s.kept) : Out.Leaves Q (execRcp f s) := vec1_leaves _ f s _ h
theorem execRsq_leaves (f : RegW) (s : State) (h : Q s.kept) : Out.Leaves Q (execRsq f s) := vec1_leaves _ f s _ h
theorem execSqrt_leaves (f : RegW) (s : State) (h : Q s.kept) : Out.Leaves Q (execSqrt f s) := vec1_leaves _ f s _ h
theorem execExp2_leaves (f : RegW) (s : State) (h : Q s.kept) : Out.Leaves Q (execExp2 f s) := vec1_leaves _ f s _ h
theorem execLog2_leaves (f : RegW) (s : State) (h : Q s.kept) : Out.Leaves Q (execLog2 f s) := vec1_leaves _ f s _ h
theorem execScmax_leaves (f : RegW) (s : State) (h : Q s.kept) : Out.Leaves Q (execScmax f s) := vec3_leaves _ f s _ h
theorem execFrnd_leaves (f : RegW) (s : State) (h : Q s.kept) : Out.Leaves Q (execFrnd f s) := vec1_leaves _ f s _ h
theorem execHadd2_leaves (f : RegW) (s : State) (h : Q s.kept) : Out.Leaves Q (execHadd2 f s) := packed_leaves _ f s _ h
theorem execHmul2_leaves (f : RegW) (s : State) (h : Q s.kept) : Out.Leaves Q (execHmul2 f s) := packed_leaves _ f s _ h
theorem execHfma2_leaves (f : RegW) (s : State) (h : Q s.kept) : Out.Leaves Q (execHfma2 f s) := packed_leaves _ f s _ h
theorem execHmin2_leaves (f : RegW) (s : State) (h : Q s.kept) : Out.Leaves Q (execHmin2 f s) := vec2_leaves _ f s _ h
theorem execHmax2_leaves (f : RegW) (s : State) (h : Q s.kept) : Out.Leaves Q (execHmax2 f s) := vec2_leaves _ f s _ h
theorem execDot2_leaves (f : RegW) (s : State) (h : Q s.kept) : Out.Leaves Q (execDot2 f s) := by
  unfold execDot2
  exact vec3_leaves _ f s _ h
theorem execDot4_leaves (f : RegW) (s : State) (h : Q s.kept) : Out.Leaves Q (execDot4 f s) := by
  unfold execDot4
  exact vec3_leaves _ f s _ h
theorem execCvt_leaves (f : RegW) (s : State) (h : Q s.kept) : Out.Leaves Q (execCvt f s) := by
  unfold execCvt
  exact vecCounted_leaves _ f s _ _ h
theorem execPkcv_leaves (f : RegW) (s : State) (h : Q s.kept) : Out.Leaves Q (execPkcv f s) := by
  unfold execPkcv
  exact vecCounted_leaves _ f s _ _ h
theorem execXpcv_leaves (f : RegW) (s : State) (h : Q s.kept) : Out.Leaves Q (execXpcv f s) := by
  unfold execXpcv
  exact vecCounted_leaves _ f s _ _ h
theorem execScext_leaves (f : RegW) (s : State) (h : Q s.kept) : Out.Leaves Q (execScext f s) := vec1_leaves _ f s _ h
theorem execScins_leaves (f : RegW) (s : State) (h : Q s.kept) : Out.Leaves Q (execScins f s) := issueResult_leaves h
theorem execQxch_leaves (f : RegW) (s : State) (h : Q s.kept) : Out.Leaves Q (execQxch f s) := issueResult_leaves h
theorem execQbc_leaves (f : RegW) (s : State) (h : Q s.kept) : Out.Leaves Q (execQbc f s) := issueResult_leaves h
theorem execQsum_leaves (f : RegW) (s : State) (h : Q s.kept) : Out.Leaves Q (execQsum f s) := by
  unfold execQsum
  exact issueResult_leaves h
theorem execLshf_leaves (f : RegW) (s : State) (h : Q s.kept) : Out.Leaves Q (execLshf f s) := vecLane_leaves _ f s _ h
theorem execLrot_leaves (f : RegW) (s : State) (h : Q s.kept) : Out.Leaves Q (execLrot f s) := vecLane_leaves _ f s _ h
theorem execLbc_leaves (f : RegW) (s : State) (h : Q s.kept) : Out.Leaves Q (execLbc f s) := vecLane_leaves _ f s _ h
theorem execLidx_leaves (f : RegW) (s : State) (h : Q s.kept) : Out.Leaves Q (execLidx f s) := issueResult_leaves h
theorem execWscan_leaves (f : RegW) (s : State) (h : Q s.kept) : Out.Leaves Q (execWscan f s) := by
  unfold execWscan
  exact issueResult_leaves h
theorem execWred_leaves (f : RegW) (s : State) (h : Q s.kept) : Out.Leaves Q (execWred f s) :=
  issue_leaves h fun e h => by simp [h]
theorem execRnds_leaves (f : RegW) (s : State) (h : Q s.kept) : Out.Leaves Q (execRnds f s) :=
  issueReg_leaves h fun e h => by simp [h]
theorem execRnd_leaves (f : RegW) (s : State) (h : Q s.kept) : Out.Leaves Q (execRnd f s) :=
  issueReg_leaves h fun e h => by simp [h]
@[simp] theorem Env.drainCheck_kept (e : Env) (lit : Word) (ba : Nat) (store rmw : Bool) (s : State) (o : Int) (n align : Nat) :
    (e.drainCheck lit ba store rmw s o n align).2.kept = s.kept := by
  unfold Env.drainCheck; dsimp only; split
  · refine State.snd_kept_if rfl ?_
    split <;> rfl
  · split
    · refine State.snd_kept_if ?_ ?_ <;> exact Env.kept_of_checkGlobal ‹_›
    · exact Env.kept_of_checkGlobal ‹_›
    · exact Env.kept_of_checkGlobal ‹_›
theorem Env.kept_of_drainCheck {e : Env} {lit : Word} {ba : Nat} {store rmw : Bool} {s t : State} {o : Int} {n align : Nat} {x : LaneRes (Place ×
    Nat)}
    (h : e.drainCheck lit ba store rmw s o n align = (x, t)) : t.kept = s.kept := by
  rw [← e.drainCheck_kept lit ba store rmw s o n align, h]
theorem Env.drainGo_leaves {e : Env} {s : State} {op : Nat} {f : DrnW} {tile : Option Nat} {mask : Mask} {tgt : Nat} {es : List DElem}
    {adv : State → State} {wr : List (Nat × Word) → State → State} (h : Q s.kept) (ha : ∀ t, (adv t).kept = t.kept)
    (hw : ∀ x t, (wr x t).kept = t.kept) : (e.drainGo s op f tile mask tgt es adv wr).Leaves Q := by
  unfold Env.drainGo; dsimp only; split
  · exact Env.journal_leaves h (by simp [ha, hw]) (by simp [ha])
  · simpa [ha] using h
@[simp] theorem Env.tileCheck_kept (e : Env) (op : Nat) (f : DrnW) (s : State) (i : Nat) : (e.tileCheck op f s i).2.kept = s.kept := by
  unfold Env.tileCheck; dsimp only
  refine State.snd_kept_if rfl ?_
  split
  case h_1 hq =>
    rw [← Env.kept_of_drainCheck hq]
    refine State.snd_kept_if rfl ?_
    split <;> exact Env.kept_of_drainCheck ‹_›
  all_goals exact Env.kept_of_drainCheck ‹_›
@[simp] theorem Env.tileAdvance_kept (e : Env) (op : Nat) (f : DrnW) (n : Nat) (s : State) : (e.tileAdvance op f n s).kept = s.kept := by
  unfold Env.tileAdvance; simp
@[simp] theorem Env.drainTile_leaves (e : Env) (op : Nat) (f : DrnW) (h : Q e.s.kept) : (e.drainTile op f).Leaves Q := by
  refine Env.slotted_leaves h ?_
  refine Act.leaves_if trivial (Act.leaves_if trivial (Env.itemsChecked_leaves h (by simp) fun rs t ht => ?_))
  exact Act.leaves_if trivial (Env.drainGo_leaves ht (by simp) (by simp))
@[simp] theorem Env.dst_leaves (e : Env) (f : DrnW) (h : Q e.s.kept) : (e.dst f).Leaves Q := by
  unfold Env.dst; simp [h]
@[simp] theorem Env.dsta_leaves (e : Env) (f : DrnW) (h : Q e.s.kept) : (e.dsta f).Leaves Q := by
  unfold Env.dsta; simp [h]
@[simp] theorem Env.dstm_leaves (e : Env) (f : DrnW) (h : Q e.s.kept) : (e.dstm f).Leaves Q := by
  unfold Env.dstm; simp [h]
@[simp] theorem Env.laneCheck_kept (e : Env) (op : Nat) (f : DrnW) (n : Nat) (s : State) (L : Nat) : (e.laneCheck op f n s L).2.kept = s.kept := by
  unfold Env.laneCheck; simp
@[simp] theorem Env.laneAdvance_kept (e : Env) (op : Nat) (f : DrnW) (x : Nat → Nat × Nat × List NumEvent) (s : State) : (e.laneAdvance op f x
    s).kept = s.kept := by
  unfold Env.laneAdvance; simp
@[simp] theorem Env.drainLanes_leaves (e : Env) (op : Nat) (f : DrnW) (n : Nat) (x : Nat → Nat × Nat × List NumEvent) (h : Q e.s.kept) :
    (e.drainLanes op f n x).Leaves Q := by
  refine Env.slotted_leaves h ?_
  refine Act.leaves_if (Act.leaves_if trivial (by simpa using h)) (Act.leaves_if trivial ?_)
  exact Env.itemsChecked_leaves h (by simp) fun rs t ht => Env.drainGo_leaves ht (by simp) (by simp)
@[simp] theorem Env.dstv_leaves (e : Env) (f : DrnW) (h : Q e.s.kept) : (e.dstv f).Leaves Q := by
  unfold Env.dstv; simp [h]
@[simp] theorem Env.atom_leaves (e : Env) (f : DrnW) (h : Q e.s.kept) : (e.atom f).Leaves Q := by
  unfold Env.atom; simp [h]
@[simp] theorem Env.atomc_leaves (e : Env) (f : DrnW) (h : Q e.s.kept) : (e.atomc f).Leaves Q := by
  unfold Env.atomc; simp [h]
@[simp] theorem Env.red_leaves (e : Env) (f : DrnW) (h : Q e.s.kept) : (e.red f).Leaves Q := by
  unfold Env.red; simp [h]
@[simp] theorem Env.dfence_leaves (e : Env) (f : DrnW) (h : Q e.s.kept) : (e.dfence f).Leaves Q :=
  Env.slotted_leaves h (Act.leaves_if trivial (by simpa using h))
theorem issueDrn_leaves {i : Instr} {op : Nat} {f : DrnW} {s : State} {act : Env → Act} (h : Q s.kept) (ha : ∀ e, Q e.s.kept → (act e).Leaves Q) :
    Out.Leaves Q (issueDrn i op f s act) := issueWord_leaves h ha
theorem execDst_leaves (f : DrnW) (s : State) (h : Q s.kept) : Out.Leaves Q (execDst f s) :=
  issueWord_leaves h fun e h => by simp [h]
theorem execDsta_leaves (f : DrnW) (s : State) (h : Q s.kept) : Out.Leaves Q (execDsta f s) :=
  issueWord_leaves h fun e h => by simp [h]
theorem execDstm_leaves (f : DrnW) (s : State) (h : Q s.kept) : Out.Leaves Q (execDstm f s) :=
  issueWord_leaves h fun e h => by simp [h]
theorem execDstv_leaves (f : DrnW) (s : State) (h : Q s.kept) : Out.Leaves Q (execDstv f s) :=
  issueWord_leaves h fun e h => by simp [h]
theorem execAtom_leaves (f : DrnW) (s : State) (h : Q s.kept) : Out.Leaves Q (execAtom f s) :=
  issueWord_leaves h fun e h => by simp [h]
theorem execAtomc_leaves (f : DrnW) (s : State) (h : Q s.kept) : Out.Leaves Q (execAtomc f s) :=
  issueWord_leaves h fun e h => by simp [h]
theorem execRed_leaves (f : DrnW) (s : State) (h : Q s.kept) : Out.Leaves Q (execRed f s) :=
  issueWord_leaves h fun e h => by simp [h]
theorem execDfence_leaves (f : DrnW) (s : State) (h : Q s.kept) : Out.Leaves Q (execDfence f s) :=
  issueDrn_leaves h fun e h => Env.dfence_leaves e f h
@[simp] theorem State.drainPass_kept (s : State) (x : Op) (op ord scp : Nat) (pl : Place) : (s.drainPass x op ord scp pl).kept = s.kept := by
  unfold State.drainPass; simp
theorem State.drainTake_leaves (s : State) (x : Op) (secs : List Place) (go : Out) (h : Q s.kept) (hg : Out.Leaves Q go) :
    Out.Leaves Q (s.drainTake x secs go) := by
  have hask : ∀ (l : List Nat) (go : Out), Out.Leaves Q go → Out.Leaves Q (match l.find? fun pa => s.lineRefuses pa (.op x.id) with
      | some pa => .next (s.refuse (.op x.id) pa)
      | none => go) := by
    intro l go hg
    split
    · simp [h]
    · exact hg
  unfold State.drainTake
  refine Out.leaves_if (hask _ _ hg) ?_
  dsimp only
  split
  · exact hg
  · refine hask _ _ ?_
    rw [Out.leaves_next, State.setOp_kept, State.kept_foldl fun _ _ => by simp]
    exact h

/-! ## Words of the task and publish engines -/

theorem Env.uniformOp_leaves {e : Env} {s : State} {d : BitVec 3} {tgt : Word} {dom res : Nat} {go : State → Word × State} (h : Q s.kept)
    (hg : ∀ t, (go t).2.kept = t.kept) : (e.uniformOp s d tgt dom res go).Leaves Q :=
  Env.journal_leaves h (fun _ _ ht => by simpa using ht) fun _ _ ht => by simp [hg, ht]
theorem issueAsy_leaves {i : Instr} {f : AsyW} {s : State} {act : Env → Act} (h : Q s.kept) (ha : ∀ e, Q e.s.kept → (act e).Leaves Q) :
    Out.Leaves Q (issueAsy i f s act) := issueWord_leaves h ha
@[simp] theorem Env.enqNow_kept (e : Env) (h : Word) (ws : List Word) (wafer : Bool) (s : State) : (e.enqNow h ws wafer s).2.kept = s.kept := by
  unfold Env.enqNow; repeat' split
  all_goals simp
theorem State.spawnNow_kept (s : State) (b d : Nat) (ws : List Word) (wafer : Bool) {p} (h : s.spawnNow b d ws wafer = some p) : p.2.kept = s.kept :=
    by
  unfold State.spawnNow at h; dsimp only at h; repeat' split at h
  all_goals simp only [Option.some.injEq, reduceCtorEq] at h
  all_goals subst h; simp
@[simp] theorem State.serveSpawn_kept (s : State) (b w : Nat) : (s.serveSpawn b w).kept = s.kept := by
  unfold State.serveSpawn
  dsimp only
  split
  · split
    · rfl
    · split <;> rename_i hj
      · exact State.journalNow_kept.2 _ hj
      · have hj := State.journalNow_kept.1 _ _ hj
        split <;> rename_i hs
        · exact hj
        · simpa [State.spawnNow_kept _ _ _ _ _ hs] using hj
  · rfl
@[simp] theorem State.serveSpawns_kept (s : State) : s.serveSpawns.kept = s.kept := by
  refine State.kept_foldl (fun s p => State.kept_foldl (fun s w => ?_) _ s) _ s
  split <;> simp
@[simp] theorem Env.changeNow_kept (e : Env) (h : Word) (m : Nat) (inc : Bool) (s : State) : (e.changeNow h m inc s).2.kept = s.kept := by
  unfold Env.changeNow; dsimp only; repeat' split
  all_goals simp
theorem execTwait_leaves (f : AsyW) (s : State) (h : Q s.kept) : Out.Leaves Q (execTwait f s) := by
  refine issueAsy_leaves h fun e h => ?_
  dsimp only
  refine Act.leaves_if h ?_
  split
  · simpa using h
  · refine Act.leaves_if ?_ (Act.leaves_if trivial (Act.leaves_if ?_ ?_)) <;> simp [h]
theorem execTwaitDeadline_leaves (b w : Nat) (s : State) (h : Q s.kept) : Out.Leaves Q (execTwaitDeadline b w s) := by
  unfold execTwaitDeadline; dsimp only; repeat' split
  all_goals simp [h]
theorem execTstat_leaves (f : AsyW) (s : State) (h : Q s.kept) : Out.Leaves Q (execTstat f s) := by
  refine issueAsy_leaves h fun e h => Env.slotted_leaves h ?_
  dsimp only; repeat' split
  all_goals simp [h]
@[simp] theorem State.cancelRun_kept (s : State) (d i : Nat) : (s.cancelRun d i).kept = s.kept := rfl
@[simp] theorem Env.cancelNow_kept (e : Env) (h : Word) (s : State) : (e.cancelNow h s).2.kept = s.kept := by
  unfold Env.cancelNow; dsimp only; repeat' split
  all_goals simp
theorem execTcancel_leaves (f : AsyW) (s : State) (h : Q s.kept) : Out.Leaves Q (execTcancel f s) :=
  issueAsy_leaves h fun _ h => Env.slotted_leaves h (Env.uniformOp_leaves h fun t => by simp)
@[simp] theorem State.rearmNow_kept (at' : Option (Nat × Nat)) (c : Nat) (s : State) : (State.rearmNow at' c s).2.kept = s.kept := by
  unfold State.rearmNow; split
  · rfl
  · split
    · rfl
    · split <;> rename_i hr <;> have hr := State.kept_of_rearm hr <;> simp [hr]
theorem execEnqueueWindowWrite_leaves (d : Nat) (wafer : Bool) (idx : Nat) (r : List Word) (s : State) (h : Q s.kept) :
    Out.Leaves Q (execEnqueueWindowWrite d wafer idx r s) := by
  unfold execEnqueueWindowWrite
  refine Out.leaves_if trivial (Out.leaves_if (by simpa using h) ?_)
  split <;> rename_i hw
  · simpa [State.windowEnq_kept.1 _ _ hw] using h
  · exact State.waiting_leaves _ _ (by rwa [State.windowEnq_kept.2 _ hw])
theorem execEnqdropWrite_leaves (d : Nat) (s : State) (h : Q s.kept) : Out.Leaves Q (execEnqdropWrite d s) := by
  unfold execEnqdropWrite; simp [h]
@[simp] theorem State.updRun_kept (s : State) (d i : Nat) (f : Word × Word → Word × Word) : (s.updRun d i f).kept = s.kept := rfl
@[simp] theorem State.bindRun_kept (s : State) (d i : Nat) : (s.bindRun d i).kept = s.kept := by
  unfold State.bindRun
  rw [State.settleGroups_kept, State.kept_foldl fun _ _ => by simp]
  simp
@[simp] theorem State.supersede_kept (s : State) (d i : Nat) (evpc : Word) : (s.supersede d i evpc).kept = s.kept := rfl
theorem execSupersedeEvent_leaves (b w : Nat) (s : State) (h : Q s.kept) : Out.Leaves Q (execSupersedeEvent b w s) := by
  unfold execSupersedeEvent; dsimp only; repeat' split
  all_goals simp [h]
@[simp] theorem State.subPublish_kept (s : State) (d i k : Nat) : (s.subPublish d i k).kept = s.kept := by
  unfold State.subPublish; dsimp only; repeat' split
  all_goals simp
@[simp] theorem State.publish_kept (s : State) (d i : Nat) (final : Bool) : (s.publish d i final).kept = s.kept := by
  unfold State.publish; dsimp only
  all_goals simp [State.kept_foldl]
@[simp] theorem State.publishNow_kept (d i : Nat) (final : Bool) (s : State) : (State.publishNow d i final s).2.kept = s.kept := by
  unfold State.publishNow; simp
@[simp] theorem Env.subscribe_kept (e : Env) (s : State) (h r n : Word) (pos : Nat) (ev : Bool) (evpc : Word) : (e.subscribe s h r n pos ev
    evpc).2.kept = s.kept := by
  unfold Env.subscribe; dsimp only; repeat' split
  all_goals simp
theorem execSubs_leaves (f : AsyW) (s : State) (h : Q s.kept) : Out.Leaves Q (execSubs f s) := by
  refine issueAsy_leaves h fun e h => Env.slotted_leaves h ?_
  dsimp only; repeat' split
  all_goals simp [h]
theorem execVerq_leaves (f : AsyW) (s : State) (h : Q s.kept) : Out.Leaves Q (execVerq f s) := by
  refine issueAsy_leaves h fun e h => Env.slotted_leaves h ?_
  dsimp only; repeat' split
  all_goals simp [h]
theorem execRstop_leaves (f : AsyW) (s : State) (h : Q s.kept) : Out.Leaves Q (execRstop f s) := by
  refine issueAsy_leaves h fun e h => Env.slotted_leaves h ?_
  dsimp only
  split
  · exact Env.quick_leaves _ _ _ _ _ h
  · exact Env.quick_leaves _ _ _ _ _ (by simpa using h)
theorem execSsack_leaves (f : AsyW) (s : State) (h : Q s.kept) : Out.Leaves Q (execSsack f s) := by
  refine issueAsy_leaves h fun e h => Env.slotted_leaves h ?_
  dsimp only; repeat' split
  all_goals simp [h]
@[simp] theorem Env.grpNew_kept (e : Env) (m d i : Nat) (x : Word) (s : State) : (e.grpNew m d i x s).2.kept = s.kept := by
  unfold Env.grpNew; repeat' split
  all_goals simp
@[simp] theorem Env.grpAdd_kept (e : Env) (d i : Nat) (x : Word) (s : State) : (e.grpAdd d i x s).2.kept = s.kept := by
  unfold Env.grpAdd; repeat' split
  all_goals simp
@[simp] theorem State.grpArm_kept (d i : Nat) (s : State) : (State.grpArm d i s).2.kept = s.kept := by
  unfold State.grpArm; dsimp only; repeat' split
  all_goals simp
@[simp] theorem State.grpFree_kept (d i : Nat) (s : State) : (State.grpFree d i s).2.kept = s.kept := by
  unfold State.grpFree; dsimp only; repeat' split
  all_goals simp [State.kept_foldl]
theorem Env.grpset_leaves {e : Env} {f : AsyW} {go : Nat → Nat → Word → State → Word × State} (h : Q e.s.kept)
    (hg : ∀ d i x t, (go d i x t).2.kept = t.kept) : (e.grpset f go).Leaves Q := by
  refine Env.slotted_leaves h (Env.quick_leaves _ _ _ _ _ ?_)
  split
  · exact h
  · rwa [hg]
theorem execGrpsetNew_leaves (f : AsyW) (s : State) (h : Q s.kept) : Out.Leaves Q (execGrpsetNew f s) :=
  issueAsy_leaves h fun _ h => Env.grpset_leaves h fun _ _ _ _ => by simp
theorem execGrpsetAdd_leaves (f : AsyW) (s : State) (h : Q s.kept) : Out.Leaves Q (execGrpsetAdd f s) :=
  issueAsy_leaves h fun _ h => Env.grpset_leaves h fun _ _ _ _ => by simp
theorem execGrpsetArm_leaves (f : AsyW) (s : State) (h : Q s.kept) : Out.Leaves Q (execGrpsetArm f s) :=
  issueAsy_leaves h fun _ h => Env.grpset_leaves h fun _ _ _ _ => by simp
theorem execGrpsetFree_leaves (f : AsyW) (s : State) (h : Q s.kept) : Out.Leaves Q (execGrpsetFree f s) :=
  issueAsy_leaves h fun _ h => Env.grpset_leaves h fun _ _ _ _ => by simp
theorem execShmapFree_leaves (f : AsyW) (s : State) (h : Q s.kept) : Out.Leaves Q (execShmapFree f s) := by
  refine issueAsy_leaves h fun e h => Env.slotted_leaves h ?_
  dsimp only
  split
  · exact Env.quick_leaves _ _ _ _ _ h
  · refine Act.leaves_if (Env.quick_leaves _ _ _ _ _ h) (Act.leaves_if (Env.quick_leaves _ _ _ _ _ h) (Act.leaves_if trivial ?_))
    exact Env.quick_leaves _ _ _ _ _ (by simpa using h)

/-! ## Sequencers -/

@[simp] theorem State.seqRelease_kept (s : State) (d a : Nat) : (s.seqRelease d a).kept = s.kept := by
  unfold State.seqRelease; split
  · rfl
  · dsimp only
    rw [State.kept_foldl]
    · simp
    · intro s w; split <;> simp
@[simp] theorem State.seqPromote_kept (s : State) (d : Nat) (id : Word) : (s.seqPromote d id).kept = s.kept := by
  unfold State.seqPromote; split <;> simp
@[simp] theorem State.seqEnter_kept (s : State) (d a i : Nat) : (s.seqEnter d a i).kept = s.kept := by
  unfold State.seqEnter; simp
@[simp] theorem State.seqAwait_kept (s : State) (d a : Nat) (is : List Nat) : (s.seqAwait d a is).kept = s.kept := by
  unfold State.seqAwait; split <;> simp
theorem execSeqTransition_leaves (d a : Nat) (s : State) (h : Q s.kept) : Out.Leaves Q (execSeqTransition d a s) := by
  unfold execSeqTransition; simp [h]
theorem execSeqTimeout_leaves (d a : Nat) (s : State) (h : Q s.kept) : Out.Leaves Q (execSeqTimeout d a s) := by
  unfold execSeqTimeout; simp [h]
@[simp] theorem Env.replayQuartet_leaves (e : Env) (q : Nat) (op : Nat) (f : MtxW) (h : Q e.s.kept) : (e.replayQuartet q op f).Leaves Q := by
  unfold Env.replayQuartet; dsimp only; repeat' split
  all_goals simp [h]
theorem issueSys_leaves {i : Instr} {f : SysW} {s : State} {act : Env → Act} (h : Q s.kept) (ha : ∀ e, Q e.s.kept → (act e).Leaves Q) :
    Out.Leaves Q (issueSys i f s act) := issueWord_leaves h fun _ h => Env.slotted_leaves h (ha _ h)
/-- The state a read of a table ends in holds what `Q` asks. -/
def TableRes.Leaves (Q : Kept → Prop) : TableRes → Prop
  | .ok _ t | .bad _ _ t | .wait t | .refused _ t => Q t.kept
theorem Env.readTable_leaves {e : Env} {n va : Nat} {s : State} (h : Q s.kept) : (e.readTable n va s).Leaves Q := by
  induction n generalizing va s with
  | zero => exact h
  | succ n ih =>
    unfold Env.readTable
    split <;> rename_i hc <;> have hc := Env.kept_of_checkGlobal hc
    · exact (hc ▸ h :)
    · exact (hc ▸ h :)
    · split
      · exact (hc ▸ h :)
      · exact (hc ▸ h :)
      · rename_i hr
        have ht := @ih ((va + 64) % 2 ^ 80) _ (State.kept_of_readNear hr ▸ hc ▸ h :)
        split
        · rename_i hn; rw [hn] at ht; exact ht
        · exact ht
theorem execSeqld_leaves (f : SysW) (s : State) (h : Q s.kept) : Out.Leaves Q (execSeqld f s) := by
  refine issueSys_leaves h fun e h => ?_
  dsimp only
  have ht := @Env.readTable_leaves Q e (e.sreg f.s.toNat).toNat (e.breg f.ba.toNat).toNat e.s h
  refine Act.leaves_if trivial (Act.leaves_if trivial ?_)
  split <;> rename_i hr <;> rw [hr] at ht <;> change Q _ at ht
  · exact ht
  · exact Env.stay_leaves _ _ ht
  · exact Env.stay_leaves _ _ (by simpa using ht)
  · refine Act.leaves_if (Env.quick_leaves _ _ _ _ _ ht) (Act.leaves_if (Env.quick_leaves _ _ _ _ _ ht) ?_)
    split
    · simpa using ht
    · exact Env.quick_leaves _ _ _ _ _ (by simpa using ht)
theorem Env.asHolder_leaves {e : Env} {d : BitVec 3} {res : Option Nat} {k : Seq → Act} (h : Q e.s.kept) (hk : ∀ q, (k q).Leaves Q) :
    (e.asHolder d res k).Leaves Q := Act.leaves_if (hk _) (Env.quick_leaves _ _ _ _ _ h)
theorem execSeqgo_leaves (f : SysW) (s : State) (h : Q s.kept) : Out.Leaves Q (execSeqgo f s) := by
  refine issueSys_leaves h fun e h => Act.leaves_if trivial (Env.asHolder_leaves h fun q => ?_)
  have ha : ∀ res, (e.quick e.s f.d res).Leaves Q := fun _ => Env.quick_leaves _ _ _ _ _ h
  dsimp only
  exact Act.leaves_if (ha _) (Act.leaves_if (ha _) (Act.leaves_if (ha _) (Act.leaves_if (ha _) (Act.leaves_if (ha _)
    (Env.quick_leaves _ _ _ _ _ (by simpa using h))))))
theorem execSeqstop_leaves (f : SysW) (s : State) (h : Q s.kept) : Out.Leaves Q (execSeqstop f s) :=
  issueSys_leaves h fun _ h => Env.asHolder_leaves h fun _ => by simp [h]
theorem Env.signal_leaves {e : Env} {k : State → Act} (h : Q e.s.kept) (hk : ∀ s, Q s.kept → (k s).Leaves Q) : (e.signal k).Leaves Q :=
  Act.leaves_if trivial (hk _ (by simpa using h))
theorem execQset_leaves (f : SysW) (s : State) (h : Q s.kept) : Out.Leaves Q (execQset f s) :=
  issueSys_leaves h fun _ h => Env.asHolder_leaves h fun _ => Env.signal_leaves h fun _ h => Env.quick_leaves _ _ _ _ _ (by simpa using h)
theorem execQdec_leaves (f : SysW) (s : State) (h : Q s.kept) : Out.Leaves Q (execQdec f s) :=
  issueSys_leaves h fun _ h => Env.asHolder_leaves h fun _ => Env.signal_leaves h fun _ h => Env.quick_leaves _ _ _ _ _ (by simpa using h)
theorem execSeqsig_leaves (f : SysW) (s : State) (h : Q s.kept) : Out.Leaves Q (execSeqsig f s) :=
  issueSys_leaves h fun _ h => Env.asHolder_leaves h fun _ => Env.signal_leaves h fun _ h => Env.quick_leaves _ _ _ _ _ (by simpa using h)
theorem execQwait_leaves (f : SysW) (s : State) (h : Q s.kept) : Out.Leaves Q (execQwait f s) :=
  issueWord_leaves h fun e h => by simp [h]
theorem execSeqq_leaves (f : SysW) (s : State) (h : Q s.kept) : Out.Leaves Q (execSeqq f s) :=
  issueSys_leaves h fun e h => Env.quick_leaves _ _ _ _ _ (by rw [State.kept_ite, State.updSeq_kept, ite_self]; exact h)
@[simp] theorem State.claimRec_kept (s : State) (b d a : Nat) (r : CopyRec) : (s.claimRec b d a r).kept = s.kept := by
  unfold State.claimRec; simp
@[simp] theorem State.reissueFail_kept (s : State) (b d a key : Nat) (r : CopyRec) : (s.reissueFail b d a key r).kept = s.kept := by
  unfold State.reissueFail; simp
@[simp] theorem State.reissueGo_kept (s : State) (b d a key : Nat) (r : CopyRec) (k : OpK) : (s.reissueGo b d a key r k).kept = s.kept := rfl
theorem State.reissue_kept (s : State) (b d a key : Nat) (r : CopyRec) {t : State} (h : s.reissue b d a key r = some t) : t.kept = s.kept := by
  unfold State.reissue at h
  extract_lets shd obj r tierGo plan at h
  have htier : ∀ s i segs, (tierGo s i segs).kept = s.kept := by
    intro s i segs; dsimp only [tierGo]; split <;> simp
  have hplan : ∀ {go : List Seg → List Piece → State → State} {t : State}, plan go = some t → (∀ x y u, (go x y u).kept = u.kept) → t.kept = s.kept
      := by
    intro go t ht hg
    have hp := @State.copyPlan_leaves (· = s.kept) s { bid := b, d := d, a := a, asid := (s.block b).asid, blk := true } r rfl
    dsimp only [plan] at ht
    split at ht <;> rename_i hq <;> rw [hq] at hp <;> cases ht
    · simp
    · simp
    · simpa using hp
    · rw [hg]; exact hp
  clear_value plan tierGo obj r
  split at h
  · split at h
    · cases h; simp
    · split at h
      · cases h; exact htier _ _ _
      · exact hplan h fun _ _ _ => htier _ _ _
  · exact hplan h fun _ _ _ => by split <;> simp
@[simp] theorem State.claimAll_kept (s : State) (b d a : Nat) : (s.claimAll b d a).kept = s.kept := by
  unfold State.claimAll; exact State.kept_foldl (fun _ _ => by simp) _ _
/-- What every step of a fold that may fail leaves alone, the whole fold leaves alone. -/
theorem kept_of_foldlBind {β : Type} {f : State → β → Option State} (hf : ∀ s x t, f s x = some t → t.kept = s.kept) {l : List β} {s t : State}
    (h : l.foldl (fun (s : Option State) x => s.bind fun s => f s x) (some s) = some t) : t.kept = s.kept := by
  induction l generalizing s with
  | nil => cases h; rfl
  | cons x l ih =>
    rw [List.foldl_cons, Option.bind_some] at h
    cases hx : f s x with
    | none =>
      have hn : ∀ l : List β, l.foldl (fun (s : Option State) x => s.bind fun s => f s x) none = none := fun l => by
        induction l with
        | nil => rfl
        | cons _ _ ih => exact ih
      rw [hx, hn] at h; cases h
    | some u => rw [hx] at h; rw [ih h, hf _ _ _ hx]
theorem State.reissueAll_kept (s : State) (b d a : Nat) {t : State} (h : s.reissueAll b d a = some t) : t.kept = s.kept :=
  kept_of_foldlBind (f := fun (s : State) (p : Nat × CopyRec) => s.reissue b d a p.1 p.2) (fun _ _ _ hx => State.reissue_kept _ _ _ _ _ _ hx) h

@[simp] theorem State.repartition_kept (s : State) (d part a : Nat) : (s.repartition d part a).kept = s.kept := by
  unfold State.repartition; exact State.kept_foldl (fun _ _ => by simp) _ _
@[simp] theorem State.occupy_kept (s : State) (b d a k : Nat) : (s.occupy b d a k).kept = s.kept := rfl
@[simp] theorem State.keepWins_kept (s : State) (b : Nat) : (s.keepWins b).kept = s.kept := by
  unfold State.keepWins; split <;> simp
@[simp] theorem State.startBlock_kept (s : State) (ws : List Word) (rd ri qd qi lin d a : Nat) : (s.startBlock ws rd ri qd qi lin d a).kept = s.kept
    := rfl
@[simp] theorem State.moveFrame_kept (s : State) (d i img : Nat) : (s.moveFrame d i img).kept = s.kept := rfl
@[simp] theorem State.refillImage_kept (s : State) (d a : Nat) : (s.refillImage d a).kept = s.kept := by
  unfold State.refillImage; split <;> simp
@[simp] theorem State.unpark_kept (s : State) (b : Nat) : (s.unpark b).kept = s.kept := by
  unfold State.unpark; split <;> simp
theorem State.resumeBlock_kept (s : State) (b d a : Nat) {t : State} (h : s.resumeBlock b d a = some t) : t.kept = s.kept := by
  unfold State.resumeBlock at h
  extract_lets x far s1 k s2 s3 s4 at h
  have h4 : s4.kept = s.kept := by simp [s4, s3, s2, s1]
  clear_value s4
  split at h
  · rw [State.reissueAll_kept _ _ _ _ h, h4]
  · cases h; exact h4
@[simp] theorem State.settlePend_kept (s : State) : s.settlePend.kept = s.kept := by
  unfold State.settlePend; exact State.kept_foldl (fun _ _ => by split <;> simp) _ _
@[simp] theorem State.removeBlock_kept (s : State) (b : Nat) : (s.removeBlock b).kept = s.kept := by
  unfold State.removeBlock; dsimp only; repeat' split
  all_goals simp
@[simp] theorem State.exitReport_kept (s : State) (b : Nat) : (s.exitReport b).kept = s.kept := by
  unfold State.exitReport; dsimp only; repeat' split
  all_goals simp [State.kept_foldl]
@[simp] theorem State.endParked_kept (s : State) (b : Nat) : (s.endParked b).kept = s.kept := by
  unfold State.endParked; dsimp only; repeat' split
  all_goals simp
theorem State.resumeUnit_kept (s : State) (u : PUnit) (d : Nat) (as : List Nat) {t : State} (h : s.resumeUnit u d as = some t) : t.kept = s.kept := by
  unfold State.resumeUnit at h
  dsimp only at h
  split at h
  · exact kept_of_foldlBind (f := fun (s : State) (p : Nat × Nat) => s.resumeBlock p.1 d p.2) (fun _ _ _ hx => State.resumeBlock_kept _ _ _ _ hx) h
  · cases h; exact State.kept_foldl (fun _ _ => by simp) _ _
theorem State.placeUnit_kept (s : State) (d i : Nat) (u : PUnit) (as : List Nat) {t : State} (h : s.placeUnit d i u as = some t) : t.kept = s.kept :=
    by
  unfold State.placeUnit at h
  extract_lets r s1 run wide first s2 s3 s4 next s5 at h
  have h1 : s1.kept = s.kept := State.kept_foldl (fun _ _ => by split <;> simp) _ _
  have h4 : s4.kept = s3.kept := by
    rw [State.acquireWide_kept]; exact State.kept_foldl (fun _ _ => by simp) _ _
  have h5 : s5.kept = s.kept := by simp [s5, h4, s3, s2, h1]
  clear_value s5 s1
  split at h
  · rw [State.resumeUnit_kept _ _ _ _ h, h1]
  · split at h <;> cases h
    · exact h5
    · simpa using h5
theorem State.markOne_kept (s : State) (d i : Nat) (u : PUnit) {t : State} (h : s.markOne d i u = some t) : t.kept = s.kept := by
  unfold State.markOne at h
  obtain ⟨a, -, rfl⟩ := Option.map_eq_some_iff.mp h
  simp
@[simp] theorem State.trimMarks_kept (s : State) (d i n : Nat) : (s.trimMarks d i n).kept = s.kept := by
  unfold State.trimMarks; exact State.kept_foldl (fun _ _ => by simp) _ _
@[simp] theorem State.markUp_kept (s : State) (d i : Nat) (u : PUnit) (n : Nat) : (s.markUp d i u n).kept = s.kept := by
  refine State.kept_foldl (fun s _ => ?_) _ s
  cases hm : s.markOne d i u with
  | none => rfl
  | some t => exact State.markOne_kept _ _ _ _ hm
@[simp] theorem State.settleMark_kept (s : State) (d a : Nat) : (s.settleMark d a).kept = s.kept := by
  unfold State.settleMark; repeat' split
  all_goals simp
@[simp] theorem State.split_kept (s : State) (d i : Nat) : (s.split d i).kept = s.kept := rfl
@[simp] theorem State.unmarkPlaced_kept (s : State) (d i n : Nat) : (s.unmarkPlaced d i n).kept = s.kept := by
  unfold State.unmarkPlaced; simp
theorem State.serveQueue_kept {d : Nat} {is : List Nat} {s t : State} (h : State.serveQueue d is s = some t) : t.kept = s.kept := by
  induction is with
  | nil => cases h
  | cons i is ih =>
    unfold State.serveQueue at h
    dsimp only at h
    split at h
    · cases h; simp
    · split at h
      · cases h; simp
      · split at h <;> rename_i hp
        · cases h
          obtain ⟨as, -, hp⟩ := Option.bind_eq_some_iff.mp hp
          rw [State.unmarkPlaced_kept, State.placeUnit_kept _ _ _ _ _ hp]
        · exact ih h
@[simp] theorem State.serveWaiting_kept (d : Nat) (is : List Nat) (s : State) : (State.serveWaiting d is s).kept = s.kept := by
  induction is generalizing s with
  | nil => rfl
  | cons i is ih =>
    unfold State.serveWaiting
    split
    · exact ih s
    · split <;> rename_i hp
      · obtain ⟨as, -, hp⟩ := Option.bind_eq_some_iff.mp hp
        rw [State.unmarkPlaced_kept, State.placeUnit_kept _ _ _ _ _ hp]
      · rw [ih]; simp
theorem execDispatchPlacement_leaves (d : Nat) (s : State) (h : Q s.kept) : Out.Leaves Q (execDispatchPlacement d s) := by
  unfold execDispatchPlacement
  extract_lets t u
  have ht : t.kept = s.kept := by
    refine State.kept_foldl (fun s a => ?_) _ s
    repeat' split
    all_goals simp
  refine Out.leaves_if trivial ?_
  clear_value t
  split <;> rename_i hs
  · simpa [State.serveQueue_kept hs, ht] using h
  · refine Out.leaves_if ?_ trivial
    simpa [u, ht] using h
theorem execRangeRecordArrival_leaves (n : Nat) (s : State) (h : Q s.kept) : Out.Leaves Q (execRangeRecordArrival n s) := by
  unfold execRangeRecordArrival; dsimp only; repeat' split
  all_goals simp [h]
theorem State.takeImage_kept (s : State) (d a : Nat) {p} (h : s.takeImage d a = some p) : p.2.kept = s.kept := by
  unfold State.takeImage at h; repeat' split at h
  all_goals simp only [Option.some.injEq, reduceCtorEq] at h
  all_goals subst h; simp
@[simp] theorem State.flushSlot_kept (s : State) (d a k : Nat) : (s.flushSlot d a k).kept = s.kept := by
  unfold State.flushSlot; exact State.kept_foldl (fun _ _ => by simp) _ _
theorem State.parkBlock_kept (s : State) (ready : Bool) (b : Nat) {t : State} (h : s.parkBlock ready b = some t) : t.kept = s.kept := by
  unfold State.parkBlock at h
  dsimp only at h
  split at h
  · cases h
  · split at h <;> rename_i hi _
    · cases h
      rw [State.settlePend_kept, ← State.takeImage_kept _ _ _ hi]
      repeat' split
      all_goals simp
    · cases h
theorem State.parkAll_kept {s t : State} {ready : Bool} {bs : List Nat} (h : s.parkAll ready bs = some t) : t.kept = s.kept := by
  induction bs generalizing s with
  | nil => cases h; rfl
  | cons b bs ih =>
    obtain ⟨u, hu, h⟩ := Option.bind_eq_some_iff.mp h
    rw [ih h, State.parkBlock_kept _ _ _ hu]
@[simp] theorem State.wakePark_kept (s : State) (d i b : Nat) : (s.wakePark d i b).kept = s.kept := by
  unfold State.wakePark; exact State.kept_foldl (fun _ _ => by split <;> simp) _ _
theorem execEviction_leaves (b : Nat) (s : State) (h : Q s.kept) : Out.Leaves Q (execEviction b s) := by
  unfold execEviction
  dsimp only
  refine Out.leaves_if trivial (Out.leaves_if (Out.leaves_if ?_ trivial) (Out.leaves_if ?_ trivial))
  · rw [Out.leaves_next, State.kept_foldl fun _ _ => by simp]; exact h
  · split <;> rename_i hp
    · rw [Out.leaves_next, State.kept_foldl, State.parkAll_kept hp]
      · exact h
      · intro s m; repeat' split
        all_goals simp
    · trivial
theorem execParkRecordWake_leaves (d idx : Nat) (s : State) (h : Q s.kept) : Out.Leaves Q (execParkRecordWake d idx s) := by
  unfold execParkRecordWake; repeat' split
  all_goals simp [h]

/-! ## Persistence, cores that fail and resume -/

@[simp] theorem State.updUmbra_kept (s : State) (d a : Nat) (f : Umbra → Umbra) : (s.updUmbra d a f).kept = s.kept := rfl
theorem execPeriodicCut_leaves (d a : Nat) (s : State) (h : Q s.kept) : Out.Leaves Q (execPeriodicCut d a s) := by
  unfold execPeriodicCut; simp [h]
theorem execCutInstant_leaves (d a : Nat) (s : State) (h : Q s.kept) : Out.Leaves Q (execCutInstant d a s) := by
  unfold execCutInstant
  refine Out.leaves_if trivial ?_
  extract_lets which old pf arm now cut blocks img bank t
  have ht : t.kept = s.kept := State.kept_foldl (fun s r => by split <;> simp) _ s
  clear_value t
  rw [Out.leaves_next, State.updUmbra_kept]
  exact (ht ▸ h :)
@[simp] theorem State.coreWriteBack_kept (s : State) (d a : Nat) : (s.coreWriteBack d a).kept = s.kept := by
  unfold State.coreWriteBack; exact State.kept_foldl (fun _ _ => by simp) _ _
@[simp] theorem State.sealed_kept (s : State) (d a : Nat) : (s.sealed d a).kept = s.kept := by
  unfold State.sealed; simp
theorem execJournalAck_leaves (d a i : Nat) (s : State) (h : Q s.kept) : Out.Leaves Q (execJournalAck d a i s) := by
  unfold execJournalAck; repeat' split
  all_goals simp [h]
@[simp] theorem Env.awaitSeal_leaves (e : Env) (d : BitVec 3) (dom : Bool) (res : List (Nat × Word)) (h : Q e.s.kept) : (e.awaitSeal d dom
    res).Leaves Q := by
  unfold Env.awaitSeal; simp [h]
theorem execPfence_leaves (f : SysW) (s : State) (h : Q s.kept) : Out.Leaves Q (execPfence f s) := by
  refine issueSys_leaves h fun e h => ?_
  simp [h]
theorem execChks_leaves (f : SysW) (s : State) (h : Q s.kept) : Out.Leaves Q (execChks f s) := by
  refine issueSys_leaves h fun e h => ?_
  simp [h]
theorem execUmq_leaves (f : SysW) (s : State) (h : Q s.kept) : Out.Leaves Q (execUmq f s) := by
  refine issueSys_leaves h fun e h => ?_
  simp [h]
theorem execUmset_leaves (f : SysW) (s : State) (h : Q s.kept) : Out.Leaves Q (execUmset f s) :=
  issueSys_leaves h fun _ h => Act.leaves_if trivial (Env.quick_leaves _ _ _ _ _ (by simpa using h))
@[simp] theorem State.dropCoreOps_kept (s : State) (d a : Nat) : (s.dropCoreOps d a).kept = s.kept := by
  unfold State.dropCoreOps; exact State.kept_foldl (fun _ _ => by simp) _ _
@[simp] theorem State.coreEmptyL1_kept (s : State) (d a : Nat) : (s.coreEmptyL1 d a).kept = s.kept := by
  unfold State.coreEmptyL1; simp
@[simp] theorem State.coreFail_kept (s : State) (d a : Nat) (finish : Bool) : (s.coreFail d a finish).kept = s.kept := by
  unfold State.coreFail; simp
theorem execComputeIslandPowerFail_leaves (d : Nat) (finish : List Nat) (s : State) (h : Q s.kept) :
    Out.Leaves Q (execComputeIslandPowerFail d finish s) := by
  unfold execComputeIslandPowerFail
  refine Out.leaves_if trivial (Out.leaves_if trivial ?_)
  extract_lets t u
  have hu : u.kept = s.kept := by
    rw [State.updDom_kept]; exact State.kept_foldl (fun _ _ => by simp) _ s
  clear_value u
  exact (hu ▸ h :)
@[simp] theorem State.wakeRestored_kept (s : State) (b : Nat) : (s.wakeRestored b).kept = s.kept := by
  unfold State.wakeRestored
  refine State.kept_foldl (fun _ _ => ?_) _ _
  dsimp only; repeat' split
  all_goals simp
@[simp] theorem State.settlePin_kept (s : State) (d a : Nat) (q : Seq) : (s.settlePin d a q).kept = s.kept := by
  unfold State.settlePin; dsimp only; repeat' split
  all_goals simp
@[simp] theorem State.resumeEmpty_kept (s : State) (d a : Nat) : (s.resumeEmpty d a).kept = s.kept := by
  unfold State.resumeEmpty; dsimp only
  all_goals simp [State.kept_foldl]
theorem State.resumeFrom_kept (s : State) (d a : Nat) (w : Bool) (m : Image) {t : State} (h : s.resumeFrom d a w m = some t) : t.kept = s.kept := by
  unfold State.resumeFrom at h
  extract_lets u k other r0 r held bs back s1 keepSeq parked s2 q s3 s4 s5 at h
  have h1 : s1.kept = s.kept := State.kept_foldl (fun _ _ => by simp) _ s
  have h4 : s4.kept = s.kept := by
    rw [show s4.kept = s3.kept from State.kept_foldl (fun _ _ => by simp) _ _, State.settlePin_kept, State.updCore_kept, h1]
  clear_value s4
  have h5 : ∀ v, s5 = some v → v.kept = s.kept := by
    intro v hv
    dsimp only [s5] at hv
    split at hv
    · rw [kept_of_foldlBind (f := fun (s : State) b => s.reissueAll b d a) (fun _ _ _ hx => State.reissueAll_kept _ _ _ _ hx) hv, h4]
    · cases hv
      rw [State.kept_foldl fun _ _ => by simp, h4]
  obtain ⟨v, hv, rfl⟩ := Option.map_eq_some_iff.mp h
  rw [State.qwaitServe_kept, State.kept_foldl fun _ _ => by simp, h5 v hv]
@[simp] theorem State.readBanks_kept (s : State) (d a : Nat) : (s.readBanks d a).kept = s.kept := by
  unfold State.readBanks; dsimp only; repeat' split
  all_goals simp
theorem State.settleCore_kept (s : State) (d a : Nat) {t : State} (h : s.settleCore d a = some t) : t.kept = s.kept := by
  unfold State.settleCore at h
  extract_lets s1 u at h
  have h1 : s1.kept = s.kept := s.readBanks_kept d a
  clear_value s1
  split at h
  · cases h; simpa using h1
  · obtain ⟨v, hv, h⟩ := Option.bind_eq_some_iff.mp h
    have hv := (State.resumeFrom_kept _ _ _ _ _ hv).trans h1
    dsimp only at h
    split at h
    · cases h; exact hv
    · split at h
      · cases h
      · rw [State.parkAll_kept h, hv]
theorem execCoreResume_leaves (d a : Nat) (s : State) (h : Q s.kept) : Out.Leaves Q (execCoreResume d a s) := by
  unfold execCoreResume
  refine Out.leaves_if trivial ?_
  split <;> rename_i hs
  · rw [Out.leaves_next, State.settleCore_kept _ _ _ hs]; exact h
  · trivial
theorem State.moveCore_kept (s : State) (d a : Nat) {t : State} (h : s.moveCore d a = some t) : t.kept = s.kept := by
  rw [State.settleCore_kept _ _ _ h]; simp
theorem execBankSeal_leaves (d a : Nat) (s : State) (h : Q s.kept) : Out.Leaves Q (execBankSeal d a s) := by
  unfold execBankSeal
  refine Out.leaves_if trivial (Out.leaves_if (by simpa using h) ?_)
  split <;> rename_i hs
  · rw [Out.leaves_next, State.moveCore_kept _ _ _ hs, State.sealed_kept]; exact h
  · trivial

/-! ## Messages of the fabric -/

@[simp] theorem Env.sendMsg_leaves (e : Env) (s : State) (f : SysW) (dev tgt : Nat) (rel : Bool) (srcs : List Nat) (body : FabBody)
    (h : Q s.kept) : (e.sendMsg s f dev tgt rel srcs body).Leaves Q := by
  refine Act.leaves_if (Env.quick_leaves _ _ _ _ _ h) (Env.journal_leaves h (fun _ _ ht => by simpa using ht) fun _ _ ht => Act.leaves_if ?_ ?_)
  · exact Env.quick_leaves _ _ _ _ _ (by simpa using ht)
  · rw [Act.leaves_done, Env.start_kept, State.kept_ite, State.updDom_kept, ite_self]
    exact ht
@[simp] theorem Env.sendSectors_kept (e : Env) (n va : Nat) (s : State) : (e.sendSectors n va s).2.kept = s.kept := by
  induction n generalizing va s with
  | zero => rfl
  | succ n ih =>
    unfold Env.sendSectors
    split <;> rename_i ht <;> have ht := Env.kept_of_translate ht
    · exact ht
    · exact ht
    · split
      · exact ht
      · split
        · rename_i hn
          exact ((congrArg (fun p => p.2.kept) hn).symm.trans (ih _ _)).trans ht
        · rw [ih, ht]
theorem Env.kept_of_sendSectors {e : Env} {n va : Nat} {s t : State} {x : Except (Option (Cause × Nat)) (List (Nat × Nat))}
    (h : e.sendSectors n va s = (x, t)) : t.kept = s.kept := by
  rw [← e.sendSectors_kept n va s, h]
theorem execFsend_leaves (f : SysW) (s : State) (h : Q s.kept) : Out.Leaves Q (execFsend f s) := by
  refine issueSys_leaves h fun e h => Act.leaves_if trivial ?_
  split
  · trivial
  · refine Act.leaves_if trivial (Act.leaves_if trivial (Act.leaves_if trivial ?_))
    split <;> rename_i hs <;> have hs := Env.kept_of_sendSectors hs
    · exact (hs ▸ h :)
    · exact Env.stay_leaves _ _ (hs ▸ h :)
    · exact Env.sendMsg_leaves _ _ _ _ _ _ _ _ (hs ▸ h :)
theorem execFsig_leaves (f : SysW) (s : State) (h : Q s.kept) : Out.Leaves Q (execFsig f s) := by
  refine issueSys_leaves h fun e h => ?_
  simp [h]
theorem execFfence_leaves (f : SysW) (s : State) (h : Q s.kept) : Out.Leaves Q (execFfence f s) := by
  refine issueSys_leaves h fun e h => ?_
  simp [h]
@[simp] theorem State.fabEnd_kept (s : State) (t : Nat) (m : FabMsg) (status : Word) : (s.fabEnd t m status).kept = s.kept := by
  unfold State.fabEnd; dsimp only; repeat' split
  all_goals simp
@[simp] theorem State.fabRefuse_kept (s : State) (t : Nat) (m : FabMsg) : (s.fabRefuse t m).kept = s.kept := rfl
@[simp] theorem State.fabDec_kept (s : State) (h : Word) : (s.fabDec h).2.kept = s.kept := by
  unfold State.fabDec; repeat' split
  all_goals simp
theorem State.fabAccept_leaves {s : State} {tbl : Nat} {m : FabMsg} {got : List Nat} {code : Nat} {go : State → Nat → FabIn → Out} (h : Q s.kept)
    (hg : ∀ t d e, Q t.kept → Out.Leaves Q (go t d e)) : Out.Leaves Q (s.fabAccept tbl m got code go) :=
  Out.leaves_if trivial (Out.leaves_if h (Out.leaves_if (by simpa using h) (hg _ _ _ (by simpa using h))))
@[simp] theorem State.fabAcked_kept (s : State) (x : Op) (st : Word) : (s.fabAcked x st).kept = s.kept := rfl
theorem execFabricResend_leaves (o : Nat) (s : State) (h : Q s.kept) : Out.Leaves Q (execFabricResend o s) := by
  unfold execFabricResend; repeat' split
  all_goals simp [h]
@[simp] theorem State.retable_kept (s : State) : s.retable.kept = s.kept := rfl
theorem execAcknowledgementReceiptConfirmed_leaves (d : Nat) (id : FabId) (s : State) (h : Q s.kept) : Out.Leaves Q
    (execAcknowledgementReceiptConfirmed d id s) := by
  unfold execAcknowledgementReceiptConfirmed; simp [h]
@[simp] theorem State.reroute_kept (old s : State) (x : Op) : (old.reroute s x).kept = s.kept := by
  unfold State.reroute; repeat' split
  all_goals simp
@[simp] theorem State.portsGone_kept (s old : State) : (s.portsGone old).kept = s.kept := State.kept_foldl (fun _ _ => by simp) _ s
@[simp] theorem State.portsBack_kept (s : State) : s.portsBack.kept = s.kept := by
  refine State.kept_foldl (fun s x => ?_) _ s
  repeat' split
  all_goals simp
theorem execPortDown_leaves (p : Nat) (s : State) (h : Q s.kept) : Out.Leaves Q (execPortDown p s) := by
  unfold execPortDown; simp [h]
theorem execPortUp_leaves (p : Nat) (s : State) (h : Q s.kept) : Out.Leaves Q (execPortUp p s) := by
  unfold execPortUp; simp [h]
theorem execFabricManagement_leaves (dev : Nat) (s : State) (h : Q s.kept) : Out.Leaves Q (execFabricManagement dev s) := by
  unfold execFabricManagement; simp [h]
theorem execFdiscWrite_leaves (d : Nat) (s : State) (h : Q s.kept) : Out.Leaves Q (execFdiscWrite d s) := by
  unfold execFdiscWrite; simp [h]
theorem execControlRegisterWrite_leaves (d off : Nat) (x : Word) (s : State) (h : Q s.kept) : Out.Leaves Q (execControlRegisterWrite d off x s) := by
  unfold execControlRegisterWrite; simp [h]

/-! ## Retirement, power and service words -/

@[simp] theorem State.syncSlots_kept (s : State) (d a : Nat) : (s.syncSlots d a).kept = s.kept := by
  unfold State.syncSlots; simp
@[simp] theorem State.remove_kept (s : State) (d a : Nat) : (s.remove d a).kept = s.kept := by
  unfold State.remove; simp
@[simp] theorem State.settleGrade_kept (s : State) (d : Nat) : (s.settleGrade d).kept = s.kept := by
  unfold State.settleGrade; simp
/-- What `Q` asks says nothing of the positions that no core serves. -/
def MapFree (Q : Kept → Prop) : Prop := ∀ m l u v, Q (m, l, u) → Q (m, l, v)
theorem State.remap_of (hQ : MapFree Q) (old : State) {s : State} (d : Nat) (h : Q s.kept) : Q (old.remap s d).kept := by
  unfold State.remap
  extract_lets g sv s1 s2 s3 s4 same
  have h1 : Q s1.kept := hQ _ _ _ _ h
  have h4 : Q s4.kept := by simpa [s4, s3, s2] using h1
  clear_value s4
  rw [State.settlePend_kept, State.kept_foldl]
  · exact h4
  · intro s a
    dsimp only
    split <;> simp
theorem State.retireCore_of (hQ : MapFree Q) {s : State} (d a : Nat) (h : Q s.kept) : Q (s.retireCore d a).kept := by
  unfold State.retireCore
  split
  · exact h
  · exact State.remap_of hQ _ _ (by simpa using h)
theorem State.retireUnit_of (hQ : MapFree Q) {s : State} (d a : Nat) (u : Nat → Nat → RetUnit) (h : Q s.kept) : Q (s.retireUnit d a u).kept := by
  unfold State.retireUnit
  split
  · exact h
  · dsimp only
    split
    · exact State.retireCore_of hQ _ _ (by simpa using h)
    · simpa using h
theorem snd_if {α : Type} {c : Prop} [Decidable c] {p q : α × State} (hp : Q p.2.kept) (hq : Q q.2.kept) : Q (if c then p else q).2.kept := by
  split <;> assumption
theorem State.retireAt_of (hQ : MapFree Q) {s : State} (d y x kind i : Nat) (h : Q s.kept) : Q (s.retireAt d y x kind i).2.kept := by
  unfold State.retireAt
  dsimp only
  split
  · exact h
  · split
    · exact State.retireCore_of hQ _ _ h
    · split
      · exact h
      · refine snd_if ?_ ?_
        · exact h
        · exact State.retireUnit_of hQ _ _ _ h
theorem State.retireOther_of {s t : State} {u : RetUnit} {d : Nat} {ok : Bool} {f : State → State} (hf : ∀ s, Q s.kept → Q (f s).kept)
    (h : Q s.kept) (ht : s.retireOther u d ok f = some t) : Q t.kept := by
  unfold State.retireOther at ht
  split at ht
  · cases ht
  · cases ht
    rw [State.retable_kept, State.settleGrade_kept]
    exact hf _ (by simpa using h)
theorem State.repair_of (hQ : MapFree Q) {s t : State} {d y x : Nat} (h : Q s.kept) (ht : s.repair d y x = some t) : Q t.kept := by
  unfold State.repair at ht
  dsimp only at ht
  split at ht
  · cases ht; exact State.remap_of hQ _ _ (by simpa using h)
  · cases ht
@[simp] theorem State.setPoint_kept (s : State) (d : Nat) (uncore : Bool) (p : Nat) : (s.setPoint d uncore p).kept = s.kept := by
  unfold State.setPoint
  split
  · simp
  · split
    · simp
    · dsimp only
      rw [State.retable_kept, State.kept_ite, State.kept_foldl fun _ _ => by simp, State.updDom_kept, ite_self]
theorem execIslandPowerOff_leaves (d : Nat) (s : State) (h : Q s.kept) : Out.Leaves Q (execIslandPowerOff d s) := by
  refine Out.leaves_if trivial ?_
  rw [Out.leaves_next, State.retable_kept, State.updDom_kept, State.kept_foldl fun _ _ => by simp]
  exact h
theorem execPowerLimitStep_leaves (d isl : Nat) (lower : Bool) (s : State) (h : Q s.kept) : Out.Leaves Q (execPowerLimitStep d isl lower s) := by
  unfold execPowerLimitStep; simp [h]
theorem execSupplyDroop_leaves (d isl : Nat) (s : State) (h : Q s.kept) : Out.Leaves Q (execSupplyDroop d isl s) := by
  unfold execSupplyDroop; simp [h]
theorem execCorrectedError_leaves (d : Nat) (ue : Option Nat) (s : State) (h : Q s.kept) : Out.Leaves Q (execCorrectedError d ue s) := by
  unfold execCorrectedError; repeat' split
  all_goals simp [h]
theorem execClockSourceFail_leaves (d a : Nat) (s : State) (h : Q s.kept) : Out.Leaves Q (execClockSourceFail d a s) := by
  unfold execClockSourceFail; simp [h]
theorem Env.handlerOnly_leaves {e : Env} {k : Act} (hk : k.Leaves Q) : (e.handlerOnly k).Leaves Q := Act.leaves_if hk trivial
theorem Env.operand_leaves {e : Env} {r n : Nat} {k : Nat → Act} (hk : ∀ x, (k x).Leaves Q) : (e.operand r n k).Leaves Q :=
  Act.leaves_if trivial (hk _)
theorem execSvcVf_leaves (f : SysW) (s : State) (h : Q s.kept) : Out.Leaves Q (execSvcVf f s) :=
  issueSys_leaves h fun _ h => Env.handlerOnly_leaves <| Env.operand_leaves fun _ =>
    Act.leaves_if (Env.quick_leaves _ _ _ _ _ h) (Env.quick_leaves _ _ _ _ _ (by simpa using h))
theorem execSvcRetire_leaves (hQ : MapFree Q) (f : SysW) (s : State) (h : Q s.kept) : Out.Leaves Q (execSvcRetire f s) := by
  refine issueSys_leaves h fun e h => Env.handlerOnly_leaves <| Env.operand_leaves fun x => Act.leaves_if trivial ?_
  have hr := State.retireAt_of hQ (x % 64) (x / 2 ^ 6 % 16) (x / 2 ^ 10 % 16) (x / 2 ^ 14 % 4) (x / 2 ^ 16) h
  exact Act.leaves_if hr (Env.quick_leaves _ _ _ _ _ hr)
theorem execSvcPkill_leaves (f : SysW) (s : State) (h : Q s.kept) : Out.Leaves Q (execSvcPkill f s) := by
  refine issueSys_leaves h fun e h => Env.handlerOnly_leaves ?_
  dsimp only
  split
  · split
    · exact Act.leaves_if (Env.quick_leaves _ _ _ _ _ h) (Env.quick_leaves _ _ _ _ _ (by simpa using h))
    · exact Env.quick_leaves _ _ _ _ _ h
  · exact Env.quick_leaves _ _ _ _ _ h
@[simp] theorem Env.buffer_kept (e : Env) (only0 : Bool) (k va n : Nat) (s : State) : (e.buffer only0 k va n s).2.kept = s.kept := by
  induction k generalizing va n s with
  | zero => rfl
  | succ k ih =>
    unfold Env.buffer
    refine State.snd_kept_if rfl ?_
    dsimp only
    split <;> rename_i ht <;> have ht := Env.kept_of_translate ht
    · exact ht
    · exact ht
    · refine State.snd_kept_if ht ?_
      split
      · rename_i hn
        exact ((congrArg (fun p => p.2.kept) hn).symm.trans (ih _ _ _)).trans ht
      · rw [ih, ht]
theorem Env.kept_of_buffer {e : Env} {only0 : Bool} {k va n : Nat} {s t : State} {x : Except (Option (Cause × Nat)) (List (Nat × Nat))}
    (h : e.buffer only0 k va n s = (x, t)) : t.kept = s.kept := by
  rw [← e.buffer_kept only0 k va n s, h]
theorem Env.toBuffer_leaves {e : Env} {s : State} {ps : List (Nat × Nat)} {go : State → Act} (h : Q s.kept)
    (hg : ∀ t, Q t.kept → (go t).Leaves Q) : (e.toBuffer s ps go).Leaves Q := by
  refine Act.leaves_if (Env.stay_leaves _ _ h) ?_
  split
  · exact Env.stay_leaves _ _ (by simpa using h)
  · exact hg _ (by rw [State.kept_foldl fun _ _ => by simp]; exact h)
theorem execCapq_leaves (f : SysW) (s : State) (h : Q s.kept) : Out.Leaves Q (execCapq f s) := by
  refine issueSys_leaves h fun e h => ?_
  dsimp only
  split
  · exact Act.leaves_if trivial (Env.quick_leaves _ _ _ _ _ h)
  · exact Act.leaves_if trivial (Env.quick_leaves _ _ _ _ _ h)
  · refine Act.leaves_if trivial ?_
    split <;> rename_i ht <;> have ht := Env.kept_of_translate ht
    · exact (ht ▸ h :)
    · exact Env.stay_leaves _ _ (ht ▸ h :)
    · split
      · exact (ht ▸ h :)
      · split
        · exact Env.stay_leaves _ _ (ht ▸ h :)
        · exact Env.stay_leaves _ _ (by rw [State.refuse_kept, ht]; exact h)
        · rename_i hr
          exact Env.quick_leaves _ _ _ _ _ (by rw [State.keepCopy_kept, State.kept_of_readSector hr, ht]; exact h)
  · exact Env.operand_leaves fun _ => Env.quick_leaves _ _ _ _ _ h
theorem execPwrq_leaves (f : SysW) (s : State) (h : Q s.kept) : Out.Leaves Q (execPwrq f s) := by
  refine issueSys_leaves h fun e h => ?_
  dsimp only
  split <;> exact Env.quick_leaves _ _ _ _ _ (by simpa using h)
theorem execClkq_leaves (f : SysW) (s : State) (h : Q s.kept) : Out.Leaves Q (execClkq f s) := by
  refine issueSys_leaves h fun e h => ?_
  simp [h]
theorem execEvlogPut_leaves (f : SysW) (s : State) (h : Q s.kept) : Out.Leaves Q (execEvlogPut f s) :=
  issueSys_leaves h fun _ h => Act.leaves_if trivial (Env.quick_leaves _ _ _ _ _ (by simpa using h))
theorem execHstat_leaves (f : SysW) (s : State) (h : Q s.kept) : Out.Leaves Q (execHstat f s) := by
  refine issueSys_leaves h fun e h => ?_
  simp [h]
@[simp] theorem State.coreStop_kept (s : State) (d a : Nat) : (s.coreStop d a).kept = s.kept := by
  unfold State.coreStop; simp
theorem execUncoreIslandPowerReturn_leaves (d : Nat) (s : State) (h : Q s.kept) : Out.Leaves Q (execUncoreIslandPowerReturn d s) := by
  unfold execUncoreIslandPowerReturn; simp [h]
@[simp] theorem State.testUnits_kept (s : State) (n : Nat) : (s.testUnits n).kept = s.kept := by
  unfold State.testUnits; exact State.kept_foldl (fun _ _ => by simp) _ _
@[simp] theorem State.bringUp_kept (s : State) (n : Nat) : (s.bringUp n).kept = s.kept := by
  unfold State.bringUp; simp
theorem execModuleBringUp_leaves (s : State) (h : Q s.kept) : Out.Leaves Q (execModuleBringUp s) := by
  unfold execModuleBringUp; repeat' split
  all_goals simp [h]
theorem execSiderealTick_leaves (lag : BitVec 64) (s : State) (h : Q s.kept) : Out.Leaves Q (execSiderealTick lag s) := by
  unfold execSiderealTick; simp [h]
theorem execSiderealBeacon_leaves (s : State) (h : Q s.kept) : Out.Leaves Q (execSiderealBeacon s) := by
  unfold execSiderealBeacon; simp [h]

end Sys2Proof.Machine
end

-- ==== The events of hosts, power, retirement and errors (O49) ====
section
/-! PROOF. The events of hosts, power, retirement and errors (O49): what each answers from the conditions on the state that let it act. -/

namespace Sys2Proof.Machine

/-! ## The host link (R10, R16, R425) -/
section
variable {s : State} {link bar off pa : Nat} (hl : link < 2) (hp : s.svc.powered = true) (hu : (s.dom (hostDom link)).uoff = false)
  (hb : barAddr bar off = some pa) (hr : s.unreachable pa = false)
include hl hp hu hb hr

theorem hostRead_ctl {n : Nat} (h0 : 0 < n) (hn : off % 64 + n ≤ 64) (hc : regionOf pa = .ctl) :
    exec (.hostLinkAccess link bar off (.read n)) s = .next { s with replies := some ((List.range n).map fun i =>
      s.ctlByte ((pa - ctlBase) / 2 ^ 30) ((pa - ctlBase) % 2 ^ 30 + i)) :: s.replies } := by
  rw [exec_hostLinkAccess]
  simp [execHostLinkAccess, hl, hp, hu, hb, hr, hc, Nat.pos_iff_ne_zero.mp h0, hn]

theorem hostRead_mem {n : Nat} (h0 : 0 < n) (hn : off % 64 + n ≤ 64) (hc : regionOf pa ≠ .ctl) (ht : s.tileAt pa = none)
    (hk : s.backing (.host link) pa = false) :
    exec (.hostLinkAccess link bar off (.read n)) s = if s.lineRefuses pa (.host link) = true then .next (s.refuse (.host link) pa) else
      .next (let r := (s.served (.host link) pa).loadSec (hostDom link) none true true pa n; { r.2 with replies := some r.1 :: r.2.replies }) := by
  rw [exec_hostLinkAccess]
  simp [execHostLinkAccess, hl, hp, hu, hb, hr, hc, Nat.pos_iff_ne_zero.mp h0, hn, ht, hk]

/-- The offset is a variable: no check may unfold the subtraction of the space's base. -/
theorem hostWrite_ctl {bs : List Byte} {n o : Nat} (hd : (pa - ctlBase) / 2 ^ 30 = n) (ho : (pa - ctlBase) % 2 ^ 30 = o) (h0 : bs ≠ [])
    (hn : off % 64 + bs.length ≤ 64) (hc : regionOf pa = .ctl) (hw : windowOf o = none) :
    exec (.hostLinkAccess link bar off (.write bs)) s = match s.hostDev o bs with
      | some x => .next (State.retable { s with svc := { s.svc with dev := x } })
      | none => .next (s.ctlWrite n o bs) := by
  rw [exec_hostLinkAccess]
  unfold execHostLinkAccess
  simp only [hb, hd, ho]
  rw [if_neg (by simp [hl, hp, hu, h0, hn]), if_neg (by simp [hr]), if_pos hc]
  exact if_neg (by simp [hw])

theorem hostWrite_mem {bs : List Byte} (h0 : bs ≠ []) (hn : off % 64 + bs.length ≤ 64) (hc : regionOf pa ≠ .ctl) (ht : s.tileAt pa = none)
    (hk : s.backing (.host link) pa = false) (hf : s.lineRefuses pa (.host link) = false) :
    exec (.hostLinkAccess link bar off (.write bs)) s =
      .next ((s.served (.host link) pa).storeWide (hostDom link) .none pa bs false none true) := by
  rw [exec_hostLinkAccess]
  simp [execHostLinkAccess, hl, hp, hu, hb, hr, hc, h0, hn, ht, hk, hf]
end

/-! ## Loss and return of power, and CORE_RESUME (R380, R384, R414, R420) -/

theorem computeIslandPowerFail_next {s : State} {d : Nat} (fin : List Nat) (hd : d < 64) (hp : s.svc.powered = true) (hu : (s.dom d).uoff = false)
    (hc : (s.dom d).coff = false) (hr : ∃ a < 132, s.coreRuns d a = true) :
    exec (.computeIslandPowerFail d fin) s = .next (
      let t := ((List.range 132).filter fun a => s.coreRuns d a).foldl (fun s a => s.coreFail d a (fin.contains a)) s
      let t := t.updDom d fun x => { x with l1 := [] }
      { t with focus := match t.focus with
        | some (b, w) => (match (t.block b).loc with | some l => if l.d = d then none else some (b, w) | none => none)
        | none => none }) := by
  have hne : ((List.range 132).filter fun a => s.coreRuns d a).isEmpty = false := by
    obtain ⟨a, ha, hrun⟩ := hr
    rw [List.isEmpty_eq_false_iff_exists_mem]
    exact ⟨a, by simp [ha, hrun]⟩
  rw [exec_computeIslandPowerFail]
  unfold execComputeIslandPowerFail
  rw [if_neg (by simp [hp, hu, hc, hd])]
  dsimp only
  exact if_neg (by rw [hne]; decide)

/-- CORE_RESUME settles what the core holds, where a core serves the position, or blocks or a sequencer claim are held at it. -/
theorem coreResume_settles {s v : State} {d a : Nat} (hs : (s.core d a).stopped = true) (hp : s.svc.powered = true) (hu : (s.dom d).uoff = false)
    (hmay : (if s.usable d a then !(s.dom d).coff else !(s.core d a).held.isEmpty || (s.core d a).seq.hold.isSome) = true)
    (hv : s.settleCore d a = some v) : exec (.coreResume d a) s = .next v := by
  rw [exec_coreResume]
  unfold execCoreResume
  dsimp only
  rw [hmay, if_neg (by simp [hs, hp, hu]), hv]

theorem Umbra.newest_valid {u : Umbra} {w : Bool} (h : u.newest = some w) : (u.bank w).valid = true := by
  unfold Umbra.newest at h
  split at h
  · rename_i hv
    obtain ⟨ha, hb⟩ := Bool.and_eq_true_iff.mp hv
    cases w
    · exact ha
    · exact hb
  · split at h
    · cases h; assumption
    · split at h
      · cases h; assumption
      · cases h

/-- A valid bank beside one that is not is the newest. -/
theorem Umbra.newest_of_valid {u : Umbra} {w : Bool} (hv : (u.bank w).valid = true) (ho : (u.bank !w).valid = false) : u.newest = some w := by
  cases w <;> simp_all [Umbra.newest, Umbra.bank]
theorem Umbra.bank_setOther (u : Umbra) (w : Bool) (x : Bank) : (u.setBank (!w) x).bank w = u.bank w := by
  cases w <;> rfl
theorem Umbra.bank_setSame (u : Umbra) (w : Bool) (x : Bank) : (u.setBank w x).bank w = x := by
  cases w <;> rfl
/-- Marking the other bank, where it is not valid, does not change which is the newest. -/
theorem Umbra.newest_setOther {u : Umbra} {w : Bool} (h : u.newest = some w) :
    (u.setBank (!w) { u.bank !w with ok := false }).newest = some w :=
  Umbra.newest_of_valid (by rw [Umbra.bank_setOther]; exact Umbra.newest_valid h) (by rw [Umbra.bank_setSame]; simp [Bank.valid])

/-- What a core reads of its banks: one that names another position, or that a poisoned word is in, is not valid (R384). -/
def State.umbraRead (s : State) (d a : Nat) : Umbra :=
  let fix := fun (w : Bool) (k : Bank) => { k with ok := k.ok && k.pos = (if k.hseq = 0 then k.pos else d + 64 * a) && !s.bankPoisoned d a w }
  { (s.core d a).umb with bankA := fix false (s.core d a).umb.bankA, bankB := fix true (s.core d a).umb.bankB }
/-- The banks read, and the event that says so logged. -/
def State.resumeRead (s : State) (d a : Nat) : State :=
  (s.updUmbra d a fun _ => s.umbraRead d a).logData 0x10 d a ((s.umbraRead d a).resumeData (d + 64 * a))

theorem State.resumeRead_umb (s : State) (d a : Nat) : ((s.resumeRead d a).core d a).umb = s.umbraRead d a := by
  unfold State.resumeRead State.updUmbra
  rw [State.logData_core, State.core_updCore_same]
theorem State.readBanks_eq (s : State) (d a : Nat) : s.readBanks d a = match (s.umbraRead d a).newest with
    | some w => (s.resumeRead d a).updUmbra d a fun u => if (u.bank !w).valid then u else u.setBank (!w) { u.bank !w with ok := false }
    | none => s.resumeRead d a := by
  have hu : ((s.updUmbra d a fun _ => s.umbraRead d a).core d a).umb = s.umbraRead d a := by
    unfold State.updUmbra; rw [State.core_updCore_same]
  have hr : s.readBanks d a =
      let t := s.updUmbra d a fun _ => s.umbraRead d a
      let u := (t.core d a).umb
      let t := t.logData 0x10 d a (u.resumeData (d + 64 * a))
      match u.newest with
      | some w => t.updUmbra d a fun u => if (u.bank !w).valid then u else u.setBank (!w) { u.bank !w with ok := false }
      | none => t := rfl
  rw [hr]
  dsimp only
  rw [hu]
  rfl

/-- The position is served as before. -/
theorem State.usable_of_kept {s t : State} (h : t.kept = s.kept) (d a : Nat) : t.usable d a = s.usable d a := by
  have hu : t.svc.unusable = s.svc.unusable := congrArg (·.2.2) h
  unfold State.usable
  rw [hu]
theorem State.resumeRead_kept (s : State) (d a : Nat) : (s.resumeRead d a).kept = s.kept := rfl

theorem State.settleCore_empty {s : State} {d a : Nat} (h : (s.umbraRead d a).newest = none) :
    s.settleCore d a = some ((s.resumeRead d a).resumeEmpty d a) := by
  have hr : s.readBanks d a = s.resumeRead d a := by rw [State.readBanks_eq, h]
  unfold State.settleCore
  rw [hr]
  dsimp only
  rw [State.resumeRead_umb, h]
  rfl

theorem State.settleCore_resume {s v : State} {d a : Nat} {w : Bool} {m : Image} (h : (s.umbraRead d a).newest = some w)
    (hm : ((s.umbraRead d a).bank w).img = some m)
    (hv : State.resumeFrom ((s.resumeRead d a).updUmbra d a fun u => if (u.bank !w).valid then u else u.setBank (!w) { u.bank !w with ok := false })
      d a w m = some v) (hs : s.usable d a = true) : s.settleCore d a = some v := by
  have hr := State.readBanks_eq s d a
  rw [h] at hr
  dsimp only at hr
  set t := (s.resumeRead d a).updUmbra d a fun u => if (u.bank !w).valid then u else u.setBank (!w) { u.bank !w with ok := false } with ht
  have hu : (t.core d a).umb = if ((s.umbraRead d a).bank !w).valid then s.umbraRead d a else
      (s.umbraRead d a).setBank (!w) { (s.umbraRead d a).bank !w with ok := false } := by
    rw [ht]; unfold State.updUmbra; rw [State.core_updCore_same, State.resumeRead_umb]
  have hn : (t.core d a).umb.newest = some w := by
    rw [hu]; split
    · exact h
    · exact Umbra.newest_setOther h
  have hb : ((t.core d a).umb.bank w).img = some m := by
    rw [hu]; split
    · exact hm
    · rw [Umbra.bank_setOther]; exact hm
  have hv' : v.usable d a = true := by
    rw [State.usable_of_kept ((State.resumeFrom_kept _ _ _ _ _ hv).trans ((State.updUmbra_kept _ _ _ _).trans (s.resumeRead_kept d a)))]
    exact hs
  unfold State.settleCore
  rw [hr]
  dsimp only
  rw [hn, Option.bind_some, hb, Option.map_some]
  dsimp only
  rw [hv, Option.bind_some, if_pos hv']

theorem uncoreIslandPowerLoss_next {s : State} {d : Nat} (keep : List Nat) (hd : d < 64) (hp : s.svc.powered = true) (hu : (s.dom d).uoff = false) :
    exec (.uncoreIslandPowerLoss d keep) s =
      .next (((List.range 132).foldl (fun s a => s.updCore d a fun c => { c with stopped := true }) (s.loseUncore [d] keep)).portsGone s).retable :=
          by
  rw [exec_uncoreIslandPowerLoss]
  unfold execUncoreIslandPowerLoss
  rw [if_neg (by simp [hd, hp, hu])]

theorem uncoreIslandPowerReturn_next {s : State} {d : Nat} (hd : d < 64) (hp : s.svc.powered = true) (hu : (s.dom d).uoff = true) :
    exec (.uncoreIslandPowerReturn d) s = .next (s.updDom d fun x => { x with uoff := false, effU := x.reqU, sidHeld := true }).portsBack.retable :=
        by
  rw [exec_uncoreIslandPowerReturn]
  unfold execUncoreIslandPowerReturn
  rw [if_neg (by simp [hd, hp, hu])]

theorem modulePowerLoss_next {s : State} (keep : List Nat) (hp : s.svc.powered = true) : exec (.modulePowerLoss keep) s = .next (s.powerOff keep) :=
    by
  rw [exec_modulePowerLoss]
  unfold execModulePowerLoss
  rw [if_neg (by simp [hp])]

/-- Every running core among the positions is asked for a cut (R423). -/
def State.tripCuts (s : State) (ks : List Nat) : State :=
  ks.foldl (fun (s : State) k =>
    if s.coreOn (k / 132) (k % 132) then s.askCut (k / 132) (k % 132) { kind := 0, warp := none, exit := none } else s) s

theorem State.tripCuts_mem (s : State) (ks : List Nat) : (s.tripCuts ks).mem = s.mem :=
  foldl_keeps State.mem _ (fun t k => by split <;> rfl) ks s

theorem execThermalTrip_first {s : State} (hp : s.svc.powered = true) (ht : s.svc.tripped = false) : execThermalTrip s =
    let t := s.tripCuts (List.range 8448)
    .next (State.logEvent { t with svc := { t.svc with tripped := true } } 0x61 0 0xFF) := by
  unfold execThermalTrip State.tripCuts
  rw [if_neg (by simp [hp]), if_pos (by simp [ht])]

/-- What the trip answers, over any state the cuts have been asked in: no check may run the fold over the positions. -/
theorem thermalTrip_answers {s u : State}
    (h : execThermalTrip s = .next (State.logEvent { u with svc := { u.svc with tripped := true } } 0x61 0 0xFF)) (hmem : u.mem = s.mem) :
    ∃ t, exec .thermalTrip s = .next t ∧ t.svc.tripped = true ∧ t.mem = s.mem := ⟨_, exec_thermalTrip.trans h, rfl, hmem⟩

/-- The first trip asks every running core for a cut, and leaves memory alone. -/
theorem thermalTrip_first {s : State} (hp : s.svc.powered = true) (ht : s.svc.tripped = false) :
    ∃ t, exec .thermalTrip s = .next t ∧ t.svc.tripped = true ∧ t.mem = s.mem :=
  thermalTrip_answers (execThermalTrip_first hp ht) (s.tripCuts_mem (List.range 8448))

theorem thermalTrip_second {s : State} (hp : s.svc.powered = true) (ht : s.svc.tripped = true)
    (hc : ∀ p ∈ s.cores, p.2.stopped = true ∨ (p.2.umb.openCut = none ∧ p.2.umb.reqs = [])) :
    exec .thermalTrip s = .next (((List.range 64).foldl (fun s d => s.uncoreFlush d) s).powerOff []) := by
  have hidle : (s.cores.any fun p => !p.2.stopped && (p.2.umb.openCut.isSome || !p.2.umb.reqs.isEmpty)) = false := by
    rw [List.any_eq_false]
    intro p hp'
    rcases hc p hp' with h | ⟨h, h'⟩ <;> simp [*]
  rw [exec_thermalTrip]
  unfold execThermalTrip
  rw [if_neg (by simp [hp]), if_neg (by simp [ht]), hidle]
  rfl

/-! ## Bring-up -/

theorem State.testUnits_keeps {γ : Type} (p : State → γ) (h : ∀ (s : State) r e n, p { s with svc := r, log := e, fresh := n } = p s) (s : State) (n
    : Nat) :
    p (s.testUnits n) = p s :=
  foldl_keeps p _ (fun t _ => h t _ _ _) _ s

theorem State.lastTick_testUnits (s : State) (n : Nat) : (s.testUnits n).lastTick = s.lastTick := State.testUnits_keeps State.lastTick (fun _ _ _ _
    => rfl) s n

/-- The counter restarts above the greatest tick. -/
theorem State.bringUp_tick {s : State} {n : Nat} (h : s.lastTick < 2 ^ 63) : s.lastTick < (s.bringUp n).tick.toNat := by
  have ht : (s.bringUp n).tick = BitVec.ofNat 64 ((s.testUnits n).lastTick + 1 + Config.freeNat n % 2 ^ 32) := rfl
  rw [ht, State.lastTick_testUnits, BitVec.toNat_ofNat, Nat.mod_eq_of_lt] <;> omega

theorem State.bringUp_mem (s : State) (n : Nat) : (s.bringUp n).mem = s.mem := by
  unfold State.bringUp State.retable
  dsimp only
  exact State.testUnits_keeps State.mem (fun _ _ _ _ => rfl) s n
theorem State.bringUp_blocks (s : State) (n : Nat) : (s.bringUp n).blocks = s.blocks := by
  unfold State.bringUp State.retable
  dsimp only
  exact State.testUnits_keeps State.blocks (fun _ _ _ _ => rfl) s n
theorem State.bringUp_ops (s : State) (n : Nat) : (s.bringUp n).ops = s.ops := by
  unfold State.bringUp State.retable
  dsimp only
  exact State.testUnits_keeps State.ops (fun _ _ _ _ => rfl) s n

/-- Without supplies in range, or with firmware that does not verify, the module stays off. -/
theorem moduleBringUp_boot {s : State} (hp : s.svc.powered = false) :
    ∃ t, exec .moduleBringUp s = .next t ∧ t.mem = s.mem ∧ t.blocks = s.blocks ∧ t.ops = s.ops ∧
    let on := Config.suppliesOk s.fresh && Config.verifies keyHash (Config.firmware s.fresh)
    t.svc.powered = on ∧ (on = true → t.svc.winOpen = false ∧ (s.lastTick < 2 ^ 63 → s.lastTick < t.tick.toNat)) ∧
    (on = false → t.svc = { s.svc with bootst := if Config.suppliesOk s.fresh then 2 else 1 }) := by
  rw [exec_moduleBringUp]
  unfold execModuleBringUp
  dsimp only
  rw [if_neg (by simp [hp])]
  cases hs : Config.suppliesOk s.fresh
  · exact ⟨_, rfl, rfl, rfl, rfl, hp, by simp, fun _ => rfl⟩
  · cases hv : Config.verifies keyHash (Config.firmware s.fresh)
    · exact ⟨_, rfl, rfl, rfl, rfl, hp, by simp, fun _ => rfl⟩
    · exact ⟨_, rfl, State.bringUp_mem _ _, State.bringUp_blocks _ _, State.bringUp_ops _ _, rfl, fun _ => ⟨rfl, fun h => State.bringUp_tick (s := {
        s with fresh := s.fresh + 1 }) h⟩, by simp⟩

theorem moduleBringUp_open {s : State} (hp : s.svc.powered = true) (hw : s.svc.winOpen = false)
    (hr : ∀ p ∈ s.cores, s.resuming (p.1 / 132) (p.1 % 132) = false) :
    exec .moduleBringUp s = .next (State.retable { s with svc := { s.svc with winOpen := true, bootst := 0 } }) := by
  have hnone : (s.cores.any fun p => s.resuming (p.1 / 132) (p.1 % 132)) = false := by
    rw [List.any_eq_false]; intro p h; simp [hr p h]
  rw [exec_moduleBringUp]
  unfold execModuleBringUp
  dsimp only
  rw [if_pos hp, hnone, hw]
  rfl

/-! ## Units -/

theorem unitRetirement_core {s : State} {d y x : Nat} (h : (s.retireAt d y x 0 0).1 = 0#32) :
    exec (.unitRetirement (.core d y x)) s = .next (s.retireAt d y x 0 0).2 := by
  rw [exec_unitRetirement]; unfold execUnitRetirement; dsimp only; rw [if_pos h]
theorem unitRetirement_slot {s : State} {d y x k : Nat} (h : (s.retireAt d y x 1 k).1 = 0#32) :
    exec (.unitRetirement (.slot d y x k)) s = .next (s.retireAt d y x 1 k).2 := by
  rw [exec_unitRetirement]; unfold execUnitRetirement; dsimp only; rw [if_pos h]
theorem unitRetirement_bank {s : State} {d y x k : Nat} (hk : k < 8) (h : (s.retireAt d y x 2 k).1 = 0#32) :
    exec (.unitRetirement (.bank d y x k)) s = .next (s.retireAt d y x 2 k).2 := by
  rw [exec_unitRetirement]; unfold execUnitRetirement; dsimp only; rw [if_neg (by omega), if_pos h]

theorem State.retireOther_some {s : State} {u : RetUnit} {d : Nat} {ok : Bool} (f : State → State) (hok : ok = true) (hu : u ∉ s.svc.retired) :
    s.retireOther u d ok f =
      some ((f (State.logEvent { s with svc := { s.svc with retired := s.svc.retired ++ [u] } } 0x20 d 0xFF)).settleGrade d).retable := by
  unfold State.retireOther
  rw [if_neg (by simp [hok, hu])]

theorem unitRetirement_next {s : State} {u : RetUnit} {d : Nat} {ok : Bool} {f : State → State} (hok : ok = true) (hu : u ∉ s.svc.retired)
    (he : exec (.unitRetirement u) s = (match s.retireOther u d ok f with | some s => .next s | none => .refused .notEnabled)) :
    exec (.unitRetirement u) s =
      .next ((f (State.logEvent { s with svc := { s.svc with retired := s.svc.retired ++ [u] } } 0x20 d 0xFF)).settleGrade d).retable := by
  rw [he, State.retireOther_some f hok hu]

theorem unitRetirement_repaired {s : State} {d y x : Nat} (h : .core d y x ∈ s.svc.retired) :
    let part := fun (u : RetUnit) => match u with
      | .core d' y' x' | .slot d' y' x' _ | .bank d' y' x' _ => d' = d && y' = y && x' = x
      | _ => false
    exec (.unitRetirement (.repaired d y x)) s =
      .next (State.remap s { s with svc := { s.svc with retired := s.svc.retired.filter (!part ·), pend := s.svc.pend.filter (!part ·) } } d) := by
  intro part
  have hr : s.repair d y x = some (State.remap s
      { s with svc := { s.svc with retired := s.svc.retired.filter (!part ·), pend := s.svc.pend.filter (!part ·) } } d) := if_pos (by simpa using h)
  rw [exec_unitRetirement]
  unfold execUnitRetirement
  dsimp only
  rw [hr]

theorem clockSourceFail_next {s : State} {d a : Nat} (hu : s.usable d a = true) (hc : s.clockSource d a ≠ 2) :
    let last := (s.core d a).cksrc = 1 ∨ (s.clockDirs d a).length < 2
    let t := s.updCore d a fun c => { c with cksrc := if last then 2 else 1, cksw := min 255 (c.cksw + 1), cktick := s.sid d }
    exec (.clockSourceFail d a) s = .next (State.logEvent (if last then t.logEvent 0x02 d a else t) 0x01 d a) := by
  rw [exec_clockSourceFail]
  unfold execClockSourceFail
  rw [if_neg (by simp [hu, hc])]
  simp only [Bool.or_eq_true, decide_eq_true_eq]

/-! ## Limits, droops, errors and islands -/

theorem powerLimitStep_lower_core {s : State} {d : Nat} (hd : d < 64) (hc : (s.dom d).coff = false) (he : (s.dom d).effC < 2) :
    exec (.powerLimitStep d 0 true) s = .next (
      let t := s.updDom d fun x => { x with effC := x.effC + 1 }
      State.retable (if (s.dom d).reqC < (s.dom d).effC then t else t.logEvent 0x60 d 0xFF)) := by
  rw [exec_powerLimitStep]
  simp [execPowerLimitStep, Domain.throttledAt, Nat.not_le.mpr hd, hc, Nat.not_le.mpr he]
  rfl
theorem powerLimitStep_lower_uncore {s : State} {d : Nat} (hd : d < 64) (hc : (s.dom d).uoff = false) (he : (s.dom d).effU < 2) :
    exec (.powerLimitStep d 1 true) s = .next (
      let t := s.updDom d fun x => { x with effU := x.effU + 1 }
      State.retable (if (s.dom d).reqU < (s.dom d).effU then t else t.logEvent 0x60 d 0xFF)) := by
  rw [exec_powerLimitStep]
  simp [execPowerLimitStep, Domain.throttledAt, Nat.not_le.mpr hd, hc, Nat.not_le.mpr he]
  rfl
theorem powerLimitStep_raise_core {s : State} {d : Nat} (hd : d < 64) (hc : (s.dom d).coff = false) (he : (s.dom d).reqC < (s.dom d).effC) :
    exec (.powerLimitStep d 0 false) s = .next (s.updDom d fun x => { x with effC := x.effC - 1 }).retable := by
  rw [exec_powerLimitStep]
  simp [execPowerLimitStep, Domain.throttledAt, Nat.not_le.mpr hd, hc, he]
  rfl
theorem powerLimitStep_raise_uncore {s : State} {d : Nat} (hd : d < 64) (hc : (s.dom d).uoff = false) (he : (s.dom d).reqU < (s.dom d).effU) :
    exec (.powerLimitStep d 1 false) s = .next (s.updDom d fun x => { x with effU := x.effU - 1 }).retable := by
  rw [exec_powerLimitStep]
  simp [execPowerLimitStep, Domain.throttledAt, Nat.not_le.mpr hd, hc, he]
  rfl

theorem supplyDroop_core {s : State} {d : Nat} (hd : d < 64) :
    exec (.supplyDroop d 0) s = .next (s.updDom d fun x => { x with droopC := sat32 (x.droopC + 1) }) := by
  rw [exec_supplyDroop]; unfold execSupplyDroop; rw [if_neg (by simp [hd])]; rfl
theorem supplyDroop_uncore {s : State} {d : Nat} (hd : d < 64) :
    exec (.supplyDroop d 1) s = .next (s.updDom d fun x => { x with droopU := sat32 (x.droopU + 1) }) := by
  rw [exec_supplyDroop]; unfold execSupplyDroop; rw [if_neg (by simp [hd])]; rfl
theorem correctedError_none {s : State} {d : Nat} (hd : d < 64) :
    exec (.correctedError d none) s = .next (s.updDom d fun x => { x with ce := sat32 (x.ce + 1) }) := by
  rw [exec_correctedError]; unfold execCorrectedError; rw [if_neg (by omega)]
/-- A word that cannot be corrected is counted and marked. -/
theorem correctedError_some {s : State} {d : Nat} (hd : d < 64) (w : Nat) :
    ∃ t, exec (.correctedError d (some w)) s = .next t ∧ w ∈ t.poison ∧ t.dom d = { s.dom d with ue := sat32 ((s.dom d).ue + 1) } := by
  rw [exec_correctedError]
  unfold execCorrectedError
  rw [if_neg (by omega)]
  refine ⟨_, rfl, ?_, State.dom_updDom_same s d fun x => { x with ue := sat32 (x.ue + 1) }⟩
  dsimp only
  split
  · exact List.contains_iff_mem.mp ‹_›
  · exact List.mem_append_right _ (List.mem_singleton_self w)

theorem islandPowerOff_next {s : State} {d : Nat} (hd : d < 64) (hr : (s.dom d).reqC = 3) (hc : (s.dom d).coff = false)
    (hidle : ∀ a < 132, let c := s.core d a; c.slots = [] ∧ c.umb.openCut = none ∧ c.umb.reqs = []) (hops : ∀ y ∈ s.ops, y.d ≠ d) :
    exec (.islandPowerOff d) s = .next (State.retable (State.updDom
      ((List.range 132).foldl (fun s a => (s.coreEmptyL1 d a).updCore d a fun c => { c with stopped := true, tlb := [] }) s) d fun x =>
        { x with coff := true, effC := 3, l1 := [] })) := by
  have hall : ((List.range 132).all fun a => let c := s.core d a; c.slots.isEmpty && c.umb.openCut.isNone && c.umb.reqs.isEmpty) = true := by
    rw [List.all_eq_true]
    intro a ha
    obtain ⟨h1, h2, h3⟩ := hidle a (List.mem_range.mp ha)
    simp [h1, h2, h3]
  have hnone : (s.ops.any fun x => x.d = d) = false := by
    rw [List.any_eq_false]; intro y hy; simp [hops y hy]
  rw [exec_islandPowerOff]
  unfold execIslandPowerOff
  dsimp only
  rw [hall, hnone, if_neg (by simp [hd, hr, hc])]

/-- Settles O49, one lemma per event. -/
theorem serviceEventsComplete : Obligations.ServiceEventsComplete := by
  unfold Obligations.ServiceEventsComplete
  intro s d a hd
  refine ⟨?host, ?islands, fun hp hu => uncoreIslandPowerReturn_next hd hp hu,
    fun hp => ⟨fun keep => modulePowerLoss_next keep hp, thermalTrip_first hp, thermalTrip_second hp⟩, moduleBringUp_boot, moduleBringUp_open,
    fun _ _ => unitRetirement_core, fun _ _ _ => unitRetirement_slot, fun _ _ _ => unitRetirement_bank, ?units, fun _ _ => unitRetirement_repaired,
    clockSourceFail_next, powerLimitStep_lower_core hd, powerLimitStep_lower_uncore hd, powerLimitStep_raise_core hd, powerLimitStep_raise_uncore hd,
    supplyDroop_core hd, supplyDroop_uncore hd, correctedError_none hd, correctedError_some hd, islandPowerOff_next hd⟩
  case host =>
    intro link bar off pa hl hp hu hb hr
    refine ⟨fun n h0 hn => ⟨hostRead_ctl hl hp hu hb hr h0 hn, fun hc ht hk => ⟨fun hf => ?_, fun hf => ?_⟩⟩,
      fun bs h0 hn => ⟨fun hc hw => ⟨fun hx => ?_, fun x hx => ?_⟩, hostWrite_mem hl hp hu hb hr h0 hn⟩⟩
    · rw [hostRead_mem hl hp hu hb hr h0 hn hc ht hk, if_neg (by simp [hf])]
    · rw [hostRead_mem hl hp hu hb hr h0 hn hc ht hk, if_pos hf]
    · rw [hostWrite_ctl hl hp hu hb hr rfl rfl h0 hn hc hw, hx]
    · rw [hostWrite_ctl hl hp hu hb hr rfl rfl h0 hn hc hw, hx]
  case islands =>
    intro hp hu
    refine ⟨fun fin => computeIslandPowerFail_next fin hd hp hu, fun hc hus hst => ⟨fun hn => ?_, fun w m v hn hm hv => ?_⟩,
      fun v hus hst hheld hv => ?_, fun keep => uncoreIslandPowerLoss_next keep hd hp hu⟩
    · exact coreResume_settles hst hp hu (by rw [if_pos hus]; simp [hc]) (State.settleCore_empty hn)
    · exact coreResume_settles hst hp hu (by rw [if_pos hus]; simp [hc]) (State.settleCore_resume hn hm hv hus)
    · exact coreResume_settles hst hp hu (by rw [if_neg (by simp [hus])]; simpa [Option.isSome_iff_ne_none] using hheld) hv
  case units =>
    refine ⟨fun g hg hu => ?_, fun k hk hu => ?_, fun p hp hu => ?_, fun p hp hg hu => ?_⟩
    · exact unitRetirement_next (f := id) (ok := d < 64 && g < 24) (by simp [hd, hg]) hu rfl
    · exact unitRetirement_next (f := id) (ok := d < 64 && k < 1024) (by simp [hd, hk]) hu rfl
    · exact unitRetirement_next (f := fun t => t.portsGone s) (ok := s.portPresent p) hp hu rfl
    · exact unitRetirement_next (f := fun s => s.poolRetired p) (ok := p < 8 && !s.svc.poolGone.contains p) (by simp [hp, hg]) hu rfl

end Sys2Proof.Machine
end

-- ==== Operations that write memory: its canonical form is kept (O56, O57) ====
section
/-! PROOF. The form of memory: each operation that writes to a home keeps the canonical form, as each of the others keeps what any `Q` asks;
so every instruction does, and every step. An instruction that is no home writer leaves memory as it was. -/

namespace Sys2Proof.Machine

variable {Q : Kept → Prop}

/-- Memory is in its canonical form: the listed addresses ascend, and none is listed with the byte it would read without. -/
def Canonical (k : Kept) : Prop := Memory.wf k.2.1 k.1 = true

theorem Canonical.mapFree : MapFree Canonical := fun _ _ _ _ h => h
theorem canonical_foldl {β : Type} {f : State → β → State} (hf : ∀ s x, Canonical s.kept → Canonical (f s x).kept) {l : List β} {s : State}
    (h : Canonical s.kept) : Canonical (l.foldl f s).kept := by
  induction l generalizing s with
  | nil => exact h
  | cons x l ih => exact ih (hf s x h)
/-- Both arms of a test keep the form. -/
theorem canonical_if {c : Prop} [Decidable c] {s t : State} (hs : Canonical s.kept) (ht : Canonical t.kept) :
    Canonical (if c then s else t).kept := by split <;> assumption

/-! ## Stores and write-backs -/

@[simp] theorem State.homeWrite_canonical {s : State} (pa : Nat) (bs : List Byte) (d : Nat) (rel : Bool) (op : Option Nat) (sys : Bool)
    (h : Canonical s.kept) : Canonical (s.homeWrite pa bs d rel op sys).kept := State.homeWrite_memOk pa bs d rel op sys h
@[simp] theorem State.writeBack_canonical {s : State} (d sec : Nat) (rel : Bool) (op : Option Nat) (sys : Bool) (h : Canonical s.kept) :
    Canonical (s.writeBack d sec rel op sys).kept := State.writeBack_memOk d sec rel op sys h
@[simp] theorem State.writeBackAll_canonical {s : State} (d : Nat) (rel : Bool) (op : Option Nat) (sys : Bool) (h : Canonical s.kept) :
    Canonical (s.writeBackAll d rel op sys).kept := State.writeBackAll_memOk d rel op sys h
@[simp] theorem State.storeDom_canonical {s : State} (d : Nat) (l1 : L1Use) (pa : Nat) (bs : List Byte) (h : Canonical s.kept) :
    Canonical (s.storeDom d l1 pa bs).kept := State.storeDom_memOk d l1 pa bs h
@[simp] theorem State.storeWide_canonical {s : State} (d : Nat) (l1 : L1Use) (pa : Nat) (bs : List Byte) (rel : Bool) (op : Option Nat) (sys : Bool)
    (h : Canonical s.kept) : Canonical (s.storeWide d l1 pa bs rel op sys).kept := State.storeWide_memOk d l1 pa bs rel op sys h
theorem State.served_fold {Q : Kept → Prop} {β : Type} (q : Asker) (f : β → Nat) (l : List β) {s : State} (h : Q s.kept) :
    Q (l.foldl (fun s x => s.served q (f x)) s).kept := by
  rw [State.kept_foldl fun _ _ => by simp]; exact h
theorem State.flush_canonical {s t : State} {d : Nat} {q : Asker} {n : Nat} {sys : Bool} (h : Canonical s.kept) (ht : s.flush d q n sys = .made t) :
    Canonical t.kept := by
  unfold State.flush at ht
  dsimp only at ht
  repeat' split at ht
  all_goals cases ht
  exact State.served_fold _ _ _ (by simp [h])
theorem State.engineUpdate_canonical {s t : State} {d : Nat} {q : Asker} {pa n : Nat} {rel : Option Nat} {f : List Byte → List Byte}
    (h : Canonical s.kept) (ht : s.engineUpdate d q pa n rel f = .ok t) : Canonical t.kept := by
  unfold State.engineUpdate at ht
  extract_lets p held s1 s2 bs at ht
  have h2 : Canonical s2.kept := canonical_if (by simp [s1, h]) (by simpa [s1] using h)
  clear_value s2
  split at ht
  · cases ht
  · split at ht
    · cases ht
    · cases ht; exact canonical_if (by simp [h2]) (by simp [h2])
theorem State.stepFin_canonical {s t : State} {d i : Nat} (h : Canonical s.kept) (ht : s.stepFin d i = some t) : Canonical t.kept := by
  unfold State.stepFin at ht
  dsimp only at ht
  split at ht
  · cases ht
  · split at ht
    · cases ht
    · split at ht
      · cases ht
      · cases ht; simpa using h
      · next u hf =>
        have hu := State.flush_canonical h hf
        cases ht; simpa using hu
  · have hw : Canonical (s.walkStore d (rASID (s.recAt d i).ws) (compAddr (s.recAt d i).ws) (.task d i)).2.kept := by simpa using h
    generalize s.walkStore d (rASID (s.recAt d i).ws) (compAddr (s.recAt d i).ws) (.task d i) = w at ht hw
    split at ht
    · cases ht
    · split at ht
      · split at ht
        · cases ht
        · cases ht; exact hw
      · split at ht
        · split at ht
          · cases ht; simpa using hw
          · split at ht
            · cases ht
            · cases ht; simpa using hw
            · next u he =>
              have hu := State.engineUpdate_canonical hw he
              cases ht; simpa using hu
        · cases ht; simpa using hw
  · split at ht
    · cases ht
    · cases ht; simpa using h

/-! ## Stores, fences and cache operations of the load/store engine -/

@[simp] theorem State.writePart_canonical {s : State} (x : Op) (nt rel : Bool) (scp ty : Nat) (pl : Place) (bs : List Byte) (h : Canonical s.kept) :
    Canonical (s.writePart x nt rel scp ty pl bs).kept := by
  unfold State.writePart
  split
  · refine canonical_if (by simpa using h) (canonical_if ?_ (by simp [h]))
    exact canonical_if (State.storeWide_canonical _ _ _ _ _ _ _ h) (by simp [h])
  all_goals simpa using h
@[simp] theorem State.cacheLine_canonical {s : State} (d a scp : Nat) (inv : Bool) (line : Nat) (h : Canonical s.kept) :
    Canonical (s.cacheLine d a scp inv line).kept := by
  unfold State.cacheLine
  extract_lets secs s1 s2
  have h1 : Canonical s1.kept := canonical_foldl (fun _ _ h => canonical_if (canonical_if (by simpa using h) (by simpa using h)) h) h
  have h2 : Canonical s2.kept := canonical_if (by simpa using h1) h1
  exact canonical_if (canonical_foldl (fun _ _ h => canonical_if (by simp [h]) (by simp [h])) h2) h2
@[simp] theorem State.flushSector_canonical {s : State} (d : Nat) (inv sys : Bool) (sec : Nat) (h : Canonical s.kept) :
    Canonical (s.flushSector d inv sys sec).kept := by
  unfold State.flushSector
  exact canonical_if (canonical_if (by simpa using h) (by simpa using h)) (canonical_if (by simp [h]) (by simp [h]))
theorem State.releasing_canonical {s : State} {x : Op} {sys : Bool} {go : Out} (h : Canonical s.kept) (hg : Out.Leaves Canonical go) :
    Out.Leaves Canonical (s.releasing x sys go) := by
  unfold State.releasing
  refine Out.leaves_if ?_ (Out.leaves_if trivial hg)
  split
  · trivial
  · simpa using h
  · rename_i hf; simpa using State.flush_canonical h hf
@[simp] theorem State.storePart_canonical {s : State} (x : Op) (ord scp : Nat) (p : Part) (h : Canonical s.kept) :
    Canonical (s.storePart x ord scp p).kept := by
  unfold State.storePart
  dsimp only
  split <;> simp [h]
/-- Done or still waiting, the state holds what `Q` asks. -/
def Tried.Leaves (Q : Kept → Prop) : Tried → Prop
  | .ok t | .wait t => Q t.kept
theorem Tried.leaves_out {Q : Kept → Prop} {r : Tried} {old : State} {go : State → Out} (hr : r.Leaves Q) (hg : ∀ t, Q t.kept → Out.Leaves Q (go t)) :
    Out.Leaves Q (r.out old go) := by
  cases r with
  | ok t => exact hg t hr
  | wait t => exact State.waiting_leaves _ _ hr
theorem State.ctlSector_leaves {Q : Kept → Prop} {s : State} (d o : Nat) (bs : List Byte) (h : Q s.kept) : (s.ctlSector d o bs).Leaves Q := by
  cases hr : s.ctlSector d o bs with
  | ok t => exact (State.ctlSector_kept.1 t hr ▸ h :)
  | wait t => exact (State.ctlSector_kept.2 t hr ▸ h :)
theorem State.storeParts_canonical {s : State} (x : Op) (ord scp : Nat) (ps : List Part) (h : Canonical s.kept) :
    (s.storeParts x ord scp ps).Leaves Canonical := by
  have he : Canonical (ps.foldl (fun s p => s.storePart x ord scp p) s).kept := canonical_foldl (fun _ _ h => by simp [h]) h
  unfold State.storeParts
  extract_lets each
  split
  · split
    · extract_lets d o
      clear_value d o
      split
      · exact State.ctlSector_leaves _ _ _ h
      · exact canonical_if (by simpa using h) he
    · exact he
  · exact he
theorem State.storeGo_canonical {s : State} {x : Op} {ord scp : Nat} {ps : List Part} {k : OpK} {d : Bool} {ls : Mask} {ts : List Nat} (h : Canonical
    s.kept) :
    Out.Leaves Canonical ((s.storeParts x ord scp ps).out s fun s =>
      let s := s.applyTagPart x.d x.a x.jent d ls ts []
      .next (s.setOp { x with k := k, performed := k.parts.isEmpty && !s.confirming x.id })) :=
  Tried.leaves_out (State.storeParts_canonical x ord scp ps h) fun t ht => by simpa using ht
/-- A store, a fence, a cache operation, a flush is performed. -/
theorem execStorePerformed_canonical (o : Nat) (pl : Place) (s : State) (h : Canonical s.kept) : Out.Leaves Canonical (execStorePerformed o pl s) :=
    by
  unfold execStorePerformed
  split
  · trivial
  refine Out.leaves_if trivial ?_
  split
  · extract_lets rel ps k go
    have hg : Out.Leaves Canonical go := by
      dsimp only [go]
      split
      · simpa using h
      · exact State.storeGo_canonical h
    clear_value go
    exact Out.leaves_if (Out.leaves_if trivial (by simpa using h)) (Out.leaves_if trivial (Out.leaves_if (State.releasing_canonical h hg) hg))
  · refine Out.leaves_if trivial ?_
    extract_lets s1 s2 go
    have hg : Out.Leaves Canonical go := by
      have h2 : Canonical s2.kept := canonical_if (by simpa [s1] using h) (by simpa [s1] using h)
      simpa [go] using h2
    clear_value go
    exact Out.leaves_if (State.releasing_canonical h hg) hg
  · refine Out.leaves_if trivial ?_
    split
    · simpa using h
    · rw [Out.leaves_next, State.setOp_kept]
      exact canonical_foldl (fun _ _ h => by simp [h]) h
  · refine Out.leaves_if trivial ?_
    split
    · simpa using h
    · rw [Out.leaves_next, State.setOp_kept]
      exact canonical_foldl (fun _ _ h => by simp [h]) h
  · trivial

/-! ## Durability, home updates and replacements, pool links -/

@[simp] theorem State.makeDurable_canonical {s : State} (d a n : Nat) (h : Canonical s.kept) : Canonical (s.makeDurable d a n).kept :=
  canonical_foldl (fun _ _ h => by simp [h]) h
@[simp] theorem State.cutDurable_canonical {s : State} (x : Op) (h : Canonical s.kept) : Canonical (s.cutDurable x).kept := by
  unfold State.cutDurable
  split
  · exact State.served_fold _ _ _ (by simp [h])
  · exact h
theorem execSlotComplete_canonical (o : Nat) (s : State) (h : Canonical s.kept) : Out.Leaves Canonical (execSlotComplete o s) := by
  unfold execSlotComplete
  split
  · refine Out.leaves_if ?_ trivial
    split
    · simpa using h
    · exact Out.leaves_if trivial (Out.leaves_if (by simp [h]) (by simp [h]))
  · trivial
theorem execHomeUpdate_canonical (d sec : Nat) (s : State) (h : Canonical s.kept) : Out.Leaves Canonical (execHomeUpdate d sec s) :=
  Out.leaves_if trivial (State.sliceAsks_leaves _ _ _ _ h (by simp [h]))
theorem execSliceReplacement_canonical (d line : Nat) (s : State) (h : Canonical s.kept) :
    Out.Leaves Canonical (execSliceReplacement d line s) := by
  unfold execSliceReplacement
  extract_lets secs go
  have hg : Canonical go.kept := canonical_foldl (fun _ _ h => by simp [h]) h
  clear_value go
  refine Out.leaves_if trivial (Out.leaves_if ?_ (Out.leaves_if (State.sliceAsks_leaves _ _ _ _ h hg) hg))
  rw [Out.leaves_next, State.kept_foldl fun _ _ => by simp]
  exact h
@[simp] theorem State.poolReturned_canonical {s : State} (p : Nat) (h : Canonical s.kept) : Canonical (s.poolReturned p).kept :=
  canonical_foldl (fun _ _ h => by simpa using h) (canonical_foldl (fun _ _ h => canonical_foldl (fun _ _ h => by simp [h]) h) h)
theorem execPoolLinkUp_canonical (p : Nat) (s : State) (h : Canonical s.kept) : Out.Leaves Canonical (execPoolLinkUp p s) :=
  Out.leaves_if trivial (State.poolReturned_canonical p (by simpa using h))

/-! ## Objects that move between tiers -/

@[simp] theorem State.movePiece_canonical {s : State} (d : Nat) (up : Bool) (p : Nat × Nat × Nat) (h : Canonical s.kept) :
    Canonical (s.movePiece d up p).kept := by
  unfold State.movePiece
  simp [h]
/-- The state a move of pieces ends in holds what `Q` asks. -/
def Moved.Leaves (Q : Kept → Prop) : Moved → Prop
  | .ok t | .failed t | .wait t => Q t.kept
theorem State.movePieces_leaves {d asid : Nat} {up : Bool} {k t1 bk n : Nat} {s : State} (h : Q s.kept) :
    (State.movePieces d asid up k s t1 bk n).2.Leaves Q := by
  induction k generalizing s t1 bk n with
  | zero => exact h
  | succ k ih =>
    unfold State.movePieces
    split
    · exact h
    · extract_lets m rt rb
      have hb : Q rb.2.kept := by simpa [rb, rt] using h
      clear_value rb rt
      split
      · split
        · exact hb
        · exact ih hb
      all_goals exact hb
theorem Obj.move_canonical {o : Obj} {s : State} {d : Nat} {up : Bool} (h : Canonical s.kept) : (o.move s d up).Leaves Canonical := by
  unfold Obj.move
  extract_lets n r go
  have hr : r.2.Leaves Canonical := State.movePieces_leaves h
  clear_value r
  have hgo : ∀ (t : State) (fin : State → Moved), Canonical t.kept → (∀ u, Canonical u.kept → (fin u).Leaves Canonical) →
      (go t fin).Leaves Canonical := by
    intro t fin ht hf
    dsimp only [go]
    split
    · exact ht
    · split
      · show Canonical _; simpa using ht
      · exact hf _ (canonical_foldl (fun _ _ h => by simp [h]) ht)
  clear_value go
  split <;> rename_i hq <;> rw [hq] at hr
  · exact hr
  · exact hgo _ _ hr fun _ h => h
  · exact hgo _ _ hr fun _ h => h
theorem execPromotionDone_canonical (d idx : Nat) (s : State) (h : Canonical s.kept) : Out.Leaves Canonical (execPromotionDone d idx s) := by
  unfold execPromotionDone
  extract_lets o off
  have hoff : ∀ t, (off t).kept = t.kept := fun _ => by simp [off]
  clear_value off
  have hm := Obj.move_canonical (o := o) (d := d) (up := true) h
  refine Out.leaves_if trivial ?_
  split <;> rename_i hq <;> rw [hq] at hm <;> change Canonical _ at hm
  · exact State.waiting_leaves _ _ hm
  · simpa [hoff] using hm
  · dsimp only
    rw [Out.leaves_next, State.logEvent_kept, State.kept_foldl fun _ _ => by simp, State.kept_foldl fun _ _ => by simp, State.updObj_kept, hoff]
    exact hm
theorem execObjectEvictionDone_canonical (d idx : Nat) (s : State) (h : Canonical s.kept) : Out.Leaves Canonical (execObjectEvictionDone d idx s) :=
    by
  unfold execObjectEvictionDone
  extract_lets o
  have hm : (if o.wb then o.move s d false else .ok s).Leaves Canonical := by
    split
    · exact Obj.move_canonical h
    · exact h
  refine Out.leaves_if trivial ?_
  split <;> rename_i hq <;> rw [hq] at hm <;> change Canonical _ at hm
  · exact State.waiting_leaves _ _ hm
  · dsimp only
    rw [Out.leaves_next, State.kept_ite, State.requestPromotion_kept, ite_self, State.kept_foldl fun _ _ => by simp, State.updObj_kept]
    exact hm
  · dsimp only
    rw [Out.leaves_next, State.settleObj_kept, State.logEvent_kept, State.kept_foldl fun _ _ => by simp, State.updObj_kept]
    exact hm

/-! ## Copies -/

theorem State.copyGo_canonical {s : State} {x : Op} {ord scp : Nat} {go : Out} (h : Canonical s.kept) (hg : Out.Leaves Canonical go) :
    Out.Leaves Canonical (s.copyGo x ord scp go) :=
  Out.leaves_if trivial (Out.leaves_if hg (Out.leaves_if trivial (Out.leaves_if hg (State.releasing_canonical h hg))))
@[simp] theorem State.copyWrite_canonical {s : State} (x : Op) (shd : Bool) (scp : Nat) (g : Seg) (bs : List Byte) (h : Canonical s.kept) :
    Canonical (s.copyWrite x shd scp g bs).kept := by
  unfold State.copyWrite
  split
  · split
    · simp [h]
    · rw [State.notePersist_kept]; exact canonical_if (by simp [h]) (by simp [h])
  · simpa using h
  · simp [h]
  · simp [h]
@[simp] theorem State.sectorDone_canonical {s : State} (x : Op) (shd : Bool) (scp : Nat) (gs : List (Seg × List Byte)) (k : OpK)
    (h : Canonical s.kept) : Canonical (s.sectorDone x shd scp gs k).kept := by
  unfold State.sectorDone
  rw [State.updCopyRec_kept, State.setOp_kept]
  exact canonical_foldl (fun _ _ h => by simp [h]) h
theorem execCpymRequestArrival_canonical (o : Nat) (s : State) (h : Canonical s.kept) : Out.Leaves Canonical (execCpymRequestArrival o s) := by
  unfold execCpymRequestArrival
  split
  · split
    · refine State.copyGo_canonical h ?_
      dsimp only
      split
      · exact Out.leaves_if (by simpa using h) (by simpa using h)
      · simpa using h
    · trivial
  · trivial
theorem State.gather_kept {s t : State} {x y : Op} {got l : List (Place × List Byte)} {gs : List Seg} (ht : s.gather x got gs = .ok l y t) :
    t.kept = s.kept := by
  induction gs generalizing s x got with
  | nil => cases ht; rfl
  | cons g gs ih =>
    unfold State.gather at ht
    split at ht
    · exact ih ht
    · split at ht
      · cases ht
      · cases ht
      · rename_i hr
        rw [ih ht, State.kept_of_readSector hr]
/-- The state a read of an image ends in holds what `Q` asks. -/
def ImageRes.Leaves (Q : Kept → Prop) : ImageRes → Prop
  | .ok _ t | .failed t | .wait t | .refused _ t => Q t.kept
theorem State.kept_of_objTrans {s t : State} {d asid va : Nat} {kind : Kind} {x : Trans} (h : s.objTrans d asid va kind = (x, t)) :
    t.kept = s.kept := by rw [← s.objTrans_kept d asid va kind, h]
theorem State.imageSectors_leaves {s : State} {x : Op} {asid : Nat} {got : List (Place × List Byte)} {vas : List Nat} (h : Q s.kept) :
    (s.imageSectors x asid got vas).Leaves Q := by
  induction vas generalizing s got with
  | nil => exact h
  | cons va vas ih =>
    unfold State.imageSectors
    split
    · exact ih h
    · split <;> rename_i ht <;> have ht := State.kept_of_objTrans ht <;> rw [← ht] at h
      · exact h
      · exact h
      · split
        · exact h
        · split
          · exact h
          · split
            · exact h
            · exact ih (by simpa using h)
theorem execCopySectorWrite_canonical (o : Nat) (pl : Place) (s : State) (h : Canonical s.kept) :
    Out.Leaves Canonical (execCopySectorWrite o pl s) := by
  unfold execCopySectorWrite
  split
  · trivial
  extract_lets mine rest may
  have hmay : ∀ shd scp gs go, Out.Leaves Canonical go → Out.Leaves Canonical (may shd scp gs go) := by
    intro shd scp gs go hg
    refine Out.leaves_if trivial ?_
    split
    · simpa using h
    · exact hg
  clear_value may
  split
  · refine State.copyGo_canonical h (hmay _ _ _ _ ?_)
    dsimp only
    split
    · trivial
    · simpa using h
    · rename_i hg
      have hg := State.gather_kept hg
      exact State.sectorDone_canonical _ _ _ _ _ (hg ▸ h :)
  · dsimp only
    split
    · exact hmay _ _ _ _ (State.sectorDone_canonical _ _ _ _ _ h)
    · split
      · trivial
      · refine Out.leaves_if trivial ?_
        split
        · rename_i hs
          rw [Out.leaves_next, State.closeGroup_kept, State.kept_of_sendThrough hs]; exact h
        · trivial
        · simpa using h
  · refine State.copyGo_canonical h (hmay _ _ _ _ ?_)
    dsimp only
    have hi := fun y got vas => @State.imageSectors_leaves Canonical s ‹Op› y got vas h
    split <;> rename_i hq <;> have hi := hq ▸ hi _ _ _ <;> change Canonical _ at hi
    · exact State.sectorDone_canonical _ _ _ _ _ hi
    · simpa using hi
    · simpa using hi
    · exact State.waiting_leaves _ _ hi
  · trivial

/-! ## Drains -/

@[simp] theorem State.drainPrepare_canonical {s : State} (x : Op) (sys : Bool) (sec : Place) (h : Canonical s.kept) :
    Canonical (s.drainPrepare x sys sec).kept := by
  unfold State.drainPrepare
  split
  · exact canonical_if (by simpa using h) (by simp [h])
  · exact h
@[simp] theorem State.drainWrite_canonical {s : State} (x : Op) (rel sys : Bool) (sec : Place) (r : Nat × List Byte) (h : Canonical s.kept) :
    Canonical (s.drainWrite x rel sys sec r).kept := by
  unfold State.drainWrite
  split
  · extract_lets s1 s2
    have h1 : Canonical s1.kept := by simp [s1, h]
    have h2 : Canonical s2.kept := canonical_if (by simpa using h1) h1
    exact canonical_if h2 (by simpa using h2)
  · simpa using h
  · exact h
  · exact h
@[simp] theorem State.drainApply_canonical {s : State} (x : Op) (op : Nat) (lit : Word) (reg : Nat) (tile : Option Nat) (tid : Nat) (es : List DElem)
    (h : Canonical s.kept) : Canonical (s.drainApply x op lit reg tile tid es).kept := by
  unfold State.drainApply
  extract_lets scp rel secs w s1 b r s2 s3 wide data s4 s5 s6
  have h1 : Canonical s1.kept := canonical_foldl (fun _ _ h => by simp [h]) h
  have h2 : Canonical s2.kept := by
    rw [show s2.kept = s1.kept from State.kept_foldl (fun _ _ => by simp) _ _]; exact h1
  have h3 : Canonical s3.kept := canonical_foldl (fun _ _ h => canonical_foldl (fun _ _ h => by simp [h]) h) h2
  rw [State.setOp_kept]
  exact canonical_if (by simpa [s5, s4] using h3) (by simpa [s5, s4] using h3)
theorem execDrainUpdateApply_canonical (o : Nat) (s : State) (h : Canonical s.kept) : Out.Leaves Canonical (execDrainUpdateApply o s) := by
  unfold execDrainUpdateApply
  split
  · trivial
  split
  · extract_lets scp secs go
    have hg : Out.Leaves Canonical go := State.drainTake_leaves _ _ _ _ h (by simp [h])
    clear_value go
    exact Out.leaves_if trivial (Out.leaves_if (Out.leaves_if trivial (by simpa using h))
      (Out.leaves_if trivial (Out.leaves_if (State.releasing_canonical h hg) hg)))
  · trivial

/-! ## Words that release what their core has written -/

/-- The release of an engine word keeps the form, where what follows it does. -/
theorem Env.release_canonical {e : Env} {s : State} {scp : Nat} {k : State → Act} (h : Canonical s.kept)
    (hk : ∀ t, Canonical t.kept → (k t).Leaves Canonical) : (e.release s scp k).Leaves Canonical := by
  unfold Env.release
  extract_lets mark
  have hm : ∀ t r, Canonical t.kept → Canonical (mark t r).kept := by
    intro t r ht
    dsimp only [mark]
    exact canonical_if (by simpa using ht) (by simpa using ht)
  clear_value mark
  refine Act.leaves_if trivial (Act.leaves_if (hk _ h) ?_)
  split
  · exact Act.leaves_if trivial (hk _ (hm _ _ h))
  · split
    · trivial
    · exact Env.stay_leaves _ _ (by simpa using h)
    · rename_i t hf
      have ht : Canonical t.kept := State.flush_canonical h hf
      exact Act.leaves_if (Env.stay_leaves _ _ (hm _ _ (by simpa using ht))) (hk _ (by simpa using ht))
theorem Env.readRecord_canonical {e : Env} {ba : Nat} {always : Bool} {k : List Word → State → Act} (h : Canonical e.s.kept)
    (hk : ∀ ws t, Canonical t.kept → (k ws t).Leaves Canonical) : (e.readRecord ba always k).Leaves Canonical := by
  unfold Env.readRecord
  extract_lets va
  refine Act.leaves_if trivial ?_
  have ht : Canonical (e.translate e.s va .load 64).2.kept := by simpa using h
  split <;> rename_i hq <;> rw [hq] at ht <;> change Canonical (State.kept _) at ht
  · exact ht
  · exact Env.stay_leaves _ _ ht
  · split
    · exact ht
    · refine Env.release_canonical ht fun u hu => ?_
      split
      · trivial
      · exact Env.stay_leaves _ _ (by simpa using hu)
      · rename_i hr
        have hr := State.kept_of_readSector hr
        dsimp only
        split <;> rename_i hc <;> have hc := State.kept_of_recCode hc <;> rw [State.keepCopy_kept, hr] at hc <;> rw [← hc] at hu
        · exact Env.stay_leaves _ _ hu
        · exact hk _ _ hu
        · exact hu
theorem execEnq_canonical (f : AsyW) (s : State) (h : Canonical s.kept) : Out.Leaves Canonical (execEnq f s) :=
  issueAsy_leaves h fun _ h => Env.slotted_leaves h <| Env.readRecord_canonical h fun _ _ h =>
    Act.leaves_if (Env.stay_leaves _ _ h) (Env.uniformOp_leaves h fun t => by simp)
theorem execSpawn_canonical (f : AsyW) (s : State) (h : Canonical s.kept) : Out.Leaves Canonical (execSpawn f s) := by
  refine issueAsy_leaves h fun e h => Env.slotted_leaves h <| Env.readRecord_canonical h fun ws t h => ?_
  refine Act.leaves_if h (Act.leaves_if h (Env.journal_leaves h (fun _ _ h => by simpa using h) fun j u h => ?_))
  split
  · exact h
  · rename_i hs
    have hs := State.spawnNow_kept _ _ _ _ _ hs
    exact Env.quick_leaves _ _ _ _ _ (by simpa [hs] using h)
theorem Env.change_canonical (e : Env) (f : AsyW) (inc : Bool) (h : Canonical e.s.kept) : (e.change f inc).Leaves Canonical := by
  refine Env.slotted_leaves h ?_
  have hb : ∀ t, Canonical t.kept →
      (e.uniformOp t f.d (e.sreg f.s.toNat) (handleDom (e.sreg f.s.toNat)) (f.s.toNat + 1) (e.changeNow (e.sreg f.s.toNat) (stepOf f.lit) inc)).Leaves
        Canonical := fun t ht => Env.uniformOp_leaves ht fun t => by simp
  exact Act.leaves_if (hb _ h) (Env.release_canonical h hb)
theorem execTdec_canonical (f : AsyW) (s : State) (h : Canonical s.kept) : Out.Leaves Canonical (execTdec f s) :=
  issueAsy_leaves h fun e h => e.change_canonical f false h
theorem execTinc_canonical (f : AsyW) (s : State) (h : Canonical s.kept) : Out.Leaves Canonical (execTinc f s) :=
  issueAsy_leaves h fun e h => e.change_canonical f true h
theorem State.rearmReady_leaves {Q : Kept → Prop} {s : State} {at' : Option (Nat × Nat)} (h : Q s.kept) : (s.rearmReady at').Leaves Q := by
  unfold State.rearmReady
  split
  · split
    · exact h
    · split
      · exact h
      · split <;> rename_i hr <;> exact (State.kept_of_recCode hr ▸ h :)
  · exact h
theorem execTrearm_canonical (f : AsyW) (s : State) (h : Canonical s.kept) : Out.Leaves Canonical (execTrearm f s) := by
  refine issueAsy_leaves h fun e h => Env.slotted_leaves h <| Env.release_canonical h fun t h => ?_
  dsimp only
  have hr := State.rearmReady_leaves (at' := e.rearmAt t (e.sreg f.s.toNat)) h
  split <;> rename_i hq <;> rw [hq] at hr
  · exact Env.stay_leaves _ _ hr
  · exact Env.uniformOp_leaves hr fun t => by simp
theorem Env.vpost_canonical (e : Env) (f : AsyW) (final : Bool) (h : Canonical e.s.kept) : (e.vpost f final).Leaves Canonical := by
  refine Env.slotted_leaves h ?_
  extract_lets S hd full body
  have hb : ∀ t, Canonical t.kept → (body t).Leaves Canonical := by
    intro t ht
    refine Act.leaves_if ht (Env.journal_leaves ht (fun _ u hu => canonical_if hu (by simpa using hu)) fun j u hu => ?_)
    split
    · exact Env.quick_leaves _ _ _ _ _ (by simpa using hu)
    · exact Act.leaves_if hu (Env.quick_leaves _ _ _ _ _ (by simpa using hu))
  clear_value body
  split
  · exact Act.leaves_if (hb _ h) (Env.quick_leaves _ _ _ _ _ h)
  · exact Env.release_canonical h fun t ht => Act.leaves_if (Env.stay_leaves _ _ ht) (hb _ ht)
theorem execVpost_canonical (f : AsyW) (s : State) (h : Canonical s.kept) : Out.Leaves Canonical (execVpost f s) :=
  issueAsy_leaves h fun e h => e.vpost_canonical f false h
theorem execVpostf_canonical (f : AsyW) (s : State) (h : Canonical s.kept) : Out.Leaves Canonical (execVpostf f s) :=
  issueAsy_leaves h fun e h => e.vpost_canonical f true h
@[simp] theorem State.recall_canonical {s : State} (sec : Nat) (h : Canonical s.kept) : Canonical (s.recall sec).kept := by
  refine canonical_foldl (fun s p h => ?_) h
  have hw := canonical_if (c := homeOf (64 * sec) = p.1) h (State.writeBack_canonical p.1 sec false none false h)
  simpa only [State.updDom_kept, State.l1Drop_kept] using hw
theorem execShmap_canonical (f : AsyW) (s : State) (h : Canonical s.kept) : Out.Leaves Canonical (execShmap f s) := by
  refine issueAsy_leaves h fun e h => Env.slotted_leaves h ?_
  extract_lets S hd va n trap
  have ht : ∀ t c, Canonical t.kept → (trap t c).Leaves Canonical := fun _ _ h => h
  clear_value trap
  refine Act.leaves_if (ht _ _ h) ?_
  have hl : Canonical (e.s.lookup e.loc.d e.loc.a e.blk.asid va).2.kept := by simpa using h
  split <;> rename_i hq <;> rw [hq] at hl <;> change Canonical (State.kept _) at hl
  · exact Env.stay_leaves _ _ hl
  · exact Env.stay_leaves _ _ hl
  · exact ht _ _ hl
  · split
    · exact ht _ _ hl
    · refine Act.leaves_if (ht _ _ hl) (Act.leaves_if (ht _ _ hl) ?_)
      dsimp only
      split
      · exact Env.quick_leaves _ _ _ _ _ hl
      · refine Act.leaves_if (Env.quick_leaves _ _ _ _ _ hl) (Act.leaves_if (Env.quick_leaves _ _ _ _ _ hl)
          (Act.leaves_if (Env.quick_leaves _ _ _ _ _ hl) (Act.leaves_if (Env.stay_leaves _ _ hl) ?_)))
        split
        · exact Env.stay_leaves _ _ (by simpa using hl)
        · refine Env.quick_leaves _ _ _ _ _ ?_
          rw [State.updTile_kept]
          exact State.served_fold (Q := Canonical) _ id _ (canonical_foldl (fun _ _ h => by simp [h]) hl)

/-! ## Words a sequencer replays -/

@[simp] theorem Env.replay_canonical {e : Env} {i : Instr} {act : Act} (h : Canonical e.s.kept) (ha : e.replay i = some act) :
    act.Leaves Canonical := by
  unfold Env.replay at ha
  split at ha
  case h_1 =>
    split at ha
    all_goals cases ha
    all_goals simp [h]
  case h_2 =>
    split at ha
    all_goals cases ha
    all_goals simp [h]
  case h_3 =>
    split at ha
    case h_6 => cases ha; exact Env.vpost_canonical _ _ _ h
    case h_7 => cases ha; exact Env.vpost_canonical _ _ _ h
    all_goals cases ha
    all_goals simp [h]
  case h_4 => cases ha
theorem execSeqWordReplay_canonical (d a : Nat) (s : State) (h : Canonical s.kept) : Out.Leaves Canonical (execSeqWordReplay d a s) := by
  unfold execSeqWordReplay
  extract_lets q s1
  have h1 : Canonical s1.kept := by simpa [s1] using h
  split
  · trivial
  refine Out.leaves_if trivial ?_
  split
  · simpa using h
  refine Out.leaves_if trivial ?_
  extract_lets e faultAt fault
  have hf : ∀ t c, Canonical t.kept → Out.Leaves Canonical (faultAt t c) := fun t c ht => by simpa [faultAt] using ht
  have hf1 : ∀ c, Out.Leaves Canonical (fault c) := fun c => hf s1 c h1
  have he : Canonical e.s.kept := h1
  clear_value faultAt fault e
  split
  · exact hf1 _
  extract_lets act
  have ha : ∀ x, act = some x → x.Leaves Canonical := by
    intro x hx
    dsimp only [act] at hx
    split at hx
    · cases hx; exact Env.replayQuartet_leaves _ _ _ _ he
    · split at hx
      · cases hx; trivial
      · split at hx
        · cases hx; trivial
        · exact Env.replay_canonical he hx
  clear_value act
  split
  · simpa using ha _ rfl
  · exact hf1 _
  · exact hf _ _ (ha _ rfl)
  · exact hf1 _
  · exact State.waiting_leaves _ _ (ha _ rfl)
  · trivial
  · trivial
  · exact hf1 _

/-! ## Blocks that leave -/

theorem State.blockRelease_canonical {s : State} {d : Nat} {bs : List Nat} {sys : Bool} {go : Out} (h : Canonical s.kept)
    (hg : Out.Leaves Canonical go) : Out.Leaves Canonical (s.blockRelease d bs sys go) := by
  unfold State.blockRelease
  split
  · exact Out.leaves_if trivial hg
  · split
    · trivial
    · simpa using h
    · rename_i t hf
      have ht : Canonical t.kept := State.flush_canonical h hf
      rw [Out.leaves_next, State.kept_foldl fun _ _ => by simp]
      simpa using ht
theorem execParkNeighbourOffer_canonical (d idx : Nat) (s : State) (h : Canonical s.kept) :
    Out.Leaves Canonical (execParkNeighbourOffer d idx s) := by
  unfold execParkNeighbourOffer
  extract_lets r
  split
  · refine Out.leaves_if trivial ?_
    split
    · trivial
    · refine Out.leaves_if trivial ?_
      dsimp only
      split
      · refine State.blockRelease_canonical h ?_
        split
        · rename_i hr; rw [Out.leaves_next, State.resumeUnit_kept _ _ _ _ hr]; exact h
        · trivial
      · trivial
  · trivial
/-- The state an update of a counter ends in holds what `Q` asks. -/
def AddRes.Leaves (Q : Kept → Prop) : AddRes → Prop
  | .ok t | .full t | .failed t | .wait t => Q t.kept
theorem State.counterAdd_canonical {s : State} (b : Nat) (l : Loc) (area : Nat) (p : Nat × Word) (h : Canonical s.kept) :
    (s.counterAdd b l area p).Leaves Canonical := by
  unfold State.counterAdd
  extract_lets va q w counted
  have hw : Canonical w.2.kept := by simpa [w] using h
  clear_value w
  split
  · exact hw
  · exact hw
  · split
    · exact hw
    · split
      · exact hw
      · rename_i he
        have he := State.exitEntry_kept he
        show Canonical _; rw [State.updBlock_kept]; exact he ▸ hw
      · rename_i he
        have he := State.exitEntry_kept he
        have hu := he ▸ hw
        split
        · exact hw
        · exact hw
        · rename_i ht
          have ht := State.engineUpdate_canonical hu ht
          show Canonical _; simpa using ht
theorem State.writeOut_canonical {s : State} (b : Nat) (l : Loc) (area : Nat) (ps : List (Nat × Word)) (h : Canonical s.kept) :
    Canonical (s.writeOut b l area ps).1.kept := by
  induction ps generalizing s with
  | nil => exact h
  | cons p ps ih =>
    unfold State.writeOut
    have hc := State.counterAdd_canonical b l area p h
    split <;> rename_i hq <;> rw [hq] at hc <;> change Canonical _ at hc
    · exact ih hc
    · exact hc
    · simpa using hc
    · exact hc
theorem execBlockExit_canonical (b : Nat) (s : State) (h : Canonical s.kept) : Out.Leaves Canonical (execBlockExit b s) := by
  unfold execBlockExit
  extract_lets x
  split
  · trivial
  · extract_lets u mine s1 r
    refine Out.leaves_if trivial (Out.leaves_if (Out.leaves_if trivial ?_) (Out.leaves_if trivial ?_))
    · rw [Out.leaves_next, State.askCut_kept, State.updBlock_kept]
      exact canonical_if (by simpa using h) h
    · have hr : Canonical r.1.kept := by
        dsimp only [r]
        split
        · exact State.writeOut_canonical _ _ _ _ h
        · exact h
      refine Out.leaves_if (State.waiting_leaves _ _ hr) (Out.leaves_if hr (State.blockRelease_canonical h ?_))
      split
      · simpa using h
      · rename_i he
        have he := State.exitEntry_kept he
        rw [Out.leaves_next, State.exitReport_kept, State.updBlock_kept]
        exact canonical_if (by simpa [he] using h) (by simpa [he] using h)
theorem execGridCompletion_canonical (d idx : Nat) (s : State) (h : Canonical s.kept) : Out.Leaves Canonical (execGridCompletion d idx s) := by
  unfold execGridCompletion
  refine Out.leaves_if trivial (Out.leaves_if ?_ (Out.leaves_if (State.waiting_leaves _ _ (by simpa using h)) (Out.leaves_if trivial ?_)))
  · split
    · rename_i hf; exact State.stepFin_canonical h hf
    · trivial
  · split
    · trivial
    · exact Out.leaves_if trivial (by simpa using h)
    · exact Out.leaves_if trivial (by simpa using h)

/-! ## Messages of the fabric -/

theorem execFenq_canonical (f : SysW) (s : State) (h : Canonical s.kept) : Out.Leaves Canonical (execFenq f s) := by
  refine issueSys_leaves h fun e h => ?_
  refine Act.leaves_if trivial (Act.leaves_if trivial ?_)
  split <;> rename_i hq <;> have hq := Env.kept_of_sendSectors hq <;> rw [← hq] at h
  · exact h
  · exact Env.stay_leaves _ _ h
  · refine Env.release_canonical h fun t ht => Act.leaves_if trivial ?_
    dsimp only
    split
    · trivial
    · exact Env.stay_leaves _ _ (by simpa using ht)
    · rename_i hr
      have hr := State.kept_of_readSector hr
      exact Env.sendMsg_leaves _ _ _ _ _ _ _ _ (by simpa [hr] using ht)
theorem State.fabGo_canonical {s : State} {x : Op} {m : FabOut} {line : Option (Nat × Nat)} {go : Out} (h : Canonical s.kept)
    (hg : Out.Leaves Canonical go) : Out.Leaves Canonical (s.fabGo x m line go) :=
  Out.leaves_if trivial (Out.leaves_if (State.releasing_canonical h hg) hg)
/-- Where an item is stored, the state holds what `Q` asks. -/
def FabRes.Leaves (Q : Kept → Prop) : FabRes → Prop
  | .ok _ t => Q t.kept
  | _ => True
theorem State.fabStore_canonical {s : State} (q : Asker) (pa : Nat) (rel : Option Nat) (bs : State → List Byte) (h : Canonical s.kept) :
    (s.fabStore q pa rel bs).Leaves Canonical := by
  unfold State.fabStore
  dsimp only
  split
  · simpa [FabRes.Leaves] using h
  split
  · trivial
  split
  · trivial
  · have hw : Canonical ((s.served q pa).storeWide (homeOf pa) .none pa (bs s) rel.isSome rel false).kept := by simp [h]
    exact canonical_if (by simpa using hw) hw
theorem State.fabStep_canonical {s : State} (t : Nat) (e : FabIn) (h : Canonical s.kept) : Canonical (s.fabStep t e).kept := by
  unfold State.fabStep
  extract_lets q fin put word
  have hfin : ∀ u c, Canonical u.kept → Canonical (fin u c).kept := fun u c hu => by simpa [fin] using hu
  have hput : ∀ u e, Canonical u.kept → Canonical (put u e).kept := fun u e hu => by simpa [put] using hu
  have hword : ∀ x, Canonical (word x).kept := by
    intro x
    dsimp only [word]
    split
    · exact hfin _ _ h
    · refine canonical_if h (canonical_if (hfin _ _ h) ?_)
      rename_i pa n _ _
      have hs := State.fabStore_canonical q pa (some n) (fun s => leBytes 4 (x (memNat s pa 4) % 2 ^ 32)) h
      split <;> rename_i hq <;> rw [hq] at hs
      · exact h
      · simpa using h
      · exact hput _ _ hs
    · refine canonical_if (hfin _ _ (by simpa using h)) ?_
      split
      · exact h
      · simpa using h
      · rename_i u hf
        have hu : Canonical u.kept := State.flush_canonical h hf
        exact hput _ _ (by simpa using hu)
  clear_value word put fin
  split
  · refine canonical_if (hfin _ _ (by simpa using h)) ?_
    split <;> rename_i hw
    · exact hfin _ _ (by rwa [State.windowEnq_kept.1 _ _ hw])
    · exact hfin _ _ (by rwa [State.windowEnq_kept.1 _ _ hw])
    · exact hfin _ _ (by rwa [State.windowEnq_kept.1 _ _ hw])
    · rwa [State.windowEnq_kept.2 _ hw]
  · exact hfin _ _ (by simpa using h)
  · exact hword _
  · exact hword _
  · exact h
theorem State.fabArrive_canonical {s : State} (m : FabMsg) (h : Canonical s.kept) : Out.Leaves Canonical (s.fabArrive m) := by
  unfold State.fabArrive
  split
  · exact Out.leaves_if trivial (State.waiting_leaves _ _ (State.fabStep_canonical _ _ h))
  · extract_lets go
    have hgo : ∀ t d e, Canonical t.kept → Out.Leaves Canonical (go t d e) := fun t d e ht => State.fabStep_canonical _ _ ht
    clear_value go
    split
    · exact Out.leaves_if trivial (State.fabGo_canonical h (State.fabAccept_leaves h hgo))
    · split
      · trivial
      · exact State.fabAccept_leaves h hgo
theorem execFabricC0Arrival_canonical (m : FabMsg) (s : State) (h : Canonical s.kept) : Out.Leaves Canonical (execFabricC0Arrival m s) :=
  Out.leaves_if (State.fabArrive_canonical m h) trivial
theorem execFabricC2Arrival_canonical (m : FabMsg) (s : State) (h : Canonical s.kept) : Out.Leaves Canonical (execFabricC2Arrival m s) :=
  Out.leaves_if (State.fabArrive_canonical m h) trivial
theorem State.fabSectors_canonical {q : Asker} {base : Option Nat} {k c : Nat} {l : List (List Byte)} {s : State} (h : Canonical s.kept) :
    (State.fabSectors q base k l c s).Leaves Canonical := by
  induction l generalizing k c s with
  | nil => exact h
  | cons bs l ih =>
    unfold State.fabSectors
    split
    · exact ih h
    · rename_i pa
      have hs := State.fabStore_canonical q (pa + 64 * k) none (fun _ => bs) h
      split
      · rename_i hq; rw [hq] at hs; exact ih hs
      · exact hs
theorem State.fabPacket_canonical {s : State} (t : Nat) (e : FabIn) (n k : Nat) (bytes : List Byte) (tag : Option Word) (h : Canonical s.kept) :
    (s.fabPacket t e n k bytes tag).Leaves Canonical := by
  unfold State.fabPacket
  extract_lets ks got last
  split
  · trivial
  have hs := State.fabSectors_canonical (q := fabAsker e.msg) (base := e.base) (k := k) (c := e.code) (l := chunks64 ks.length bytes) h
  split
  · rename_i u hq
    rw [hq] at hs
    change Canonical _ at hs
    split
    · show Canonical _; simpa using hs
    · extract_lets r
      have hr : Canonical r.2.kept := by
        dsimp only [r]
        split
        · simpa using hs
        · exact hs
      show Canonical _; simpa using hr
  · exact hs
theorem State.fabSector_canonical {s : State} (x : Op) (f : FabOut) (t : Nat) (e : FabIn) (n k : Nat) (bytes : List Byte) (tag : Option Word)
    (h : Canonical s.kept) : Out.Leaves Canonical (s.fabSector x f t e n k bytes tag) := by
  unfold State.fabSector
  split
  · trivial
  · simpa using h
  · rename_i bs pins u hr
    have hr := State.kept_of_readSector hr
    refine Out.leaves_if trivial ?_
    extract_lets v
    have hp := State.fabPacket_canonical t e n k bytes tag (s := v) (by simpa [v, hr] using h)
    clear_value v
    split
    · rename_i hq; rw [hq] at hp; exact hp
    · trivial
    · simpa using h
theorem execFabricC1Arrival_canonical (m : FabMsg) (s : State) (h : Canonical s.kept) : Out.Leaves Canonical (execFabricC1Arrival m s) := by
  unfold execFabricC1Arrival
  split
  · rename_i apr off n k bytes tag _
    extract_lets w go
    refine Out.leaves_if trivial ?_
    split
    · refine Out.leaves_if trivial (State.fabGo_canonical h ?_)
      split
      · exact Out.leaves_if trivial (State.fabSector_canonical _ _ _ _ _ _ _ _ h)
      · exact State.fabAccept_leaves h fun _ _ _ h => State.fabSector_canonical _ _ _ _ _ _ _ _ h
    · have hgo : ∀ t d e, Canonical t.kept → Out.Leaves Canonical (go t d e) := by
        intro t d e ht
        dsimp only [go]
        have hp := State.fabPacket_canonical d e n k bytes tag ht
        split <;> rename_i hq
        · rw [hq] at hp; exact hp
        · trivial
        · simpa using ht
      split
      · trivial
      · split
        · exact Out.leaves_if trivial (hgo _ _ _ h)
        · exact State.fabAccept_leaves h hgo
  · trivial
theorem State.fabReads_kept {q : Asker} {d : Nat} {l : List Nat} {pins ps : List (Nat × Bool)} {s t : State} {bs : List Byte}
    (ht : State.fabReads q d l pins s = .ok bs ps t) : t.kept = s.kept := by
  induction l generalizing s pins with
  | nil => cases ht; rfl
  | cons pa l ih =>
    unfold State.fabReads at ht
    split at ht
    · rename_i hr; rw [ih ht, State.kept_of_readSector hr]
    · exact State.kept_of_readSector ht
theorem execFabricAck_canonical (o : Nat) (status : Word) (s : State) (h : Canonical s.kept) : Out.Leaves Canonical (execFabricAck o status s) := by
  unfold execFabricAck
  split
  · split
    · refine Out.leaves_if trivial ?_
      split
      · exact Out.leaves_if (by simpa using h) trivial
      · refine Out.leaves_if trivial (State.fabGo_canonical h ?_)
        split
        · trivial
        · simpa using h
        · rename_i hr
          have hr := State.fabReads_kept hr
          simpa [hr] using h
    · trivial
  · trivial

/-! ## Words of the service engine, and units that retire -/

@[simp] theorem State.poolRetired_canonical {s : State} (p : Nat) (h : Canonical s.kept) : Canonical (s.poolRetired p).kept := by
  unfold State.poolRetired
  extract_lets s1
  exact (canonical_if h (State.poolReturned_canonical p h) : Canonical s1.kept)
theorem execUnitRetirement_canonical (u : RetUnit) (s : State) (h : Canonical s.kept) : Out.Leaves Canonical (execUnitRetirement u s) := by
  have hcore : ∀ {t : State} (r : Word × State), Canonical r.2.kept → (if r.1 = 0#32 then some r.2 else none) = some t → Canonical t.kept := by
    intro t r hr ht
    split at ht
    · cases ht; exact hr
    · cases ht
  have hat : ∀ d y x k i, Canonical (s.retireAt d y x k i).2.kept := fun d y x k i => State.retireAt_of Canonical.mapFree d y x k i h
  unfold execUnitRetirement
  extract_lets core
  split
  · rename_i t ht
    show Canonical t.kept
    split at ht
    · exact hcore _ (hat _ _ _ _ _) ht
    · exact hcore _ (hat _ _ _ _ _) ht
    · split at ht
      · cases ht
      · exact hcore _ (hat _ _ _ _ _) ht
    · exact State.retireOther_of (fun _ h => h) h ht
    · exact State.retireOther_of (fun _ h => h) h ht
    · exact State.retireOther_of (fun _ h => by simpa using h) h ht
    · exact State.retireOther_of (fun _ h => by simp [h]) h ht
    · exact State.repair_of Canonical.mapFree h ht
  · trivial
@[simp] theorem State.storeBuffer_canonical {s : State} (d : Nat) (ps : List (Nat × Nat)) (bs : List Byte) (h : Canonical s.kept) :
    Canonical (s.storeBuffer d ps bs).kept := by
  induction ps generalizing s bs with
  | nil => exact h
  | cons p ps ih => exact ih _ (by simp [h])
theorem execSvcQuote_canonical (f : SysW) (s : State) (h : Canonical s.kept) : Out.Leaves Canonical (execSvcQuote f s) := by
  refine issueSys_leaves h fun e h => Act.leaves_if trivial ?_
  split <;> rename_i hq <;> have hq := Env.kept_of_buffer hq <;> rw [← hq] at h
  · exact h
  · exact Env.stay_leaves _ _ h
  · exact Env.toBuffer_leaves h fun t ht => Env.quick_leaves _ _ _ _ _ (State.storeBuffer_canonical _ _ _ (by simpa using ht))
theorem execEvlogGet_canonical (f : SysW) (s : State) (h : Canonical s.kept) : Out.Leaves Canonical (execEvlogGet f s) := by
  refine issueSys_leaves h fun e h => Env.handlerOnly_leaves (Act.leaves_if trivial ?_)
  split <;> rename_i hq <;> have hq := Env.kept_of_buffer hq <;> rw [← hq] at h
  · exact h
  · exact Env.stay_leaves _ _ h
  · refine Act.leaves_if (Env.quick_leaves _ _ _ _ _ h) (Act.leaves_if (Env.quick_leaves _ _ _ _ _ h) ?_)
    split
    · exact Env.toBuffer_leaves h fun t ht => Env.quick_leaves _ _ _ _ _ (by simp [ht])
    · exact Env.quick_leaves _ _ _ _ _ h

/-! ## Loss of power, and the host -/

@[simp] theorem State.loseMemory_canonical {s : State} (ds keep : List Nat) (h : Canonical s.kept) : Canonical (s.loseMemory ds keep).kept :=
  State.loseMemory_memOk ds keep h
@[simp] theorem State.loseUncore_canonical {s : State} (ds keep : List Nat) (h : Canonical s.kept) : Canonical (s.loseUncore ds keep).kept := by
  unfold State.loseUncore
  extract_lets lost s1 s2 tiles s3 away s4
  have h1 : Canonical s1.kept := canonical_foldl (fun _ _ h => canonical_if (by simpa using h) h) h
  have h2 : Canonical s2.kept := h1
  have h3 : Canonical s3.kept := canonical_foldl (fun _ _ h => canonical_foldl (fun _ _ h => by simpa using h) (by simpa using h))
    (State.loseMemory_canonical _ _ h2)
  exact (canonical_foldl (fun _ _ h => by simpa using h) h3 : Canonical s4.kept)
theorem execUncoreIslandPowerLoss_canonical (d : Nat) (keep : List Nat) (s : State) (h : Canonical s.kept) :
    Out.Leaves Canonical (execUncoreIslandPowerLoss d keep s) := by
  refine Out.leaves_if trivial ?_
  rw [Out.leaves_next, State.retable_kept, State.portsGone_kept]
  exact canonical_foldl (fun _ _ h => by simpa using h) (State.loseUncore_canonical _ _ h)
@[simp] theorem State.uncoreFlush_canonical {s : State} (d : Nat) (h : Canonical s.kept) : Canonical (s.uncoreFlush d).kept :=
  canonical_foldl (fun _ _ h => by simpa using h) <| canonical_foldl (fun _ _ h => by simpa using h) <|
    canonical_foldl (fun _ _ h => by simp [h]) h
@[simp] theorem State.powerOff_canonical {s : State} (keep : List Nat) (h : Canonical s.kept) : Canonical (s.powerOff keep).kept := by
  have ht := State.loseUncore_canonical (List.range 64) keep h
  unfold State.powerOff
  generalize s.loseUncore (List.range 64) keep = t at ht ⊢
  exact ht
theorem execModulePowerLoss_canonical (keep : List Nat) (s : State) (h : Canonical s.kept) : Out.Leaves Canonical (execModulePowerLoss keep s) :=
  Out.leaves_if trivial (State.powerOff_canonical keep h)
theorem State.tripCuts_kept (s : State) (ks : List Nat) : (s.tripCuts ks).kept = s.kept :=
  State.kept_foldl (fun _ _ => by simp) ks s
/-- Over any state the cuts have been asked in: no check may run the fold over the positions. -/
theorem execThermalTrip_leaves {s u : State}
    (h : execThermalTrip s = .next (State.logEvent { u with svc := { u.svc with tripped := true } } 0x61 0 0xFF)) (hu : Canonical u.kept) :
    Out.Leaves Canonical (execThermalTrip s) := h ▸ hu
theorem State.flushesOff_canonical {s : State} (h : Canonical s.kept) (ds : List Nat) :
    Canonical ((ds.foldl (fun s d => s.uncoreFlush d) s).powerOff []).kept :=
  State.powerOff_canonical _ (canonical_foldl (fun _ _ h => by simp [h]) h)
theorem execThermalTrip_canonical (s : State) (h : Canonical s.kept) : Out.Leaves Canonical (execThermalTrip s) := by
  cases hp : s.svc.powered
  · unfold execThermalTrip
    rw [if_pos (by simp [hp])]
    trivial
  · cases ht : s.svc.tripped
    · exact execThermalTrip_leaves (execThermalTrip_first hp ht) ((s.tripCuts_kept (List.range 8448)).symm ▸ h)
    · unfold execThermalTrip
      rw [if_neg (by simp [hp]), if_neg (by simp [ht])]
      exact Out.leaves_if trivial (State.flushesOff_canonical h _)
theorem execHostLinkAccess_canonical (link bar off : Nat) (acc : HostAcc) (s : State) (h : Canonical s.kept) :
    Out.Leaves Canonical (execHostLinkAccess link bar off acc s) := by
  unfold execHostLinkAccess
  extract_lets +onlyGivenNames n d q reply
  have hrep : ∀ t r, Canonical t.kept → Out.Leaves Canonical (reply t r) := fun _ _ ht => ht
  clear_value reply
  refine Out.leaves_if trivial ?_
  split
  · exact hrep _ _ h
  rename_i pa _
  refine Out.leaves_if trivial (Out.leaves_if ?_ ?_)
  · obtain ⟨d, hd⟩ : ∃ d, (pa - ctlBase) / 2 ^ 30 = d := ⟨_, rfl⟩
    obtain ⟨o, ho⟩ : ∃ o, (pa - ctlBase) % 2 ^ 30 = o := ⟨_, rfl⟩
    simp only [hd, ho]
    split
    · exact hrep _ _ h
    · refine Out.leaves_if (Out.leaves_if (Tried.leaves_out (State.ctlSector_leaves _ _ _ h) fun t ht => ht) (by simpa using h)) ?_
      split
      · exact h
      · simpa using h
  · extract_lets ask
    have hask : ∀ p go, Out.Leaves Canonical go → Out.Leaves Canonical (ask p go) := fun p go hg =>
      Out.leaves_if trivial (Out.leaves_if (by simpa using h) hg)
    clear_value ask
    split
    · split
      · exact hask _ _ (hrep _ _ (by simpa using h))
      · exact hrep _ _ (by simpa using h)
    · exact hrep _ _ (by simpa using h)
    · simpa using h
    · exact hask _ _ (hrep _ _ (by simpa using h))
    · exact hask _ _ (by simp [h])

/-! ## What each instruction keeps -/

/-- The instructions that can change what memory holds: the words that reach a home at issue, and the events of the operations and units that write. -/
def homeWriter : Instr → Bool
  | .slotComplete _ | .storePerformed _ _ | .cpymRequestArrival _ | .copySectorWrite _ _ | .drainUpdateApply _ | .parkNeighbourOffer _ _
  | .blockExit _ | .gridCompletion _ _ | .promotionDone _ _ | .objectEvictionDone _ _ | .seqWordReplay _ _ | .homeUpdate _ _
  | .sliceReplacement _ _ | .hostLinkAccess _ _ _ _ | .poolLinkUp _ | .fabricC0Arrival _ | .fabricC1Arrival _ | .fabricC2Arrival _
  | .fabricAck _ _ | .modulePowerLoss _ | .uncoreIslandPowerLoss _ _ | .unitRetirement _ | .thermalTrip => true
  | i => Spec.reachesHome i
theorem homeWriter_of_isWord {i : Instr} (hi : i.isWord = true) : homeWriter i = Spec.reachesHome i := by
  unfold homeWriter
  split
  case h_24 => rfl
  all_goals cases hi

/-- An instruction that is no home writer leaves the memory and the draws as they were. -/
theorem exec_leaves (hQ : MapFree Q) : ∀ (i : Instr) (s : State), homeWriter i = false → Q s.kept → Out.Leaves Q (exec i s)
  | .nop j, s, _, hs => execNop_leaves j s hs
  | .bra j, s, _, hs => execBra_leaves j s hs
  | .brx j, s, _, hs => execBrx_leaves j s hs
  | .call j, s, _, hs => execCall_leaves j s hs
  | .callx j, s, _, hs => execCallx_leaves j s hs
  | .ret j, s, _, hs => execRet_leaves j s hs
  | .loop j, s, _, hs => execLoop_leaves j s hs
  | .rpt j, s, _, hs => execRpt_leaves j s hs
  | .exit j, s, _, hs => execExit_leaves j s hs
  | .exits j, s, _, hs => execExits_leaves j s hs
  | .bar j, s, _, hs => execBar_leaves j s hs
  | .bara j, s, _, hs => execBara_leaves j s hs
  | .barm j, s, _, hs => execBarm_leaves j s hs
  | .barw j, s, _, hs => execBarw_leaves j s hs
  | .yield j, s, _, hs => execYield_leaves j s hs
  | .vote j, s, _, hs => execVote_leaves j s hs
  | .plop j, s, _, hs => execPlop_leaves j s hs
  | .movs j, s, _, hs => execMovs_leaves j s hs
  | .smov j, s, _, hs => execSmov_leaves j s hs
  | .reggive j, s, _, hs => execReggive_leaves j s hs
  | .regclaim j, s, _, hs => execRegclaim_leaves j s hs
  | .settid j, s, _, hs => execSettid_leaves j s hs
  | .qbind j, s, _, hs => execQbind_leaves j s hs
  | .chput j, s, _, hs => execChput_leaves j s hs
  | .chget j, s, _, hs => execChget_leaves j s hs
  | .chclose j, s, _, hs => execChclose_leaves j s hs
  | .sleep j, s, _, hs => execSleep_leaves j s hs
  | .trap j, s, _, hs => execTrap_leaves j s hs
  | .assert j, s, _, hs => execAssert_leaves j s hs
  | .tret j, s, _, hs => execTret_leaves j s hs
  | .kill j, s, _, hs => execKill_leaves j s hs
  | .movsys j, s, _, hs => execMovsys_leaves j s hs
  | .movsysW j, s, _, hs => execMovsysW_leaves j s hs
  | .iadd j, s, _, hs => execIadd_leaves j s hs
  | .isub j, s, _, hs => execIsub_leaves j s hs
  | .imul j, s, _, hs => execImul_leaves j s hs
  | .imulh j, s, _, hs => execImulh_leaves j s hs
  | .imad j, s, _, hs => execImad_leaves j s hs
  | .imin j, s, _, hs => execImin_leaves j s hs
  | .imax j, s, _, hs => execImax_leaves j s hs
  | .iabs j, s, _, hs => execIabs_leaves j s hs
  | .and j, s, _, hs => execAnd_leaves j s hs
  | .or j, s, _, hs => execOr_leaves j s hs
  | .xor j, s, _, hs => execXor_leaves j s hs
  | .not j, s, _, hs => execNot_leaves j s hs
  | .shl j, s, _, hs => execShl_leaves j s hs
  | .shr j, s, _, hs => execShr_leaves j s hs
  | .shra j, s, _, hs => execShra_leaves j s hs
  | .rot j, s, _, hs => execRot_leaves j s hs
  | .popc j, s, _, hs => execPopc_leaves j s hs
  | .clz j, s, _, hs => execClz_leaves j s hs
  | .brev j, s, _, hs => execBrev_leaves j s hs
  | .bfe j, s, _, hs => execBfe_leaves j s hs
  | .bfi j, s, _, hs => execBfi_leaves j s hs
  | .bymix j, s, _, hs => execBymix_leaves j s hs
  | .sel j, s, _, hs => execSel_leaves j s hs
  | .icmp j, s, _, hs => execIcmp_leaves j s hs
  | .mov j, s, _, hs => execMov_leaves j s hs
  | .movi j, s, _, hs => execMovi_leaves j s hs
  | .iacc j, s, _, hs => execIacc_leaves j s hs
  | .isad j, s, _, hs => execIsad_leaves j s hs
  | .idot4 j, s, _, hs => execIdot4_leaves j s hs
  | .fadd j, s, _, hs => execFadd_leaves j s hs
  | .fsub j, s, _, hs => execFsub_leaves j s hs
  | .fmul j, s, _, hs => execFmul_leaves j s hs
  | .ffma j, s, _, hs => execFfma_leaves j s hs
  | .fmin j, s, _, hs => execFmin_leaves j s hs
  | .fmax j, s, _, hs => execFmax_leaves j s hs
  | .fcmp j, s, _, hs => execFcmp_leaves j s hs
  | .frnd j, s, _, hs => execFrnd_leaves j s hs
  | .fclmp j, s, _, hs => execFclmp_leaves j s hs
  | .fscale j, s, _, hs => execFscale_leaves j s hs
  | .fexp j, s, _, hs => execFexp_leaves j s hs
  | .addmin j, s, _, hs => execAddmin_leaves j s hs
  | .addmax j, s, _, hs => execAddmax_leaves j s hs
  | .rcp j, s, _, hs => execRcp_leaves j s hs
  | .rsq j, s, _, hs => execRsq_leaves j s hs
  | .sqrt j, s, _, hs => execSqrt_leaves j s hs
  | .exp2 j, s, _, hs => execExp2_leaves j s hs
  | .log2 j, s, _, hs => execLog2_leaves j s hs
  | .hadd2 j, s, _, hs => execHadd2_leaves j s hs
  | .hmul2 j, s, _, hs => execHmul2_leaves j s hs
  | .hfma2 j, s, _, hs => execHfma2_leaves j s hs
  | .hmin2 j, s, _, hs => execHmin2_leaves j s hs
  | .hmax2 j, s, _, hs => execHmax2_leaves j s hs
  | .dot2 j, s, _, hs => execDot2_leaves j s hs
  | .cvt j, s, _, hs => execCvt_leaves j s hs
  | .pkcv j, s, _, hs => execPkcv_leaves j s hs
  | .xpcv j, s, _, hs => execXpcv_leaves j s hs
  | .scext j, s, _, hs => execScext_leaves j s hs
  | .scins j, s, _, hs => execScins_leaves j s hs
  | .scmax j, s, _, hs => execScmax_leaves j s hs
  | .dot4 j, s, _, hs => execDot4_leaves j s hs
  | .pack j, s, _, hs => execPack_leaves j s hs
  | .qxch j, s, _, hs => execQxch_leaves j s hs
  | .qbc j, s, _, hs => execQbc_leaves j s hs
  | .qsum j, s, _, hs => execQsum_leaves j s hs
  | .lshf j, s, _, hs => execLshf_leaves j s hs
  | .lrot j, s, _, hs => execLrot_leaves j s hs
  | .lbc j, s, _, hs => execLbc_leaves j s hs
  | .lidx j, s, _, hs => execLidx_leaves j s hs
  | .wred j, s, _, hs => execWred_leaves j s hs
  | .wscan j, s, _, hs => execWscan_leaves j s hs
  | .rnds j, s, _, hs => execRnds_leaves j s hs
  | .rnd j, s, _, hs => execRnd_leaves j s hs
  | .ld j, s, _, hs => execLd_leaves j s hs
  | .st j, s, _, hs => execSt_leaves j s hs
  | .ldx j, s, _, hs => execLdx_leaves j s hs
  | .stx j, s, _, hs => execStx_leaves j s hs
  | .ldw j, s, _, hs => execLdw_leaves j s hs
  | .stw j, s, _, hs => execStw_leaves j s hs
  | .ldmx j, s, _, hs => execLdmx_leaves j s hs
  | .stmx j, s, _, hs => execStmx_leaves j s hs
  | .ldn j, s, _, hs => execLdn_leaves j s hs
  | .stn j, s, _, hs => execStn_leaves j s hs
  | .pref j, s, _, hs => execPref_leaves j s hs
  | .fence j, s, _, hs => execFence_leaves j s hs
  | .cwb j, s, _, hs => execCwb_leaves j s hs
  | .cinv j, s, _, hs => execCinv_leaves j s hs
  | .setb j, s, _, hs => execSetb_leaves j s hs
  | .ldb j, s, _, hs => execLdb_leaves j s hs
  | .badd j, s, _, hs => execBadd_leaves j s hs
  | .lds j, s, _, hs => execLds_leaves j s hs
  | .mmq j, s, _, hs => execMmq_leaves j s hs
  | .mmqs j, s, _, hs => execMmqs_leaves j s hs
  | .mmqx j, s, _, hs => execMmqx_leaves j s hs
  | .mmqt j, s, _, hs => execMmqt_leaves j s hs
  | .mms j, s, _, hs => execMms_leaves j s hs
  | .mmss j, s, _, hs => execMmss_leaves j s hs
  | .mmz j, s, _, hs => execMmz_leaves j s hs
  | .accmv j, s, _, hs => execAccmv_leaves j s hs
  | .accld j, s, _, hs => execAccld_leaves j s hs
  | .accsc j, s, _, hs => execAccsc_leaves j s hs
  | .acccv j, s, _, hs => execAcccv_leaves j s hs
  | .spld j, s, _, hs => execSpld_leaves j s hs
  | .dst j, s, _, hs => execDst_leaves j s hs
  | .dsta j, s, _, hs => execDsta_leaves j s hs
  | .dstm j, s, _, hs => execDstm_leaves j s hs
  | .dstv j, s, _, hs => execDstv_leaves j s hs
  | .atom j, s, _, hs => execAtom_leaves j s hs
  | .atomc j, s, _, hs => execAtomc_leaves j s hs
  | .red j, s, _, hs => execRed_leaves j s hs
  | .dfence j, s, _, hs => execDfence_leaves j s hs
  | .cpy j, s, _, hs => execCpy_leaves j s hs
  | .cpy2 j, s, _, hs => execCpy2_leaves j s hs
  | .cpym j, s, _, hs => execCpym_leaves j s hs
  | .cpytProm j, s, _, hs => execCpytProm_leaves j s hs
  | .cpytEvct j, s, _, hs => execCpytEvct_leaves j s hs
  | .cpytScr j, s, _, hs => execCpytScr_leaves j s hs
  | .cpytGlb j, s, _, hs => execCpytGlb_leaves j s hs
  | .cpyw j, s, _, hs => execCpyw_leaves j s hs
  | .waitt j, s, _, hs => execWaitt_leaves j s hs
  | .tqry j, s, _, hs => execTqry_leaves j s hs
  | .cpyc j, s, _, hs => execCpyc_leaves j s hs
  | .twait j, s, _, hs => execTwait_leaves j s hs
  | .tstat j, s, _, hs => execTstat_leaves j s hs
  | .tcancel j, s, _, hs => execTcancel_leaves j s hs
  | .subs j, s, _, hs => execSubs_leaves j s hs
  | .verq j, s, _, hs => execVerq_leaves j s hs
  | .rstop j, s, _, hs => execRstop_leaves j s hs
  | .grpsetNew j, s, _, hs => execGrpsetNew_leaves j s hs
  | .grpsetAdd j, s, _, hs => execGrpsetAdd_leaves j s hs
  | .grpsetArm j, s, _, hs => execGrpsetArm_leaves j s hs
  | .grpsetFree j, s, _, hs => execGrpsetFree_leaves j s hs
  | .shmapFree j, s, _, hs => execShmapFree_leaves j s hs
  | .ssack j, s, _, hs => execSsack_leaves j s hs
  | .seqld j, s, _, hs => execSeqld_leaves j s hs
  | .seqgo j, s, _, hs => execSeqgo_leaves j s hs
  | .seqstop j, s, _, hs => execSeqstop_leaves j s hs
  | .qset j, s, _, hs => execQset_leaves j s hs
  | .qdec j, s, _, hs => execQdec_leaves j s hs
  | .qwait j, s, _, hs => execQwait_leaves j s hs
  | .seqsig j, s, _, hs => execSeqsig_leaves j s hs
  | .seqq j, s, _, hs => execSeqq_leaves j s hs
  | .pfence j, s, _, hs => execPfence_leaves j s hs
  | .chks j, s, _, hs => execChks_leaves j s hs
  | .umq j, s, _, hs => execUmq_leaves j s hs
  | .umset j, s, _, hs => execUmset_leaves j s hs
  | .fsend j, s, _, hs => execFsend_leaves j s hs
  | .fsig j, s, _, hs => execFsig_leaves j s hs
  | .ffence j, s, _, hs => execFfence_leaves j s hs
  | .tlbi j, s, _, hs => execTlbi_leaves j s hs
  | .hflush j, s, _, hs => execHflush_leaves j s hs
  | .hprobe j, s, _, hs => execHprobe_leaves j s hs
  | .atr j, s, _, hs => execAtr_leaves j s hs
  | .svcVf j, s, _, hs => execSvcVf_leaves j s hs
  | .svcRetire j, s, _, hs => execSvcRetire_leaves hQ j s hs
  | .svcPkill j, s, _, hs => execSvcPkill_leaves j s hs
  | .capq j, s, _, hs => execCapq_leaves j s hs
  | .pwrq j, s, _, hs => execPwrq_leaves j s hs
  | .clkq j, s, _, hs => execClkq_leaves j s hs
  | .evlogPut j, s, _, hs => execEvlogPut_leaves j s hs
  | .hstat j, s, _, hs => execHstat_leaves j s hs
  | .clauseIssue d a p, s, _, hs => execClauseIssue_leaves d a p s hs
  | .quartetRendezvous b q, s, _, hs => execQuartetRendezvous_leaves b q s hs
  | .activeSetExchange d a, s, _, hs => execActiveSetExchange_leaves d a s hs
  | .handlerStart d a, s, _, hs => execHandlerStart_leaves d a s hs
  | .sleepDeadline b w, s, _, hs => execSleepDeadline_leaves b w s hs
  | .siderealTick lag, s, _, hs => execSiderealTick_leaves lag s hs
  | .siderealBeacon, s, _, hs => execSiderealBeacon_leaves s hs
  | .windowWriteEntry b, s, _, hs => execWindowWriteEntry_leaves b s hs
  | .loadComplete o pl, s, _, hs => execLoadComplete_leaves o pl s hs
  | .homeRetry o, s, _, hs => execHomeRetry_leaves o s hs
  | .reservationLapse h line, s, _, hs => execReservationLapse_leaves h line s hs
  | .multicastWindowClose d g, s, _, hs => execMulticastWindowClose_leaves d g s hs
  | .lateJoinerResend d g, s, _, hs => execLateJoinerResend_leaves d g s hs
  | .copyCompletion o, s, _, hs => execCopyCompletion_leaves o s hs
  | .transitTick b w, s, _, hs => execTransitTick_leaves b w s hs
  | .matrixCompletion o stale, s, _, hs => execMatrixCompletion_leaves o stale s hs
  | .rangeRecordArrival n, s, _, hs => execRangeRecordArrival_leaves n s hs
  | .dispatchPlacement d, s, _, hs => execDispatchPlacement_leaves d s hs
  | .eviction b, s, _, hs => execEviction_leaves b s hs
  | .parkRecordWake d idx, s, _, hs => execParkRecordWake_leaves d idx s hs
  | .supersedeEvent b w, s, _, hs => execSupersedeEvent_leaves b w s hs
  | .twaitDeadline b w, s, _, hs => execTwaitDeadline_leaves b w s hs
  | .promotionServe d, s, _, hs => execPromotionServe_leaves d s hs
  | .promotionAging d, s, _, hs => execPromotionAging_leaves d s hs
  | .seqTransition d a, s, _, hs => execSeqTransition_leaves d a s hs
  | .seqTimeout d a, s, _, hs => execSeqTimeout_leaves d a s hs
  | .periodicCut d a, s, _, hs => execPeriodicCut_leaves d a s hs
  | .cutInstant d a, s, _, hs => execCutInstant_leaves d a s hs
  | .bankSeal d a, s, _, hs => execBankSeal_leaves d a s hs
  | .journalAck d a j, s, _, hs => execJournalAck_leaves d a j s hs
  | .l1DirectoryRequest d a q sec, s, _, hs => execL1DirectoryRequest_leaves d a q sec s hs
  | .remoteFetch d sec, s, _, hs => execRemoteFetch_leaves d sec s hs
  | .remoteInvalidation d sec, s, _, hs => execRemoteInvalidation_leaves d sec s hs
  | .directoryEntryDrop h line, s, _, hs => execDirectoryEntryDrop_leaves h line s hs
  | .pageWalk d asid va, s, _, hs => execPageWalk_leaves d asid va s hs
  | .backInvalidationSnoop line, s, _, hs => execBackInvalidationSnoop_leaves line s hs
  | .hostSnoop line, s, _, hs => execHostSnoop_leaves line s hs
  | .poolLinkDown p, s, _, hs => execPoolLinkDown_leaves p s hs
  | .enqueueWindowWrite d wafer idx rec, s, _, hs => execEnqueueWindowWrite_leaves d wafer idx rec s hs
  | .enqdropWrite d, s, _, hs => execEnqdropWrite_leaves d s hs
  | .objectTableWrite d idx wd x, s, _, hs => execObjectTableWrite_leaves d idx wd x s hs
  | .computeIslandPowerFail d finish, s, _, hs => execComputeIslandPowerFail_leaves d finish s hs
  | .coreResume d a, s, _, hs => execCoreResume_leaves d a s hs
  | .fabricResend o, s, _, hs => execFabricResend_leaves o s hs
  | .portDown p, s, _, hs => execPortDown_leaves p s hs
  | .portUp p, s, _, hs => execPortUp_leaves p s hs
  | .fabricManagement dev, s, _, hs => execFabricManagement_leaves dev s hs
  | .fdiscWrite d, s, _, hs => execFdiscWrite_leaves d s hs
  | .controlRegisterWrite d off x, s, _, hs => execControlRegisterWrite_leaves d off x s hs
  | .moduleBringUp, s, _, hs => execModuleBringUp_leaves s hs
  | .clockSourceFail d a, s, _, hs => execClockSourceFail_leaves d a s hs
  | .powerLimitStep d isl lower, s, _, hs => execPowerLimitStep_leaves d isl lower s hs
  | .supplyDroop d isl, s, _, hs => execSupplyDroop_leaves d isl s hs
  | .islandPowerOff d, s, _, hs => execIslandPowerOff_leaves d s hs
  | .uncoreIslandPowerReturn d, s, _, hs => execUncoreIslandPowerReturn_leaves d s hs
  | .acknowledgementReceiptConfirmed d id, s, _, hs => execAcknowledgementReceiptConfirmed_leaves d id s hs
  | .correctedError d ue, s, _, hs => execCorrectedError_leaves d ue s hs
  | .spawn _, _, hw, _ | .enq _, _, hw, _ | .tdec _, _, hw, _ | .tinc _, _, hw, _ | .trearm _, _, hw, _ | .vpost _, _, hw, _
  | .vpostf _, _, hw, _ | .shmap _, _, hw, _ | .fenq _, _, hw, _ | .svcQuote _, _, hw, _ | .evlogGet _, _, hw, _
  | .slotComplete _, _, hw, _ | .storePerformed _ _, _, hw, _ | .cpymRequestArrival _, _, hw, _ | .copySectorWrite _ _, _, hw, _
  | .drainUpdateApply _, _, hw, _ | .parkNeighbourOffer _ _, _, hw, _ | .blockExit _, _, hw, _ | .gridCompletion _ _, _, hw, _
  | .promotionDone _ _, _, hw, _ | .objectEvictionDone _ _, _, hw, _ | .seqWordReplay _ _, _, hw, _ | .homeUpdate _ _, _, hw, _
  | .sliceReplacement _ _, _, hw, _ | .hostLinkAccess _ _ _ _, _, hw, _ | .poolLinkUp _, _, hw, _ | .fabricC0Arrival _, _, hw, _
  | .fabricC1Arrival _, _, hw, _ | .fabricC2Arrival _, _, hw, _ | .fabricAck _ _, _, hw, _ | .modulePowerLoss _, _, hw, _
  | .uncoreIslandPowerLoss _ _, _, hw, _ | .unitRetirement _, _, hw, _ | .thermalTrip, _, hw, _ => nomatch hw
/-- A word that reaches a home at issue keeps the form of memory. -/
theorem exec_reachesHome_canonical {i : Instr} {s : State} (hi : Spec.reachesHome i = true) (h : Canonical s.kept) :
    Out.Leaves Canonical (exec i s) := by
  unfold Spec.reachesHome at hi
  split at hi
  · exact execEnq_canonical _ s h
  · exact execEvlogGet_canonical _ s h
  · exact execFenq_canonical _ s h
  · exact execShmap_canonical _ s h
  · exact execSpawn_canonical _ s h
  · exact execSvcQuote_canonical _ s h
  · exact execTdec_canonical _ s h
  · exact execTinc_canonical _ s h
  · exact execTrearm_canonical _ s h
  · exact execVpost_canonical _ s h
  · exact execVpostf_canonical _ s h
  · cases hi
/-- An event that writes keeps the form of memory. -/
theorem exec_homeWriter_canonical {i : Instr} {s : State} (hi : homeWriter i = true) (h : Canonical s.kept) : Out.Leaves Canonical (exec i s) := by
  unfold homeWriter at hi
  split at hi
  · exact execSlotComplete_canonical _ s h
  · exact execStorePerformed_canonical _ _ s h
  · exact execCpymRequestArrival_canonical _ s h
  · exact execCopySectorWrite_canonical _ _ s h
  · exact execDrainUpdateApply_canonical _ s h
  · exact execParkNeighbourOffer_canonical _ _ s h
  · exact execBlockExit_canonical _ s h
  · exact execGridCompletion_canonical _ _ s h
  · exact execPromotionDone_canonical _ _ s h
  · exact execObjectEvictionDone_canonical _ _ s h
  · exact execSeqWordReplay_canonical _ _ s h
  · exact execHomeUpdate_canonical _ _ s h
  · exact execSliceReplacement_canonical _ _ s h
  · exact execHostLinkAccess_canonical _ _ _ _ s h
  · exact execPoolLinkUp_canonical _ s h
  · exact execFabricC0Arrival_canonical _ s h
  · exact execFabricC1Arrival_canonical _ s h
  · exact execFabricC2Arrival_canonical _ s h
  · exact execFabricAck_canonical _ _ s h
  · exact execModulePowerLoss_canonical _ s h
  · exact execUncoreIslandPowerLoss_canonical _ _ s h
  · exact execUnitRetirement_canonical _ s h
  · exact execThermalTrip_canonical s h
  · exact exec_reachesHome_canonical hi h
theorem exec_canonical (i : Instr) (s : State) (h : Canonical s.kept) : Out.Leaves Canonical (exec i s) := by
  cases hw : homeWriter i
  · exact exec_leaves Canonical.mapFree i s hw h
  · exact exec_homeWriter_canonical hw h

/-! ## What a step keeps -/

/-- What stands in place of a word, a fetch or a trap, leaves what `Q` asks. -/
theorem State.atWord_leaves {s : State} {b w : Nat} {o : Out} (h : Q s.kept) (ho : s.atWord b w = .other o) : Out.Leaves Q o := by
  unfold State.atWord at ho
  extract_lets x wp at ho
  split at ho
  · cases ho; exact h
  extract_lets word left trap at ho
  have ht : ∀ c o, trap c = .other o → Out.Leaves Q o := by
    intro c o hc
    cases hc
    simpa using h
  clear_value trap
  split at ho
  · cases ho; exact h
  split at ho
  · cases ho; exact State.fetchMore_leaves _ _ _ _ h
  split at ho
  · exact ht _ _ ho
  split at ho
  · exact ht _ _ ho
  split at ho
  · cases ho; exact State.fetchMore_leaves _ _ _ _ h
  split at ho
  · cases ho
  · exact ht _ _ ho
  · exact ht _ _ ho
  · exact ht _ _ ho
theorem Cand.run_canonical (c : Cand) (s : State) (h : Canonical s.kept) : Out.Leaves Canonical (c.run exec s) := by
  cases c with
  | ev i => exact exec_canonical i s h
  | journalAck d a i => exact execJournalAck_leaves d a i s h
  | remoteInvalidation d sec => exact execRemoteInvalidation_leaves d sec s h
  | coreResume d a => exact execCoreResume_leaves d a s h
  | c0 m => exact execFabricC0Arrival_canonical m s h
  | c1 m => exact execFabricC1Arrival_canonical m s h
  | c2 m => exact execFabricC2Arrival_canonical m s h
  | fabricAck o st => exact execFabricAck_canonical o st s h
  | fabricResend o => exact execFabricResend_leaves o s h
  | thermalTrip => exact execThermalTrip_canonical s h
  | bringUp => exact execModuleBringUp_leaves s h
  | islandPowerOff d => exact execIslandPowerOff_leaves d s h
theorem Cand.then_kept (c : Cand) (t : State) : (c.then t).kept = t.kept := by
  unfold Cand.then
  split <;> rfl
theorem State.firstOf_canonical {s : State} (cs : List Cand) (h : Canonical s.kept) : Out.Leaves Canonical (State.firstOf exec s cs) := by
  induction cs with
  | nil => exact exec_canonical _ s h
  | cons c cs ih =>
    unfold State.firstOf
    have hc := c.run_canonical s h
    split
    · rename_i t ht
      rw [ht] at hc
      rw [Out.leaves_next, Cand.then_kept]
      exact hc
    · exact ih
theorem step_canonical (s : State) (h : Canonical s.kept) : Out.Leaves Canonical (step s) := by
  unfold step
  split
  · exact Out.leaves_if trivial (exec_canonical _ _ h)
  · split
    · split
      · exact exec_canonical _ s h
      · rename_i ho; exact State.atWord_leaves h ho
    · exact State.firstOf_canonical _ h

/-- Settles O56: every instruction keeps the canonical form, and so does what stands in a step in place of one. -/
theorem stepKeepsMemoryCanonical : Obligations.StepKeepsMemoryCanonical := by
  unfold Obligations.StepKeepsMemoryCanonical
  intro s t hs ht
  have hc := step_canonical s hs
  rw [ht] at hc
  exact hc

/-- Settles O57: a word that reaches no home at issue is no home writer, and leaves what any predicate asks of the memory. -/
theorem wordsLeaveMemory : Obligations.WordsLeaveMemory := by
  unfold Obligations.WordsLeaveMemory
  intro i s t hi hr ht
  have hw : homeWriter i = false := by rw [homeWriter_of_isWord hi, hr]
  have hm := exec_leaves (Q := fun k => k.1 = s.mem) (fun _ _ _ _ h => h) i s hw rfl
  rw [ht] at hm
  exact hm

end Sys2Proof.Machine
end

-- ==== The events of issue, waits and time (O41) ====
section
/-! PROOF. The events of the issue engines, of waits and of time: what each answers from the conditions on the state that let it act. -/

namespace Sys2Proof.Machine

/-! ## CLAUSE_ISSUE and QUARTET_RENDEZVOUS (R60, R112, R114, R261) -/

theorem clauseIssue_goesOn {s : State} {d a p : Nat} {bw : Nat × Nat} (hp : p < 2) (hon : s.coreOn d a = true)
    (hbw : mfind (s.core d a).ports p = some bw) (hc : ((s.block bw.1).warp bw.2).clause ≠ none)
    (hk : ((s.block bw.1).warp bw.2).parked = false) (hw : ((s.block bw.1).warp bw.2).wait = none) :
    exec (.clauseIssue d a p) s = .next { s with focus := some bw } := by
  rw [exec_clauseIssue]
  unfold execClauseIssue
  dsimp only
  rw [if_neg (by simp [hp, hon]), hbw]
  exact if_pos (by simp [hk, hw, Option.isSome_iff_ne_none, hc])

theorem clauseIssue_begins {s t : State} {d a p : Nat} {bw : Nat × Nat} {bg : Begin} (hp : p < 2) (hon : s.coreOn d a = true)
    (hn : mfind (s.core d a).ports p = none)
    (hpick : State.pick (s.core d a) ((if p = 0 then (match mfind (s.core d a).slots 4 with | some h => [(h, 0)] | none => []) else []) ++
      s.rrOrder (s.core d a)) s = some (bw, bg, t)) :
    exec (.clauseIssue d a p) s = .next (t.beginClause d a p bw bg) := by
  rw [exec_clauseIssue]
  unfold execClauseIssue
  dsimp only
  rw [if_neg (by simp [hp, hon]), hn]
  dsimp only
  split
  · rename_i h
    cases h.symm.trans hpick
    rfl
  · rename_i h
    cases h.symm.trans hpick

theorem quartetRendezvous_broken {s t : State} {b q : Nat} (hl : (s.block b).loc ≠ none) (hq : q < 4) (ht : s.quartetBroken b q = some t) :
    exec (.quartetRendezvous b q) s = .next t := by
  rw [exec_quartetRendezvous]
  unfold execQuartetRendezvous
  dsimp only
  rw [if_neg (by simp [hl, hq]), ht]

theorem mem_quartetWarps_first (q : Nat) : 4 * q ∈ quartetWarps q := by simp [quartetWarps]

/-- A member of a quartet that passes every check of R261: it stands at the rendezvous with the word of the others, in a clause whose channels serve. -/
def Block.MemberPasses (x : Block) (op : Nat) (f : MtxW) (v : Nat) : Prop :=
  x.atQuartet v = true ∧ x.memberCheck v = .ok (op, f) ∧ (f.d ≠ 6#3 → (x.warp v).slotBusy f.d.toNat = false) ∧
    x.memberBad op f v (f.t.toNat + v % 4) (x.warp v) = none ∧
    ∃ c, (x.warp v).clause = some c ∧ 2 ≤ c.ibuf.length ∧ x.channelsServe (x.warp v) c.ibuf = true

theorem quartetRendezvous_settles {s : State} {b q : Nat} (hl : (s.block b).loc ≠ none) (hq : q < 4) (hn : s.quartetBroken b q = none)
    (hr : ((s.block b).warp (4 * q)).rdv = true) (ha : ∀ v ∈ quartetWarps q, (s.block b).atQuartet v = true) :
    exec (.quartetRendezvous b q) s = s.settle b q := by
  rw [exec_quartetRendezvous]
  unfold execQuartetRendezvous
  dsimp only
  rw [if_neg (by simp [hl, hq]), hn]
  refine if_pos ?_
  rw [Bool.and_eq_true, List.all_eq_true, List.any_eq_true]
  exact ⟨ha, _, mem_quartetWarps_first q, hr⟩

/-- The word of a member that has it is the first of its buffer. -/
theorem Block.quartetWords_headD {x : Block} {w : Nat} {c : Clause} (hc : (x.warp w).clause = some c) :
    (x.quartetWords w).headD 0#32 = c.ibuf.headD 0#32 := by
  unfold Block.quartetWords
  cases hi : c.ibuf <;> simp [hc, hi]

theorem settle_passes {s : State} {b q op : Nat} {f : MtxW} (hm : ∀ v ∈ quartetWarps q, (s.block b).MemberPasses op f v)
    (hd : (s.block b).differing (quartetWarps q) = 0)
    (hf : s.matrixFull ((s.block b).loc.getD ⟨0, 0, 0⟩).d ((s.block b).loc.getD ⟨0, 0, 0⟩).a = false)
    (hi : op = 0xA3 → imageBad (((s.block b).warp (4 * q)).sreg (f.br.toNat % 16)).toNat 4096 (s.block b).share = none) :
    s.settle b q = .next (
      let x := s.block b
      let l := x.loc.getD ⟨0, 0, 0⟩
      (quartetWarps q).foldl (fun u v => ((u.begun l.d l.a (b, v)).updWarp b v fun wp =>
        { wp.updLanes (match wp.clause with | some c => c.gang | none => 0#32) (fun _ ln => { ln with lat := [] }) with rdv := false }).retire b v 2)
        ((s.updBlock b fun x => x.enterRows (quartetWarps q).contains).quartetOp b l q op f ((x.quartetWords (4 * q)).headD 0#32) none)) := by
  unfold State.settle
  extract_lets x l ws clauseOf ibuf wordOf pcOf differ partner r bad1
  have hlen : ∀ v ∈ ws, 2 ≤ (ibuf v).length ∧ x.channelsServe (x.warp v) (ibuf v) = true := by
    intro v hv
    obtain ⟨-, -, -, -, c, hc, h2, hs⟩ := hm v hv
    simp only [ibuf, clauseOf, x, hc]
    exact ⟨h2, hs⟩
  have hck : ∀ v ∈ ws, r v = .ok (op, f) := fun v hv => (hm v hv).2.1
  have hbad : ∀ v ∈ ws, bad1 v = none := by
    intro v hv
    simp only [bad1, hck v hv]
  have hword : wordOf (4 * q) = (x.quartetWords (4 * q)).headD 0#32 := by
    obtain ⟨-, -, -, -, c, hc, -⟩ := hm _ (mem_quartetWarps_first q)
    rw [Block.quartetWords_headD hc]
    simp only [wordOf, ibuf, clauseOf, x, hc]
  have hfree : ¬ ((f.d != 6#3 && ws.any fun w => (x.warp w).slotBusy f.d.toNat) || s.matrixFull l.d l.a ||
      !(ws.all fun w => x.channelsServe (x.warp w) (ibuf w))) = true := by
    simp only [Bool.or_eq_true, Bool.and_eq_true, bne_iff_ne, List.any_eq_true, Bool.not_eq_true', List.all_eq_false, not_or, not_and, not_exists,
      Bool.not_eq_true, Bool.not_eq_false]
    exact ⟨⟨fun hd v hv => (hm v hv).2.2.1 hd, hf⟩, fun v hv => (hlen v hv).2⟩
  split
  · rename_i w hw
    have hp := List.find?_some hw
    have hl := (hlen w (List.mem_of_find?_eq_some hw)).1
    rw [Bool.and_eq_true, decide_eq_true_eq] at hp
    omega
  · rw [if_neg (by simpa [List.any_eq_true] using fun v hv => hbad v hv), hck _ (mem_quartetWarps_first q)]
    dsimp only
    rw [if_neg (by simpa [differ] using hd), if_neg hfree]
    split
    · rename_i c hc
      split at hc
      · rename_i h3
        cases hc.symm.trans (hi h3)
      · cases hc
    · rw [if_neg (by simpa [List.any_eq_true] using fun v hv => (hm v hv).2.2.2.1)]
      exact hword ▸ rfl

/-! ## ACTIVE_SET_EXCHANGE (R113) -/

section
variable {s : State} {d a : Nat} {c : Core} {i : Nat × Nat} (hc : s.pruned (s.core d a) = c)
  (hi : argMax (fun p => ((s.block p.1).warp p.2).readyFor) (c.pending.filter fun p => s.warpReady p.1 p.2) = some i)

/-- The active warps of a core that no port issues and that are not ready: the ones an exchange may put out first. -/
def State.idleWarps (s : State) (c : Core) : List (Nat × Nat) :=
  c.active.filter fun p => !(c.ports.any fun q => decide (q.2 = p)) && !s.warpReady p.1 p.2

/-- The core once the warp `i` is active in the place of `o`, with `rr` the order of its warps. -/
def Core.exchanged (c : Core) (i o : Nat × Nat) (rr : List (Nat × Nat)) : Core :=
  { c with active := c.active.filter (· != o) ++ [i], pending := c.pending.filter (· != i) ++ [o], rr := rr }

include hc hi

theorem activeSetExchange_free (hl : c.active.length < 8)
    (hne : { c with active := c.active ++ [i], pending := c.pending.filter (· != i) } ≠ s.core d a) :
    exec (.activeSetExchange d a) s = .next (s.setCore d a { c with active := c.active ++ [i], pending := c.pending.filter (· != i) }) := by
  rw [exec_activeSetExchange]
  unfold execActiveSetExchange
  dsimp only
  rw [hc, hi]
  dsimp only
  rw [if_pos hl]
  exact if_neg hne

theorem activeSetExchange_idle {o : Nat × Nat} {rest : List (Nat × Nat)} (hl : 8 ≤ c.active.length)
    (hr : ((s.block i.1).warp i.2).readyFor < 1024) (ho : s.idleWarps c = o :: rest)
    (hne : c.exchanged i o (c.ring.filter (· != o)) ≠ s.core d a) :
    exec (.activeSetExchange d a) s = .next (s.setCore d a (c.exchanged i o (c.ring.filter (· != o)))) := by
  unfold State.idleWarps at ho
  rw [exec_activeSetExchange]
  unfold execActiveSetExchange
  dsimp only
  rw [hc, hi]
  dsimp only
  rw [if_neg (Nat.not_lt.mpr hl), if_neg (Nat.not_le.mpr hr), ho]
  exact if_neg hne

theorem activeSetExchange_waited {o : Nat × Nat} (hl : 8 ≤ c.active.length) (hr : 1024 ≤ ((s.block i.1).warp i.2).readyFor)
    (ho : argMax (fun p => ((s.block p.1).warp p.2).notReadyFor) (s.idleWarps c) = some o ∨
      (s.idleWarps c = [] ∧ c.ring.getLast? = some o))
    (hne : c.exchanged i o (i :: c.ring.filter (· != o)) ≠ s.core d a) :
    exec (.activeSetExchange d a) s = .next (s.setCore d a (c.exchanged i o (i :: c.ring.filter (· != o)))) := by
  have hout : (if (s.idleWarps c).isEmpty then c.ring.getLast? else
      argMax (fun p => ((s.block p.1).warp p.2).notReadyFor) (s.idleWarps c)) = some o := by
    rcases ho with ho | ⟨he, ho⟩
    · cases hl : s.idleWarps c with
      | nil => rw [hl] at ho; cases ho
      | cons p l => rw [hl] at ho; exact ho
    · rw [he]; exact ho
  unfold State.idleWarps at hout
  rw [exec_activeSetExchange]
  unfold execActiveSetExchange
  dsimp only
  rw [hc, hi]
  dsimp only
  rw [if_neg (Nat.not_lt.mpr hl), if_pos hr, hout]
  exact if_neg hne
end

/-! ## HANDLER_START (R125, R126) -/

theorem handlerStart_kills {s : State} {d a h : Nat} {rest : List Nat} (hr : (s.core d a).hrun = false) (hon : s.coreOn d a = true)
    (hm : (s.core d a).moving = false) (hq : (s.core d a).hq = h :: rest) (hv : (s.dom d).hv = false) :
    exec (.handlerStart d a) s = .next (((s.killWarp d a h).updCore d a fun c =>
      if c.hq.head? = some h then { c with hq := rest } else c).logEvent 0x30 d a) := by
  rw [exec_handlerStart]
  unfold execHandlerStart
  dsimp only
  rw [if_neg (by simp [hr, hon, hm]), hq]
  exact if_pos (by simp [hv])

/-- The one warp of a handler's run: 32 lanes at its entry, 64 rows, the handle and the cause of the trap, the domain's handler data. -/
def handlerWarp (hent : Word) (h cause : Nat) (hdb : Ptr) : Warp :=
  (({ Warp.zero with
    lanes := (List.range 32).map fun L => Lane.start hent (0x9E3779B9#32 ^^^ BitVec.ofNat 32 L), rows := List.range 64 }.setS 0
      (BitVec.ofNat 32 h)).setS 1 (BitVec.ofNat 32 cause)).setB 0 hdb

theorem handlerWarp_lane (hent : Word) (h cause : Nat) (hdb : Ptr) {L : Nat} (hL : L < 32) :
    (handlerWarp hent h cause hdb).lane L = Lane.start hent (0x9E3779B9#32 ^^^ BitVec.ofNat 32 L) := by
  simp [handlerWarp, Warp.lane, Warp.setS, Warp.setB, hL]
theorem handlerWarp_sreg_zero (hent : Word) (h cause : Nat) (hdb : Ptr) : (handlerWarp hent h cause hdb).sreg 0 = BitVec.ofNat 32 h :=
  (Warp.sreg_setS_ne _ _ (by decide)).trans (Warp.sreg_setS_same _ _ _)
theorem handlerWarp_sreg_one (hent : Word) (h cause : Nat) (hdb : Ptr) : (handlerWarp hent h cause hdb).sreg 1 = BitVec.ofNat 32 cause :=
  Warp.sreg_setS_same _ _ _
theorem handlerWarp_breg_zero (hent : Word) (h cause : Nat) (hdb : Ptr) : (handlerWarp hent h cause hdb).breg 0 = hdb :=
  Warp.breg_setB_same _ _ _
theorem handlerWarp_vcnt (hent : Word) (h cause : Nat) (hdb : Ptr) : (handlerWarp hent h cause hdb).vcnt = 64 := List.length_range
/-- A mask of every lane. -/
theorem maskOf_all {f : Nat → Bool} (h : ∀ L < 32, f L = true) : maskOf f = 0xFFFFFFFF#32 := by
  have hf : maskOf f = maskOf fun _ => true :=
    List.foldl_ext _ _ _ fun m L hL => by rw [h L (List.mem_range.mp hL)]
  rw [hf]
  decide
theorem handlerWarp_present (hent : Word) (h cause : Nat) (hdb : Ptr) : (handlerWarp hent h cause hdb).present = 0xFFFFFFFF#32 :=
  maskOf_all fun L hL => by rw [handlerWarp_lane hent h cause hdb hL]; rfl

/-- The block that runs the handler of `h` at a core. -/
def State.handlerBlock (s : State) (d a h : Nat) : Block :=
  let bw := ((s.core d a).ofHandle h).getD (0, 0)
  let b := s.block bw.1
  { Block.zero with loc := some ⟨d, a, 4⟩, lrec := handlerRec (s.dom d).scb b.asid,
                    warps := [handlerWarp (s.core d a).hent h (b.warp bw.2).trap.cause (s.dom d).hdb], cid := s.cid d a }
/-- The state with the handler's run open at a core. -/
def State.handlerOpened (s : State) (d a h : Nat) : State :=
  let t := s.updCore d a fun c => { c with hrun := true, slots := mput c.slots 4 s.nextBid }
  { t with blocks := mput t.blocks s.nextBid (s.handlerBlock d a h), nextBid := s.nextBid + 1 }
theorem State.handlerOpened_core (s : State) (d a h : Nat) : (s.handlerOpened d a h).core d a =
    { s.core d a with hrun := true, slots := mput (s.core d a).slots 4 s.nextBid } :=
  s.core_updCore_same d a fun c => { c with hrun := true, slots := mput c.slots 4 s.nextBid }
theorem State.handlerOpened_block (s : State) (d a h : Nat) : (s.handlerOpened d a h).block s.nextBid = s.handlerBlock d a h := by
  unfold State.handlerOpened State.block
  rw [mfind_mput_same]
  rfl

theorem handlerStart_opens {s : State} {d a h : Nat} {rest : List Nat} (hr : (s.core d a).hrun = false) (hon : s.coreOn d a = true)
    (hm : (s.core d a).moving = false) (hq : (s.core d a).hq = h :: rest) (hv : (s.dom d).hv = true) :
    exec (.handlerStart d a) s = .next (s.handlerOpened d a h) := by
  rw [exec_handlerStart]
  unfold execHandlerStart
  dsimp only
  rw [if_neg (by simp [hr, hon, hm]), hq]
  exact if_neg (by simp [hv])

/-- R60, R112, R113, R114, R125, R126, R261: the events of the issue engines. -/
theorem issueEvents : Spec.IssueEvents := by
  intro s d a b c
  refine ⟨fun _ _ => clauseIssue_goesOn, fun _ _ _ _ => clauseIssue_begins, fun _ _ => quartetRendezvous_broken, ?settle, ?exchange, ?handler⟩
  case settle =>
    intro q op f hl hq hn hr x l wd hm hd hf hi
    rw [quartetRendezvous_settles hl hq hn hr fun v hv => (hm v hv).1]
    exact settle_passes hm hd hf hi
  case exchange =>
    intro c' ready idle i hi
    exact ⟨activeSetExchange_free rfl hi, fun _ _ => activeSetExchange_idle rfl hi, fun _ => activeSetExchange_waited rfl hi⟩
  case handler =>
    intro h rest hr hon hm hq
    refine ⟨handlerStart_kills hr hon hm hq, fun hv => ⟨_, handlerStart_opens hr hon hm hq hv, ?_⟩⟩
    rw [State.handlerOpened_core, State.handlerOpened_block]
    exact ⟨rfl, mfind_mput_same _ _ _, rfl, rfl, rfl, handlerWarp_present _ _ _ _, fun L hL => congrArg Lane.pc (handlerWarp_lane _ _ _ _ hL),
      handlerWarp_vcnt _ _ _ _, handlerWarp_sreg_zero _ _ _ _, handlerWarp_sreg_one _ _ _ _, handlerWarp_breg_zero _ _ _ _⟩

/-! ## Operations that are done (R14, R382) -/

section
variable {s : State} {o : Nat} {y : Op} (ho : s.op o = some y) (hd : s.opDone y = true) (ht : s.tagAcked y.d y.a y.jent = true)
  (hw : s.dfenceWaits y = false)
include ho hd ht hw

theorem slotComplete_refused {pa : Nat} (hc : s.cutRefused y = some pa) : exec (.slotComplete o) s = .next (s.refuse (.op y.id) pa) := by
  rw [exec_slotComplete]
  unfold execSlotComplete
  rw [ho]
  dsimp only
  rw [if_pos (by simp [hd, ht, hw]), hc]

/-- Whether a drain fence still has a memory operation of its warp before it. -/
def State.drainsBefore (s : State) (y : Op) : Bool := (match y.k with | .dfence _ => true | _ => false) && (s.earlier y).any (·.k.isLs)

theorem slotComplete_completes (hc : s.cutRefused y = none) (hr : ¬ ((s.dfenceSys y).cutDurable y).drainsBefore y = true) :
    exec (.slotComplete o) s = .next ((((s.dfenceSys y).cutDurable y).imageSlots y).completeOp y) := by
  rw [exec_slotComplete]
  unfold execSlotComplete
  rw [ho]
  dsimp only
  rw [if_pos (by simp [hd, ht, hw]), hc]
  exact (if_neg fun h => hr (Bool.and_eq_true_iff.mp h).1).trans (if_neg hr)

theorem slotComplete_freesSlots (hc : s.cutRefused y = none) (hr : ((s.dfenceSys y).cutDurable y).drainsBefore y = true)
    (h7 : y.ws.all (·.2 = 7) = false) :
    exec (.slotComplete o) s = .next ((((s.dfenceSys y).cutDurable y).freeSlots y).setOp { y with ws := y.ws.map fun p => (p.1, 7) }) := by
  rw [exec_slotComplete]
  unfold execSlotComplete
  rw [ho]
  dsimp only
  rw [if_pos (by simp [hd, ht, hw]), hc]
  exact (if_neg fun h => Bool.false_ne_true (h7.symm.trans (Bool.and_eq_true_iff.mp h).2)).trans (if_pos hr)
end

theorem State.drainsBefore_iff (s : State) (y : Op) :
    s.drainsBefore y = true ↔ (∃ c, y.k = .dfence c) ∧ (s.earlier y).any (·.k.isLs) = true := by
  unfold State.drainsBefore
  cases y.k <;> simp

/-! ## Waits that end (R149, R242, R323) -/

theorem reached_of_lt {now : Tick} {t : Word} (h : (now.setWidth 32 - t).toNat < 2 ^ 31) : reached now t = true := by
  unfold reached
  rw [decide_eq_true_eq, BitVec.toInt_eq_toNat_of_lt (by omega)]
  exact Int.natCast_nonneg _

theorem sleepDeadline_wakes {s : State} {b w : Nat} {l : Loc} (hl : (s.block b).loc = some l) (hs : s.sidHeld l.d = false)
    (hw : ((s.block b).warp w).wait = some .sleep) (ht : ((s.block b).warp w).dl ≤ s.sid l.d) :
    exec (.sleepDeadline b w) s = .next (s.updBlock b fun y => y.closeClause w) := by
  rw [exec_sleepDeadline]
  unfold execSleepDeadline
  dsimp only
  rw [hl, hw]
  exact if_pos (by simp [ht, hs])

theorem transitTick_misses {s : State} {b w v : Nat} {l : Loc} {t : BitVec 64} {c : Clause} (hl : (s.block b).loc = some l)
    (hs : s.sidHeld l.d = false) (hw : ((s.block b).warp w).wait = some (.waitt v t)) (hc : ((s.block b).warp w).clause = some c)
    (hb : ((s.block b).warp w).slotBusy v = true) (ht : ((s.sid l.d).setWidth 32 - t.setWidth 32).toNat < 2 ^ 31) :
    exec (.transitTick b w) s = .next (s.missTransit b w v (c.word.extractLsb' 10 4).toNat) := by
  rw [exec_transitTick]
  unfold execTransitTick
  dsimp only
  rw [hl, hw, hc]
  exact if_pos (by simp [hb, hs, reached_of_lt ht])

theorem twaitDeadline_ends {s : State} {b w r : Nat} {h : Word} {l : Loc} {t : BitVec 64} (hl : (s.block b).loc = some l)
    (hs : s.sidHeld l.d = false) (hw : ((s.block b).warp w).wait = some (.twait h r (some t)))
    (hr : ∀ e i, s.named h = some (e, i) → (s.recAt e i).st.terminal = false)
    (ht : ((s.sid l.d).setWidth 32 - t.setWidth 32).toNat < 2 ^ 31) :
    exec (.twaitDeadline b w) s = .next (s.twaitEnd b w r 0x00010000#32 none) := by
  rw [exec_twaitDeadline]
  unfold execTwaitDeadline
  dsimp only
  rw [hl, hw]
  refine if_pos ?_
  rw [reached_of_lt ht, hs]
  split
  · rename_i hn; rw [hr _ _ hn]; rfl
  · rfl

/-! ## Supersede events and window writes (R50, R183, R338) -/

section
variable {s : State} {b w : Nat} {l : Loc} {pc : Word} {more : List Word} (hl : (s.block b).loc = some l)
  (he : ((s.block b).warp w).ev = pc :: more) (hd : ((s.block b).warp w).evDue = true) (hx : ((s.block b).warp w).exited = false)
  (hp : ((s.block b).warp w).parked = false)
include hl he hd hx hp

theorem supersedeEvent_logs (hf : ((lanesOf ((s.block b).warp w).present).any fun L =>
    decide (8 ≤ (((s.block b).warp w).lane L).calls.length)) = true) :
    exec (.supersedeEvent b w) s =
      .next ((s.updWarp b w fun wp => { wp with ev := more, evDue := !more.isEmpty }).logEvent 0x51 l.d l.a) := by
  rw [exec_supersedeEvent]
  unfold execSupersedeEvent
  dsimp only
  rw [hl, he]
  dsimp only
  rw [if_neg (by simp [hd, hx, hp])]
  exact if_pos hf

theorem supersedeEvent_calls (hf : ((lanesOf ((s.block b).warp w).present).any fun L =>
    decide (8 ≤ (((s.block b).warp w).lane L).calls.length)) = false) :
    exec (.supersedeEvent b w) s = .next ((s.updWarp b w fun wp => { wp with ev := more, evDue := !more.isEmpty }).updWarp b w fun wp =>
      (wp.updLanes wp.present fun _ ln => { ln with calls := (ln.pc, ln.fb) :: ln.calls, fb := ln.loops.length, pc := pc }).mergeDef) := by
  rw [exec_supersedeEvent]
  unfold execSupersedeEvent
  dsimp only
  rw [hl, he]
  dsimp only
  rw [if_neg (by simp [hd, hx, hp])]
  exact if_neg (by simp [hf])
end

/-- A queued write whose row's owner has no open clause, or whose row has no owner, may enter. -/
def Block.mayEnter (x : Block) (q : Nat × Byte) : Bool :=
  match x.rowOwner (q.1 / 128) with | some v => (x.warp v).clause.isNone | none => true

theorem Block.enterRows_mayEnter {x : Block} (h : x.winq.any x.mayEnter = true) : (x.enterRows fun w => (x.warp w).clause.isNone) =
    { x with rf := (x.winq.filter x.mayEnter).foldl (fun m q => if (x.rowOwner (q.1 / 128)).isSome then setWordByte m q.1 q.2 else m) x.rf,
             winq := x.winq.filter fun q => !x.mayEnter q } := if_pos h

theorem windowWriteEntry_enters {s : State} {b : Nat} (h : (s.block b).winq.any (s.block b).mayEnter = true) :
    exec (.windowWriteEntry b) s = .next (s.setBlock b ((s.block b).enterRows fun w => ((s.block b).warp w).clause.isNone)) := by
  have hne : ((s.block b).enterRows fun w => ((s.block b).warp w).clause.isNone) ≠ s.block b := by
    intro heq
    have hq := congrArg Block.winq heq
    rw [Block.enterRows_mayEnter h] at hq
    obtain ⟨q, hm, hy⟩ := List.any_eq_true.mp h
    have := List.filter_eq_self.mp hq q hm
    rw [hy] at this
    cases this
  rw [exec_windowWriteEntry]
  exact if_neg hne

/-! ## Ticks and beacons (R18) -/

theorem mget_foldl_mset {α : Type} [DecidableEq α] (dflt : α) (f : Nat → α) (ks : List Nat) (m : AMap α) {k : Nat} (hk : k ∈ ks) :
    mget dflt (ks.foldl (fun m d => mset dflt m d (f d)) m) k = f k := by
  induction ks using List.reverseRecOn with
  | nil => cases hk
  | append_singleton ks j ih =>
    rw [List.foldl_append, List.foldl_cons, List.foldl_nil, mget_mset]
    split
    · rename_i h; rw [h]
    · rename_i h; exact ih ((List.mem_append.mp hk).resolve_right (by simpa using h))

theorem State.mget_tickDoms (s : State) (lag : BitVec 64) {d : Nat} (hd : d < 64) :
    mget Domain.reset (s.tickDoms lag) d = (s.dom d).tick (lag.getLsbD d) :=
  mget_foldl_mset _ (fun d => (s.dom d).tick (lag.getLsbD d)) _ _ (List.mem_range.mpr hd)

theorem siderealTick_ticks {s : State} (hp : s.svc.powered = true) (lag : BitVec 64) :
    ∃ u : State, exec (.siderealTick lag) s = .next u.serveSpawns ∧ u.tick = s.tick + 1 ∧ u.mem = s.mem ∧ u.log = s.log ∧
      u.ops.length = s.ops.length ∧ ∀ d < 64, u.dom d = (s.dom d).tick (lag.getLsbD d) := by
  rw [exec_siderealTick]
  unfold execSiderealTick
  rw [if_neg (by simp [hp])]
  exact ⟨_, rfl, rfl, rfl, rfl, List.length_map _, fun d hd => s.mget_tickDoms lag hd⟩

theorem siderealBeacon_agrees {s : State} (hp : s.svc.powered = true) (ht : s.tick.toNat % 4096 = 0) : exec .siderealBeacon s =
    .next (State.settleGroups { s with doms := s.doms.map fun p => (p.1, { p.2 with lag := false, sidHeld := p.2.sidHeld && p.2.uoff }) }) := by
  rw [exec_siderealBeacon]
  exact if_neg (by simp [hp, ht])

/-- R14, R18, R50, R149, R183, R242, R243, R323, R338, R382: the events of waits and of time. -/
theorem waitAndTimeEvents : Spec.WaitAndTimeEvents := by
  intro s b w x wp
  refine ⟨?slots, ?waits, ?events, fun h => ?window, fun hp => ⟨siderealTick_ticks hp, siderealBeacon_agrees hp⟩⟩
  case slots =>
    intro o y ho hd ht hw
    refine ⟨fun _ => slotComplete_refused ho hd ht hw, fun hc => ?_⟩
    intro u rest
    exact ⟨fun hr => slotComplete_completes ho hd ht hw hc (mt (u.drainsBefore_iff y).mp hr),
      fun hr => slotComplete_freesSlots ho hd ht hw hc ((u.drainsBefore_iff y).mpr hr)⟩
  case waits =>
    intro l hl hs
    exact ⟨sleepDeadline_wakes hl hs, fun _ _ _ => transitTick_misses hl hs, fun _ _ _ => twaitDeadline_ends hl hs⟩
  case events =>
    intro l pc more hl he hd hx hp
    exact ⟨supersedeEvent_logs hl he hd hx hp, supersedeEvent_calls hl he hd hx hp⟩
  case window => exact (windowWriteEntry_enters h).trans (by rw [Block.enterRows_mayEnter h]; rfl)

/-- Settles O41: the two families of events, one theorem each. -/
theorem issueAndTimeEventsComplete : Obligations.IssueAndTimeEventsComplete := by
  unfold Obligations.IssueAndTimeEventsComplete
  exact ⟨issueEvents, waitAndTimeEvents⟩

end Sys2Proof.Machine
end

-- ==== What an operation accesses in one sector is one access (O43) ====
section
/-! PROOF. The parts that one event of a load or a store performs: `groupOf` adds the parts that share a sector with those it has until no sector is
new. Every round but the last adds a part, so the rounds suffice for the 32 lanes' parts and the result is closed under sharing a sector (R44, R187). -/

namespace Sys2Proof.Machine

/-- The parts that touch one of the sectors. -/
def partsTouching (ps : List Part) (secs : List Place) : List Part := ps.filter fun p => p.sectors.any secs.contains
/-- The sectors that the parts touch, each once. -/
def sectorsOf (g : List Part) : List Place := (g.flatMap Part.sectors).eraseDups

theorem groupOf_succ (ps : List Part) (k : Nat) (secs : List Place) : groupOf ps (k + 1) secs =
    if (sectorsOf (partsTouching ps secs)).all secs.contains then partsTouching ps secs
    else groupOf ps k (sectorsOf (partsTouching ps secs)) := rfl
theorem Part.touches_iff {p : Part} {c : Place} : p.touches c = true ↔ c ∈ p.sectors := List.contains_iff_mem
theorem mem_partsTouching {ps : List Part} {secs : List Place} {p : Part} :
    p ∈ partsTouching ps secs ↔ p ∈ ps ∧ ∃ c ∈ secs, p.touches c = true := by
  simp [partsTouching, Part.touches_iff, and_comm]
theorem mem_sectorsOf {g : List Part} {c : Place} : c ∈ sectorsOf g ↔ ∃ p ∈ g, p.touches c = true := by
  simp [sectorsOf, Part.touches_iff]
theorem Part.touches_own (p : Part) : p.touches p.pl.sector = true := by
  simp [Part.touches, Part.sectors]
theorem partsTouching_sublist (ps : List Part) (secs : List Place) : (partsTouching ps secs).Sublist ps := List.filter_sublist

/-- A round keeps the parts that are there. -/
theorem sublist_partsTouching_sectorsOf {ps g : List Part} (hg : g.Sublist ps) : g.Sublist (partsTouching ps (sectorsOf g)) := by
  have hself : partsTouching g (sectorsOf g) = g := List.filter_eq_self.mpr fun p hp =>
    (List.mem_filter.mp (mem_partsTouching.mpr ⟨hp, _, mem_sectorsOf.mpr ⟨p, hp, p.touches_own⟩, p.touches_own⟩)).2
  have hround : (partsTouching g (sectorsOf g)).Sublist (partsTouching ps (sectorsOf g)) := hg.filter _
  rwa [hself] at hround

/-- `h` holds the parts `g` and is all of the parts `ps` that touch certain sectors, with no sector outside these. -/
def IsAccess (ps g h : List Part) : Prop := ∃ secs, h = partsTouching ps secs ∧ (∀ c ∈ sectorsOf h, c ∈ secs) ∧ g ⊆ h

/-- A round that finds no new sector is the last: its parts are one access. -/
theorem groupOf_last {ps g : List Part} {secs : List Place} (k : Nat) (hg : g ⊆ partsTouching ps secs)
    (h : (sectorsOf (partsTouching ps secs)).all secs.contains = true) : IsAccess ps g (groupOf ps (k + 1) secs) := by
  rw [groupOf_succ, if_pos h]
  exact ⟨secs, rfl, fun c hc => List.contains_iff_mem.mp (List.all_eq_true.mp h c hc), hg⟩

/-- The rounds from the sectors of `g` on end with one access, if there is a round for every part that can still be added. -/
theorem groupOf_isAccess {ps g : List Part} {k : Nat} (hg : g.Sublist ps) (hk : ps.length < g.length + k) :
    IsAccess ps g (groupOf ps k (sectorsOf g)) := by
  induction k generalizing g with
  | zero => exact absurd hg.length_le (by omega)
  | succ k ih =>
    have hkeep := sublist_partsTouching_sectorsOf hg
    by_cases hlast : (sectorsOf (partsTouching ps (sectorsOf g))).all (sectorsOf g).contains = true
    · exact groupOf_last k hkeep.subset hlast
    · have hgrows : g.length < (partsTouching ps (sectorsOf g)).length := by
        refine Nat.lt_of_not_le fun hle => hlast ?_
        rw [← hkeep.eq_of_length_le hle]
        exact List.all_eq_true.mpr fun c => List.contains_iff_mem.mpr
      rw [groupOf_succ, if_neg hlast]
      obtain ⟨secs, heq, hclosed, hsub⟩ := ih (partsTouching_sublist ps (sectorsOf g)) (by omega)
      exact ⟨secs, heq, hclosed, List.Subset.trans hkeep.subset hsub⟩

/-- What one event performs at a sector is one access that holds every part in the sector. -/
theorem OpK.group_isAccess (k : OpK) (sec : Place) (hk : k.parts.length ≤ 32) : IsAccess k.parts (partsTouching k.parts [sec]) (k.group sec) := by
  unfold OpK.group
  by_cases hlast : (sectorsOf (partsTouching k.parts [sec])).all [sec].contains = true
  · exact groupOf_last 32 (List.Subset.refl _) hlast
  · have hne : partsTouching k.parts [sec] ≠ [] := fun h => hlast (by rw [h]; rfl)
    rw [groupOf_succ, if_neg hlast]
    exact groupOf_isAccess (partsTouching_sublist _ _) (by have := List.length_pos_iff.mpr hne; omega)

theorem OpK.mem_without_parts (k : OpK) (g : List Part) (p : Part) : p ∈ (k.without g).parts ↔ p ∈ k.parts ∧ p ∉ g := by
  cases k <;> simp [OpK.without, OpK.parts]

/-- Settles O43: the rounds of `groupOf` end closed under sharing a sector. -/
theorem accessesOfASectorAreOne : Obligations.AccessesOfASectorAreOne := by
  unfold Obligations.AccessesOfASectorAreOne
  intro k sec hk
  obtain ⟨secs, hgroup, hclosed, hsub⟩ := k.group_isAccess sec hk
  refine ⟨fun p hp ht => ?holds, fun p hp => ?own, fun p hp q hq c hpc hqc => ?shares, k.mem_without_parts _⟩
  case holds => exact hsub (mem_partsTouching.mpr ⟨hp, sec, List.mem_singleton_self sec, ht⟩)
  case own => exact (mem_partsTouching.mp (hgroup ▸ hp)).1
  case shares =>
    rw [hgroup]
    exact mem_partsTouching.mpr ⟨hq, c, hclosed c (mem_sectorsOf.mpr ⟨p, hp, hpc⟩), hqc⟩

end Sys2Proof.Machine
end

-- ==== Barriers: arrivals, waits and the ends of phases (O17) ====
section
/-! PROOF. What a word at a barrier comes to when it meets none of its traps (R119, R140), and what the completion test changes (R121). What arrivals and
departures hand on (R34, R47) stands in two fields of the block, so the rest is read off the objects and the warps. -/

namespace Sys2Proof.Machine

/-! ## The past handed on changes nothing else of a block (R34, R47) -/

/-- Two blocks differ at most in who has a scratch store in its past, and in the edges still to be followed. -/
def Block.SameButPast (b c : Block) : Prop := c = { b with scrH := c.scrH, edges := c.edges }

theorem Block.SameButPast.refl (b : Block) : b.SameButPast b := rfl
theorem Block.SameButPast.trans {b c d : Block} (hc : b.SameButPast c) (hd : c.SameButPast d) : b.SameButPast d := by
  unfold Block.SameButPast at hc hd
  rw [hc] at hd
  exact hd
theorem Block.flow_sameButPast (b : Block) (x y : Agent) : b.SameButPast (b.flow x y) := by
  unfold Block.flow; split <;> rfl
theorem Block.pathJoin_sameButPast (b : Block) (x : Agent) : b.SameButPast (b.pathJoin x) := by
  unfold Block.pathJoin; split <;> rfl
theorem Block.hb_sameButPast (b : Block) (x y : Agent) : b.SameButPast (b.hb x y) :=
  (b.flow_sameButPast x y).trans rfl
theorem Block.hbJoin_sameButPast (b : Block) (x : Agent) : b.SameButPast (b.hbJoin x) :=
  (b.pathJoin_sameButPast x).trans rfl
theorem Block.depart_sameButPast (b : Block) (k : Nat) (ph : BitVec 16) (w : Nat) (pth : Bool) : b.SameButPast (b.depart k ph w pth) := by
  cases pth
  · exact b.hb_sameButPast _ _
  · exact (b.hb_sameButPast _ _).trans (Block.hbJoin_sameButPast _ _)
theorem Block.departAll_sameButPast (b : Block) (k : Nat) (ph : BitVec 16) : b.SameButPast (b.departAll k ph) := by
  unfold Block.departAll
  refine List.foldlRecOn _ _ (Block.SameButPast.refl b) fun c hc w _ => hc.trans ?_
  split
  · split
    · exact c.depart_sameButPast _ _ _ _
    · exact .refl c
  · exact .refl c

section
variable {b c : Block} (h : b.SameButPast c)
include h
theorem Block.SameButPast.bar (k : Nat) : c.bar k = b.bar k := by rw [h]; rfl
theorem Block.SameButPast.warps : c.warps = b.warps := by rw [h]
theorem Block.SameButPast.rf : c.rf = b.rf := by rw [h]
theorem Block.SameButPast.scr : c.scr = b.scr := by rw [h]
end

/-! ## Arrivals (R119, R140) -/

@[simp] theorem Block.updWarp_bar (b : Block) (w k : Nat) (f : Warp → Warp) : (b.updWarp w f).bar k = b.bar k := rfl
theorem Block.bar_setBar (b : Block) (j k : Nat) (x : Bar) : (b.setBar k x).bar j = if j = k then x else b.bar j := mget_mset _ _ _ _ _

/-- The block with warp `w` counted at barrier `k`, whose phase expects `n`. -/
def Block.counted (b : Block) (w k n : Nat) : Block :=
  (b.setBar k { b.bar k with exp := n, set := true, cnt := (b.bar k).cnt + 1 }).updWarp w fun wp => { wp with arr := wp.arr ||| BitVec.twoPow 16 k }

theorem Block.counted_brk (b : Block) (w k n : Nat) : ((b.counted w k n).bar k).brk = (b.bar k).brk := by
  unfold Block.counted
  rw [Block.updWarp_bar, Block.bar_setBar, if_pos rfl]

theorem Block.arrive_counted {b : Block} {w k n : Nat} (hb : (b.bar k).brk = false) (hs : (b.bar k).set = true → (b.bar k).exp = n)
    (hn : n ≤ b.warps.length) (ha : (b.warp w).arr.getLsbD k = false) : b.arrive w k n = some (b.counted w k n) := by
  have hphase : ((b.bar k).set && (b.bar k).exp != n) = false := by
    cases hset : (b.bar k).set
    · rfl
    · simp [hs hset]
  unfold Block.arrive
  dsimp only
  rw [if_neg (by simp [hb]), if_neg (by simp [hphase, hn, ha])]
  rfl

/-- What an arrival of warp `w` in barrier `k`'s phase hands on; with `pth` ordered before matrix reads. -/
def Block.handsOn (b : Block) (k w : Nat) (pth : Bool) : Block := (if pth then b.hbJoin (.own w) else b).hb (.own w) (barAgent k (b.bar k).ph)

theorem Block.joined_sameButPast (b : Block) (w : Nat) (pth : Bool) : b.SameButPast (if pth then b.hbJoin (.own w) else b) := by
  cases pth
  · exact .refl b
  · exact b.hbJoin_sameButPast _
theorem Block.arrived_handsOn (b : Block) (k w : Nat) (pth : Bool) : b.arrived k w pth = b.handsOn k w pth := by
  unfold Block.arrived Block.handsOn
  dsimp only
  rw [(b.joined_sameButPast w pth).bar]
theorem Block.handsOn_bar (b : Block) (k w j : Nat) (pth : Bool) : (b.handsOn k w pth).bar j = b.bar j :=
  ((b.joined_sameButPast w pth).trans (Block.hb_sameButPast _ _ _)).bar j

/-! ## The words that arrive and wait (R140) -/

theorem issueReg_wait {i : Instr} {f : RegW} {s t : State} {act : Env → Act} {e : Env}
    (h : readyReg i f s = some e) (ha : act e = .wait t) : issueReg i f s act = e.stands t := by
  obtain ⟨e₀, hb, hw, -, hi⟩ := issueReg_ready (act := act) h
  rw [hi, ha]
  simp [Env.finish, Env.stands, hb, hw]

/-- All the warp's lanes are in one run, and every guard is true. -/
def Env.oneRun (e : Env) : Prop := e.any = true ∧ e.gr = e.cl.run ∧ e.cl.run = e.wp.present
/-- An arrival at barrier `k` that expects `n` warps goes through: it meets no trap, waits for no access, and the object is unbroken. -/
def Env.arrives (e : Env) (k n : Nat) : Prop := e.oneRun ∧ n ≤ 16 ∧ n ≤ e.blk.warps.length ∧ e.s.lsBusy e.bid e.w false = false ∧
  (e.blk.bar k).brk = false ∧ ((e.blk.bar k).set = true → (e.blk.bar k).exp = n) ∧ (e.blk.warp e.w).arr.getLsbD k = false

theorem Env.converged_oneRun {e : Env} (h : e.oneRun) (k : Nat) (go : Act) : e.converged k go = go := by
  obtain ⟨hany, hg, hr⟩ := h
  unfold Env.converged
  rw [if_neg (by simp [hany]), if_neg (by simp [hg, hr])]

theorem Env.barrier_waits {e : Env} {f : RegW} (h : e.arrives (f.dst.toNat % 16) (e.uni f.a).toNat) (pth : Bool) : e.barrier f pth =
    .wait ((e.s.setBlock e.bid (((e.blk.counted e.w (f.dst.toNat % 16) (e.uni f.a).toNat).handsOn (f.dst.toNat % 16) e.w pth).updWarp e.w
      fun wp => { wp with wait := some (.barrier (f.dst.toNat % 16) f.b e.gr pth) })).updBlock e.bid (·.testBar (f.dst.toNat % 16))) := by
  obtain ⟨hwhole, h16, hn, hls, hb, hs, ha⟩ := h
  unfold Env.barrier
  dsimp only
  rw [Env.converged_oneRun hwhole, if_neg (by omega), if_neg (by simp [hls]), Block.arrive_counted hb hs hn ha]
  dsimp only
  rw [Block.arrived_handsOn, if_neg (by simp [Block.handsOn_bar, Block.counted_brk, hb])]

theorem exec_bara_goesOn {e : Env} {f : RegW} {s : State} (h : readyReg (.bara f) f s = some e)
    (harr : e.arrives (f.dst.toNat % 16) (e.uni f.a).toNat) : exec (.bara f) s = e.retires (.bara f)
      (let k := f.dst.toNat % 16
       let b := (e.blk.counted e.w k (e.uni f.a).toNat).handsOn k e.w (f.dst.getLsbD 4)
       let b := (b.updWarp e.w fun wp => { wp with bara := mput wp.bara k (b.bar k).ph.toNat }).testBar k
       e.s.setBlock e.bid (b.updWarp e.w fun wp => wp.status f.b e.gr (b.bar k).brk (barStatus (b.bar k).brk (b.bar k).ph))) := by
  obtain ⟨hwhole, h16, hn, hls, hb, hs, ha⟩ := harr
  rw [exec_bara]
  refine issueReg_done h ?_
  dsimp only
  rw [Env.converged_oneRun hwhole, if_neg (by omega), if_neg (by simp [hls]), Block.arrive_counted hb hs hn ha]
  dsimp only
  rw [Block.arrived_handsOn, Block.handsOn_bar]

/-- BARW passes its tests: the warp has a BARA to wait for, or has arrived in the phase, and waits for no load. -/
theorem Env.barw_passes {e : Env} (h : e.oneRun) (hls : e.s.lsBusy e.bid e.w true = false) {k : Nat}
    (hk : mfind e.wp.bara k ≠ none ∨ e.wp.arr.getLsbD k = true) (t go : Act) :
    (e.converged k <| if (mfind e.wp.bara k).isNone && !e.wp.arr.getLsbD k then t else if e.s.lsBusy e.bid e.w true then .stall else go) = go := by
  have hnoTrap : ¬ ((mfind e.wp.bara k).isNone && !e.wp.arr.getLsbD k) = true := by
    rcases hk with hbara | harr
    · simp [hbara]
    · simp [harr]
  rw [Env.converged_oneRun h, if_neg hnoTrap, if_neg (by simp [hls])]

section
variable {e : Env} {f : RegW} {s : State} (h : readyReg (.barw f) f s = some e) (hw : e.oneRun) (hls : e.s.lsBusy e.bid e.w true = false)
include h hw hls

theorem exec_barw_broken (hk : mfind e.wp.bara (f.dst.toNat % 16) ≠ none ∨ e.wp.arr.getLsbD (f.dst.toNat % 16) = true)
    (hb : (e.blk.bar (f.dst.toNat % 16)).brk = true) : exec (.barw f) s = e.retires (.barw f)
      ((e.setWarp fun wp => { wp with bara := mdel wp.bara (f.dst.toNat % 16) }).updWarp e.bid e.w fun wp =>
        wp.status f.b e.gr true (barStatus true (e.blk.bar (f.dst.toNat % 16)).ph)) := by
  rw [exec_barw]
  exact issueReg_done h ((Env.barw_passes hw hls hk _ _).trans (if_pos hb))

theorem exec_barw_over {ph : Nat} (hk : mfind e.wp.bara (f.dst.toNat % 16) = some ph) (hb : (e.blk.bar (f.dst.toNat % 16)).brk = false)
    (hp : (e.blk.bar (f.dst.toNat % 16)).ph.toNat ≠ ph) : exec (.barw f) s = e.retires (.barw f)
      ((e.setWarp fun wp => { wp with bara := mdel wp.bara (f.dst.toNat % 16) }).updBlock e.bid fun b =>
        (b.depart (f.dst.toNat % 16) (BitVec.ofNat 16 ph) e.w (f.dst.getLsbD 4)).updWarp e.w fun wp =>
          wp.status f.b e.gr false (barStatus false (e.blk.bar (f.dst.toNat % 16)).ph)) := by
  rw [exec_barw]
  refine issueReg_done h ((Env.barw_passes hw hls (.inl (by simp [hk])) _ _).trans ?_)
  rw [if_neg (by simp [hb]), hk]
  exact if_pos (by simpa using hp)

theorem exec_barw_waits (hk : mfind e.wp.bara (f.dst.toNat % 16) ≠ none ∨ e.wp.arr.getLsbD (f.dst.toNat % 16) = true)
    (hb : (e.blk.bar (f.dst.toNat % 16)).brk = false)
    (hp : ∀ ph, mfind e.wp.bara (f.dst.toNat % 16) = some ph → (e.blk.bar (f.dst.toNat % 16)).ph.toNat = ph) : exec (.barw f) s = e.stands
      ((e.setWarp fun wp => { wp with bara := mdel wp.bara (f.dst.toNat % 16) }).updWarp e.bid e.w fun wp =>
        { wp with wait := some (.barrier (f.dst.toNat % 16) f.b e.gr (f.dst.getLsbD 4)) }) := by
  rw [exec_barw]
  refine issueReg_wait h ((Env.barw_passes hw hls hk _ _).trans ?_)
  rw [if_neg (by simp [hb])]
  split
  · exact if_neg (by simp [hp _ ‹_›])
  · rfl
end

/-- R34, R47, R119 to R121, R140: the barrier words. -/
theorem barrierWords : Spec.BarrierWords := by
  unfold Spec.BarrierWords
  intro whole arrives arrived past stands
  refine ⟨fun f s e h harr => ?bar, fun f s e h harr => ?barm, fun f s e h harr => exec_bara_goesOn h harr, fun f s e h hw hls => ?barw⟩
  case bar => exact exec_bar.trans (issueReg_wait (act := (·.barrier f false)) h (Env.barrier_waits harr false))
  case barm => exact exec_barm.trans (issueReg_wait (act := (·.barrier f true)) h (Env.barrier_waits harr true))
  case barw =>
    refine ⟨exec_barw_broken h hw hls, fun ph hk hb => ⟨exec_barw_over h hw hls hk hb, fun hp => ?_⟩, fun hk ha hb => ?_⟩
    · exact exec_barw_waits h hw hls (.inl (by simp [hk])) hb fun q hq => hp.trans (Option.some.inj (hk.symm.trans hq))
    · exact exec_barw_waits h hw hls (.inr ha) hb fun q hq => by simp [hk] at hq

/-! ## The ends of phases (R119, R121) -/

@[simp] theorem Warp.mergeDef_arr (wp : Warp) : wp.mergeDef.arr = wp.arr := by
  unfold Warp.mergeDef; split <;> rfl
@[simp] theorem Warp.budget_arr (wp : Warp) (run : Mask) (many : Bool) : (wp.budget run many).arr = wp.arr := by
  unfold Warp.budget
  dsimp only
  repeat' split
  all_goals rfl
@[simp] theorem Warp.closeClause_arr (wp : Warp) : wp.closeClause.arr = wp.arr := by
  unfold Warp.closeClause
  split
  · rfl
  · dsimp only
    rw [Warp.mergeDef_arr, Warp.budget_arr]
    split <;> rfl
@[simp] theorem Warp.status_arr (wp : Warp) (sf : BitVec 7) (g : Mask) (p : Bool) (x : Word) : (wp.status sf g p x).arr = wp.arr := by
  unfold Warp.status
  dsimp only
  split <;> rfl

/-- Barrier `k` has its phase set, is unbroken and has the count it expects. -/
def Block.phaseFull (b : Block) (k : Nat) : Prop :=
  (b.bar k).set = true ∧ (b.bar k).brk = false ∧ (b.bar k).cnt = if (b.bar k).exp = 0 then b.liveWarps else (b.bar k).exp
/-- The block with the phase of barrier `k` over, before the warps that wait on it wake. -/
def Block.nextPhase (b : Block) (k : Nat) : Block :=
  let c := (b.departAll k (b.bar k).ph).setBar k { b.bar k with ph := (b.bar k).ph + 1, cnt := 0, set := false }
  { c with warps := c.warps.map fun (wp : Warp) => { wp with arr := wp.arr &&& ~~~(BitVec.twoPow 16 k) } }

theorem Block.testBar_full {b : Block} {k : Nat} (h : b.phaseFull k) : b.testBar k = { (b.nextPhase k).wakeBar k with idle := 0 } := by
  obtain ⟨hset, hbrk, hcnt⟩ := h
  exact if_pos (by simp [hset, hbrk, ← hcnt])
theorem Block.testBar_notFull {b : Block} {k : Nat} (h : ¬ b.phaseFull k) : b.testBar k = b :=
  if_neg fun hc => h (by simpa [Block.phaseFull, and_assoc] using hc)

theorem Block.nextPhase_bar (b : Block) (j k : Nat) : (b.nextPhase k).bar j =
    if j = k then { b.bar k with ph := (b.bar k).ph + 1, cnt := 0, set := false } else b.bar j := by
  rw [← (b.departAll_sameButPast k (b.bar k).ph).bar j]
  exact Block.bar_setBar _ _ _ _
theorem Block.nextPhase_warps (b : Block) (k : Nat) :
    (b.nextPhase k).warps = b.warps.map fun wp => { wp with arr := wp.arr &&& ~~~(BitVec.twoPow 16 k) } :=
  congrArg (List.map _) (b.departAll_sameButPast k (b.bar k).ph).warps
theorem Block.nextPhase_arr {b : Block} {w : Nat} (k : Nat) (hw : w < b.warps.length) : ((b.nextPhase k).warp w).arr.getLsbD k = false := by
  unfold Block.warp
  rw [Block.nextPhase_warps]
  simp [List.getD_eq_getElem?_getD, hw, BitVec.getLsbD_twoPow]
theorem Block.wakeBar_arr {b : Block} {w : Nat} (k : Nat) (hw : w < b.warps.length) : ((b.wakeBar k).warp w).arr = (b.warp w).arr := by
  unfold Block.wakeBar Block.warp
  simp only [List.getD_eq_getElem?_getD, List.getElem?_map, List.getElem?_eq_getElem hw, Option.map_some, Option.getD_some]
  split
  · split
    · rw [Warp.closeClause_arr, Warp.status_arr]
    · rfl
  · rfl

/-- R119, R121: the completion test. -/
theorem barrierPhases : Spec.BarrierPhases := by
  unfold Spec.BarrierPhases
  intro b k x full
  refine ⟨fun h => ?_, Block.testBar_notFull⟩
  have hpast := b.departAll_sameButPast k (b.bar k).ph
  rw [Block.testBar_full h]
  refine ⟨(b.nextPhase_bar k k).trans (if_pos rfl), fun j hj => (b.nextPhase_bar j k).trans (if_neg hj), hpast.rf, hpast.scr, fun w hw => ?_⟩
  have hlen : w < (b.nextPhase k).warps.length := by rw [Block.nextPhase_warps, List.length_map]; exact hw
  exact (congrArg (·.getLsbD k) (Block.wakeBar_arr k hlen)).trans (Block.nextPhase_arr k hw)

/-- Settles O17: the words by the tests they pass, the phases by what the completion test changes. -/
theorem barriersComplete : Obligations.BarriersComplete := by
  unfold Obligations.BarriersComplete
  exact ⟨barrierWords, barrierPhases⟩

end Sys2Proof.Machine
end

-- ==== Instruction words: decoding and encoding are inverse (O50, O51) ====
section
/-! PROOF. A word is the concatenation of its format's fields, so that each format's fields are read back from the word they make and make the word
they are read from; the decoder's map of opcodes and the table of instructions agree entry by entry. -/

namespace Sys2Proof

/-! ## What the decoder answers -/

/-- The decoder answers an instruction exactly where the first word is assigned, its literal is there if it takes one, the reserved bits of its format are
zero and the word stands for that instruction. -/
theorem decode_eq_ok_iff {ws rest : List Word} {i : Instr} : decode ws = .ok (i, rest) ↔
    ∃ w lit, ws = w :: lit.toList ++ rest ∧ opAssigned (w.extractLsb' 24 8).toNat = true ∧ takesLiteral w = lit.isSome ∧ formatOk w = true ∧
      instrOfWord w lit = some i := by
  constructor
  · intro h
    unfold decode at h
    split at h
    · cases h
    · rename_i w ws
      split at h
      · cases h
      · rename_i ha
        split at h
        · rename_i hl
          split at h
          · cases h
          · rename_i l ws
            split at h
            · cases h
            · rename_i hf
              split at h
              · rename_i j hi
                cases h
                exact ⟨w, some l, rfl, by simpa using ha, hl, by simpa using hf, hi⟩
              · cases h
        · rename_i hl
          split at h
          · cases h
          · rename_i hf
            split at h
            · rename_i j hi
              cases h
              exact ⟨w, none, rfl, by simpa using ha, by simpa using hl, by simpa using hf, hi⟩
            · cases h
  · rintro ⟨w, lit, rfl, ha, hl, hf, hi⟩
    unfold decode
    cases lit with
    | none => simp [-BitVec.extractLsb'_toNat, ha, hl, hf, hi]
    | some l => simp [-BitVec.extractLsb'_toNat, ha, hl, hf, hi]

/-! ## Fields, their words, and back -/

/-- The first word of an instruction with these fields. -/
def Fields.word (op : BitVec 8) : Fields → Word
  | .reg f => regToWord op f
  | .br f => brToWord op f
  | .loop f => loopToWord op f
  | .mem f => memToWord op f
  | .mtx f => mtxToWord op f
  | .drn f => drnToWord op f
  | .asy f => asyToWord op f
  | .sys f => sysToWord op f

/-- The literal behind it. -/
def Fields.lit : Fields → Option Word
  | .reg f => f.lit
  | .br _ => none
  | .loop f => f.lit
  | .mem f => f.lit
  | .mtx f => some f.lit
  | .drn f => some f.lit
  | .asy f => f.lit
  | .sys f => f.lit

/-- The instruction of an opcode with these fields. -/
def Fields.instr (op : Nat) : Fields → Option Instr
  | .reg f => mkReg op f
  | .br f => mkBr op f
  | .loop f => mkLoop op f
  | .mem f => mkMem op f
  | .mtx f => mkMtx op f
  | .drn f => mkDrn op f
  | .asy f => mkAsy op f
  | .sys f => mkSys op f

/-- The fields of a word, in the format of its opcode. -/
def Fields.ofWord (w : Word) (lit : Option Word) : Fields :=
  let op := (w.extractLsb' 24 8).toNat
  if opIsBranch op then .br (brOfWord w)
  else if opIsLoop op then .loop (loopOfWord w lit)
  else if op ≤ 0x77 then .reg (regOfWord w lit)
  else if op ≤ 0x91 then .mem (memOfWord w lit)
  else if op ≤ 0xAB then .mtx (mtxOfWord w (lit.getD 0#32))
  else if op ≤ 0xB7 then .drn (drnOfWord w (lit.getD 0#32))
  else if op ≤ 0xCF then .asy (asyOfWord w lit)
  else .sys (sysOfWord w lit)

/-- The opcode is one of the format's (Table 03-10). -/
def Fields.inFormat (op : Nat) : Fields → Bool
  | .reg _ => op ≤ 0x77 && !opIsBranch op && !opIsLoop op
  | .br _ => opIsBranch op
  | .loop _ => opIsLoop op
  | .mem _ => 0x77 < op && op ≤ 0x91
  | .mtx _ => 0xA0 ≤ op && op ≤ 0xAB
  | .drn _ => 0xAB < op && op ≤ 0xB7
  | .asy _ => 0xB7 < op && op ≤ 0xCF
  | .sys _ => 0xCF < op

/-- In the formats whose source fields call for it, the literal is present exactly when one does (R71). -/
def Fields.litOk (op : Nat) : Fields → Bool
  | .reg f => regLitOk op f
  | .loop f => f.lit.isSome == (f.cnt == 124#7)
  | _ => true

theorem instrOfWord_eq (w : Word) (lit : Option Word) : instrOfWord w lit = (Fields.ofWord w lit).instr (w.extractLsb' 24 8).toNat := by
  unfold instrOfWord Fields.ofWord
  dsimp only
  split_ifs <;> rfl

theorem encode_of_parts {i : Instr} {op : BitVec 8} {F : Fields} (h : i.parts = some (op, F)) : encode i = F.word op :: F.lit.toList := by
  unfold encode
  rw [h]
  cases F <;> rfl


section
open BitVec

/-- One bit of a word as a field of its own. -/
theorem ofBool_getLsbD {n : Nat} (w : BitVec n) (k : Nat) : ofBool (w.getLsbD k) = w.extractLsb' k 1 := by
  apply eq_of_getLsbD_eq
  intro j hj
  obtain rfl : j = 0 := by omega
  simp

/-! Each format's fields are read back from the word they make, and a word is made again from its fields. -/

theorem regOfWord_regToWord (op : BitVec 8) (f : RegW) : regOfWord (regToWord op f) f.lit = f := by
  simp (disch := decide) only [regOfWord, regToWord, extractLsb'_append_eq_of_le, extractLsb'_append_eq_of_add_le, Nat.reduceSub, extractLsb'_eq_self]
theorem brOfWord_brToWord (op : BitVec 8) (f : BrW) : brOfWord (brToWord op f) = f := by
  simp (disch := decide) only [brOfWord, brToWord, extractLsb'_append_eq_of_le, extractLsb'_append_eq_of_add_le, Nat.reduceSub, extractLsb'_eq_self]
theorem loopOfWord_loopToWord (op : BitVec 8) (f : LoopW) : loopOfWord (loopToWord op f) f.lit = f := by
  simp (disch := decide) only [loopOfWord, loopToWord, extractLsb'_append_eq_of_le, extractLsb'_append_eq_of_add_le, Nat.reduceSub, extractLsb'_eq_self]
theorem memOfWord_memToWord (op : BitVec 8) (f : MemW) : memOfWord (memToWord op f) f.lit = f := by
  simp (disch := decide) only [memOfWord, memToWord, extractLsb'_append_eq_of_le, extractLsb'_append_eq_of_add_le, Nat.reduceSub, extractLsb'_eq_self]
theorem mtxOfWord_mtxToWord (op : BitVec 8) (f : MtxW) : mtxOfWord (mtxToWord op f) f.lit = f := by
  simp (disch := decide) only [mtxOfWord, mtxToWord, extractLsb'_append_eq_of_le, extractLsb'_append_eq_of_add_le, Nat.reduceSub, extractLsb'_eq_self]
theorem drnOfWord_drnToWord (op : BitVec 8) (f : DrnW) : drnOfWord (drnToWord op f) f.lit = f := by
  simp (disch := decide) only [drnOfWord, drnToWord, extractLsb'_append_eq_of_le, extractLsb'_append_eq_of_add_le, Nat.reduceSub, extractLsb'_eq_self]
theorem asyOfWord_asyToWord (op : BitVec 8) (f : AsyW) : asyOfWord (asyToWord op f) f.lit = f := by
  simp (disch := decide) only [asyOfWord, asyToWord, extractLsb'_append_eq_of_le, extractLsb'_append_eq_of_add_le, Nat.reduceSub, extractLsb'_eq_self]
theorem sysOfWord_sysToWord (op : BitVec 8) (f : SysW) : sysOfWord (sysToWord op f) f.lit = f := by
  simp (disch := decide) only [sysOfWord, sysToWord, extractLsb'_append_eq_of_le, extractLsb'_append_eq_of_add_le, Nat.reduceSub, extractLsb'_eq_self]

theorem regToWord_regOfWord (w : Word) (lit : Option Word) : regToWord (w.extractLsb' 24 8) (regOfWord w lit) = w := by
  simp only [regToWord, regOfWord]
  simp only [extractLsb'_append_extractLsb'_eq_extractLsb']
  exact extractLsb'_eq_self
theorem brToWord_brOfWord (w : Word) (h : w.extractLsb' 18 3 = 0#3) : brToWord (w.extractLsb' 24 8) (brOfWord w) = w := by
  simp only [brToWord, brOfWord]
  rw [← h]
  simp only [extractLsb'_append_extractLsb'_eq_extractLsb']
  exact extractLsb'_eq_self
theorem loopToWord_loopOfWord (w : Word) (lit : Option Word) : loopToWord (w.extractLsb' 24 8) (loopOfWord w lit) = w := by
  simp only [loopToWord, loopOfWord]
  simp only [extractLsb'_append_extractLsb'_eq_extractLsb']
  exact extractLsb'_eq_self
theorem memToWord_memOfWord (w : Word) {lit : Option Word} (h : w.getLsbD 20 = lit.isSome) : memToWord (w.extractLsb' 24 8) (memOfWord w lit) = w := by
  simp only [memToWord, memOfWord]
  rw [← h, ofBool_getLsbD]
  simp only [extractLsb'_append_extractLsb'_eq_extractLsb']
  exact extractLsb'_eq_self
theorem mtxToWord_mtxOfWord (w : Word) (lit : Word) (h : w.extractLsb' 0 2 = 0#2) : mtxToWord (w.extractLsb' 24 8) (mtxOfWord w lit) = w := by
  simp only [mtxToWord, mtxOfWord]
  rw [← h]
  simp only [extractLsb'_append_extractLsb'_eq_extractLsb']
  exact extractLsb'_eq_self
theorem drnToWord_drnOfWord (w : Word) (lit : Word) : drnToWord (w.extractLsb' 24 8) (drnOfWord w lit) = w := by
  simp only [drnToWord, drnOfWord]
  simp only [extractLsb'_append_extractLsb'_eq_extractLsb']
  exact extractLsb'_eq_self
theorem asyToWord_asyOfWord (w : Word) {lit : Option Word} (h : w.getLsbD 20 = lit.isSome) (h0 : w.extractLsb' 0 4 = 0#4) : asyToWord (w.extractLsb' 24 8) (asyOfWord w lit) = w := by
  simp only [asyToWord, asyOfWord]
  rw [← h, ofBool_getLsbD, ← h0]
  simp only [extractLsb'_append_extractLsb'_eq_extractLsb']
  exact extractLsb'_eq_self
theorem sysToWord_sysOfWord (w : Word) {lit : Option Word} (h : w.getLsbD 20 = lit.isSome) (h0 : w.extractLsb' 0 5 = 0#5) : sysToWord (w.extractLsb' 24 8) (sysOfWord w lit) = w := by
  simp only [sysToWord, sysOfWord]
  rw [← h, ofBool_getLsbD, ← h0]
  simp only [extractLsb'_append_extractLsb'_eq_extractLsb']
  exact extractLsb'_eq_self


theorem Fields.word_top (op : BitVec 8) (F : Fields) : (F.word op).extractLsb' 24 8 = op := by
  cases F with
  | reg f => exact Laws.HeadWord.reg_top op f
  | br f => exact Laws.HeadWord.br_top op f
  | loop f => exact Laws.HeadWord.loop_top op f
  | mem f => exact Laws.HeadWord.mem_top op f
  | mtx f => exact Laws.HeadWord.mtx_top op f
  | drn f => exact Laws.HeadWord.drn_top op f
  | asy f => exact Laws.HeadWord.asy_top op f
  | sys f => exact Laws.HeadWord.sys_top op f

/-! ## The formats of the opcodes (Table 03-10) -/

theorem opIsLoop_eq {op : Nat} (h : opIsLoop op = true) : op = 6 := by simpa [opIsLoop] using h
theorem opIsBranch_eq_false {op : Nat} (h : 6 ≤ op) : opIsBranch op = false := by
  simp [opIsBranch]; omega
theorem opIsLoop_eq_false {op : Nat} (h : 6 < op) : opIsLoop op = false := by
  simp [opIsLoop]; omega

/-- The fields of an instruction's word are its fields. -/
theorem Fields.ofWord_word {op : BitVec 8} {F : Fields} (h : F.inFormat op.toNat = true) : Fields.ofWord (F.word op) F.lit = F := by
  unfold Fields.ofWord
  rw [Fields.word_top]
  generalize hn : op.toNat = n at h
  cases F with
  | reg f =>
    simp only [Fields.inFormat, Bool.and_eq_true, Bool.not_eq_true', decide_eq_true_eq] at h
    obtain ⟨⟨hr, hb⟩, hl⟩ := h
    simp [hr, hb, hl, Fields.word, Fields.lit, regOfWord_regToWord]
  | br f => simp [show opIsBranch n = true from h, Fields.word, brOfWord_brToWord]
  | loop f =>
    have hl : opIsLoop n = true := h
    have hb : opIsBranch n = false := opIsBranch_eq_false (opIsLoop_eq hl).ge
    simp [hl, hb, Fields.word, Fields.lit, loopOfWord_loopToWord]
  | mem f | mtx f | drn f | asy f | sys f =>
    simp only [Fields.inFormat, Bool.and_eq_true, decide_eq_true_eq] at h
    have hb : opIsBranch n = false := opIsBranch_eq_false (by omega)
    have hl : opIsLoop n = false := opIsLoop_eq_false (by omega)
    simp (disch := omega) [hb, hl, if_pos, if_neg, Fields.word, Fields.lit, memOfWord_memToWord, mtxOfWord_mtxToWord, drnOfWord_drnToWord,
      asyOfWord_asyToWord, sysOfWord_sysToWord]

/-- Above the register format, outside the formats that always have one, bit 20 is the flag of the literal (R71). -/
theorem takesLiteral_flag {w : Word} (h : 0x77 < (w.extractLsb' 24 8).toNat) (h' : (w.extractLsb' 24 8).toNat < 0xA0 ∨ 0xB7 < (w.extractLsb' 24 8).toNat) :
    takesLiteral w = w.getLsbD 20 := by
  unfold takesLiteral
  dsimp only
  simp (disch := omega) [-extractLsb'_toNat, opIsBranch_eq_false, opIsLoop_eq_false, if_neg]

/-- The matrix and drain formats always have one (R71). -/
theorem takesLiteral_always {w : Word} (h : 0xA0 ≤ (w.extractLsb' 24 8).toNat) (h' : (w.extractLsb' 24 8).toNat ≤ 0xB7) : takesLiteral w = true := by
  unfold takesLiteral
  simp (disch := omega) [-extractLsb'_toNat, opIsBranch_eq_false, opIsLoop_eq_false, if_neg, h, h']

/-- The branch format has none (R71). -/
theorem takesLiteral_branch {w : Word} (h : opIsBranch (w.extractLsb' 24 8).toNat = true) : takesLiteral w = false := by
  unfold takesLiteral
  simp only [h, if_true]

/-- The flag says whether the literal is there. -/
theorem memToWord_flag (op : BitVec 8) (f : MemW) : (memToWord op f).getLsbD 20 = f.lit.isSome := by
  rw [← ofBool_eq_iff_eq, ofBool_getLsbD]
  simp (disch := decide) only [memToWord, extractLsb'_append_eq_of_le, extractLsb'_append_eq_of_add_le, Nat.reduceSub, extractLsb'_eq_self]
theorem asyToWord_flag (op : BitVec 8) (f : AsyW) : (asyToWord op f).getLsbD 20 = f.lit.isSome := by
  rw [← ofBool_eq_iff_eq, ofBool_getLsbD]
  simp (disch := decide) only [asyToWord, extractLsb'_append_eq_of_le, extractLsb'_append_eq_of_add_le, Nat.reduceSub, extractLsb'_eq_self]
theorem sysToWord_flag (op : BitVec 8) (f : SysW) : (sysToWord op f).getLsbD 20 = f.lit.isSome := by
  rw [← ofBool_eq_iff_eq, ofBool_getLsbD]
  simp (disch := decide) only [sysToWord, extractLsb'_append_eq_of_le, extractLsb'_append_eq_of_add_le, Nat.reduceSub, extractLsb'_eq_self]

/-- An instruction's first word calls for a literal exactly when the instruction has one (R71). -/
theorem Fields.takesLiteral_word {op : BitVec 8} {F : Fields} (h : F.inFormat op.toNat = true) (hl : F.litOk op.toNat = true) :
    takesLiteral (F.word op) = F.lit.isSome := by
  have ho : ((F.word op).extractLsb' 24 8).toNat = op.toNat := by rw [Fields.word_top]
  cases F with
  | reg f =>
    simp only [Fields.inFormat, Bool.and_eq_true, Bool.not_eq_true', decide_eq_true_eq] at h
    obtain ⟨⟨hr, hb⟩, hn⟩ := h
    have ha : (regToWord op f).extractLsb' 7 7 = f.a := congrArg RegW.a (regOfWord_regToWord op f)
    have hs : (regToWord op f).extractLsb' 0 7 = f.b := congrArg RegW.b (regOfWord_regToWord op f)
    have h6 : (regToWord op f)[6] = f.b[6] := by simp [← hs]
    have hf : f.lit.isSome = (regSrcA op.toNat (f.b.getLsbD 6) && f.a == 124#7 || regSrcB op.toNat && f.b == 124#7) := eq_of_beq hl
    simp only [Fields.word, Fields.lit] at ho ⊢
    simp [-extractLsb'_toNat, takesLiteral, ho, hb, hn, hr, ha, hs, h6, hf]
  | br f =>
    have hb : opIsBranch op.toNat = true := h
    simp [-extractLsb'_toNat, takesLiteral, ho, hb, Fields.lit]
  | loop f =>
    have hn : opIsLoop op.toNat = true := h
    have hb : opIsBranch op.toNat = false := opIsBranch_eq_false (opIsLoop_eq hn).ge
    have hc : (loopToWord op f).extractLsb' 12 7 = f.cnt := congrArg LoopW.cnt (loopOfWord_loopToWord op f)
    have hf : f.lit.isSome = (f.cnt == 124#7) := eq_of_beq hl
    simp only [Fields.word, Fields.lit] at ho ⊢
    simp [-extractLsb'_toNat, takesLiteral, ho, hb, hn, hc, hf]
  | mem f =>
    simp only [Fields.inFormat, Bool.and_eq_true, decide_eq_true_eq] at h
    exact (takesLiteral_flag (by omega) (by omega)).trans (memToWord_flag op f)
  | asy f =>
    simp only [Fields.inFormat, Bool.and_eq_true, decide_eq_true_eq] at h
    exact (takesLiteral_flag (by omega) (by omega)).trans (asyToWord_flag op f)
  | sys f =>
    simp only [Fields.inFormat, decide_eq_true_eq] at h
    exact (takesLiteral_flag (by omega) (by omega)).trans (sysToWord_flag op f)
  | mtx f | drn f =>
    simp only [Fields.inFormat, Bool.and_eq_true, decide_eq_true_eq] at h
    exact takesLiteral_always (by omega) (by omega)

/-- The reserved bits of the format are zero in an instruction's first word. -/
theorem Fields.formatOk_word {op : BitVec 8} {F : Fields} (h : F.inFormat op.toNat = true) : formatOk (F.word op) = true := by
  have ho : ((F.word op).extractLsb' 24 8).toNat = op.toNat := by rw [Fields.word_top]
  unfold formatOk
  rw [ho]
  cases F with
  | reg f =>
    simp only [Fields.inFormat, Bool.and_eq_true, Bool.not_eq_true', decide_eq_true_eq] at h
    obtain ⟨⟨hr, hb⟩, -⟩ := h
    simp (disch := omega) [hb, if_neg]
  | br f =>
    have hb : opIsBranch op.toNat = true := h
    simp only [hb, if_true, Fields.word, beq_iff_eq]
    simp (disch := decide) only [brToWord, extractLsb'_append_eq_of_le, extractLsb'_append_eq_of_add_le, Nat.reduceSub, extractLsb'_eq_self]
  | loop f =>
    rw [opIsLoop_eq h]
    simp [opIsBranch]
  | mem f | drn f =>
    simp only [Fields.inFormat, Bool.and_eq_true, decide_eq_true_eq] at h
    simp (disch := omega) [opIsBranch_eq_false, if_neg]
  | mtx f =>
    simp only [Fields.inFormat, Bool.and_eq_true, decide_eq_true_eq] at h
    simp (disch := omega) [opIsBranch_eq_false, h]
    exact extractLsb'_append_eq_right
  | asy f =>
    simp only [Fields.inFormat, Bool.and_eq_true, decide_eq_true_eq] at h
    simp (disch := omega) [opIsBranch_eq_false, if_neg, if_pos]
    exact extractLsb'_append_eq_right
  | sys f =>
    simp only [Fields.inFormat, decide_eq_true_eq] at h
    simp (disch := omega) [opIsBranch_eq_false, if_neg, if_pos]
    exact extractLsb'_append_eq_right

/-! ## Opcodes and instructions (Table 03-9) -/

/-! Each opcode's entry in the decoder's map is that of the instruction it makes. -/

theorem parts_of_mkReg {n : Nat} {f : RegW} {i : Instr} (h : mkReg n f = some i) : i.parts = some (BitVec.ofNat 8 n, .reg f) := by
  unfold mkReg at h
  split at h <;> cases h
  case h_29 => split <;> rfl
  all_goals rfl
theorem parts_of_mkBr {n : Nat} {f : BrW} {i : Instr} (h : mkBr n f = some i) : i.parts = some (BitVec.ofNat 8 n, .br f) := by
  unfold mkBr at h
  split at h <;> cases h
  all_goals rfl
theorem parts_of_mkLoop {n : Nat} {f : LoopW} {i : Instr} (h : mkLoop n f = some i) : i.parts = some (BitVec.ofNat 8 n, .loop f) := by
  unfold mkLoop at h
  split at h <;> cases h
  all_goals rfl
theorem parts_of_mkMem {n : Nat} {f : MemW} {i : Instr} (h : mkMem n f = some i) : i.parts = some (BitVec.ofNat 8 n, .mem f) := by
  unfold mkMem at h
  split at h <;> cases h
  all_goals rfl
theorem parts_of_mkMtx {n : Nat} {f : MtxW} {i : Instr} (h : mkMtx n f = some i) : i.parts = some (BitVec.ofNat 8 n, .mtx f) := by
  unfold mkMtx at h
  split at h <;> cases h
  all_goals rfl
theorem parts_of_mkDrn {n : Nat} {f : DrnW} {i : Instr} (h : mkDrn n f = some i) : i.parts = some (BitVec.ofNat 8 n, .drn f) := by
  unfold mkDrn at h
  split at h <;> cases h
  all_goals rfl
theorem parts_of_mkAsy {n : Nat} {f : AsyW} {i : Instr} (h : mkAsy n f = some i) : i.parts = some (BitVec.ofNat 8 n, .asy f) := by
  unfold mkAsy at h
  split at h <;> cases h
  case h_4 => split <;> rfl
  case h_22 => split <;> rfl
  case h_23 => split <;> rfl
  all_goals rfl
theorem parts_of_mkSys {n : Nat} {f : SysW} {i : Instr} (h : mkSys n f = some i) : i.parts = some (BitVec.ofNat 8 n, .sys f) := by
  unfold mkSys at h
  split at h <;> cases h
  case h_21 => split <;> rfl
  case h_25 => split <;> rfl
  all_goals rfl

theorem Fields.parts_of_instr {op : BitVec 8} {F : Fields} {i : Instr} (h : F.instr op.toNat = some i) : i.parts = some (op, F) := by
  have hop : BitVec.ofNat 8 op.toNat = op := by simp
  rw [← hop]
  cases F with
  | reg f => exact parts_of_mkReg h
  | br f => exact parts_of_mkBr h
  | loop f => exact parts_of_mkLoop h
  | mem f => exact parts_of_mkMem h
  | mtx f => exact parts_of_mkMtx h
  | drn f => exact parts_of_mkDrn h
  | asy f => exact parts_of_mkAsy h
  | sys f => exact parts_of_mkSys h

/-- The fields of an assigned word make the word again, where its reserved bits are zero and it calls for a literal exactly when there is one. -/
theorem Fields.word_ofWord {w : Word} {lit : Option Word} (ha : opAssigned (w.extractLsb' 24 8).toNat = true) (hf : formatOk w = true)
    (hl : takesLiteral w = lit.isSome) : (Fields.ofWord w lit).word (w.extractLsb' 24 8) = w ∧ (Fields.ofWord w lit).lit = lit := by
  have flag := @takesLiteral_flag w
  have always := @takesLiteral_always w
  have never := @takesLiteral_branch w
  unfold formatOk at hf
  unfold Fields.ofWord
  simp only [opAssigned, Bool.or_eq_true, Bool.and_eq_true, decide_eq_true_eq] at ha
  generalize (w.extractLsb' 24 8).toNat = op at *
  dsimp only at hf ⊢
  split
  case isTrue hb =>
    rw [if_pos hb] at hf
    rw [never hb] at hl
    exact ⟨brToWord_brOfWord w (eq_of_beq hf), (Option.isSome_eq_false_iff.1 hl.symm |> Option.isNone_iff_eq_none.1).symm⟩
  case isFalse hb =>
    rw [if_neg hb] at hf
    split
    case isTrue => exact ⟨loopToWord_loopOfWord w lit, rfl⟩
    split
    case isTrue => exact ⟨regToWord_regOfWord w lit, rfl⟩
    split
    case isTrue => exact ⟨memToWord_memOfWord w ((flag (by omega) (by omega)).symm.trans hl), rfl⟩
    split
    case isTrue =>
      rw [if_pos (by simp; omega)] at hf
      obtain ⟨l, rfl⟩ := Option.isSome_iff_exists.1 (hl.symm.trans (always (by omega) (by omega)))
      exact ⟨mtxToWord_mtxOfWord w l (eq_of_beq hf), rfl⟩
    split
    case isTrue =>
      obtain ⟨l, rfl⟩ := Option.isSome_iff_exists.1 (hl.symm.trans (always (by omega) (by omega)))
      exact ⟨drnToWord_drnOfWord w l, rfl⟩
    rw [if_neg (by simp; omega)] at hf
    split
    case isTrue =>
      rw [if_pos (by simp; omega)] at hf
      exact ⟨asyToWord_asyOfWord w ((flag (by omega) (by omega)).symm.trans hl) (eq_of_beq hf), rfl⟩
    case isFalse =>
      rw [if_neg (by simp; omega), if_pos (by omega)] at hf
      exact ⟨sysToWord_sysOfWord w ((flag (by omega) (by omega)).symm.trans hl) (eq_of_beq hf), rfl⟩

theorem Instr.parts_format {i : Instr} {op : BitVec 8} {F : Fields} (h : i.parts = some (op, F)) :
    opAssigned op.toNat = true ∧ F.inFormat op.toNat = true := by
  cases i <;> cases h <;> exact ⟨rfl, rfl⟩

theorem Instr.instr_of_wf {i : Instr} {op : BitVec 8} {F : Fields} (h : i.parts = some (op, F)) (hw : i.wf = true) : F.instr op.toNat = some i := by
  cases i <;> cases h
  case movsys f =>
    simp only [Instr.wf, fieldsOk, Bool.and_eq_true, decide_eq_true_eq] at hw
    have h6 : f.b[6] = false := Nat.testBit_lt_two_pow (i := 6) (by omega)
    simp [Fields.instr, mkReg, h6]
  case movsysW f =>
    simp only [Instr.wf, fieldsOk, Bool.and_eq_true, Bool.or_eq_true, beq_iff_eq] at hw
    have h6 : f.b[6] = true := by obtain ⟨⟨-, hb | hb⟩, -⟩ := hw <;> simp [hb]
    simp [Fields.instr, mkReg, h6]
  case cpytProm f | cpytEvct f | cpytScr f | cpytGlb f | grpsetNew f | grpsetAdd f | grpsetArm f | grpsetFree f | shmap f | shmapFree f =>
    simp only [Instr.wf, fieldsOk, Bool.and_eq_true, beq_iff_eq] at hw
    simp [Fields.instr, mkAsy, hw]
  case svcVf f | svcRetire f | svcPkill f | svcQuote f | evlogPut f | evlogGet f =>
    simp only [Instr.wf, fieldsOk, Bool.and_eq_true, beq_iff_eq] at hw
    simp [Fields.instr, mkSys, hw]
  all_goals rfl

/-- A word without source fields that could call for a literal has none (R71). -/
theorem regLitOk_of_none {op : Nat} {f : RegW} (ha : (regSrcA op (f.b.getLsbD 6) && f.a == 124#7) = false) (hb : regSrcB op = false)
    (hl : f.lit.isNone = true) : regLitOk op f = true := by
  unfold regLitOk
  rw [ha, hb, Option.isNone_iff_eq_none.1 hl]
  rfl

theorem Instr.regLitOk_of_wf {i : Instr} {op : BitVec 8} {f : RegW} (h : i.parts = some (op, .reg f)) (hw : i.wf = true) :
    regLitOk op.toNat f = true := by
  cases i <;> cases h <;> simp only [Instr.wf, fieldsOk, Bool.and_eq_true] at hw
  case nop | ret | exit | exits | barw | yield | vote | plop | movs | qbind | chget | chclose | movi | rnd =>
    exact regLitOk_of_none rfl rfl hw.2
  case movsys =>
    obtain ⟨⟨⟨-, ha⟩, -⟩, hl⟩ := hw
    exact regLitOk_of_none (by rw [eq_of_beq ha]; simp) rfl hl
  case pkcv | xpcv =>
    obtain ⟨⟨-, hb⟩, hm⟩ := hw
    have hl : f.lit.isSome = true := by
      cases hf : f.lit with
      | none => simp [hf] at hm
      | some l => rfl
    simp [regLitOk, regSrcB, eq_of_beq hb, hl]
  all_goals exact hw.2

/-- A well-formed instruction's literal follows its source fields. -/
theorem Instr.litOk_of_wf {i : Instr} {op : BitVec 8} {F : Fields} (h : i.parts = some (op, F)) (hw : i.wf = true) : F.litOk op.toNat = true := by
  cases F with
  | br f | mem f | mtx f | drn f | asy f | sys f => rfl
  | loop f =>
    cases i <;> cases h
    simp only [Instr.wf, fieldsOk, Bool.and_eq_true] at hw
    exact hw.2
  | reg f => exact Instr.regLitOk_of_wf h hw

/-- Settles O50: the decoder reads the fields of an instruction's words back, and its map of opcodes takes them to the instruction. -/
theorem decodeEncodeRoundTrip : Obligations.DecodeEncodeRoundTrip := by
  intro i rest hword hwf
  obtain ⟨⟨op, F⟩, hp⟩ := Option.isSome_iff_exists.1 hword
  obtain ⟨ha, hin⟩ := Instr.parts_format hp
  rw [encode_of_parts hp, decode_eq_ok_iff]
  refine ⟨F.word op, F.lit, rfl, ?_, Fields.takesLiteral_word hin (Instr.litOk_of_wf hp hwf), Fields.formatOk_word hin, ?_⟩
  · rwa [Fields.word_top]
  · rw [instrOfWord_eq, Fields.ofWord_word hin, Fields.word_top, Instr.instr_of_wf hp hwf]

/-- Settles O51: a word that decodes is put together again from the fields read from it. -/
theorem encodeDecodeRoundTrip : Obligations.EncodeDecodeRoundTrip := by
  intro ws rest i h
  obtain ⟨w, lit, rfl, ha, hl, hf, hi⟩ := decode_eq_ok_iff.1 h
  rw [instrOfWord_eq] at hi
  have hp := Fields.parts_of_instr hi
  obtain ⟨hw, hlit⟩ := Fields.word_ofWord ha hf hl
  refine ⟨by rw [Instr.isWord, hp]; rfl, ?_⟩
  rw [encode_of_parts hp, hw, hlit]

end

end Sys2Proof
end

-- ==== Channel words, branches, calls and returns (O15, O20) ====
section
/-! PROOF. What the channel words and the words that move PCs come to when they meet none of their traps (R132 to R135, R148). -/

namespace Sys2Proof.Machine

/-! ## CHPUT, CHGET and CHCLOSE (R148) -/

section
variable {e : Env} {c : Nat} {i : Wait} {loads : Bool} {b : Block} (hopen : e.blk.openChan c = some b) (hidle : e.s.lsBusy e.bid e.w loads = false)
include hopen hidle

/-- A channel that serves the word's row does so at once. -/
theorem Env.channel_served {b' : Block} (hserve : b.chanServe e.w i = some b') : e.channel c i loads = .done (e.s.setBlock e.bid b') := by
  unfold Env.channel
  rw [hopen]
  dsimp only
  rw [if_neg (by simp [hidle]), hserve]

/-- Otherwise the word stands at the channel. -/
theorem Env.channel_waits (hserve : b.chanServe e.w i = none) :
    e.channel c i loads = .wait (e.s.setBlock e.bid (b.updWarp e.w fun wp => { wp with wait := some i })) := by
  unfold Env.channel
  rw [hopen]
  dsimp only
  rw [if_neg (by simp [hidle]), hserve]
end

/-- A channel takes a row while it holds fewer than 16, or discards it if it is closed or broken (R122). -/
theorem Block.chanServe_chput_isSome (b : Block) (w c : Nat) (row : ChRow) (sf : BitVec 7) (g : Mask) :
    (b.chanServe w (.chput c row sf g)).isSome = ((b.chan c).brk || (b.chan c).cls || decide ((b.chan c).q.length < 16)) := by
  unfold Block.chanServe
  dsimp only
  split <;> simp_all

/-- A channel gives its oldest row, or none if it is closed or broken (R122). -/
theorem Block.chanServe_chget_isSome (b : Block) (w c : Nat) (nw : BitVec 1) (dst : BitVec 6) (sf : BitVec 7) (g gr : Mask) :
    (b.chanServe w (.chget c nw dst sf g gr)).isSome = ((b.chan c).brk || (b.chan c).cls || !(b.chan c).q.isEmpty) := by
  unfold Block.chanServe
  cases hbrk : (b.chan c).brk
  · cases hq : (b.chan c).q with
    | cons row rest => simp [hbrk, hq]
    | nil => cases hcls : (b.chan c).cls <;> simp [hbrk, hq, hcls]
  · simp [hbrk]

/-- Settles O15: CHPUT and CHGET by whether their channel serves them. -/
theorem channelWordsComplete : Obligations.ChannelWordsComplete := by
  unfold Obligations.ChannelWordsComplete
  intro moves
  refine ⟨fun f s e b h hany hopen hidle => ?chput, fun f s e b h hany hopen hidle => ?chget, fun f s e h hany => ?chclose,
    Block.chanServe_chput_isSome, Block.chanServe_chget_isSome⟩
  case chput =>
    rw [exec_chput]
    exact ⟨fun b' hs => issueReg_done h ((if_neg (by simp [hany])).trans (Env.channel_served hopen hidle hs)),
      fun hs => issueReg_wait h ((if_neg (by simp [hany])).trans (Env.channel_waits hopen hidle hs))⟩
  case chget =>
    rw [exec_chget]
    exact ⟨fun b' hs => issueReg_done h ((if_neg (by simp [hany])).trans (Env.channel_served hopen hidle hs)),
      fun hs => issueReg_wait h ((if_neg (by simp [hany])).trans (Env.channel_waits hopen hidle hs))⟩
  case chclose =>
    rw [exec_chclose]
    exact issueReg_done h (congrArg Act.done (if_pos hany))

/-! ## Sets of lanes -/

theorem getLsbD_foldl_twoPow (f : Nat → Bool) (l : List Nat) (m : Mask) (j : Nat) (hj : j < 32) :
    (l.foldl (fun m L => if f L then m ||| BitVec.twoPow 32 L else m) m).getLsbD j = (m.getLsbD j || (decide (j ∈ l) && f j)) := by
  induction l generalizing m with
  | nil => simp
  | cons L l ih =>
    rw [List.foldl_cons, ih]
    by_cases hL : L = j
    · subst hL
      cases hf : f L <;> simp [hj]
    · cases hf : f L <;> simp [hL, Ne.symm hL, BitVec.getLsbD_twoPow]

/-- A lane is in the set of the lanes with a property exactly when it has it. -/
theorem getLsbD_maskOf (f : Nat → Bool) {L : Nat} (hL : L < 32) : (maskOf f).getLsbD L = f L := by
  unfold maskOf
  rw [getLsbD_foldl_twoPow f _ _ L hL]
  simp [hL]

/-- No lane has the property. -/
theorem maskOf_eq_zero {f : Nat → Bool} (h : ∀ L < 32, f L = false) : maskOf f = 0#32 := by
  apply BitVec.eq_of_getLsbD_eq
  intro L hL
  rw [getLsbD_maskOf f hL, h L hL, BitVec.getLsbD_zero]

/-! ## Branches, calls and returns (R133 to R135) -/

/-- The target of BRA and CALL is the word's PC plus 4 × OFF, as a signed offset (R133). -/
theorem Env.target_eq (e : Env) (off : BitVec 18) : e.target off = e.cl.wordPc + BitVec.ofInt 32 (4 * off.toInt) := by
  unfold Env.target
  congr 1
  calc off.signExtend 32 <<< 2 = BitVec.ofInt 32 off.toInt * BitVec.twoPow 32 2 := BitVec.shiftLeft_eq_mul_twoPow _ _
    _ = BitVec.ofInt 32 (off.toInt * 4) := by rw [BitVec.ofInt_mul]; rfl
    _ = BitVec.ofInt 32 (4 * off.toInt) := by rw [mul_comm]

/-- Targets that are multiples of 4 pass (R134). -/
theorem Env.aligned_passes {e : Env} {t : Nat → Word} (h : ∀ L < 32, e.gr.getLsbD L = true → (t L).toNat % 4 = 0) (k : Act) : e.aligned t k = k := by
  have hbad : (maskOf fun L => e.gr.getLsbD L && (t L).extractLsb' 0 2 != 0#2) = 0#32 := by
    refine maskOf_eq_zero fun L hL => ?_
    cases hg : e.gr.getLsbD L
    · rfl
    · have h4 : (t L).extractLsb' 0 2 = 0#2 := BitVec.eq_of_toNat_eq (by simpa using h L hL hg)
      simp [h4]
  unfold Env.aligned
  rw [hbad]
  rfl

/-- Lanes with room for a frame are called (R134). -/
theorem Env.call_pushes {e : Env} (h : ∀ L < 32, e.gr.getLsbD L = true → (e.lane L).calls.length ≠ 8) (t : Nat → Word) :
    e.call t = .done (e.jump e.gr fun L ln => { ln with calls := (e.nextPc, ln.fb) :: ln.calls, fb := ln.loops.length, pc := t L }) := by
  have hovf : (maskOf fun L => e.gr.getLsbD L && (e.lane L).calls.length = 8) = 0#32 := by
    refine maskOf_eq_zero fun L hL => ?_
    cases hg : e.gr.getLsbD L
    · rfl
    · simp [h L hL hg]
  unfold Env.call
  rw [hovf]
  rfl

/-- R132 to R134: NOP, YIELD and the branches. -/
theorem branchWords : Spec.BranchWords := by
  unfold Spec.BranchWords
  refine ⟨fun f s e h _ => ?nop, fun f s e h _ => ?yield, fun f s e h => ?bra, fun f s e h ht => ?brx⟩
  case nop => exact exec_nop.trans (issueReg_done h rfl)
  case yield => exact exec_yield.trans (issueReg_done h rfl)
  case bra =>
    rw [exec_bra, ← Env.target_eq]
    exact issueWord_done h rfl
  case brx =>
    rw [exec_brx]
    exact issueReg_done h (Env.aligned_passes ht _)

/-- R133 to R135: calls and returns. -/
theorem callsAndReturns : Spec.CallsAndReturns := by
  unfold Spec.CallsAndReturns
  intro called room
  refine ⟨fun f s e h hroom => ?call, fun f s e h hc => ?callx, fun f s e h hcalls => ?ret⟩
  case call =>
    rw [exec_call, ← Env.target_eq]
    exact issueWord_done h (Env.call_pushes hroom _)
  case callx =>
    obtain ⟨hroom, ht⟩ := hc
    rw [exec_callx]
    exact issueReg_done h ((Env.aligned_passes ht _).trans (Env.call_pushes hroom _))
  case ret =>
    have hbad : (maskOf fun L => e.gr.getLsbD L && (e.lane L).calls.isEmpty) = 0#32 := by
      refine maskOf_eq_zero fun L hL => ?_
      cases hg : e.gr.getLsbD L
      · rfl
      · simp [hcalls L hL hg]
    rw [exec_ret]
    refine issueReg_done h ?_
    dsimp only
    rw [hbad]
    rfl

/-- Settles O20: each word by the tests it passes. -/
theorem branchesAndCallsComplete : Obligations.BranchesAndCallsComplete := by
  unfold Obligations.BranchesAndCallsComplete
  exact ⟨branchWords, callsAndReturns⟩

end Sys2Proof.Machine
end

-- ==== The whole machine: every step answers (O54, O55) ====
section
/-! PROOF. An event answers a next state or a refusal, and a word at issue a next state, since it finds its open clause; so a step of the powered machine
goes on, and no step ends in a fault (R60, R112). -/

namespace Sys2Proof.Machine

/-! ## Events answer -/

/-- The outcome is a next state or a refusal. -/
def Out.Answers : Out → Prop
  | .fault _ => False
  | _ => True

@[simp] theorem Out.answers_next (t : State) : Out.Answers (.next t) := trivial
@[simp] theorem Out.answers_refused (r : Refusal) : Out.Answers (.refused r) := trivial
theorem Out.Answers.ne_fault {o : Out} (h : o.Answers) (f : Fault) : o ≠ .fault f := by
  rintro rfl
  exact h

theorem Out.answers_if {c : Prop} [Decidable c] {x y : Out} (hx : x.Answers) (hy : y.Answers) : Out.Answers (if c then x else y) := by
  split <;> assumption

section
variable {go : Out} (h : go.Answers)
include h
@[simp] theorem State.releasing_answers (s : State) (x : Op) (sys : Bool) : (s.releasing x sys go).Answers := by
  unfold State.releasing; repeat' split
  all_goals simp [h]
@[simp] theorem State.copyGo_answers (s : State) (x : Op) (ord scp : Nat) : (s.copyGo x ord scp go).Answers := by
  unfold State.copyGo; repeat' split
  all_goals simp [h]
@[simp] theorem State.drainTake_answers (s : State) (x : Op) (secs : List Place) : (s.drainTake x secs go).Answers := by
  unfold State.drainTake; dsimp only; repeat' split
  all_goals simp [h]
@[simp] theorem State.blockRelease_answers (s : State) (d : Nat) (bs : List Nat) (sys : Bool) : (s.blockRelease d bs sys go).Answers := by
  unfold State.blockRelease; repeat' split
  all_goals simp [h]
@[simp] theorem State.fabGo_answers (s : State) (x : Op) (m : FabOut) (line : Option (Nat × Nat)) : (s.fabGo x m line go).Answers := by
  unfold State.fabGo; repeat' split
  all_goals simp [h]
end
@[simp] theorem State.waiting_answers (old s : State) : (old.waiting s).Answers := by
  unfold State.waiting; split <;> trivial
@[simp] theorem Tried.out_answers {go : State → Out} (h : ∀ s, (go s).Answers) (r : Tried) (old : State) : (r.out old go).Answers := by
  cases r <;> simp [Tried.out, h]
@[simp] theorem State.sliceAsks_answers (s : State) (d pa : Nat) (go : State) : (s.sliceAsks d pa go).Answers := by
  unfold State.sliceAsks; dsimp only; repeat' split
  all_goals trivial
@[simp] theorem State.fabAccept_answers {go : State → Nat → FabIn → Out} (h : ∀ s t e, (go s t e).Answers) (s : State) (tbl : Nat) (m : FabMsg)
    (got : List Nat) (code : Nat) : (s.fabAccept tbl m got code go).Answers := by
  unfold State.fabAccept; dsimp only; repeat' split
  all_goals simp [h]
@[simp] theorem State.fabArrive_answers (s : State) (m : FabMsg) : (s.fabArrive m).Answers := by
  unfold State.fabArrive; repeat' split
  all_goals simp
@[simp] theorem State.fabSector_answers (s : State) (x : Op) (f : FabOut) (t : Nat) (e : FabIn) (n k : Nat) (bytes : List Byte) (tag : Option Word) :
    (s.fabSector x f t e n k bytes tag).Answers := by
  unfold State.fabSector; dsimp only; repeat' split
  all_goals trivial
@[simp] theorem State.settle_answers (s : State) (b q : Nat) : (s.settle b q).Answers := by
  unfold State.settle; dsimp only; repeat' split
  all_goals simp

theorem execFabricC1Arrival_answers (m : FabMsg) (s : State) : (execFabricC1Arrival m s).Answers := by
  unfold execFabricC1Arrival
  split
  · dsimp only
    split
    · trivial
    · split
      · repeat' split
        all_goals simp
      · split
        · trivial
        · split
          · repeat' split
            all_goals simp
          · exact State.fabAccept_answers (fun s t e => by split <;> trivial) _ _ _ _ _
  · trivial

theorem execHostLinkAccess_answers (link bar off : Nat) (acc : HostAcc) (s : State) : (execHostLinkAccess link bar off acc s).Answers := by
  unfold execHostLinkAccess
  extract_lets +onlyGivenNames n h q reply
  have hreply : ∀ s r, Out.Answers (reply s r) := fun _ _ => trivial
  clear_value reply
  refine Out.answers_if trivial ?_
  split
  · exact hreply _ _
  · rename_i pa _
    refine Out.answers_if trivial (Out.answers_if ?_ ?_)
    · obtain ⟨d, hd⟩ : ∃ d, (pa - ctlBase) / 2 ^ 30 = d := ⟨_, rfl⟩
      obtain ⟨o, ho⟩ : ∃ o, (pa - ctlBase) % 2 ^ 30 = o := ⟨_, rfl⟩
      simp only [hd, ho]
      split
      · exact hreply _ _
      · refine Out.answers_if (Out.answers_if (by simp) trivial) ?_
        split <;> trivial
    · extract_lets ask
      have hask : ∀ pa go, Out.Answers go → Out.Answers (ask pa go) := fun pa go hgo => Out.answers_if trivial (Out.answers_if trivial hgo)
      clear_value ask
      repeat' split
      all_goals simp [hreply, hask]

theorem exec_answers {i : Instr} (hi : i.isWord = false) (s : State) : Out.Answers (exec i s) := by
  cases i
  case hostLinkAccess link bar off acc => exact execHostLinkAccess_answers link bar off acc s
  case fabricC1Arrival m => exact execFabricC1Arrival_answers m s
  case clauseIssue | quartetRendezvous | activeSetExchange | handlerStart | slotComplete | sleepDeadline | siderealTick | siderealBeacon |
    windowWriteEntry | loadComplete | storePerformed | homeRetry | reservationLapse | cpymRequestArrival | multicastWindowClose | lateJoinerResend |
    copySectorWrite | copyCompletion | transitTick | matrixCompletion | drainUpdateApply | rangeRecordArrival | dispatchPlacement | eviction |
    parkRecordWake | parkNeighbourOffer | blockExit | gridCompletion | supersedeEvent | twaitDeadline | promotionServe | promotionAging |
    promotionDone | objectEvictionDone | seqWordReplay | seqTransition | seqTimeout | periodicCut | cutInstant | bankSeal | journalAck |
    l1DirectoryRequest | remoteFetch | homeUpdate | remoteInvalidation | sliceReplacement | directoryEntryDrop | pageWalk | backInvalidationSnoop |
    hostSnoop | poolLinkDown | poolLinkUp | enqueueWindowWrite | enqdropWrite | objectTableWrite | computeIslandPowerFail | coreResume |
    fabricC0Arrival | fabricC2Arrival | fabricAck | fabricResend | portDown | portUp | fabricManagement | fdiscWrite |
    controlRegisterWrite | moduleBringUp | modulePowerLoss | uncoreIslandPowerLoss | unitRetirement | clockSourceFail | powerLimitStep |
    supplyDroop | thermalTrip | islandPowerOff | uncoreIslandPowerReturn | acknowledgementReceiptConfirmed | correctedError =>
    dsimp only [
      exec_clauseIssue, exec_quartetRendezvous, exec_activeSetExchange, exec_handlerStart, exec_slotComplete, exec_sleepDeadline, exec_siderealTick,
        exec_siderealBeacon, exec_windowWriteEntry, exec_loadComplete, exec_storePerformed, exec_homeRetry, exec_reservationLapse,
        exec_cpymRequestArrival, exec_multicastWindowClose, exec_lateJoinerResend, exec_copySectorWrite, exec_copyCompletion, exec_transitTick,
        exec_matrixCompletion, exec_drainUpdateApply, exec_rangeRecordArrival, exec_dispatchPlacement, exec_eviction, exec_parkRecordWake,
        exec_parkNeighbourOffer, exec_blockExit, exec_gridCompletion, exec_supersedeEvent, exec_twaitDeadline, exec_promotionServe,
        exec_promotionAging, exec_promotionDone, exec_objectEvictionDone, exec_seqWordReplay, exec_seqTransition, exec_seqTimeout, exec_periodicCut,
        exec_cutInstant, exec_bankSeal, exec_journalAck, exec_l1DirectoryRequest, exec_remoteFetch, exec_homeUpdate, exec_remoteInvalidation,
        exec_sliceReplacement, exec_directoryEntryDrop, exec_pageWalk, exec_backInvalidationSnoop, exec_hostSnoop, exec_poolLinkDown,
        exec_poolLinkUp, exec_enqueueWindowWrite, exec_enqdropWrite, exec_objectTableWrite, exec_computeIslandPowerFail, exec_coreResume,
        exec_fabricC0Arrival, exec_fabricC2Arrival, exec_fabricAck, exec_fabricResend, exec_portDown, exec_portUp,
        exec_fabricManagement, exec_fdiscWrite, exec_controlRegisterWrite, exec_moduleBringUp, exec_modulePowerLoss, exec_uncoreIslandPowerLoss,
        exec_unitRetirement, exec_clockSourceFail, exec_powerLimitStep, exec_supplyDroop, exec_thermalTrip, exec_islandPowerOff,
        exec_uncoreIslandPowerReturn, exec_acknowledgementReceiptConfirmed, exec_correctedError, execClauseIssue, execQuartetRendezvous,
        execActiveSetExchange, execHandlerStart, execSlotComplete, execSleepDeadline, execSiderealTick, execSiderealBeacon, execWindowWriteEntry,
        execLoadComplete, execStorePerformed, execHomeRetry, execReservationLapse, execCpymRequestArrival, execMulticastWindowClose,
        execLateJoinerResend, execCopySectorWrite, execCopyCompletion, execTransitTick, execMatrixCompletion, execDrainUpdateApply,
        execRangeRecordArrival, execDispatchPlacement, execEviction, execParkRecordWake, execParkNeighbourOffer, execBlockExit, execGridCompletion,
        execSupersedeEvent, execTwaitDeadline, execPromotionServe, execPromotionAging, execPromotionDone, execObjectEvictionDone, execSeqWordReplay,
        execSeqTransition, execSeqTimeout, execPeriodicCut, execCutInstant, execBankSeal, execJournalAck, execL1DirectoryRequest, execRemoteFetch,
        execHomeUpdate, execRemoteInvalidation, execSliceReplacement, execDirectoryEntryDrop, execPageWalk, execBackInvalidationSnoop, execHostSnoop,
        execPoolLinkDown, execPoolLinkUp, execEnqueueWindowWrite, execEnqdropWrite, execObjectTableWrite, execComputeIslandPowerFail, execCoreResume,
        execFabricC0Arrival, execFabricC2Arrival, execFabricAck, execFabricResend, execPortDown, execPortUp,
        execFabricManagement, execFdiscWrite, execControlRegisterWrite, execModuleBringUp, execModulePowerLoss, execUncoreIslandPowerLoss,
        execUnitRetirement, execClockSourceFail, execPowerLimitStep, execSupplyDroop, execThermalTrip, execIslandPowerOff,
        execUncoreIslandPowerReturn, execAcknowledgementReceiptConfirmed, execCorrectedError]
    repeat' split
    all_goals simp
  all_goals cases hi

/-! ## Words at issue go on -/

theorem issueQuartet_next {i : Instr} {s : State} {b w : Nat} {cl : Clause} (hf : s.focus = some (b, w))
    (hc : ((s.block b).warp w).clause = some cl) : ∃ t, issueQuartet i s = .next t := by
  unfold issueQuartet
  simp only [hf, hc]
  repeat' split
  all_goals exact ⟨_, rfl⟩

theorem exec_quartetForm {i : Instr} {f : MtxW} (h : mtxOf i = some f) (s : State) : exec i s = issueQuartet i s := by
  cases i <;> cases h <;> rfl

/-- A word goes on from a state in which its warp stands in an open clause. -/
theorem exec_word_next {i : Instr} (hi : i.isWord = true) {s : State} {b w : Nat} {cl : Clause} (hf : s.focus = some (b, w))
    (hc : ((s.block b).warp w).clause = some cl) : ∃ t, exec i s = .next t := by
  cases hm : mtxOf i with
  | some f => rw [exec_quartetForm hm]; exact issueQuartet_next hf hc
  | none =>
    obtain ⟨g, lit, pre, act, he⟩ := word_issues (s := s) hi hm
    rw [he]
    refine (issue_answers i g lit s pre act).resolve_right fun h => ?_
    simp [envOf, hf, hc] at h

theorem State.fetchMore_next (s : State) (b w : Nat) (cl : Clause) : ∃ t, s.fetchMore b w cl = .next t := by
  unfold State.fetchMore
  dsimp only
  split <;> exact ⟨_, rfl⟩

/-- What stands at issue goes on: a next state, or a word to run. -/
def AtWord.GoesOn : AtWord → Prop
  | .other o => ∃ t, o = .next t
  | .instr i => i.isWord = true

theorem AtWord.goesOn_if {c : Prop} [Decidable c] {x y : AtWord} (hx : x.GoesOn) (hy : y.GoesOn) : AtWord.GoesOn (if c then x else y) := by
  split <;> assumption

theorem State.atWord_goesOn (s : State) (b w : Nat) : (s.atWord b w).GoesOn := by
  unfold State.atWord
  extract_lets x wp
  split
  · exact ⟨_, rfl⟩
  · rename_i cl _
    extract_lets word left trap
    have htrap : ∀ c, (trap c).GoesOn := fun c => ⟨_, rfl⟩
    have hfetch : AtWord.GoesOn (.other (s.fetchMore b w cl)) := s.fetchMore_next b w cl
    clear_value trap
    refine AtWord.goesOn_if ⟨_, rfl⟩ (AtWord.goesOn_if hfetch (AtWord.goesOn_if (htrap _) (AtWord.goesOn_if (htrap _) (AtWord.goesOn_if hfetch ?_))))
    split
    · rename_i hd; exact (encodeDecodeRoundTrip _ _ _ hd).1
    all_goals exact htrap _

/-- A word at issue is a word of the warp's open clause. -/
theorem State.clause_of_atWord {s : State} {b w : Nat} {i : Instr} (h : s.atWord b w = .instr i) : ∃ cl, ((s.block b).warp w).clause = some cl := by
  cases hc : ((s.block b).warp w).clause with
  | some cl => exact ⟨cl, rfl⟩
  | none => unfold State.atWord at h; simp only [hc] at h; cases h

/-! ## Steps -/

/-- With a warp in focus the step goes on. -/
theorem step_focus_next {s : State} {b w : Nat} (ha : s.agenda = []) (hf : s.focus = some (b, w)) : ∃ t, step s = .next t := by
  unfold step
  simp only [ha, hf]
  have hgo := s.atWord_goesOn b w
  cases hat : s.atWord b w with
  | other o => rw [hat] at hgo; exact hgo
  | instr i =>
    rw [hat] at hgo
    obtain ⟨cl, hc⟩ := State.clause_of_atWord hat
    exact exec_word_next hgo hf hc

theorem siderealTick_next {s : State} (h : s.svc.powered = true) : ∃ t, exec (.siderealTick 0#64) s = .next t := by
  rw [exec_siderealTick]
  exact ⟨_, if_neg (by simp [h])⟩

/-- The scheduler ends in the first candidate that goes on, or as time passing ends. -/
theorem State.firstOf_cases (run : Instr → State → Out) (s : State) (cs : List Cand) :
    (∃ t, s.firstOf run cs = .next t) ∨ s.firstOf run cs = run (.siderealTick 0#64) s := by
  induction cs with
  | nil => exact .inr rfl
  | cons c cs ih =>
    unfold State.firstOf
    split
    · exact .inl ⟨_, rfl⟩
    · exact ih

/-- With nothing in focus the step is the scheduler's. -/
theorem step_schedule {s : State} (ha : s.agenda = []) (hf : s.focus = none) : step s = s.schedule exec := by
  unfold step
  rw [ha, hf]

theorem step_powered_next {s : State} (ha : s.agenda = []) (hf : s.focus = none) (hp : s.svc.powered = true) : ∃ t, step s = .next t := by
  rw [step_schedule ha hf]
  rcases State.firstOf_cases exec s s.candidates with h | h
  · exact h
  · obtain ⟨t, ht⟩ := siderealTick_next hp
    exact ⟨t, h.trans ht⟩

/-- An event on the agenda acts first. -/
theorem step_event {s : State} {ev : Instr} {rest : List Instr} (ha : s.agenda = ev :: rest) (hev : ev.isWord = false) :
    step s = exec ev { s with agenda := rest } := by
  unfold step
  simp [ha, hev]

/-- No step ends in a fault. -/
theorem step_answers (s : State) : Out.Answers (step s) := by
  cases ha : s.agenda with
  | cons ev rest =>
    cases hev : ev.isWord
    · rw [step_event ha hev]; exact exec_answers hev _
    · unfold step; simp [ha, hev]
  | nil =>
    cases hf : s.focus with
    | some bw => obtain ⟨t, ht⟩ := step_focus_next ha hf; rw [ht]; trivial
    | none =>
      rw [step_schedule ha hf]
      rcases State.firstOf_cases exec s s.candidates with ⟨t, ht⟩ | h
      · rw [State.schedule, ht]; trivial
      · rw [State.schedule, h]; exact exec_answers rfl s

/-- Settles O55: an event answers, a word in focus goes on, and otherwise the powered machine's clock does. -/
theorem stepAlwaysAnswers : Obligations.StepAlwaysAnswers := by
  unfold Obligations.StepAlwaysAnswers
  refine fun s => ⟨(step_answers s).ne_fault, fun ha h => ?_⟩
  cases hf : s.focus with
  | some bw => exact step_focus_next ha hf
  | none => exact step_powered_next ha hf (h.resolve_left (· hf))

/-! ## The word at issue (R60, R79) -/

/-- The words left of a clause begin with the word at issue. -/
theorem Clause.word_of_left {cl : Clause} {k : Nat} {x : Word} {l : List Word} (hi : 1 ≤ cl.idx) (h : (cl.ibuf.drop (cl.idx - 1)).take k = x :: l) :
    cl.word = x := by
  have h0 : cl.ibuf[cl.idx - 1]? = some x := by
    have hx : ((cl.ibuf.drop (cl.idx - 1)).take k)[0]? = some x := by rw [h]; rfl
    rw [List.getElem?_take] at hx
    split at hx
    · simpa using hx
    · cases hx
  unfold Clause.word
  rw [if_neg (by omega), List.getD_eq_getElem?_getD, h0]
  rfl

section
variable {s : State} {b w : Nat} {cl : Clause} (hc : ((s.block b).warp w).clause = some cl) (hi : 1 ≤ cl.idx)
  (hp : ((s.block b).warp w).parked = false) (hw : ((s.block b).warp w).wait = none)
include hc hi hp hw

/-- A word that has been fetched, passes check 2 and decodes is the one at issue. -/
theorem State.atWord_decodes {i : Instr} {rest : List Word} (hlen : cl.idx ≤ cl.ibuf.length)
    (hplace : ((s.block b).warp w).placeOk cl cl.word (hdrN cl.hdr + 1 - cl.idx) = true) (hlit : takesLiteral cl.word = true → cl.idx < cl.ibuf.length)
    (hd : decode ((cl.ibuf.drop (cl.idx - 1)).take (hdrN cl.hdr + 1 - cl.idx)) = .ok (i, rest)) : s.atWord b w = .instr i := by
  obtain ⟨x, lit, hx, ha, -⟩ := decode_eq_ok_iff.1 hd
  have hop : opAssigned (opOf cl.word) = true := by rw [Clause.word_of_left hi hx]; exact ha
  unfold State.atWord
  simp only [hc]
  rw [if_neg (by simp [hp, hw]; omega), if_neg (by omega), if_neg (by simp [hop]), if_neg (by simp [hplace]), if_neg (by simpa using hlit), hd]

/-- The clause's next word is fetched first. -/
theorem State.atWord_fetches {x : Word} {t : State} (hlen : cl.ibuf.length < cl.idx)
    (hx : s.fetchAt b (cl.pc + BitVec.ofNat 32 (4 * (cl.ibuf.length + 1))) = (.word x, t)) :
    s.atWord b w = .other (.next (t.updWarp b w fun wp => { wp with clause := some { cl with ibuf := cl.ibuf ++ [x] } })) := by
  unfold State.atWord
  simp only [hc]
  rw [if_neg (by simp [hp, hw]; omega), if_pos hlen]
  unfold State.fetchMore
  dsimp only
  rw [hx]
end

/-- Settles O54: the step by what is on the agenda, in focus and at issue. -/
theorem stepRunsIssuedWord : Obligations.StepRunsIssuedWord := by
  unfold Obligations.StepRunsIssuedWord
  refine fun s b w cl => ⟨fun ha hf hc hi hp hw => ⟨fun i rest hlen hplace hlit hd => ?_, fun x t hlen hx => ?_⟩, fun ev rest => step_event,
    step_powered_next⟩
  · unfold step
    simp only [ha, hf, State.atWord_decodes hc hi hp hw hlen hplace hlit hd]
  · unfold step
    simp only [ha, hf, State.atWord_fetches hc hi hp hw hlen hx]

end Sys2Proof.Machine
end

-- ==== A result's effect and the misaligned accesses (O58, O24) ====
section
/-! PROOF. A result enters its destination and the latches of the run and nothing else (R67, R68); an access off its alignment fails before it is translated
(R184, R186, R279). -/

namespace Sys2Proof.Machine

/-! ## The rows a write of v_j leaves -/

@[simp] theorem mem_lanesOf {m : Mask} {L : Nat} : L ∈ lanesOf m ↔ L < 32 ∧ m.getLsbD L = true := by simp [lanesOf]

theorem vwriteLanes_rf (b : Block) (wp : Warp) (j : Nat) (m : Mask) (f : Nat → Word) (r : Nat) {L : Nat} (hL : L < 32) :
    mget 0#32 (b.vwriteLanes wp j m f).rf (32 * r + L) =
      if wp.rows[j]? = some r ∧ m.getLsbD L = true then f L else mget 0#32 b.rf (32 * r + L) := by
  unfold Block.vwriteLanes
  rw [vwriteList_rf wp j f _ (fun K hK => (mem_lanesOf.1 hK).1) b r L hL]
  simp [hL]

/-- Two registers of a warp never share a row. -/
theorem vread_vwriteLanes {wp : Warp} (hr : wp.rows.Nodup) (b : Block) (k : Nat) (m : Mask) (f : Nat → Word) {j L : Nat} (hj : j < wp.rows.length)
    (hL : L < 32) : (b.vwriteLanes wp k m f).vread wp j L = if j = k ∧ m.getLsbD L = true then f L else b.vread wp j L := by
  have hjk : wp.rows[k]? = some wp.rows[j] ↔ j = k := by
    rw [← List.getElem?_eq_getElem hj, eq_comm]
    exact List.getElem?_inj hj hr
  unfold Block.vread
  simp only [List.getElem?_eq_getElem hj, vwriteLanes_rf b wp k m f _ hL, hjk]

theorem vwriteLanes_frame (b : Block) (wp : Warp) (j : Nat) (m : Mask) (f : Nat → Word) :
    b.vwriteLanes wp j m f = { b with rf := (b.vwriteLanes wp j m f).rf } := by
  unfold Block.vwriteLanes
  induction lanesOf m generalizing b with
  | nil => rfl
  | cons L l ih =>
    have hw : b.vwrite wp j L (f L) = { b with rf := (b.vwrite wp j L (f L)).rf } := by unfold Block.vwrite; split <;> rfl
    rw [List.foldl_cons, ih, hw]

/-! ## The lane and the warp a result leaves (R67, R68) -/

/-- A lane of the run after a result: `on`, its guard is true; `o`, the result enters o-register `k`. -/
def Lane.result (o : Bool) (k : Nat) (on : Bool) (x : Word) (ln : Lane) : Lane :=
  let r := if on then x else 0#32
  let ln := { ln with lat := (r :: ln.lat).take 4 }
  if o && on then { ln with o := mset 0#32 ln.o k r } else ln

theorem Lane.result_oreg (o : Bool) (k : Nat) (on : Bool) (x : Word) (ln : Lane) (j : Nat) :
    (ln.result o k on x).oreg j = if o = true ∧ j = k ∧ on = true then x else ln.oreg j := by
  cases o <;> cases on <;> simp [Lane.result, Lane.oreg, mget_mset]
theorem Lane.result_lat (o : Bool) (k : Nat) (on : Bool) (x : Word) (ln : Lane) :
    (ln.result o k on x).lat = ((if on = true then x else 0#32) :: ln.lat).take 4 := by
  unfold Lane.result; dsimp only; split <;> rfl
theorem Lane.result_frame (o : Bool) (k : Nat) (on : Bool) (x : Word) (ln : Lane) : { ln.result o k on x with o := ln.o, lat := ln.lat } = ln := by
  unfold Lane.result; dsimp only; split <;> rfl

/-- A warp after a result in the lanes `g`. -/
def Warp.result (wp : Warp) (cl : Clause) (o : Bool) (k : Nat) (g : Mask) (x : Nat → Word) : Warp :=
  { wp.updLanes cl.gang fun L ln => ln.result o k (g.getLsbD L) (x L) with clause := some { cl with nres := cl.nres + 1 } }

theorem Warp.result_lane (wp : Warp) (cl : Clause) (o : Bool) (k : Nat) (g : Mask) (x : Nat → Word) {L : Nat} (hL : L < wp.lanes.length) :
    (wp.result cl o k g x).lane L = if cl.gang.getLsbD L = true then (wp.lane L).result o k (g.getLsbD L) (x L) else wp.lane L :=
  wp.lane_updLanes cl.gang _ L hL

/-- The result enters an o-register. -/
def resultO (nw : BitVec 1) (dst : BitVec 6) : Bool := nw = 1#1 && dst.toNat < 8

theorem resultO_iff {nw : BitVec 1} {dst : BitVec 6} {j : Nat} (hj : j < 8) : resultO nw dst = true ∧ j = dst.toNat ↔ nw = 1#1 ∧ j = dst.toNat := by
  simp only [resultO, Bool.and_eq_true, decide_eq_true_eq]
  exact ⟨fun ⟨⟨hn, _⟩, h⟩ => ⟨hn, h⟩, fun ⟨hn, h⟩ => ⟨⟨hn, h ▸ hj⟩, h⟩⟩

/-- The block after a result that no bound o6 takes (R69). -/
theorem Block.writeResult_eq {b : Block} {w : Nat} {nw : BitVec 1} {dst : BitVec 6} {cl : Clause} (g : Mask) (x : Nat → Word)
    (hc : (b.warp w).clause = some cl) (h6 : nw = 1#1 → dst = 6#6 → (b.warp w).bnd6 = none) :
    b.writeResult w nw dst g x =
      (if nw = 0#1 then b.vwriteLanes (b.warp w) dst.toNat g x else b).updWarp w fun wp => wp.result cl (resultO nw dst) dst.toNat g x := by
  have hpush : (if nw = 1#1 && dst = 6#6 && (g &&& cl.run) != 0#32 then (b.warp w).bnd6 else none) = none := by
    split
    · rename_i h
      simp only [Bool.and_eq_true, decide_eq_true_eq] at h
      exact h6 h.1.1 h.1.2
    · rfl
  have hto : (decide (nw = 1#1) && decide (dst.toNat < 8) && !(decide (dst = 6#6) && (b.warp w).bnd6.isSome)) = resultO nw dst := by
    unfold resultO
    by_cases hn : nw = 1#1 <;> by_cases hd : dst = 6#6 <;> simp_all
  unfold Block.writeResult
  simp only [hc, hpush, hto]
  rfl

/-- Settles O58: the registers, the lanes, the warp and the block after a result. -/
theorem writeResultEffect : Obligations.WriteResultEffect := by
  unfold Obligations.WriteResultEffect
  intro b w nw dst g x cl wp b' wp' hw hc hl hr _ h6
  obtain ⟨y, hy⟩ : ∃ y, (if nw = 0#1 then b.vwriteLanes wp dst.toNat g x else b) = y := ⟨_, rfl⟩
  have hb' : b' = y.updWarp w fun wp => wp.result cl (resultO nw dst) dst.toNat g x := by rw [← hy]; exact b.writeResult_eq g x hc h6
  have hyw : y.warps = b.warps := by rw [← hy]; split <;> simp
  have hyf : y = { b with rf := y.rf } := by
    rw [← hy]; split
    · exact vwriteLanes_frame b wp dst.toNat g x
    · rfl
  have hwp : wp' = wp.result cl (resultO nw dst) dst.toNat g x := by
    simp only [wp', hb']
    rw [Block.warp_updWarp _ (hyw ▸ hw), Block.warp, hyw]
    rfl
  have hlane : ∀ L < 32, wp'.lane L = if cl.gang.getLsbD L = true then (wp.lane L).result (resultO nw dst) dst.toNat (g.getLsbD L) (x L) else wp.lane L :=
    fun L hL => by rw [hwp]; exact wp.result_lane cl _ _ g x (hl ▸ hL)
  have hrf : b'.rf = y.rf := by rw [hb']; rfl
  refine ⟨fun L hL j hj => ?_, fun L hL j hj => ?_, fun L hL => ?_, fun L hL => ?_, ?_, ?_, fun v hv => ?_, ?_, fun hn => ?_, fun r hr' L hL => ?_⟩
  · have hv : b'.vread wp' j L = y.vread wp j L := by unfold Block.vread; rw [hrf, hwp]; rfl
    rw [hv, ← hy]
    by_cases hn : nw = 0#1
    · simp only [hn, if_true, true_and]; exact vread_vwriteLanes hr b _ g x hj hL
    · simp [hn]
  · rw [hlane L hL]
    split
    · rename_i hg; simp only [Lane.result_oreg, hg, and_true, ← and_assoc, resultO_iff hj]
    · rename_i hg; simp [hg]
  · rw [hlane L hL]
    split
    · exact Lane.result_lat _ _ _ _ _
    · rfl
  · rw [hlane L hL]
    split
    · exact Lane.result_frame _ _ _ _ _
    · rfl
  · rw [hwp]; rfl
  · rw [hwp]; simpa [Warp.result, Warp.updLanes] using hl
  · rw [hb', Block.warp_updWarp_ne _ _ hv, Block.warp, hyw]; rfl
  · rw [hb', hyf]; rfl
  · rw [hrf, ← hy, if_neg (by simp [hn])]
  · rw [hrf, ← hy]
    split
    · rw [vwriteLanes_rf b wp _ g x r hL, if_neg fun h => hr' (List.mem_of_getElem? h.1)]
    · rfl

/-! ## Alignment (R184, R186, R279) -/

theorem Env.checkGlobal_misaligned (e : Env) (s : State) {va align : Nat} (n : Nat) (kind : Kind) (t : Bool) (h : va % align ≠ 0) :
    e.checkGlobal s va n align kind t = (.bad .misaligned va, s) := if_pos (by simpa using h)
theorem Env.checkScratch_misaligned {e : Env} {f : MemW} {L : Nat} (s : State) (h : e.poff f L % szBytes f.sz ≠ 0) :
    e.checkScratch f s L = (.bad .misaligned (e.poff f L), s) := if_pos (by simpa using h)
theorem Env.checkWindow_misaligned {e : Env} {f : MemW} {L : Nat} (w : Bool) (s : State) (h : e.poff f L % szBytes f.sz ≠ 0) :
    e.checkWindow f w s L = (.bad .misaligned (e.poff f L), s) := if_pos (by simpa using h)

/-- Settles O24: the first check of each access is its alignment. -/
theorem misalignedFails : Obligations.MisalignedFails := by
  unfold Obligations.MisalignedFails
  exact fun e f s _ _ n _ kind t w => ⟨e.checkGlobal_misaligned s n kind t,
    fun h => ⟨Env.checkScratch_misaligned s h, Env.checkWindow_misaligned w s h⟩⟩

end Sys2Proof.Machine
end

-- ==== Taking a trap (O59) ====
section
/-! PROOF. What a trap writes and leaves (R80, R125, R127), the traps of checks 3 and 4 (R79, R80), and the traps at a rendezvous of which a member fails
its checks (R261, R262). -/

namespace Sys2Proof.Machine

/-! ## A trap outside the handler slot (R80, R125) -/

/-- The warp after a trap: the record written, parked with its clause. -/
def Warp.trapped (wp : Warp) (r : TrapRec) : Warp := { wp with trap := r, parked := true, wait := none, rel := none }
/-- The core after a trap: the port free, the handle queued. -/
def Core.trapped (c : Core) (bw : Nat × Nat) (h : Nat) : Core := { c.freePort bw with hq := c.hq ++ [h] }

/-- The state after a trap of warp `w` of block `b` at `l`. -/
def State.trapped (s : State) (b w : Nat) (l : Loc) (r : TrapRec) : State :=
  let s := (s.updWarp b w (·.trapped r)).updCore l.d l.a (·.trapped (b, w) (handleOf l.k w))
  { s with focus := if s.focus = some (b, w) then none else s.focus }

theorem State.takeTrap_eq {s : State} {b w : Nat} {l : Loc} {cl : Clause} (hl : (s.block b).loc = some l) (hk : l.k ≠ 4)
    (hc : ((s.block b).warp w).clause = some cl) (c : Cause) (m : Mask) (va : Ptr) (info : Word) :
    s.takeTrap b w c m va info = s.trapped b w l { cause := c.code, pc := cl.wordPc, mask := m, info := info, addr := va } := by
  unfold State.takeTrap
  simp only [hl, hc, if_neg hk]
  rfl

theorem State.takeTrap_handler {s : State} {b : Nat} {d a : Nat} (hl : (s.block b).loc = some ⟨d, a, 4⟩) (w : Nat) (c : Cause) (m : Mask) (va : Ptr)
    (info : Word) : s.takeTrap b w c m va info = s.handlerFault d a := by
  unfold State.takeTrap
  simp [hl]

theorem Block.updWarp_frame (x : Block) (w : Nat) (f : Warp → Warp) : { x.updWarp w f with warps := x.warps } = x := rfl

theorem State.trapped_block {s : State} {b : Nat} {x : Block} (hx : mfind s.blocks b = some x) (w : Nat) (l : Loc) (r : TrapRec) :
    (s.trapped b w l r).block b = x.updWarp w (·.trapped r) := State.block_updBlock _ hx
theorem State.trapped_block_ne (s : State) {b k : Nat} (hk : k ≠ b) (w : Nat) (l : Loc) (r : TrapRec) : (s.trapped b w l r).block k = s.block k :=
  State.block_updBlock_ne s _ hk
theorem State.trapped_core (s : State) (b w : Nat) (l : Loc) (r : TrapRec) :
    (s.trapped b w l r).core l.d l.a = (s.core l.d l.a).trapped (b, w) (handleOf l.k w) :=
  (s.updWarp b w (·.trapped r)).core_updCore_same l.d l.a (·.trapped (b, w) (handleOf l.k w))
theorem State.trapped_focus (s : State) (b w : Nat) (l : Loc) (r : TrapRec) : (s.trapped b w l r).focus ≠ some (b, w) := by
  unfold State.trapped
  dsimp only
  split <;> simp_all

/-! ## The traps of checks 3 and 4 (R79, R80) -/

theorem envOf_focus {s : State} {b w : Nat} {cl : Clause} (hf : s.focus = some (b, w)) (hc : ((s.block b).warp w).clause = some cl) (g : BitVec 3)
    (lit : Option Word) : ∃ e, envOf s g lit = some e ∧ e.blk = s.block b ∧
      ∀ c, e.decodeTrap c = .next (s.takeTrap b w c cl.run ((s.block b).cbAddr cl.wordPc) cl.word) := by
  unfold envOf
  simp only [hf, hc]
  exact ⟨_, rfl, rfl, fun _ => rfl⟩

section
variable {i : Instr} {s : State} {b w : Nat} {cl : Clause} (hi : i.isWord = true) (hm : mtxOf i = none) (hf : s.focus = some (b, w))
  (hc : ((s.block b).warp w).clause = some cl)
include hi hm hf hc

/-- A supervisor's word outside the handler fails check 3. -/
theorem exec_protection (hs : opSuper i.opcode = true) (hh : (s.block b).isHandler = false) :
    exec i s = .next (s.takeTrap b w .protection cl.run ((s.block b).cbAddr cl.wordPc) cl.word) := by
  obtain ⟨g, lit, pre, act, he⟩ := word_issues (s := s) hi hm
  obtain ⟨e, henv, hblk, htrap⟩ := envOf_focus hf hc g lit
  rw [he]
  unfold issue
  simp only [henv]
  rw [if_pos (by simp [hblk, hs, hh]), htrap]

/-- A word whose fields are not defined fails check 4. -/
theorem exec_illegalOperand (hw : i.wf = false) (hs : opSuper i.opcode = true → (s.block b).isHandler = true) :
    exec i s = .next (s.takeTrap b w .illegalOperand cl.run ((s.block b).cbAddr cl.wordPc) cl.word) := by
  obtain ⟨g, lit, pre, act, he⟩ := word_issues (s := s) hi hm
  obtain ⟨e, henv, hblk, htrap⟩ := envOf_focus hf hc g lit
  have hfields : fieldsOk i = false := hw
  rw [he]
  unfold issue
  simp only [henv]
  rw [if_neg (by simpa [hblk] using hs), if_pos (by simp [hfields]), htrap]
end

/-! ## A rendezvous of which a member fails its checks (R261, R262) -/

/-- The trap a member takes as its own: the cause, the address of its word, its word. -/
def Block.memberTrap (x : Block) (v : Nat) : Option (Cause × Option Ptr × Option Word) :=
  match x.memberCheck v, (x.warp v).clause with
  | .error c, some cl => some (c, some (x.cbAddr cl.wordPc), some (cl.ibuf.headD 0#32))
  | _, _ => none

/-- Only the causes of the members matter. -/
theorem State.quartetTrap_congr {ws : List Nat} {f g : Nat → Option (Cause × Option Ptr × Option Word)} (h : ∀ v ∈ ws, f v = g v) (s : State) (b : Nat)
    (info : Word) : s.quartetTrap b ws f info = s.quartetTrap b ws g info := by
  unfold State.quartetTrap
  exact List.foldl_ext _ _ _ fun t v hv => by rw [h v hv]

/-- A member with both its words stands in an open clause that holds them. -/
theorem Block.clause_of_quartetWords {x : Block} {v : Nat} (h : 2 ≤ (x.quartetWords v).length) :
    ∃ c, (x.warp v).clause = some c ∧ 2 ≤ c.ibuf.length := by
  unfold Block.quartetWords at h
  cases hc : (x.warp v).clause with
  | none => simp [hc] at h
  | some c => simp only [hc, List.length_take] at h; exact ⟨c, rfl, by omega⟩

theorem State.settle_fails {s : State} {b q : Nat} (hlen : ∀ v ∈ quartetWarps q, 2 ≤ ((s.block b).quartetWords v).length)
    (hbad : ∃ v ∈ quartetWarps q, (s.block b).memberTrap v ≠ none) : s.settle b q = .next
      (s.quartetTrap b (quartetWarps q) (s.block b).memberTrap (mismatchInfo 15 ((s.block b).differing (quartetWarps q)) true)) := by
  unfold State.settle
  extract_lets x l ws clauseOf ibuf wordOf pcOf differ partner r bad
  have hown : ∀ v ∈ ws, bad v = x.memberTrap v := by
    intro v hv
    obtain ⟨c, hc, -⟩ := Block.clause_of_quartetWords (hlen v hv)
    simp only [bad, r, Block.memberTrap, pcOf, wordOf, ibuf, clauseOf, x, hc]
    cases (s.block b).memberCheck v <;> rfl
  split
  · rename_i w hw
    have hp := List.find?_some hw
    obtain ⟨c, hc, h2⟩ := Block.clause_of_quartetWords (hlen w (List.mem_of_find?_eq_some hw))
    simp only [ibuf, clauseOf, x, hc, Bool.and_eq_true, decide_eq_true_eq] at hp
    omega
  · obtain ⟨v, hv, hne⟩ := hbad
    rw [if_pos (List.any_eq_true.2 ⟨v, hv, by rw [hown v hv]; exact Option.isSome_iff_ne_none.2 hne⟩), State.quartetTrap_congr hown]

/-- Settles O59: the trap's writes, the two decode checks, the handler's own trap, the rendezvous. -/
theorem trapTaking : Obligations.TrapTaking := by
  unfold Obligations.TrapTaking
  refine fun s => ⟨fun b w c m va info x l cl hx hl hk hw hc => ?_, fun i b w cl hi hm hf hc => ⟨exec_protection hi hm hf hc,
    exec_illegalOperand hi hm hf hc⟩, fun b w c m va info d a hl => State.takeTrap_handler hl w c m va info, fun b q hl hq hn hr ha hbad => ?_⟩
  · have hs := State.block_of_mfind hx
    rw [State.takeTrap_eq (hs ▸ hl) (by omega) (hs ▸ hc)]
    dsimp only
    rw [State.trapped_block hx, State.trapped_core]
    refine ⟨x.warp_updWarp _ hw, fun v hv => x.warp_updWarp_ne _ hv, x.updWarp_frame w _, fun k hk' => s.trapped_block_ne hk' w l _, rfl,
      fun p hp => ?_, s.trapped_focus b w l _, rfl, rfl, rfl, rfl⟩
    simpa using (List.mem_filter.1 hp).2
  · rw [quartetRendezvous_settles hl hq hn hr fun v hv => (ha v hv).1]
    exact State.settle_fails (fun v hv => (ha v hv).2) hbad

end Sys2Proof.Machine
end

-- ==== Number formats: counted conversions, tile arithmetic (O7, O29, O30) ====
section
/-! PROOF. What a word of counted conversions leaves (R94, R103, R156, R164, R166 to R168), what a matrix operation leaves in accumulators (R266 to
R270, R273), and the value of one product cell (R99 to R101). -/

namespace Sys2Proof.Machine

/-! ## Counted conversions (R94, R103, R156) -/

/-- The state after a counted word: its results written, its draws made under stochastic rounding, its events counted. -/
def Env.counted (e : Env) (i : Instr) (f : RegW) (stochastic : Bool) (x : Env → Nat → Word → Word × List NumEvent) : State :=
  let y := fun L => x e L (e.lane L).gen
  let s := e.setBlk fun b => b.writeResult e.w (if regFBit i.opcode then 0#1 else f.nw) f.dst e.g fun L => (y L).1
  let s := if stochastic then s.updWarp e.bid e.w fun wp => wp.updLanes e.g fun _ ln => { ln with gen := advGen ln.gen } else s
  s.updBlock e.bid fun b => b.count e.wp.tid ((lanesOf e.contrib).flatMap fun L => (y L).2)

/-- A word that is `vecCounted` of its elements retires with their results, draws and counts. -/
theorem vecCounted_regRetires {i : Instr} {f : RegW} {stochastic : Bool} {x : Env → Nat → Word → Word × List NumEvent}
    (hx : ∀ s, exec i s = vecCounted i f s stochastic x) : Spec.RegRetires i f (fun _ => True) fun e => e.counted i f stochastic x :=
  fun s _ h _ => (hx s).trans (issueReg_done h rfl)

/-- The elements of a packed word, which draw nothing (R164). -/
def packedPair (i : Instr) (f : RegW) (x : Val → Val → Val → Val) (e : Env) (L : Nat) (_ : Word) : Word × List NumEvent :=
  let r := fun j => (hfmt f).round 0 0#32
    (x ((hfmt f).val (half (e.third i.opcode f L) j)) ((hfmt f).val (half (e.src f.a L) j)) ((hfmt f).val (half (e.src f.b L) j)))
  (BitVec.ofNat 32 ((r 0).1 + 65536 * (r 1).1), [(r 0).2, (r 1).2])

theorem packed_regRetires {i : Instr} {f : RegW} {x : Val → Val → Val → Val} (hx : ∀ s, exec i s = packed i f s x) :
    Spec.RegRetires i f (fun _ => True) fun e => e.counted i f false (packedPair i f x) :=
  vecCounted_regRetires hx

theorem execCvt_eq (f : RegW) (s : State) : execCvt f s = vecCounted (.cvt f) f s (f.b.toNat / 32 = 2) fun e L r =>
    ((cvt (f.b.toNat % 32) (f.b.toNat / 32) r (e.src f.a L)).1, [(cvt (f.b.toNat % 32) (f.b.toNat / 32) r (e.src f.a L)).2]) := rfl

theorem execPkcv_lit {f : RegW} {l : Word} (hl : f.lit = some l) (s : State) : execPkcv f s =
    vecCounted (.pkcv f) f s (l.toNat / 32 % 4 = 2) fun e L r =>
      let p := roundTo (l.toNat % 32) (l.toNat / 32 % 4) r (f32 (e.src f.a L))
      (if l.toNat % 32 ≤ 27 then setByte (e.third 0x66 f L) (l.toNat / 128 % 4) (BitVec.ofNat 8 p.1)
       else setHalf (e.third 0x66 f L) (l.toNat / 128 % 4 / 2) (BitVec.ofNat 16 p.1), [p.2]) := by
  unfold execPkcv
  rw [hl]
  rfl

theorem execXpcv_lit {f : RegW} {l : Word} (hl : f.lit = some l) (s : State) : execXpcv f s =
    vecCounted (.xpcv f) f s false fun e L _ =>
      let k := l.toNat / 128 % 4
      let v := if l.toNat % 32 = 28 ∨ l.toNat % 32 = 29 then valOf (l.toNat % 32) (half (e.src f.a L) (k / 2))
        else valOf (l.toNat % 32) (byteOf (e.src f.a L) k).toNat
      if l.getLsbD 9 then
        let p := fp32.round 0 0#32 (v.mx (byteOf (e.third 0x67 f L) (l.toNat / 1024 % 4)).toNat)
        (BitVec.ofNat 32 p.1, [p.2])
      else (rn32 v, []) := by
  have hscaled : l.getLsbD 9 = decide (l.toNat / 512 % 2 = 1) := by simp [BitVec.getLsbD, Nat.testBit_eq_decide_div_mod_eq]
  unfold execXpcv
  simp only [hl, Option.getD_some, hscaled, Bool.or_eq_true, decide_eq_true_eq]

/-- Settles O7: each counted opcode is `vecCounted` of its own elements. -/
theorem countedResults : Obligations.CountedResults := by
  unfold Obligations.CountedResults
  refine fun f => ⟨?_, ?_, ?_, ?_, fun l hl => ?_, fun l hl => ?_⟩
  · exact (packed_regRetires fun _ => exec_hadd2 (j := f) :)
  · exact (packed_regRetires fun _ => exec_hmul2 (j := f) :)
  · exact (packed_regRetires fun _ => exec_hfma2 (j := f) :)
  · exact (vecCounted_regRetires fun s => exec_cvt.trans (execCvt_eq f s) :)
  · exact (vecCounted_regRetires fun s => exec_pkcv.trans (execPkcv_lit hl s) :)
  · exact (vecCounted_regRetires fun s => exec_xpcv.trans (execXpcv_lit hl s) :)

/-! ## Reads after many writes, and after a filter of keys -/

theorem mfind_filter_key {α : Type} (m : AMap α) (p : Nat → Bool) (j : Nat) :
    mfind (m.filter fun q => p q.1) j = if p j then mfind m j else none := by
  induction m with
  | nil => simp
  | cons q m ih =>
    obtain ⟨k, v⟩ := q
    rw [List.filter_cons]
    by_cases hk : k = j
    · subst hk
      cases hp : p k <;> simp [mfind, ih, hp]
    · cases hp : p k <;> simp [mfind, ih, hk]

/-- Writes that agree on key `j` leave there what they write, if any of them is to `j`. -/
theorem mget_foldl_mset_pairs {α β : Type} [DecidableEq α] (d : α) {j : Nat} {v : α} {l : List (Nat × α × β)} (hl : ∀ p ∈ l, p.1 = j → p.2.1 = v)
    (m : AMap α) : mget d (l.foldl (fun a p => mset d a p.1 p.2.1) m) j = if j ∈ l.map (·.1) then v else mget d m j := by
  induction l generalizing m with
  | nil => simp
  | cons p l ih =>
    have hp := hl p List.mem_cons_self
    rw [List.foldl_cons, ih fun q hq => hl q (List.mem_cons_of_mem _ hq), mget_mset]
    by_cases hj : j = p.1
    · simp [← hj, hp hj.symm]
    · simp only [List.map_cons, List.mem_cons, hj, false_or, if_false]

/-! ## Tiles (R268 to R270, R273) -/

theorem Block.count_frame (b : Block) (tid : Nat) (evs : List NumEvent) : b.count tid evs = { b with cnt := (b.count tid evs).cnt } := by
  unfold Block.count
  split
  · rfl
  · refine List.foldlRecOn (motive := fun c : Block => c = { b with cnt := c.cnt }) _ _ rfl fun c hc ev _ => ?_
    dsimp only
    repeat' split
    · exact hc
    · rw [hc]
    · exact hc
@[simp] theorem Block.count_acc (b : Block) (tid : Nat) (evs : List NumEvent) : (b.count tid evs).acc = b.acc := by rw [Block.count_frame]
@[simp] theorem Block.count_rf (b : Block) (tid : Nat) (evs : List NumEvent) : (b.count tid evs).rf = b.rf := by rw [Block.count_frame]
@[simp] theorem Block.count_scr (b : Block) (tid : Nat) (evs : List NumEvent) : (b.count tid evs).scr = b.scr := by rw [Block.count_frame]

/-- A rewritten tile holds the new words in the columns it names; every other accumulator word stays. -/
theorem Block.accWord_tileMap (b : Block) (t : Nat) {cols : List Nat} (hcols : ∀ c ∈ cols, c < 64) (tid : Nat)
    (f : Nat → Nat → Word → Word × List NumEvent) (u : Nat) {m n : Nat} (hm : m < 16) (hn : n < 64) :
    (b.tileMap t cols tid f).accWord u m n = if u = t ∧ n ∈ cols then (f m n (b.accWord t m n)).1 else b.accWord u m n := by
  unfold Block.tileMap Block.accWord
  dsimp only
  rw [Block.count_acc, mget_foldl_mset_pairs (v := (f m n (b.accWord t m n)).1)]
  · refine if_congr ?_ rfl rfl
    simp only [List.map_flatMap, List.map_map, List.mem_flatMap, List.mem_map, List.mem_range, Function.comp_apply]
    constructor
    · rintro ⟨m', hm', n', hn', hk⟩
      have := hcols n' hn'
      obtain rfl : n' = n := by omega
      exact ⟨by omega, hn'⟩
    · rintro ⟨rfl, hn'⟩
      exact ⟨m, hm, n, hn', rfl⟩
  · intro p hp hk
    simp only [List.mem_flatMap, List.mem_map, List.mem_range] at hp
    obtain ⟨m', hm', n', hn', rfl⟩ := hp
    have := hcols n' hn'
    dsimp only at hk
    obtain rfl : m' = m := by omega
    obtain rfl : n' = n := by omega
    rfl

/-- … and so do the register file and scratch. -/
theorem Block.tileMap_frame (b : Block) (t : Nat) {cols : List Nat} (hcols : ∀ c ∈ cols, c < 64) (tid : Nat)
    (f : Nat → Nat → Word → Word × List NumEvent) {named : Nat → Bool} (hnamed : ∀ n < 64, named n = false → n ∉ cols) :
    (∀ u m n, u ≠ t ∨ named n = false → m < 16 → n < 64 → (b.tileMap t cols tid f).accWord u m n = b.accWord u m n) ∧
    (b.tileMap t cols tid f).rf = b.rf ∧ (b.tileMap t cols tid f).scr = b.scr := by
  refine ⟨fun u m n h hm hn => ?_, Block.count_rf _ _ _, Block.count_scr _ _ _⟩
  rw [b.accWord_tileMap t hcols tid f u hm hn, if_neg (not_and_or.2 (h.imp_right (hnamed n hn)))]

/-- A zeroed tile reads 0, and no other tile changes. -/
theorem Block.accWord_zeroed (b : Block) (t u : Nat) {m n : Nat} (hm : m < 16) (hn : n < 64) :
    Block.accWord { b with acc := b.acc.filter fun p => p.1 / 1024 != t } u m n = if u = t then 0#32 else b.accWord u m n := by
  unfold Block.accWord mget
  have hu : (1024 * u + 64 * m + n) / 1024 = u := by omega
  rw [mfind_filter_key _ (fun k => k / 1024 != t), hu]
  by_cases h : u = t <;> simp [h]

theorem mBSB_lt (lit : Word) : mBSB lit < 4 := (lit.extractLsb' 6 2).isLt

/-- The columns of one B block of a tile. -/
theorem mem_blockColumns {n k : Nat} : n ∈ (List.range 16).map (16 * k + ·) ↔ n / 16 = k := by
  simp only [List.mem_map, List.mem_range]
  constructor
  · rintro ⟨c, hc, rfl⟩; omega
  · rintro rfl; exact ⟨n % 16, by omega, by omega⟩
theorem blockColumns_lt (lit : Word) : ∀ c ∈ (List.range 16).map (16 * mBSB lit + ·), c < 64 := fun c hc => by
  have hB := mBSB_lt lit
  rw [← mem_blockColumns.1 hc] at hB
  omega
theorem firstColumns_lt : ∀ c ∈ List.range 16, c < 64 := fun _ hc => lt_trans (List.mem_range.1 hc) (by decide)

theorem Block.matrix_mmz (b : Block) (lit : Word) (dst : Nat) (pick : Option Nat) (x : MtxMem) :
    b.matrix 0xA6 lit dst pick [x] = { b with acc := b.acc.filter fun p => p.1 / 1024 != x.tile } := rfl

/-- The word ACCLD loads (R269), as `Block.matrix` has it. -/
def MtxMem.loadWord (x : MtxMem) (lit : Word) (m n : Nat) (old : Word) : Word × List NumEvent :=
  let v := mget 0#32 x.areg (32 * (n % 8) + m + 16 * (n % 16 / 8))
  if mZ lit then (v, [])
  else if mFA lit = 30 then
    let r := fp32.round 0 0#32 ((f32 old).add (f32 v))
    (BitVec.ofNat 32 r.1, [r.2])
  else (old + v, [])

/-- The word ACCSC scales (R270), as `Block.matrix` has it. -/
def MtxMem.scaledWord (x : MtxMem) (m : Nat) (old : Word) : Word × List NumEvent :=
  let r := fp32.round 0 0#32 ((f32 old).mul (f32 (mget 0#32 x.areg m)))
  (BitVec.ofNat 32 r.1, [r.2])

/-- The word of a product of one warp (R267), as `Block.product` has it. -/
def MtxMem.productWord (x : MtxMem) (b : Block) (lit : Word) (pick : Option Nat) (m n : Nat) (old : Word) : Word × List NumEvent :=
  let y := [x].getD (n / 16) x
  mulCell lit (x.aAt b 0xA4 lit pick m) (fun k => y.bAt b 0xA4 (n / 16) lit pick k n) (scaleAt x.sa (mBSA lit) m) (scaleAt y.sb (mBSB lit) (n % 16)) old

theorem Block.matrix_accld (b : Block) (lit : Word) (dst : Nat) (pick : Option Nat) (x : MtxMem) :
    b.matrix 0xA8 lit dst pick [x] = b.tileMap x.tile ((List.range 16).map (16 * mBSB lit + ·)) x.tid (x.loadWord lit) := rfl
theorem Block.matrix_accsc (b : Block) (lit : Word) (dst : Nat) (pick : Option Nat) (x : MtxMem) :
    b.matrix 0xA9 lit dst pick [x] = b.tileMap x.tile (List.range 64) x.tid fun m _ => x.scaledWord m := rfl
theorem Block.matrix_mms (b : Block) (lit : Word) (dst : Nat) (pick : Option Nat) (x : MtxMem) :
    b.matrix 0xA4 lit dst pick [x] = b.tileMap x.tile (List.range 16) x.tid (x.productWord b lit pick) := rfl

theorem MtxMem.loadWord_zeroing {lit : Word} (hZ : mZ lit = true) (x : MtxMem) (m n : Nat) (old : Word) :
    x.loadWord lit m n old = (mget 0#32 x.areg (32 * (n % 8) + m + 16 * (n % 16 / 8)), []) := by
  simp [MtxMem.loadWord, hZ]

theorem MtxMem.productWord_column {n : Nat} (hn : n < 16) (x : MtxMem) (b : Block) (lit : Word) (pick : Option Nat) (m : Nat) (old : Word) :
    x.productWord b lit pick m n old = mulCell lit (x.aAt b 0xA4 lit pick m) (fun k => x.bAt b 0xA4 0 lit pick k n) (scaleAt x.sa (mBSA lit) m)
      (scaleAt x.sb (mBSB lit) (n % 16)) old := by
  simp [MtxMem.productWord, Nat.div_eq_of_lt hn]

/-- Settles O29: each operation rewrites the words of its own columns of its own tile. -/
theorem tileOperations : Obligations.TileOperations := by
  unfold Obligations.TileOperations
  intro b lit dst pick x
  dsimp only
  rw [Block.matrix_mmz, Block.matrix_accld, Block.matrix_accsc, Block.matrix_mms]
  refine ⟨fun m hm n hn => ⟨?_, fun hZ hB => ?_, ?_, fun hc => ?_⟩, ⟨fun t m n h hm hn => ?_, rfl, rfl⟩, ?_, ?_, ?_⟩
  · rw [b.accWord_zeroed _ _ hm hn, if_pos rfl]
  · rw [b.accWord_tileMap _ (blockColumns_lt lit) _ _ _ hm hn, if_pos ⟨rfl, mem_blockColumns.2 hB.symm⟩, x.loadWord_zeroing hZ]
  · rw [b.accWord_tileMap _ (fun _ => List.mem_range.1) _ _ _ hm hn, if_pos ⟨rfl, List.mem_range.2 hn⟩]
    rfl
  · rw [b.accWord_tileMap _ firstColumns_lt _ _ _ hm hn, if_pos ⟨rfl, List.mem_range.2 hc⟩, x.productWord_column hc]
  · rw [b.accWord_zeroed _ _ hm hn, if_neg (by simpa using h)]
  · exact b.tileMap_frame _ (blockColumns_lt lit) _ _ fun n _ h => by simpa [mem_blockColumns] using h
  · exact b.tileMap_frame _ (fun _ => List.mem_range.1) _ _ fun n _ h => by cases h
  · exact b.tileMap_frame _ firstColumns_lt _ _ fun n _ h => by simpa using h

/-! ## One product cell (R99 to R101) -/

/-- The exact sum of K block `k` of an unscaled product, rounded to FP32 once (R99, R100). -/
def blockSum (lit : Word) (a b : Nat → Nat) (k : Nat) : Word :=
  rn32 (sumVals ((List.range 32).map fun i => (valOf (mFA lit) (a (32 * k + i))).prod (valOf (mFB lit) (b (32 * k + i)))))

section
variable {lit : Word} (a b ea eb : Nat → Nat) (old : Word)

/-- An I8 cell adds its exact sum modulo 2^32 (R101). -/
theorem mulCell_int8 (h : mFA lit = 31) : (mulCell lit a b ea eb old).1 = (if mZ lit then 0#32 else old) +
    BitVec.ofInt 32 (((List.range 64).map fun k => (BitVec.ofNat 8 (a k)).toInt * (BitVec.ofNat 8 (b k)).toInt).sum) := by
  unfold mulCell
  dsimp only
  rw [if_pos h, List.sum_eq_foldl, List.foldl_map]

/-- An unscaled floating cell adds its rounded block sums in ascending order (R100). -/
theorem mulCell_unscaled (h : mFA lit ≠ 31) (hSC : mSC lit = false) : (mulCell lit a b ea eb old).1 =
    (List.range (if fmtByte (mFA lit) then 2 else 1)).foldl (fun acc k => rn32 ((f32 acc).add (f32 (blockSum lit a b k))))
      (if mZ lit then 0#32 else old) := by
  unfold mulCell
  simp only [if_neg h, hSC, Bool.false_eq_true, if_false]
  exact (List.foldl_hom Prod.fst (fun _ _ => rfl)).symm

/-- 16-bit forms have one K block. -/
theorem mulCell_half (h : mFA lit = 28 ∨ mFA lit = 29) (hSC : mSC lit = false) : (mulCell lit a b ea eb old).1 =
    rn32 ((f32 (if mZ lit then 0#32 else old)).add (f32 (blockSum lit a b 0))) := by
  have hbyte : fmtByte (mFA lit) = false := by simp [fmtByte]; omega
  rw [mulCell_unscaled a b ea eb old (by omega) hSC, hbyte]
  rfl

/-- 8-bit forms have two K blocks. -/
theorem mulCell_byte (h : mFA lit ≤ 27) (hSC : mSC lit = false) : (mulCell lit a b ea eb old).1 =
    rn32 ((f32 (rn32 ((f32 (if mZ lit then 0#32 else old)).add (f32 (blockSum lit a b 0))))).add (f32 (blockSum lit a b 1))) := by
  have hbyte : fmtByte (mFA lit) = true := by simp [fmtByte, h]
  rw [mulCell_unscaled a b ea eb old (by omega) hSC, hbyte]
  rfl
end

/-- Settles O30: the I8 cell, the 16-bit cell of one K block, the 8-bit cell of two. -/
theorem productCellValues : Obligations.ProductCellValues := by
  unfold Obligations.ProductCellValues
  refine fun lit old a b ea eb => ⟨mulCell_int8 a b ea eb old, fun h hSC => ?_, mulCell_byte a b ea eb old⟩
  simpa only [blockSum, Nat.mul_zero, Nat.zero_add] using mulCell_half a b ea eb old h hSC

end Sys2Proof.Machine
end

-- ==== Loops, votes, moves, registers, software traps, exits and the handler's words (O13, O14, O16, O18, O19) ====
section
/-! PROOF. What the words that arm loops, vote, move, change the register pool, trap by software, exit and end the handler's run come to when they meet none
of their traps (R136 to R153), and how a claim of registers that waits alone ends (R124, R146). -/

namespace Sys2Proof.Machine

/-! ## LOOP and RPT (R115, R118, R136, R137) -/

/-- The end of a loop's body is the word's PC plus 4 × STOP (R136). -/
theorem loopStop_eq (pc : Word) (stop : BitVec 12) : pc + (stop.setWidth 32 <<< 2) = pc + BitVec.ofNat 32 (4 * stop.toNat) := by
  congr 1
  apply BitVec.eq_of_toNat_eq
  have hstop := stop.isLt
  simp [Nat.shiftLeft_eq]
  omega

/-- The context of a LOOP that passes its checks is that of an issue, its bound o7 popped (R69). -/
theorem readyLoop_popped {f : LoopW} {s : State} {e : Env} (h : readyLoop f s = some e) :
    ∃ e₀, ready (.loop f) f.g f.lit s = some e₀ ∧ (∀ p ∈ loopPre f e₀, p.1 = true) ∧ e₀.popped (f.cnt = 71#7) = e := by
  unfold readyLoop at h
  split at h
  · cases h
  · rename_i e₀ he
    obtain ⟨hpre, hpop⟩ := Option.ite_none_right_eq_some.1 h
    exact ⟨e₀, he, List.all_eq_true.1 hpre, Option.some.inj hpop⟩

/-- Settles O13: LOOP with no lane whose counter is live, RPT by whether a lane of the run has a true guard. -/
theorem loopsComplete : Obligations.LoopsComplete := by
  unfold Obligations.LoopsComplete
  refine ⟨fun f s e h hc => ?loop, fun f s e h hn => ?rpt, fun f s e h hany => ?idle⟩
  case loop =>
    have hlive : (maskOf fun L => e.gr.getLsbD L && (e.lane L).loops.any fun l => l.c = f.c.toNat) = 0#32 := by
      refine maskOf_eq_zero fun L hL => ?_
      cases hg : e.gr.getLsbD L
      · rfl
      · simpa using hc L hL hg
    obtain ⟨e₀, he, hpre, rfl⟩ := readyLoop_popped h
    rw [exec_loop, ← loopStop_eq]
    refine (issue_ready he hpre).trans ?_
    dsimp only
    rw [hlive, if_neg (by decide)]
    simp only [Env.finish, Env.retires, Env.popped_bid, Env.popped_w]
  case rpt =>
    obtain ⟨hany, hn⟩ := hn
    rw [exec_rpt]
    exact issueReg_done h ((if_neg (by simp [hany])).trans (if_neg (by omega)))
  case idle =>
    rw [exec_rpt]
    exact issueReg_done h (if_pos (by simp [hany]))

/-! ## EXIT and EXITS (R138, R139) -/

/-- Settles O14: by whether the word runs in the handler slot, and EXITS by whether a lane of the run has a true guard. -/
theorem exitsComplete : Obligations.ExitsComplete := by
  unfold Obligations.ExitsComplete
  refine fun f => ⟨fun s e h hb => ?exit, fun s e h hc => ?exits, fun s e h hany => ?idle⟩
  case exit =>
    rw [exec_exit]
    exact issueReg_done h (if_neg (by simp [hb]))
  case exits =>
    obtain ⟨hany, hb⟩ := hc
    rw [exec_exits]
    exact issueReg_done h ((if_neg (by simp [hany])).trans (if_neg (by simp [hb])))
  case idle =>
    rw [exec_exits]
    exact issueReg_done h (if_pos (by simp [hany]))

/-! ## Traps and ends of a handler's run -/

/-- An effect that traps parks the warp in the state at issue (R80). -/
theorem issueReg_trap {i : Instr} {f : RegW} {s : State} {act : Env → Act} {e : Env} {c : Cause} {m : Mask} {p : Ptr} {x : Word}
    (h : readyReg i f s = some e) (ha : act e = .trap c m p x) : issueReg i f s act = .next (s.takeTrap e.bid e.w c m p x) := by
  obtain ⟨e₀, hb, hw, hs, hi⟩ := issueReg_ready (act := act) h
  rw [hi, ha, ← hb, ← hw, ← hs]
  rfl

/-- An effect that ends the handler's run leaves nothing to retire. -/
theorem issueReg_ended {i : Instr} {f : RegW} {s t : State} {act : Env → Act} {e : Env} (h : readyReg i f s = some e) (ha : act e = .ended t) :
    issueReg i f s act = .next t := by
  obtain ⟨e₀, -, -, -, hi⟩ := issueReg_ready (act := act) h
  rw [hi, ha]
  rfl

/-- Settles O16: TRET and KILL end the handler's run; MOVSYS.W by the register it names. -/
theorem handlerWordsComplete : Obligations.HandlerWordsComplete := by
  unfold Obligations.HandlerWordsComplete
  refine fun f => ⟨fun s e h hany => ?tret, fun s e h hany => ?kill, fun s e h hc => ?hent, fun s e h hc => ?evth⟩
  case tret =>
    rw [exec_tret]
    exact issueReg_ended h (if_neg (by simp [hany]))
  case kill =>
    rw [exec_kill]
    exact issueReg_ended h (if_neg (by simp [hany]))
  case hent =>
    obtain ⟨hany, hsel, h4⟩ := hc
    have hal : (e.uni f.a).extractLsb' 0 2 = 0#2 := BitVec.eq_of_toNat_eq (by simpa using h4)
    rw [exec_movsysW]
    refine issueReg_done h ((if_neg (by simp [hany])).trans ?_)
    dsimp only
    rw [if_pos hsel, if_neg (by simp [hal])]
  case evth =>
    obtain ⟨hany, hsel, hrange⟩ := hc
    have hlegal : ¬ (e.uni f.a != 0#32 && (decide ((e.uni f.a).toNat < 64) || decide (1048576 < (e.uni f.a).toNat))) = true := by
      rcases hrange with hzero | ⟨hlo, hhi⟩
      · simp [BitVec.eq_of_toNat_eq (show _ = (0#32).toNat from hzero)]
      · simp [hlo, hhi]
    rw [exec_movsysW]
    refine issueReg_done h ((if_neg (by simp [hany])).trans ?_)
    dsimp only
    rw [if_neg (by omega), if_neg hlegal]

/-! ## SLEEP, TRAP and ASSERT (R149, R150) -/

theorem sleepDeadline : Spec.SleepDeadline := by
  unfold Spec.SleepDeadline
  intro f s e h hany hheld t
  have hgo : ∀ x y z : Act, (if (!e.any) = true then x else if e.s.sidHeld e.loc.d = true then y else z) = z := fun x y z => by
    rw [if_neg (by simp [hany]), if_neg (by simp [hheld])]
  rw [exec_sleep]
  exact ⟨fun hz => issueReg_done h ((hgo _ _ _).trans (if_pos hz)), fun hz => issueReg_wait h ((hgo _ _ _).trans (if_neg hz))⟩

theorem softwareTrapWords : Spec.SoftwareTrapWords := by
  unfold Spec.SoftwareTrapWords
  refine fun f s e => ⟨fun h => ?trap, fun h => ?assert⟩
  case trap =>
    rw [exec_trap]
    exact ⟨fun hz => issueReg_done h (if_pos hz), fun hz => issueReg_trap h (if_neg hz)⟩
  case assert =>
    rw [exec_assert]
    exact ⟨fun hz => issueReg_done h (if_pos hz), fun hz => issueReg_trap h (if_neg hz)⟩

/-- Settles O19: the deadline, the two software traps. -/
theorem sleepAndSoftwareTraps : Obligations.SleepAndSoftwareTraps := by
  unfold Obligations.SleepAndSoftwareTraps
  exact ⟨sleepDeadline, softwareTrapWords⟩

/-! ## Votes and moves (R141 to R144, R153) -/

theorem votesAndMoves : Spec.VotesAndMoves := by
  unfold Spec.VotesAndMoves
  refine fun f => ⟨fun s e h _ => ?vote, fun s e h _ => ?plop, fun s e h hheld => ?movs, fun s e h hany => ?smov, fun s e h _ => ?movsys⟩
  case vote => exact exec_vote.trans (issueReg_done h rfl)
  case plop => exact exec_plop.trans (issueReg_done h rfl)
  case movs =>
    rw [exec_movs]
    refine issueReg_done h (if_neg ?_)
    simpa using hheld
  case smov =>
    rw [exec_smov]
    refine issueReg_done h ?_
    dsimp only
    rw [if_pos hany]
  case movsys => exact exec_movsys.trans (issueResult_ready h)

/-! ## The register pool and channel bindings (R124, R145 to R147) -/

theorem registersAndBindings : Spec.RegistersAndBindings := by
  unfold Spec.RegistersAndBindings
  refine fun f => ⟨fun s e h hc => ?reggive, fun s e h hany => ?regclaim, fun s e h hc => ?settid, fun b' s e h hc => ?bind, fun s e h hc => ?unbind⟩
  case reggive =>
    obtain ⟨hany, hpend, hd6, h8, hlo, hhi, hcnt⟩ := hc
    have hok : countOk (e.uni f.a).toNat = true := by simp [countOk, h8, hlo, hhi]
    rw [exec_reggive]
    refine issueReg_done h ?_
    dsimp only
    rw [if_neg (by simp [hany]), if_neg (by simp [hpend, hd6]), if_neg (by simp [hok]), if_neg (by omega)]
  case regclaim =>
    rw [exec_regclaim]
    exact issueReg_wait h (if_neg (by simp [hany]))
  case settid =>
    obtain ⟨hany, hn⟩ := hc
    rw [exec_settid]
    exact issueReg_done h ((if_neg (by simp [hany])).trans (if_neg (by omega)))
  case bind =>
    obtain ⟨hany, h3, hopen⟩ := hc
    rw [exec_qbind]
    refine issueReg_done h ?_
    dsimp only
    rw [if_neg (by simp [hany]), if_pos h3, hopen]
  case unbind =>
    obtain ⟨hany, h3⟩ := hc
    rw [exec_qbind]
    exact issueReg_done h ((if_neg (by simp [hany])).trans (if_neg (Bool.eq_false_iff.1 h3)))

/-! ## The end of a claim (R124, R146) -/

@[simp] theorem Warp.mergeDef_rows (wp : Warp) : wp.mergeDef.rows = wp.rows := by
  unfold Warp.mergeDef; split <;> rfl
@[simp] theorem Warp.mergeDef_wait (wp : Warp) : wp.mergeDef.wait = wp.wait := by
  unfold Warp.mergeDef; split <;> rfl
@[simp] theorem Warp.budget_rows (wp : Warp) (run : Mask) (many : Bool) : (wp.budget run many).rows = wp.rows := by
  unfold Warp.budget
  dsimp only
  repeat' split
  all_goals rfl
@[simp] theorem Warp.budget_wait (wp : Warp) (run : Mask) (many : Bool) : (wp.budget run many).wait = wp.wait := by
  unfold Warp.budget
  dsimp only
  repeat' split
  all_goals rfl
@[simp] theorem Warp.closeClause_rows (wp : Warp) : wp.closeClause.rows = wp.rows := by
  unfold Warp.closeClause
  split
  · rfl
  · dsimp only
    rw [Warp.mergeDef_rows, Warp.budget_rows]
    split <;> rfl
/-- A warp whose clause ends stands at no wait. -/
theorem Warp.closeClause_wait {wp : Warp} (h : wp.clause ≠ none) : wp.closeClause.wait = none := by
  unfold Warp.closeClause
  split
  · rename_i hc; exact absurd hc h
  · dsimp only
    rw [Warp.mergeDef_wait, Warp.budget_wait]
    split <;> rfl

theorem Block.serveClaims_nil {b : Block} (h : b.claims = []) (k : Nat) : b.serveClaims k = b := by
  cases k with
  | zero => rfl
  | succ k => unfold Block.serveClaims; rw [h]

/-- The block once the claim of warp `w` for `n` registers has ended: it was the only one. -/
def Block.claimed (b : Block) (w n : Nat) : Block :=
  Block.updWarp { b with claims := [], idle := 0 } w fun wp => Warp.closeClause { wp with rows := wp.rows ++ b.freeRows.take (n - (b.warp w).vcnt) }

/-- A claim that waits alone ends when its warp is settled and the free rows cover it. -/
theorem Block.serveClaims_alone {b : Block} {w n : Nat} (k : Nat) (hclaims : b.claims = [w]) (hwait : (b.warp w).wait = some (.regclaim n))
    (hset : (b.warp w).settled = true) (hok : countOk n = true) (hn : (b.warp w).vcnt ≤ n) (hfree : n - (b.warp w).vcnt ≤ b.freeRows.length) :
    b.serveClaims (k + 1) = b.claimed w n := by
  have hcov : ¬ (!(b.warp w).settled || !countOk n || decide (n < (b.warp w).vcnt) ||
      decide ((b.freeRows.take (n - (b.warp w).vcnt)).length < n - (b.warp w).vcnt)) = true := by
    simp [hset, hok, hn, hfree]
  rw [Block.serveClaims, hclaims]
  dsimp only
  rw [hwait]
  dsimp only
  rw [if_neg hcov]
  exact Block.serveClaims_nil rfl k

theorem Block.claimed_warp {b : Block} {w n : Nat} (hw : w < b.warps.length) :
    (b.claimed w n).warp w = Warp.closeClause { b.warp w with rows := (b.warp w).rows ++ b.freeRows.take (n - (b.warp w).vcnt) } :=
  Block.warp_updWarp _ hw

theorem claimsEnd : Spec.ClaimsEnd := by
  unfold Spec.ClaimsEnd
  intro b w n k hclaims hw hclause hwait hset hok hn hfree
  rw [Block.serveClaims_alone k hclaims hwait hset hok hn hfree, Block.claimed_warp hw]
  refine ⟨?_, Warp.closeClause_wait hclause, rfl, rfl⟩
  rw [Warp.vcnt, Warp.closeClause_rows]
  unfold Warp.vcnt at hn hfree ⊢
  rw [List.length_append, List.length_take]
  omega

/-- Settles O18: the votes and moves, the register pool and the bindings, the end of a claim. -/
theorem voteMoveAndBindingWordsComplete : Obligations.VoteMoveAndBindingWordsComplete := by
  unfold Obligations.VoteMoveAndBindingWordsComplete
  exact ⟨votesAndMoves, registersAndBindings, claimsEnd⟩

end Sys2Proof.Machine
end

-- ==== The events of the dispatchers (O47) ====
section
/-! PROOF. The events of the dispatchers: what each answers from the conditions on the state that let it act (R138, R296, R297, R304 to R317). -/

namespace Sys2Proof.Machine

/-! ## Range records (R306) -/

theorem rangeRecordArrival_places {s : State} {d i j t : Nat} (hd : d < 64) (hi : i < 65536) (ht : t < 64) (hw : (s.recAt d i).wafer = true)
    (hst : (s.recAt d i).st = .running) (hc : (s.recAt d i).cursor.testBit t = true) (hj : (s.dom t).freeHw = some j) :
    exec (.rangeRecordArrival ((d * 65536 + i) * 64 + t)) s = .next (
      let r := s.recAt d i
      let u := s.updRec d i fun x => { x with cursor := x.cursor - 2 ^ t }
      (u.updRec t j fun _ => { Rec.free with ws := recPut r.ws 4 0 1, kind := .range d i, unus := r.unus,
                                             cursor := ((u.launchMap r).nextHomed r.ws t 0).getD 0 }).makeReady t j) := by
  have htarget : ((d * 65536 + i) * 64 + t) % 64 = t := by omega
  have hlaunch : ((d * 65536 + i) * 64 + t) / 64 = d * 65536 + i := by omega
  have hindex : (d * 65536 + i) % 65536 = i := by omega
  have hdomain : (d * 65536 + i) / 65536 = d := by omega
  rw [exec_rangeRecordArrival]
  unfold execRangeRecordArrival
  simp only [htarget, hlaunch, hindex, hdomain]
  rw [if_neg (by simp [hd, hw, hst, hc]), hj]

/-! ## Parked contexts (R312, R314) -/

theorem parkRecordWake_wakes {s : State} {d i k img : Nat} {w : Tick} (hd : d < 64) (hkind : (s.recAt d i).kind = .park k img w)
    (hw : s.woken d i k = true) : exec (.parkRecordWake d i) s = .next (s.wakePark d i k) := by
  rw [exec_parkRecordWake]
  unfold execParkRecordWake
  rw [hkind]
  exact if_pos (by simp [hd, hw])

/-- A unit resumes on cores of another domain; while a copy that it issues again waits for a link it does not (R252). -/
def State.resumesAway (s : State) (u : PUnit) (t : Nat) (as : List Nat) : Out :=
  match s.resumeUnit u t as with
  | some v => .next v
  | none => .refused .notEnabled

/-- A record whose turn it is, which no core of its domain can take, is offered to the first neighbour that can, once its domain's release is made. -/
theorem parkNeighbourOffer_releases {s : State} {d i k img p t : Nat} {w : Tick} {u : PUnit} {as : List Nat} (hd : d < 64)
    (hkind : (s.recAt d i).kind = .park k img w) (hst : (s.recAt d i).st = .ready) (hwait : 65536 ≤ (s.recAt d i).waited)
    (hready : (s.dom d).ready.contains i = true) (hu : s.unitOf d i = some (u, p)) (hpins : u.pins.any Option.isSome = false)
    (htakes : s.choose d u (s.takes d u.part) = none) (helig : s.choose d u (s.eligible d i u.part) = none)
    (hnear : (neighbours d).findSome? (fun t => (s.choose t { u with pref := [] } (s.takes t u.part)).map fun as => (t, as)) = some (t, as)) :
    exec (.parkNeighbourOffer d i) s = s.blockRelease d u.bids false (s.resumesAway { u with pref := [] } t as) := by
  rw [exec_parkNeighbourOffer]
  unfold execParkNeighbourOffer
  simp only [hkind]
  rw [if_neg (by simp [hd, hst, hwait, List.contains_iff_mem.1 hready]), hu]
  dsimp only
  rw [if_neg (by simp [hpins, htakes, helig]), hnear]
  rfl

/-! ## The ends of launches (R315 to R317) -/

/-- A record that runs, with all it has to place placed, no end under way and no re-fire due, may complete. -/
def State.mayComplete (s : State) (d i : Nat) : Prop :=
  (s.recAt d i).st = .running ∧ (s.recAt d i).placed = true ∧ (s.recAt d i).fin = none ∧ (s.recAt d i).refire = false ∧
    (s.dom d).ready.contains i = false

section
variable {s : State} {d i : Nat} (hd : d < 64) (hheld : s.sidHeld d = false) (hoff : (s.dom d).uoff = false) (hp : s.svc.powered = true)
include hd hheld hoff hp

theorem gridCompletion_steps {t : State} (hfin : (s.recAt d i).fin ≠ none) (ht : s.stepFin d i = some t) : exec (.gridCompletion d i) s = .next t := by
  rw [exec_gridCompletion]
  unfold execGridCompletion
  dsimp only
  rw [if_neg (by simp [hd, hheld, hoff, hp]), if_pos (Option.isSome_iff_ne_none.2 hfin), ht]

theorem gridCompletion_range {od oi : Nat} (hc : s.mayComplete d i) (hkind : (s.recAt d i).kind = .range od oi) (hlive : (s.recAt d i).live = 0) :
    exec (.gridCompletion d i) s = .next ((s.updRec od oi fun x => { x with ranges := x.ranges - 1 }).updRec d i fun _ => Rec.free) := by
  obtain ⟨hst, hplaced, hfin, hrefire, hready⟩ := hc
  rw [exec_gridCompletion]
  unfold execGridCompletion
  dsimp only
  rw [if_neg (by simp [hd, hheld, hoff, hp]), if_neg (by simp [hfin]), if_neg (by simp [hrefire]),
    if_neg (by simpa [hst, hplaced] using hready), hkind]
  exact if_neg (by simp [hlive])

theorem gridCompletion_launch (hc : s.mayComplete d i) (hkind : (s.recAt d i).kind = .launch)
    (hlocal : (s.recAt d i).wafer = false → (s.recAt d i).live = 0)
    (hwafer : (s.recAt d i).wafer = true → (s.recAt d i).ranges = 0 ∧ (s.recAt d i).cursor = 0) :
    exec (.gridCompletion d i) s = .next (s.finishRec d i (if (s.recAt d i).cancel then .cancelled else .done)) := by
  obtain ⟨hst, hplaced, hfin, hrefire, hready⟩ := hc
  have hdone : ¬ (if (s.recAt d i).wafer then (s.recAt d i).ranges != 0 || (s.recAt d i).cursor != 0 else (s.recAt d i).live != 0) = true := by
    cases hw : (s.recAt d i).wafer
    · simp [hlocal hw]
    · simp [hwafer hw]
  rw [exec_gridCompletion]
  unfold execGridCompletion
  dsimp only
  rw [if_neg (by simp [hd, hheld, hoff, hp]), if_neg (by simp [hfin]), if_neg (by simp [hrefire]),
    if_neg (by simpa [hst, hplaced] using hready), hkind]
  exact if_neg hdone
end

/-! ## Placement (R307, R308) -/

/-- The state once placement has looked through the marks of a domain's cores (R308). -/
def State.marksSettled (s : State) (d : Nat) : State :=
  (List.range 132).foldl (fun s a => match (s.core d a).drain with
    | some i => if (s.dom d).queue.contains i && !s.offMarked d then s.settleMark d a else s.updCore d a fun c => { c with drain := none }
    | none => s) s

section
variable {s : State} {d : Nat} (hmark : ∀ a < 132, (s.core d a).drain = none)
include hmark

theorem State.marksSettled_unmarked : s.marksSettled d = s :=
  List.foldlRecOn (motive := (· = s)) _ _ rfl fun t ht a ha => by rw [ht, hmark a (List.mem_range.1 ha)]

variable (hd : d < 64)
include hd

theorem dispatchPlacement_queue {t : State} (hq : State.serveQueue d (s.dom d).queue s = some t) : exec (.dispatchPlacement d) s = .next t := by
  rw [exec_dispatchPlacement]
  unfold execDispatchPlacement
  rw [if_neg (by omega)]
  extract_lets u
  have hu : u = s := State.marksSettled_unmarked hmark
  rw [hu, hq]

theorem dispatchPlacement_waiting (hq : State.serveQueue d (s.dom d).queue s = none) (hw : State.serveWaiting d (s.dom d).ready s ≠ s) :
    exec (.dispatchPlacement d) s = .next (State.serveWaiting d (s.dom d).ready s) := by
  rw [exec_dispatchPlacement]
  unfold execDispatchPlacement
  rw [if_neg (by omega)]
  extract_lets u t
  have hu : u = s := State.marksSettled_unmarked hmark
  have ht : t = State.serveWaiting d (s.dom d).ready s := congrArg _ hu
  rw [ht, hu, hq]
  exact if_pos (by simpa using hw)
end

/-! ## Eviction (R311 to R313) -/

/-- The members of a block's constellation that hold a slot. -/
def State.placedMates (s : State) (b : Nat) : List Nat := (s.mates b).filter fun m => (s.block m).loc.isSome

section
variable {s : State} {b : Nat} (hb : (mfind s.blocks b).isSome = true) (hl : (s.block b).loc.isSome = true)
include hb hl

theorem eviction_begins (he : (s.block b).evicting = false) (hall : ∀ m ∈ s.placedMates b, s.mayEvict m = true)
    (hsome : ∃ m ∈ s.placedMates b, (s.block m).warps.all Warp.exited = false) :
    exec (.eviction b) s = .next ((s.placedMates b).foldl (fun t m =>
      t.updBlock m fun y => { y with evicting := true, park := some (t.parkWords false m) }) s) := by
  obtain ⟨m, hm, hlive⟩ := hsome
  have hmay : ((s.placedMates b).all s.mayEvict && (s.placedMates b).any fun m => !(s.block m).warps.all Warp.exited) = true := by
    rw [Bool.and_eq_true, List.all_eq_true, List.any_eq_true]
    exact ⟨hall, m, hm, by rw [hlive]; rfl⟩
  rw [exec_eviction]
  unfold execEviction
  dsimp only
  rw [if_neg (by simp [Option.isSome_iff_ne_none.1 hb, Option.isSome_iff_ne_none.1 hl]), if_pos (by simp [he])]
  exact if_pos hmay

theorem eviction_parks {t : State} (he : (s.block b).evicting = true) (hall : ∀ m ∈ s.placedMates b, s.saveReady m = true)
    (ht : s.parkAll false (s.placedMates b) = some t) :
    exec (.eviction b) s = .next ((s.placedMates b).foldl (fun s m => match (s.block m).parkIdx with
      | some (d, i) => if s.woken d i m then s.wakePark d i m else s
      | none => s) t) := by
  rw [exec_eviction]
  unfold execEviction
  dsimp only
  rw [if_neg (by simp [Option.isSome_iff_ne_none.1 hb, Option.isSome_iff_ne_none.1 hl]), if_neg (by simp [he])]
  refine (if_pos (List.all_eq_true.2 hall)).trans ?_
  unfold State.placedMates at ht
  rw [ht]
  rfl
end

/-! ## The exit of a block (R104, R138, R386) -/

/-- The counters of a block that exits, written out as far as they can be: the state, and whether that is over (R104). -/
def State.exitCounters (s : State) (b : Nat) (l : Loc) : State × Bool :=
  match (if (s.block b).killed then none else rCounters (s.block b).lrec) with
  | some area => s.writeOut b l area (s.block b).cnt
  | none => (s, true)

/-- The exit of block `b` with its journal entry `j` is reported. -/
def State.exitReported (s : State) (b : Nat) (l : Loc) (j : Option Nat) (u : State) : State :=
  let u := u.applyTag l.d l.a j [(s.block b).qdom] []
  let u := if (s.seqOf l.d l.a).heldBy b then u.seqRelease l.d l.a else u
  (u.updBlock b fun y => { y with rel := none }).exitReport b

/-- What follows the release: the report with its journal entry, or a cut that makes room for one. -/
def State.exitReporting (s : State) (b : Nat) (l : Loc) : Out :=
  match s.exitEntry l 0 (recHandle s.svc.dev (s.block b).qdom (s.block b).qidx).toNat 0xFFFFFFFF#32 with
  | none => .next (s.askCut l.d l.a (exitCut b))
  | some (j, u) => .next (s.exitReported b l j u)

section
variable {s : State} {b : Nat} {l : Loc} (hb : (mfind s.blocks b).isSome = true) (hl : (s.block b).loc = some l) (hk : l.k < 4)
  (hrep : (s.block b).reported = false) (hon : s.coreRuns l.d l.a = true) (hout : (s.block b).warps.all Warp.exited = true)
include hb hl hk hrep hon hout

theorem blockExit_asksCut (he : (s.block b).exiting = false) (hops : ∀ y ∈ s.ops, y.bid = b → y.seq = true) :
    exec (.blockExit b) s = .next (((if (s.seqOf l.d l.a).heldBy b then s.seqStop l.d l.a else s).updBlock b fun y =>
      { y with exiting := true, evicting := false, rel := none }).askCut l.d l.a (exitCut b)) := by
  rw [exec_blockExit]
  unfold execBlockExit
  simp only [hl]
  rw [if_neg (by simp [Option.isSome_iff_ne_none.1 hb, hk, hrep, hon, hout]), if_pos (by simp [he]), if_neg (by simpa using hops)]

section
variable (he : (s.block b).exiting = true) (hcut : (s.core l.d l.a).umb.openCut = none)
  (hreq : ∀ r ∈ (s.core l.d l.a).umb.reqs, r.exit ≠ some b) (hops : ∀ y ∈ s.ops, y.bid ≠ b) (hcopy : ∀ m ∈ s.mates b, s.copyTouches m = false)
  (hjournal : ((s.core l.d l.a).umb.journal.any (!·.matched) && s.travelling l.d l.a) = false)
include he hcut hreq hops hcopy hjournal

/-- In the epoch that its cut began, the exit writes out the counters, then releases, then reports. -/
theorem blockExit_inEpoch :
    exec (.blockExit b) s = if !(s.exitCounters b l).2 then s.waiting (s.exitCounters b l).1
      else if (s.exitCounters b l).1 != s && (s.block b).rel.isNone then .next (s.exitCounters b l).1
      else s.blockRelease l.d [b] true (s.exitReporting b l) := by
  have hfree : ¬ ((s.core l.d l.a).umb.openCut.isSome || (s.core l.d l.a).umb.reqs.any (fun r => r.exit = some b) || s.ops.any (fun y => y.bid = b) ||
      (s.mates b).any s.copyTouches || ((s.core l.d l.a).umb.journal.any (!·.matched) && s.travelling l.d l.a)) = true := by
    rw [hjournal]
    simpa [hcut] using ⟨⟨hreq, hops⟩, hcopy⟩
  rw [exec_blockExit]
  unfold execBlockExit
  simp only [hl]
  rw [if_neg (by simp [Option.isSome_iff_ne_none.1 hb, hk, hrep, hon, hout]), if_neg (by simp [he]), if_neg hfree]
  rfl

theorem blockExit_counts (hne : (s.exitCounters b l).1 ≠ s) (hgo : (s.exitCounters b l).2 = false ∨ (s.block b).rel = none) :
    exec (.blockExit b) s = .next (s.exitCounters b l).1 := by
  rw [blockExit_inEpoch hb hl hk hrep hon hout he hcut hreq hops hcopy hjournal]
  cases hover : (s.exitCounters b l).2
  · exact (if_pos rfl).trans (if_neg hne)
  · have hrel : (s.block b).rel = none := hgo.resolve_left (by simp [hover])
    exact (if_neg (by simp)).trans (if_pos (by simp [hne, hrel]))

theorem blockExit_releases (hcnt : s.exitCounters b l = (s, true)) :
    exec (.blockExit b) s = s.blockRelease l.d [b] true (s.exitReporting b l) := by
  rw [blockExit_inEpoch hb hl hk hrep hon hout he hcut hreq hops hcopy hjournal, hcnt]
  simp
end
end

theorem State.exitReporting_some {s u : State} {b : Nat} {l : Loc} {j : Option Nat}
    (h : s.exitEntry l 0 (recHandle s.svc.dev (s.block b).qdom (s.block b).qidx).toNat 0xFFFFFFFF#32 = some (j, u)) :
    s.exitReporting b l = .next (s.exitReported b l j u) := by
  unfold State.exitReporting
  rw [h]
theorem State.exitReporting_none {s : State} {b : Nat} {l : Loc}
    (h : s.exitEntry l 0 (recHandle s.svc.dev (s.block b).qdom (s.block b).qidx).toNat 0xFFFFFFFF#32 = none) :
    s.exitReporting b l = .next (s.askCut l.d l.a (exitCut b)) := by
  unfold State.exitReporting
  rw [h]

/-! ## The enqueue windows (R296, R297, R300) -/

theorem enqueueWindowWrite_done {s t : State} {d i : Nat} {r : List Word} {w : Bool} {c : Option Nat} (hd : d < 64) (hi : i < 65536)
    (hopen : s.svc.winOpen = true) (ht : s.windowEnq d w i r = .done c t) : exec (.enqueueWindowWrite d w i r) s = .next t := by
  rw [exec_enqueueWindowWrite]
  unfold execEnqueueWindowWrite
  rw [if_neg (by simp [hd, hi]), if_neg (by simp [hopen]), ht]

theorem enqdropWrite_clears {s : State} {d : Nat} (hd : d < 64) :
    exec (.enqdropWrite d) s = .next (s.updDom d fun x => { x with enqDropped := 0, enqStray := 0 }) := by
  rw [exec_enqdropWrite]
  exact if_neg (by omega)

/-- Settles O47, one lemma per event. -/
theorem placementEventsComplete : Obligations.PlacementEventsComplete := by
  unfold Obligations.PlacementEventsComplete
  refine fun s d i b hd => ⟨⟨?arrival, ?wake, ?offer, ?steps, ?ends⟩, fun hmark => ?dispatch, fun x l hx hl => ?block, ?window, enqdropWrite_clears hd⟩
  case arrival => exact fun j t hi ht hw hst hc hj => rangeRecordArrival_places hd hi ht hw hst hc hj
  case wake => exact fun k img w hkind hw => parkRecordWake_wakes hd hkind hw
  case offer =>
    intro k img w u p t as hkind hst hwait hready hu hpins htakes helig hnear
    rw [parkNeighbourOffer_releases hd hkind hst hwait hready hu hpins htakes helig hnear]
    refine ⟨fun v hv => hv _, fun v hgo hv => ?_⟩
    rw [hgo, State.resumesAway, hv]
  case steps => exact fun hheld hoff hp t => gridCompletion_steps hd hheld hoff hp
  case ends =>
    intro hst hplaced hfin hrefire hheld hoff hp hready
    have hc : s.mayComplete d i := ⟨hst, hplaced, hfin, hrefire, hready⟩
    exact ⟨fun od oi => gridCompletion_range hd hheld hoff hp hc, gridCompletion_launch hd hheld hoff hp hc⟩
  case dispatch => exact ⟨fun t => dispatchPlacement_queue hmark hd, dispatchPlacement_waiting hmark hd⟩
  case block =>
    obtain rfl := State.block_of_mfind hx
    have hb : (mfind s.blocks b).isSome = true := by rw [hx]; rfl
    have hloc : (s.block b).loc.isSome = true := by rw [hl]; rfl
    refine ⟨eviction_begins hb hloc, fun t => eviction_parks hb hloc, fun hk hrep hon hout => ⟨blockExit_asksCut hb hl hk hrep hon hout, ?_⟩⟩
    intro he hcut hreq hops hcopy hjournal r
    refine ⟨blockExit_counts hb hl hk hrep hon hout he hcut hreq hops hcopy hjournal, fun hr => ?_⟩
    rw [blockExit_releases hb hl hk hrep hon hout he hcut hreq hops hcopy hjournal hr]
    refine ⟨fun t ht => ht _, fun hgo => ⟨fun j u hu => ?_, fun hu => ?_⟩⟩
    · rw [hgo, State.exitReporting_some hu]
      rfl
    · rw [hgo, State.exitReporting_none hu]
      rfl
  case window => exact fun r w c t hi => enqueueWindowWrite_done hd hi

end Sys2Proof.Machine
end

-- ==== Integer and bit operations of the vector engine (O3, O4) ====
section
/-! PROOF. What the integer operations are in integer arithmetic (R158, R163), and what the bit operations leave in each bit (R158,
R159). -/

namespace Sys2Proof.Machine

/-! ## Integer arithmetic (R158, R163) -/

theorem imin32_eq (a b : Word) : imin32 a b = if a.toInt ≤ b.toInt then a else b := by
  simp only [imin32, BitVec.slt_iff_toInt_lt, ← not_le, ite_not]

theorem imax32_eq (a b : Word) : imax32 a b = if a.toInt ≤ b.toInt then b else a := by
  unfold imax32
  simp only [BitVec.slt_iff_toInt_lt]
  by_cases h : a.toInt < b.toInt
  · rw [if_pos h, if_pos h.le]
  · by_cases hle : a.toInt ≤ b.toInt
    · rw [if_neg h, if_pos hle, BitVec.eq_of_toInt_eq (le_antisymm hle (not_lt.1 h))]
    · rw [if_neg h, if_neg hle]

theorem toInt_imin32 (a b : Word) : (imin32 a b).toInt = min a.toInt b.toInt := by rw [imin32_eq, apply_ite BitVec.toInt, min_def]
theorem toInt_imax32 (a b : Word) : (imax32 a b).toInt = max a.toInt b.toInt := by rw [imax32_eq, apply_ite BitVec.toInt, max_def]

/-- An integer of 32 signed bits survives its encoding. -/
theorem toInt_ofInt_of_fits {x : Int} (hlo : -2147483648 ≤ x) (hhi : x ≤ 2147483647) : (BitVec.ofInt 32 x).toInt = x :=
  BitVec.toInt_ofInt_eq_self (by decide) hlo (Int.lt_add_one_of_le hhi)

theorem word_toInt_bounds (a : Word) : -2147483648 ≤ a.toInt ∧ a.toInt ≤ 2147483647 :=
  ⟨BitVec.le_toInt a, Int.le_of_lt_add_one (BitVec.toInt_lt (x := a))⟩

/-- The high word of a product of two signed words is a signed word. -/
theorem toInt_mulHigh (a b : Word) : (BitVec.ofInt 32 ((a.toInt * b.toInt) / 2 ^ 32)).toInt = (a.toInt * b.toInt) / 2 ^ 32 := by
  obtain ⟨halo, hahi⟩ := word_toInt_bounds a
  obtain ⟨hblo, hbhi⟩ := word_toInt_bounds b
  have habs : |a.toInt * b.toInt| ≤ 2147483648 * 2147483648 :=
    abs_mul a.toInt b.toInt ▸ mul_le_mul (abs_le.2 ⟨halo, by omega⟩) (abs_le.2 ⟨hblo, by omega⟩) (abs_nonneg _) (by decide)
  obtain ⟨hlo, hhi⟩ := abs_le.1 habs
  exact toInt_ofInt_of_fits (by omega) (by omega)

theorem toInt_satAdd (a b : Word) : (satAdd a b).toInt = max (-2147483648) (min 2147483647 (a.toInt + b.toInt)) :=
  toInt_ofInt_of_fits (le_max_left _ _) (max_le (by decide) (min_le_left _ _))

theorem toNat_isad (c a b : Word) : (isad c a b).toNat = (c.toNat + (a.toInt - b.toInt).natAbs) % 2 ^ 32 := by
  rw [isad, BitVec.toNat_add, BitVec.toNat_ofNat, Nat.add_mod_mod]

theorem idot4_eq (c a b : Word) : idot4 c a b = c + BitVec.ofInt 32 ((byteOf a 0).toInt * (byteOf b 0).toInt
    + (byteOf a 1).toInt * (byteOf b 1).toInt + (byteOf a 2).toInt * (byteOf b 2).toInt + (byteOf a 3).toInt * (byteOf b 3).toInt) := by
  simp only [idot4, List.range, List.range.loop, List.foldl_cons, List.foldl_nil, BitVec.ofInt_add, BitVec.add_assoc]

/-- Settles O3, one lemma per operation. -/
theorem integerOperationValues : Obligations.IntegerOperationValues := by
  unfold Obligations.IntegerOperationValues
  exact fun a b c => ⟨toInt_mulHigh a b, toInt_imin32 a b, toInt_imax32 a b, toInt_satAdd a b, toNat_isad c a b, idot4_eq c a b⟩

/-! ## Shifts -/

theorem toNat_shl32 (a b : Word) : (shl32 a b).toNat = a.toNat * 2 ^ b.toNat % 2 ^ 32 := by
  unfold shl32
  split
  next => rw [BitVec.toNat_shiftLeft, Nat.shiftLeft_eq]
  next h =>
    have hdvd : 2 ^ 32 ∣ a.toNat * 2 ^ b.toNat := (pow_dvd_pow 2 (not_lt.1 h)).mul_left _
    rw [Nat.mod_eq_zero_of_dvd hdvd]
    rfl

theorem toNat_shr32 (a b : Word) : (shr32 a b).toNat = a.toNat / 2 ^ b.toNat := by
  unfold shr32
  split
  next => rw [BitVec.toNat_ushiftRight, Nat.shiftRight_eq_div_pow]
  next h => exact (Nat.div_eq_of_lt (a.isLt.trans_le (Nat.pow_le_pow_right two_pos (not_lt.1 h)))).symm

theorem getLsbD_shra32 (a b : Word) {i : Nat} (hi : i < 32) : (shra32 a b).getLsbD i = a.getLsbD (min 31 (i + b.toNat)) := by
  unfold shra32
  rw [BitVec.getLsbD_sshiftRight, decide_eq_false (not_le.2 hi), Bool.not_false, Bool.true_and]
  split
  next h => congr 1; omega
  next h => rw [BitVec.msb_eq_getLsbD_last]; congr 1; omega

/-! ## Reversal and counts -/

theorem getLsbD_brev32 (a : Word) {i : Nat} (hi : i < 32) : (brev32 a).getLsbD i = a.getLsbD (31 - i) := getLsbD_maskOf _ hi

theorem clz32_zero : clz32 0#32 = 32#32 := rfl

theorem toNat_clz32 {a : Word} (h : a ≠ 0#32) : (clz32 a).toNat = 31 - Nat.log2 a.toNat := by
  rw [clz32, if_neg h, BitVec.toNat_ofNat, Nat.mod_eq_of_lt (by omega)]

/-- Shifted left by its leading zeros, a word other than 0 has its top bit set and loses nothing. -/
theorem clz32_normalises {a : Word} (h : a ≠ 0#32) :
    2 ^ 31 ≤ a.toNat * 2 ^ (clz32 a).toNat ∧ a.toNat * 2 ^ (clz32 a).toNat < 2 ^ 32 := by
  have hne : a.toNat ≠ 0 := fun h0 => h (BitVec.eq_of_toNat_eq h0)
  have hlog : Nat.log2 a.toNat < 32 := (Nat.log2_lt hne).2 a.isLt
  have hlo := Nat.mul_le_mul_right (2 ^ (31 - Nat.log2 a.toNat)) (Nat.log2_self_le hne)
  have hhi := Nat.mul_lt_mul_of_pos_right (Nat.lt_log2_self (n := a.toNat)) (Nat.two_pow_pos (31 - Nat.log2 a.toNat))
  rw [← pow_add] at hlo hhi
  rw [toNat_clz32 h]
  rw [show Nat.log2 a.toNat + (31 - Nat.log2 a.toNat) = 31 by omega] at hlo
  rw [show Nat.log2 a.toNat + 1 + (31 - Nat.log2 a.toNat) = 32 by omega] at hhi
  exact ⟨hlo, hhi⟩

theorem countP_eq_sum_toNat {α : Type} (p : α → Bool) (l : List α) : l.countP p = (l.map fun x => (p x).toNat).sum := by
  induction l with
  | nil => rfl
  | cons x l ih => cases h : p x <;> simp [h, ih, Nat.add_comm]

theorem toNat_popc32 (a : Word) : (popc32 a).toNat = ((List.range 32).map fun i => (a.getLsbD i).toNat).sum := by
  have hle : (List.range 32).countP (fun i => a.getLsbD i) ≤ 32 := List.countP_le_length
  rw [popc32, BitVec.toNat_ofNat, Nat.mod_eq_of_lt (by omega), countP_eq_sum_toNat]

/-! ## Bit fields (R159) -/

theorem bfPos_add_bfLen_le (ctl : Word) : bfPos ctl + bfLen ctl ≤ 32 := by
  unfold bfLen bfPos
  omega

/-- A mask of the low `len` bits. -/
theorem getLsbD_lowMask {len i : Nat} (hi : i < 32) : (BitVec.ofNat 32 (2 ^ len - 1)).getLsbD i = decide (i < len) := by
  rw [BitVec.getLsbD_ofNat, decide_eq_true hi, Bool.true_and, Nat.testBit_two_pow_sub_one]

theorem getLsbD_bfi (c a b : Word) {i : Nat} (hi : i < 32) :
    (bfi c a b).getLsbD i = if bfPos b ≤ i ∧ i < bfPos b + bfLen b then a.getLsbD (i - bfPos b) else c.getLsbD i := by
  have hmask : (BitVec.ofNat 32 (2 ^ bfLen b - 1) <<< bfPos b).getLsbD i = decide (bfPos b ≤ i ∧ i < bfPos b + bfLen b) := by
    rw [BitVec.getLsbD_shiftLeft, getLsbD_lowMask (by omega), decide_eq_true hi, Bool.true_and, Bool.eq_iff_iff]
    simp only [Bool.and_eq_true, Bool.not_eq_true', decide_eq_false_iff_not, decide_eq_true_eq]
    omega
  unfold bfi
  simp only [BitVec.getLsbD_or, BitVec.getLsbD_and, BitVec.getLsbD_not, hmask, hi, decide_true, Bool.true_and]
  by_cases h : bfPos b ≤ i ∧ i < bfPos b + bfLen b
  · rw [BitVec.getLsbD_shiftLeft]
    simp [h, hi]
  · simp [h]

/-- The field BFE reads, before its sign is extended. -/
theorem getLsbD_field (a b : Word) {i : Nat} (hi : i < 32) :
    ((a >>> bfPos b) &&& BitVec.ofNat 32 (2 ^ bfLen b - 1)).getLsbD i = (decide (i < bfLen b) && a.getLsbD (bfPos b + i)) := by
  rw [BitVec.getLsbD_and, getLsbD_lowMask hi, BitVec.getLsbD_ushiftRight, Bool.and_comm]

theorem getLsbD_bfe (a b : Word) {i : Nat} (hi : i < 32) : (bfe a b).getLsbD i =
    if i < bfLen b then a.getLsbD (bfPos b + i) else (b.getLsbD 16 && decide (0 < bfLen b) && a.getLsbD (bfPos b + bfLen b - 1)) := by
  have hle := bfPos_add_bfLen_le b
  have hsign : 0 < bfLen b → ((a >>> bfPos b) &&& BitVec.ofNat 32 (2 ^ bfLen b - 1)).getLsbD (bfLen b - 1)
      = a.getLsbD (bfPos b + bfLen b - 1) := fun hpos => by
    rw [getLsbD_field a b (by omega), decide_eq_true (by omega), Bool.true_and, Nat.add_sub_assoc hpos]
  unfold bfe
  dsimp only
  split
  next h =>
    simp only [Bool.and_eq_true, decide_eq_true_eq] at h
    obtain ⟨⟨hext, hpos⟩, hbit⟩ := h
    rw [hsign hpos] at hbit
    rw [BitVec.getLsbD_or, getLsbD_field a b hi, BitVec.getLsbD_not, getLsbD_lowMask hi]
    by_cases hin : i < bfLen b <;> simp [hin, hi, hext, hpos, hbit]
  next h =>
    rw [getLsbD_field a b hi]
    by_cases hin : i < bfLen b
    · simp [hin]
    · by_cases hpos : 0 < bfLen b
      · rw [hsign hpos] at h
        simpa [hin, hpos] using h
      · simp [hin, hpos]

/-! ## BYMIX (R159) -/

/-- The bytes of a word put together from four, the lowest last. -/
theorem byteOf_append (x₃ x₂ x₁ x₀ : Byte) : byteOf (x₃ ++ x₂ ++ x₁ ++ x₀) 0 = x₀ ∧ byteOf (x₃ ++ x₂ ++ x₁ ++ x₀) 1 = x₁ ∧
    byteOf (x₃ ++ x₂ ++ x₁ ++ x₀) 2 = x₂ ∧ byteOf (x₃ ++ x₂ ++ x₁ ++ x₀) 3 = x₃ := by
  refine ⟨?_, ?_, ?_, ?_⟩ <;> refine BitVec.eq_of_getLsbD_eq fun j hj => ?_ <;>
    simp only [byteOf, BitVec.getLsbD_extractLsb', BitVec.getLsbD_append, hj, decide_true, Bool.true_and]
  · rw [if_pos (by omega), Nat.mul_zero, Nat.zero_add]
  · rw [if_neg (by omega), if_pos (by omega), show 8 * 1 + j - 8 = j by omega]
  · rw [if_neg (by omega), if_neg (by omega), if_pos (by omega), show 8 * 2 + j - 8 - 8 = j by omega]
  · rw [if_neg (by omega), if_neg (by omega), if_neg (by omega), show 8 * 3 + j - 8 - 8 - 8 = j by omega]

theorem byteOf_bymix (a b c : Word) {i : Nat} (hi : i < 4) : byteOf (bymix c a b) i = bymixByte a b (c.toNat / 2 ^ (6 * i) % 64) := by
  obtain ⟨h0, h1, h2, h3⟩ := byteOf_append (bymixByte a b (c.toNat / 2 ^ 18 % 64)) (bymixByte a b (c.toNat / 2 ^ 12 % 64))
    (bymixByte a b (c.toNat / 2 ^ 6 % 64)) (bymixByte a b (c.toNat % 64))
  unfold bymix
  match i, hi with
  | 0, _ => rw [h0, Nat.mul_zero, pow_zero, Nat.div_one]
  | 1, _ => rw [h1]
  | 2, _ => rw [h2]
  | 3, _ => rw [h3]

/-- Settles O4, one lemma per operation. -/
theorem bitOperationValues : Obligations.BitOperationValues := by
  unfold Obligations.BitOperationValues
  exact fun a b c => ⟨toNat_shl32 a b, toNat_shr32 a b, fun _ => getLsbD_shra32 a b, fun _ => getLsbD_brev32 a, fun h => h ▸ clz32_zero,
    clz32_normalises, toNat_popc32 a, fun _ => getLsbD_bfi c a b, fun _ => getLsbD_bfe a b, fun _ => byteOf_bymix a b c⟩

end Sys2Proof.Machine
end

-- ==== Results of the vector words (O1, O2, O5, O8, O9, O10) ====
section
/-! PROOF. What each vector word that counts no event writes (R155, R158 to R165, R169 to R174), from its shape. -/

namespace Sys2Proof.Machine

/-! ## Words that retire with what their effect computes (R67, R155) -/

/-- A register-format word whose effect is an update of the state retires with it. -/
theorem issueReg_regRetires {i : Instr} {f : RegW} {t : Env → State} (hx : ∀ s, exec i s = issueReg i f s fun e => .done (t e)) :
    Spec.RegRetires i f (fun _ => True) t :=
  fun s _ h _ => (hx s).trans (issueReg_done h rfl)

theorem issueResult_result {i : Instr} {f : RegW} {x : Env → Nat → Word} (hx : ∀ s, exec i s = issueResult i f s x) : Spec.Result i f x :=
  issueReg_regRetires hx

theorem vec1_one {i : Instr} {f : RegW} {x : Word → Word} (hx : ∀ s, exec i s = vec1 i f s x) : Spec.One i f x := issueResult_result hx
theorem vec2_two {i : Instr} {f : RegW} {x : Word → Word → Word} (hx : ∀ s, exec i s = vec2 i f s x) : Spec.Two i f x := issueResult_result hx
theorem vec3_three {i : Instr} {f : RegW} {x : Word → Word → Word → Word} (hx : ∀ s, exec i s = vec3 i f s x) : Spec.Three i f x :=
  issueResult_result hx

/-! ## Integer opcodes (R158, R163) -/

theorem iabs_eq (a : Word) : (if a.msb then -a else a) = if a.toInt < 0 then 0#32 - a else a := by
  rw [BitVec.msb_eq_toInt, BitVec.zero_sub]
  simp only [decide_eq_true_eq]

theorem sel_eq (c a b : Word) : (if c != 0#32 then a else b) = if c = 0#32 then b else a := by
  by_cases h : c = 0#32 <;> simp [h]

theorem pack_eq (a b : Word) : b.extractLsb' 0 16 ++ a.extractLsb' 0 16 = (b &&& 0xFFFF#32) <<< 16 ||| (a &&& 0xFFFF#32) := by
  have hlow {i : Nat} (hi : i < 32) : (0xFFFF#32).getLsbD i = decide (i < 16) := getLsbD_lowMask (len := 16) hi
  refine BitVec.eq_of_getLsbD_eq fun i hi => ?_
  rw [BitVec.getLsbD_append, BitVec.getLsbD_or, BitVec.getLsbD_shiftLeft, BitVec.getLsbD_and, BitVec.getLsbD_and, hlow hi, hlow (by omega)]
  by_cases h : i < 16
  · simp [h]
  · simp [h, hi, show i - 16 < 16 by omega]

/-- Settles O1: each integer opcode is one of the shapes of R155; five compute what the table says in another way. -/
theorem integerResults : Obligations.IntegerResults := by
  unfold Obligations.IntegerResults
  refine fun f => ⟨vec2_two fun _ => exec_iadd, vec2_two fun _ => exec_isub, vec2_two fun _ => exec_imul, vec2_two fun _ => exec_imulh,
    vec3_three fun _ => exec_imad, ?imin, ?imax, ?iabs, vec3_three fun _ => exec_iacc, vec3_three fun _ => exec_isad,
    vec3_three fun _ => exec_idot4, vec3_three fun _ => exec_addmin, vec3_three fun _ => exec_addmax, ?sel, vec1_one fun _ => exec_mov,
    issueResult_result fun _ => exec_movi, ?pack⟩
  case imin => exact vec2_two fun s => exec_imin.trans (congrArg (vec2 (.imin f) f s) (funext₂ imin32_eq))
  case imax => exact vec2_two fun s => exec_imax.trans (congrArg (vec2 (.imax f) f s) (funext₂ imax32_eq))
  case iabs => exact vec1_one fun s => exec_iabs.trans (congrArg (vec1 (.iabs f) f s) (funext iabs_eq))
  case sel => exact vec3_three fun s => exec_sel.trans (congrArg (vec3 (.sel f) f s) (funext₃ sel_eq))
  case pack => exact vec2_two fun s => exec_pack.trans (congrArg (vec2 (.pack f) f s) (funext₂ pack_eq))

/-! ## Bit opcodes and FP32 opcodes (R158, R159, R161 to R165, R169) -/

/-- Settles O2: each bit opcode is one of the shapes of R155 over its own operation. -/
theorem bitResults : Obligations.BitResults := by
  unfold Obligations.BitResults
  exact fun f => ⟨vec2_two fun _ => exec_and, vec2_two fun _ => exec_or, vec2_two fun _ => exec_xor, vec1_one fun _ => exec_not,
    vec2_two fun _ => exec_shl, vec2_two fun _ => exec_shr, vec2_two fun _ => exec_shra, vec2_two fun _ => exec_rot,
    vec1_one fun _ => exec_popc, vec1_one fun _ => exec_clz, vec1_one fun _ => exec_brev,
    vec2_two fun _ => exec_bfe, vec3_three fun _ => exec_bfi, vec3_three fun _ => exec_bymix⟩

/-- Settles O5: each opcode is one of the shapes of R155 over its own operation. -/
theorem floatResults : Obligations.FloatResults := by
  unfold Obligations.FloatResults
  exact fun f => ⟨vec2_two fun _ => exec_fadd, vec2_two fun _ => exec_fsub, vec2_two fun _ => exec_fmul, vec3_three fun _ => exec_ffma,
    vec2_two fun _ => exec_fmin, vec2_two fun _ => exec_fmax, vec3_three fun _ => exec_fclmp,
    vec2_two fun _ => exec_fscale, vec1_one fun _ => exec_fexp, vec1_one fun _ => exec_frnd,
    vec1_one fun _ => exec_rcp, vec1_one fun _ => exec_rsq, vec1_one fun _ => exec_sqrt, vec1_one fun _ => exec_exp2, vec1_one fun _ => exec_log2,
    vec2_two fun _ => exec_hmin2, vec2_two fun _ => exec_hmax2, vec3_three fun _ => exec_dot2, vec3_three fun _ => exec_dot4,
    vec3_three fun _ => exec_scmax, vec1_one fun _ => exec_scext, issueResult_result fun _ => exec_scins⟩

/-! ## Reductions and scans (R173, R174) -/

/-- Settles O10: the effects of the two words, with the five levels of the tree written out. -/
theorem reduceScanResults : Obligations.ReduceScanResults := by
  unfold Obligations.ReduceScanResults
  exact fun f => ⟨issueReg_regRetires fun _ => exec_wred, issueResult_result fun _ => exec_wscan⟩

/-! ## Exchanges (R170 to R172) -/

/-- A lane word whose srcB is uniform retires with its result (R73). -/
theorem vecLane_regRetires {i : Instr} {f : RegW} {x : Env → Word → Nat → Word} (hx : ∀ s, exec i s = vecLane i f s x) :
    Spec.RegRetires i f (fun e => e.uniform (e.src f.b) = true) fun e => e.setBlk fun b => b.writeResult e.w f.nw f.dst e.g (x e (e.uni f.b)) :=
  fun s e h huni => (hx s).trans (issueReg_done h (if_neg (by simp [huni])))

theorem execQsum_eq (f : RegW) (s : State) : execQsum f s = issueResult (.qsum f) f s fun e L =>
    let v := fun i => e.supply f.a (L / 4 * 4 + i)
    if f.b.getLsbD 0 then (v 0 + v 1) + (v 2 + v 3) else fadd32 (fadd32 (v 0) (v 1)) (fadd32 (v 2) (v 3)) := by
  unfold execQsum
  cases f.b.getLsbD 0 <;> rfl

theorem execLshf_eq (f : RegW) (s : State) : execLshf f s = vecLane (.lshf f) f s fun e n L =>
    let j : Int := (L : Int) - n.toInt
    if 0 ≤ j ∧ j ≤ 31 then e.supply f.a j.toNat else e.third 0x70 f L := by
  unfold execLshf
  simp only [Bool.and_eq_true, decide_eq_true_eq]

/-- Settles O9, one shape per word: results of every state, and lane words of a uniform srcB. -/
theorem exchangeResults : Obligations.ExchangeResults := by
  unfold Obligations.ExchangeResults
  refine fun f => ⟨issueResult_result fun _ => exec_qxch, issueResult_result fun _ => exec_qbc,
    issueResult_result fun s => exec_qsum.trans (execQsum_eq f s), issueResult_result fun _ => exec_lidx, ?_, ?_, ?_⟩
  · exact (vecLane_regRetires fun s => exec_lshf.trans (execLshf_eq f s) :)
  · exact (vecLane_regRetires fun _ => exec_lrot (j := f) :)
  · exact (vecLane_regRetires fun _ => exec_lbc (j := f) :)

/-! ## Compares (R160) -/

theorem icmp_signed (cond : Nat) (a b : Word) : icmp false cond a b = condHolds cond (decide (a.toInt < b.toInt)) (decide (a.toInt = b.toInt)) := by
  simp only [icmp, BitVec.slt_eq_decide, BitVec.toInt_inj, Bool.false_eq_true, if_false]

theorem icmp_unsigned (cond : Nat) (a b : Word) : icmp true cond a b = condHolds cond (decide (a.toNat < b.toNat)) (decide (a.toNat = b.toNat)) := by
  simp only [icmp, BitVec.ult_eq_decide, BitVec.toNat_inj, if_true]

/-- The six conditions over a linear order (Table 06-4). -/
theorem condHolds_order {α : Type} [LinearOrder α] (x y : α) :
    let c := fun cond => condHolds cond (decide (x < y)) (decide (x = y))
    c 0 = decide (x = y) ∧ c 1 = decide (x ≠ y) ∧ c 2 = decide (x < y) ∧ c 3 = decide (x ≤ y) ∧ c 4 = decide (x > y) ∧ c 5 = decide (x ≥ y) := by
  obtain h | h | h := lt_trichotomy x y
  · simp [condHolds, h, h.ne, h.le, h.not_gt, h.not_ge]
  · simp [condHolds, h]
  · simp [condHolds, h, h.ne', h.le, h.not_gt, h.not_ge]

theorem fcmp_of_nan {a b : Word} {c : Nat} (hc : c < 8) (h : isNaN32 a = true ∨ isNaN32 b = true) : fcmp c a b = decide (c = 1 ∨ c = 7) := by
  rw [← Bool.or_eq_true] at h
  unfold fcmp
  rw [h]
  interval_cases c <;> rfl

/-- Settles O8: the signed and the unsigned conditions are those of one linear order each. -/
theorem compareResults : Obligations.CompareResults := by
  unfold Obligations.CompareResults
  refine ⟨fun f => ⟨issueReg_regRetires fun _ => exec_icmp, issueReg_regRetires fun _ => exec_fcmp⟩, fun a b => ?_, fun _ _ _ => fcmp_of_nan, ?_⟩
  · simp only [icmp_signed, icmp_unsigned, ne_eq, ← BitVec.toNat_inj]
    obtain ⟨h0, h1, h2, h3, h4, h5⟩ := condHolds_order a.toInt b.toInt
    exact ⟨h0, h1, h2, h3, h4, h5, condHolds_order a.toNat b.toNat⟩
  · decide

end Sys2Proof.Machine
end

-- ==== Reduction trees and random words (O11, O12) ====
section
/-! PROOF. The tree of a reduction whose operation may be grouped in any way is the fold (R173), and the generator of random words (R95,
R175, R176). -/

namespace Sys2Proof.Machine

/-! ## The reduction tree (R173) -/

/-- The operations of Table 06-10 whose result no grouping changes: all but FADD, FMIN and FMAX. -/
def Regroupable (op : Nat) : Prop := op ∈ [0, 1, 2, 6, 7, 8]

theorem redOp_assoc {op : Nat} (h : Regroupable op) (a b c : Word) : redOp op (redOp op a b) c = redOp op a (redOp op b c) := by
  simp only [Regroupable, List.mem_cons, List.not_mem_nil, or_false] at h
  obtain rfl | rfl | rfl | rfl | rfl | rfl := h
  · exact BitVec.add_assoc a b c
  · exact BitVec.eq_of_toInt_eq (by simp only [redOp, toInt_imin32, min_assoc])
  · exact BitVec.eq_of_toInt_eq (by simp only [redOp, toInt_imax32, max_assoc])
  · exact BitVec.and_assoc a b c
  · exact BitVec.or_assoc a b c
  · exact BitVec.xor_assoc a b c

theorem redOp_redId {op : Nat} (h : Regroupable op) (a : Word) : redOp op (redId op) a = a := by
  obtain ⟨hlo, hhi⟩ := word_toInt_bounds a
  simp only [Regroupable, List.mem_cons, List.not_mem_nil, or_false] at h
  obtain rfl | rfl | rfl | rfl | rfl | rfl := h
  · exact BitVec.zero_add a
  · exact BitVec.eq_of_toInt_eq ((toInt_imin32 _ a).trans (min_eq_right hhi))
  · exact BitVec.eq_of_toInt_eq ((toInt_imax32 _ a).trans (max_eq_right hlo))
  · exact BitVec.allOnes_and
  · exact BitVec.zero_or
  · exact BitVec.zero_xor

@[simp] theorem comb_none_left (op : Nat) (x : Option Word) : comb op none x = x := by cases x <;> rfl
@[simp] theorem comb_none_right (op : Nat) (x : Option Word) : comb op x none = x := by cases x <;> rfl
@[simp] theorem comb_some (op : Nat) (a b : Word) : comb op (some a) (some b) = some (redOp op a b) := rfl

theorem comb_assoc {op : Nat} (h : Regroupable op) (x y z : Option Word) : comb op (comb op x y) z = comb op x (comb op y z) := by
  cases x <;> cases y <;> cases z <;> simp [redOp_assoc h]

/-- One level of the tree leaves the fold from the left as it is. -/
theorem foldl_comb_redLevel {op : Nat} (h : Regroupable op) (xs : List (Option Word)) (x₀ : Option Word) :
    (redLevel op xs).foldl (comb op) x₀ = xs.foldl (comb op) x₀ := by
  induction xs using redLevel.induct generalizing x₀ with
  | case1 x y rest ih => simp only [redLevel, List.foldl_cons, ih, comb_assoc h]
  | case2 xs hxs => rw [redLevel]; exact hxs

theorem length_redLevel (op : Nat) (xs : List (Option Word)) : (redLevel op xs).length = (xs.length + 1) / 2 := by
  induction xs using redLevel.induct with
  | case1 x y rest ih => simp only [redLevel, List.length_cons, ih]; omega
  | case2 xs hxs =>
    match xs, hxs with
    | [], _ => rfl
    | [_], _ => simp [redLevel]
    | x :: y :: rest, hxs => exact absurd rfl (hxs x y rest)

theorem headD_eq_foldl_comb {op : Nat} {xs : List (Option Word)} (h : xs.length = 1) : xs.headD none = xs.foldl (comb op) none := by
  obtain ⟨x, rfl⟩ := List.length_eq_one_iff.1 h
  simp

/-- Folding values that are all there never meets the identity again. -/
theorem foldl_comb_some (op : Nat) (xs : List Word) (a : Word) : (xs.map some).foldl (comb op) (some a) = some (xs.foldl (redOp op) a) := by
  induction xs generalizing a with
  | nil => rfl
  | cons x xs ih => exact ih (redOp op a x)

theorem foldl_comb_map_some {op : Nat} (h : Regroupable op) (xs : List Word) :
    ((xs.map some).foldl (comb op) none).getD (redId op) = xs.foldl (redOp op) (redId op) := by
  cases xs with
  | nil => rfl
  | cons x xs => rw [List.map_cons, List.foldl_cons, comb_none_left, foldl_comb_some, List.foldl_cons, redOp_redId h, Option.getD_some]

/-- Settles O11: each of the five levels keeps the fold and halves the list, whose one element is then the fold. -/
theorem reduceTreeIsFold : Obligations.ReduceTreeIsFold := by
  unfold Obligations.ReduceTreeIsFold
  intro op xs h hlen
  rw [headD_eq_foldl_comb (op := op) (by simp only [length_redLevel, List.length_map, hlen])]
  simp only [foldl_comb_redLevel h]
  exact foldl_comb_map_some h xs

/-! ## The lane generator (R95, R175, R176) -/

/-- The bit that the advance shifts out becomes the top bit. -/
theorem getLsbD_advGen_top (g : Word) : (advGen g).getLsbD 31 = g.getLsbD 0 := by
  unfold advGen
  cases h : g.getLsbD 0 <;> simp

theorem advGen_shift (g : Word) : g >>> 1 = if g.getLsbD 0 then advGen g ^^^ 0x80200003#32 else advGen g := by
  unfold advGen
  cases h : g.getLsbD 0 <;> simp

theorem eq_of_ushiftRight_one_of_lsb {g h : Word} (hs : g >>> 1 = h >>> 1) (h0 : g.getLsbD 0 = h.getLsbD 0) : g = h := by
  refine BitVec.eq_of_getLsbD_eq fun i hi => ?_
  cases i with
  | zero => exact h0
  | succ i => simpa [Nat.add_comm] using congrArg (·.getLsbD i) hs

theorem advGen_injective : Function.Injective advGen := by
  intro g h e
  have h0 : g.getLsbD 0 = h.getLsbD 0 := by rw [← getLsbD_advGen_top, ← getLsbD_advGen_top, e]
  exact eq_of_ushiftRight_one_of_lsb (by rw [advGen_shift, advGen_shift, h0, e]) h0

theorem advGen_zero : advGen 0#32 = 0#32 := by decide

/-- Settles O12: the effects of the two words; an injective advance that maps 0 to 0 maps no other value there. -/
theorem randomWords : Obligations.RandomWords := by
  unfold Obligations.RandomWords
  refine ⟨fun f => ⟨?seed, ?draw⟩, fun g h e => advGen_injective e, fun g hg h0 => hg (advGen_injective (h0.trans advGen_zero.symm))⟩
  case seed => exact issueReg_regRetires fun _ => exec_rnds
  case draw => exact issueReg_regRetires fun _ => exec_rnd

end Sys2Proof.Machine
end

-- ==== Special values of FP32 (O6) ====
section
/-! PROOF. The value of an FP32 word, its rounding to itself (R92), and the special inputs of the FP32 operations (R161, R162). -/

namespace Sys2Proof.Machine

/-! ## The values of FP32 words (R86 to R88) -/

/-- The magnitude code of an FP32 word. -/
def mag32 (a : Word) : Nat := a.toNat % 2 ^ 31

theorem f32_eq (a : Word) : f32 a = if mag32 a = 0x7F800000 then .inf a.msb else if 0x7F800000 < mag32 a then .nan
    else .fin a.msb (fp32.sig (mag32 a)) (fp32.unit (mag32 a)) false := by
  have hsign : a.msb = decide (a.toNat / 2 ^ 31 % 2 = 1) := by
    rw [BitVec.msb_eq_decide]
    have := a.isLt
    exact decide_eq_decide.2 (by omega)
  rw [hsign]
  unfold f32 Fmt.val mag32
  simp only [fp32, if_true, Option.some.injEq, Option.getD_some, eq_comm (a := 0x7F800000)]
  rfl

theorem mag32_eq (a : Word) : (a &&& 0x7FFFFFFF#32).toNat = mag32 a := by
  rw [BitVec.toNat_and]
  exact Nat.and_two_pow_sub_one_eq_mod a.toNat 31

theorem isNaN32_eq (a : Word) : isNaN32 a = decide (0x7F800000 < mag32 a) := by
  rw [isNaN32, mag32_eq]

theorem f32_eq_nan_iff (a : Word) : f32 a = .nan ↔ isNaN32 a = true := by
  rw [f32_eq, isNaN32_eq, decide_eq_true_eq]
  split
  next h => simp [h]
  next h => split <;> simp [*]

theorem f32_isNaN (a : Word) : (f32 a).isNaN = isNaN32 a := by
  rw [Bool.eq_iff_iff, ← f32_eq_nan_iff]
  cases f32 a <;> simp [Val.isNaN]

/-! ## Rounding a value of the format -/

/-- A significand already in the units its exponent range calls for is not rounded (R92). -/
theorem Fmt.roundCode_of_unit (f : Fmt) (rnd : Nat) (r : Word) {m : Nat} {e : Int} (more : Bool)
    (hu : (if (Nat.log2 m : Int) + e < f.qmin + f.t then f.qmin else (Nat.log2 m : Int) + e - f.t) = e) :
    f.roundCode rnd r m e more = (e - f.qmin).toNat * 2 ^ f.t + m := by
  unfold Fmt.roundCode
  simp [hu]

theorem fp32_sig_subnormal {c : Nat} (h : c < 2 ^ 23) : fp32.sig c = c ∧ fp32.unit c = -149 := by
  have hdiv : c / 2 ^ fp32.t = 0 := Nat.div_eq_of_lt h
  exact ⟨if_pos hdiv, by rw [Fmt.unit, hdiv]; rfl⟩

theorem fp32_sig_normal {q r : Nat} (hr : r < 2 ^ 23) :
    fp32.sig (2 ^ 23 * (q + 1) + r) = 2 ^ 23 + r ∧ fp32.unit (2 ^ 23 * (q + 1) + r) = -149 + q := by
  have hdiv : (2 ^ 23 * (q + 1) + r) / 2 ^ fp32.t = q + 1 := by rw [show fp32.t = 23 from rfl]; omega
  have hmod : (2 ^ 23 * (q + 1) + r) % 2 ^ fp32.t = r := by rw [show fp32.t = 23 from rfl]; omega
  exact ⟨by rw [Fmt.sig, hdiv, hmod]; rfl, by rw [Fmt.unit, hdiv]; rfl⟩

theorem fp32_roundCode_sig {c : Nat} (h0 : c ≠ 0) : fp32.roundCode 0 0#32 (fp32.sig c) (fp32.unit c) false = c := by
  by_cases hsub : c < 2 ^ 23
  · obtain ⟨hsig, hunit⟩ := fp32_sig_subnormal hsub
    have hlog : Nat.log2 c < 23 := (Nat.log2_lt h0).2 hsub
    have hu : (Nat.log2 c : Int) + -149 < fp32.qmin + fp32.t := by simp only [fp32]; omega
    rw [hsig, hunit, Fmt.roundCode_of_unit _ _ _ _ ((if_pos hu).trans rfl)]
    exact Nat.zero_add c
  · obtain ⟨q, r, hr, rfl⟩ : ∃ q r, r < 2 ^ 23 ∧ c = 2 ^ 23 * (q + 1) + r := ⟨c / 2 ^ 23 - 1, c % 2 ^ 23, by omega, by omega⟩
    obtain ⟨hsig, hunit⟩ := fp32_sig_normal (q := q) hr
    have hlog : Nat.log2 (2 ^ 23 + r) = 23 := (Nat.log2_eq_iff (by omega)).2 ⟨by omega, by omega⟩
    rw [hsig, hunit, Fmt.roundCode_of_unit] <;> simp only [hlog, fp32]
    · omega
    · split <;> omega

theorem fp32_sig_eq_zero {c : Nat} : fp32.sig c = 0 ↔ c = 0 := by
  by_cases h : c < 2 ^ 23
  · rw [(fp32_sig_subnormal h).1]
  · have hpos : 0 < 2 ^ fp32.t := by decide
    have hdiv : c / 2 ^ fp32.t ≠ 0 := (Nat.div_pos (not_lt.1 h) hpos).ne'
    rw [Fmt.sig, if_neg hdiv]
    omega

theorem rn32_nan : rn32 .nan = 0x7FC00000#32 := rfl
theorem rn32_zero (neg : Bool) (e : Int) : rn32 (.fin neg 0 e false) = if neg then 0x80000000#32 else 0#32 := by cases neg <;> rfl

/-- The word of a sign and a magnitude code. -/
theorem word_eq_enc (a : Word) : a = BitVec.ofNat 32 (fp32.enc a.msb (mag32 a)) := by
  apply BitVec.eq_of_toNat_eq
  rw [BitVec.toNat_ofNat, BitVec.msb_eq_decide]
  simp only [Fmt.enc, fp32, mag32, Bool.true_or, Bool.and_true, Bool.true_and, decide_eq_true_eq]
  split <;> omega

theorem fp32_round_code (neg : Bool) {c : Nat} (h : c < 0x7F800000) :
    (fp32.round 0 0#32 (.fin neg (fp32.sig c) (fp32.unit c) false)).1 = fp32.enc neg c := by
  by_cases h0 : c = 0
  · subst h0
    rfl
  · have hmax : ¬ c > fp32.maxc := Nat.not_lt.2 (Nat.le_of_lt_succ h)
    simp [Fmt.round, fp32_sig_eq_zero, h0, fp32_roundCode_sig h0, hmax, show fp32.signed = true from rfl]

theorem rn32_f32 {a : Word} (h : isNaN32 a = false) : rn32 (f32 a) = a := by
  rw [isNaN32_eq, decide_eq_false_iff_not, not_lt] at h
  rw [f32_eq]
  split
  next hinf =>
    conv_rhs => rw [word_eq_enc a, hinf]
    cases a.msb <;> rfl
  next hinf =>
    rw [if_neg (not_lt.2 h), rn32, fp32_round_code _ (lt_of_le_of_ne h hinf), ← word_eq_enc]

/-! ## NaN, infinities and signs (Tables 06-5, 06-6) -/

@[simp] theorem Val.nan_add (v : Val) : Val.nan.add v = .nan := rfl
@[simp] theorem Val.add_nan (v : Val) : v.add .nan = .nan := by cases v <;> rfl
@[simp] theorem Val.nan_mul (v : Val) : Val.nan.mul v = .nan := rfl
@[simp] theorem Val.mul_nan (v : Val) : v.mul .nan = .nan := by cases v <;> rfl

theorem fadd32_fmul32_of_nan {a b : Word} (h : isNaN32 a = true ∨ isNaN32 b = true) : fadd32 a b = 0x7FC00000#32 ∧ fmul32 a b = 0x7FC00000#32 := by
  simp only [← f32_eq_nan_iff] at h
  unfold fadd32 fmul32
  obtain h | h := h <;> simp [h, rn32_nan]

theorem functions_of_nan {a : Word} (h : isNaN32 a = true) : rcp32 a = 0x7FC00000#32 ∧ rsq32 a = 0x7FC00000#32 ∧ sqrt32 a = 0x7FC00000#32 ∧
    exp232 a = 0x7FC00000#32 ∧ log232 a = 0x7FC00000#32 ∧ ∀ n m, fscale32 a n = 0x7FC00000#32 ∧ frnd32 m a = 0x7FC00000#32 := by
  rw [← f32_eq_nan_iff] at h
  simp [rcp32, rsq32, sqrt32, exp232, log232, fscale32, frnd32, h, nan32]

/-- Minimum and maximum look at a value before its order: where one of two is a NaN the other passes (Table 06-5). -/
theorem fp32_minmax_of_nan (mx : Bool) {a b : Word} (h : isNaN32 a = true) :
    fp32.minmax mx a.toNat b.toNat = (if isNaN32 b then 0x7FC00000 else b.toNat) ∧
    fp32.minmax mx b.toNat a.toNat = (if isNaN32 b then 0x7FC00000 else b.toNat) := by
  have hval (w : Word) : (fp32.val w.toNat).isNaN = isNaN32 w := f32_isNaN w
  simp only [Fmt.minmax, hval, h]
  cases isNaN32 b <;> simp [fp32]

theorem fmin32_fmax32_of_nan {a b : Word} (ha : isNaN32 a = true) (hb : isNaN32 b = false) :
    fmin32 a b = b ∧ fmax32 a b = b ∧ fmin32 b a = b ∧ fmax32 b a = b := by
  simp [fmin32, fmax32, fp32_minmax_of_nan _ ha, hb]

theorem fmin32_fmax32_of_nans {a b : Word} (ha : isNaN32 a = true) (hb : isNaN32 b = true) :
    fmin32 a b = 0x7FC00000#32 ∧ fmax32 a b = 0x7FC00000#32 := by
  simp [fmin32, fmax32, fp32_minmax_of_nan _ ha, hb]

theorem Val.inf_add {v : Val} {neg : Bool} (hnan : v ≠ .nan) (hinf : v ≠ .inf !neg) :
    (Val.inf neg).add v = .inf neg ∧ v.add (.inf neg) = .inf neg := by
  cases v with
  | nan => exact absurd rfl hnan
  | inf n => cases n <;> cases neg <;> simp_all [Val.add]
  | fin n m e more => exact ⟨rfl, rfl⟩

/-- An infinity added to anything but a NaN and the other infinity stays. -/
theorem fadd32_inf {i a : Word} {neg : Bool} (hi : f32 i = .inf neg) (ha : isNaN32 a = false) (hne : a ≠ rn32 (.inf !neg)) :
    fadd32 i a = rn32 (.inf neg) ∧ fadd32 a i = rn32 (.inf neg) := by
  have hnan : f32 a ≠ .nan := fun h => by simp [(f32_eq_nan_iff a).1 h] at ha
  have hinf : f32 a ≠ .inf !neg := fun h => hne (by rw [← h, rn32_f32 ha])
  unfold fadd32
  rw [hi, (Val.inf_add hnan hinf).1, (Val.inf_add hnan hinf).2]
  exact ⟨rfl, rfl⟩

theorem mag32_xor_sign (a : Word) : mag32 (a ^^^ 0x80000000#32) = mag32 a := by
  unfold mag32
  rw [BitVec.toNat_xor, Nat.xor_mod_two_pow]
  exact Nat.xor_zero _

theorem f32_xor_sign (a : Word) : f32 (a ^^^ 0x80000000#32) = (f32 a).neg := by
  rw [f32_eq, f32_eq, mag32_xor_sign, BitVec.msb_xor, show (0x80000000#32).msb = true from rfl, Bool.xor_true]
  split
  · rfl
  · split <;> rfl

/-- The exact difference of a finite value and itself is +0. -/
theorem rn32_add_neg (neg : Bool) (m : Nat) (e : Int) (more : Bool) : rn32 ((Val.fin neg m e more).add (Val.fin neg m e more).neg) = 0#32 := by
  by_cases hm : m = 0
  · subst hm
    cases neg <;> rfl
  · have hsum : sigAt neg m e e + sigAt (!neg) m e e = 0 := by cases neg <;> simp [sigAt]
    simp [Val.add, Val.neg, hm, hsum, rn32_zero]

theorem fadd32_xor_sign {a : Word} (ha : isNaN32 a = false) (hinf : a &&& 0x7FFFFFFF#32 ≠ 0x7F800000#32) :
    fadd32 a (a ^^^ 0x80000000#32) = 0#32 := by
  have hmag : mag32 a ≠ 0x7F800000 := fun h => hinf (BitVec.eq_of_toNat_eq ((mag32_eq a).trans h))
  rw [isNaN32_eq, decide_eq_false_iff_not] at ha
  rw [fadd32, f32_xor_sign, f32_eq, if_neg hmag, if_neg ha, rn32_add_neg]

/-- A word with its sign set that is neither a NaN nor −0 stands for a value below 0. -/
theorem f32_of_negative {a : Word} (ha : isNaN32 a = false) (hsign : a.getLsbD 31 = true) (h0 : a ≠ 0x80000000#32) :
    f32 a = .inf true ∨ ∃ m e, m ≠ 0 ∧ f32 a = .fin true m e false := by
  have hmsb : a.msb = true := (BitVec.msb_eq_getLsbD_last a).trans hsign
  have hround := rn32_f32 ha
  rw [isNaN32_eq, decide_eq_false_iff_not] at ha
  rw [f32_eq, if_neg ha, hmsb] at hround ⊢
  split
  next => exact .inl rfl
  next h =>
    refine .inr ⟨_, _, fun hm => h0 ?_, rfl⟩
    rw [if_neg h, hm, rn32_zero] at hround
    exact hround.symm

theorem roots_of_negative {a : Word} (ha : isNaN32 a = false) (hsign : a.getLsbD 31 = true) (h0 : a ≠ 0x80000000#32) :
    rsq32 a = 0x7FC00000#32 ∧ sqrt32 a = 0x7FC00000#32 ∧ log232 a = 0x7FC00000#32 := by
  obtain h | ⟨m, e, hm, h⟩ := f32_of_negative ha hsign h0
  · simp [rsq32, sqrt32, log232, h, nan32]
  · simp [rsq32, sqrt32, log232, h, hm, nan32]

/-- Settles O6, one lemma per group of inputs; closed inputs evaluate. -/
theorem floatSpecialValues : Obligations.FloatSpecialValues := by
  unfold Obligations.FloatSpecialValues
  refine ⟨fun _ _ => fadd32_fmul32_of_nan, fun _ => functions_of_nan, fun _ _ => fmin32_fmax32_of_nan, fun _ _ => fmin32_fmax32_of_nans,
    fun _ => rn32_f32, fun a ha => ⟨fun h => ?_, fun h => ?_⟩, fun _ => fadd32_xor_sign, rfl, rfl, rfl, ?_, ?_, fun _ => roots_of_negative, rfl, rfl⟩
  · exact fadd32_inf (neg := false) rfl ha h
  · exact fadd32_inf (neg := true) rfl ha h
  · simp only [List.forall_mem_cons, List.not_mem_nil, false_implies, implies_true, and_true]
    exact ⟨⟨⟨rfl, rfl⟩, rfl, rfl⟩, ⟨rfl, rfl⟩, rfl, rfl⟩
  · simp only [List.forall_mem_cons, List.not_mem_nil, false_implies, implies_true, and_true]
    exact ⟨⟨rfl, rfl⟩, rfl, rfl⟩

end Sys2Proof.Machine
end

-- ==== Load/store words at issue (O23, O25, O26) ====
section
/-! PROOF. The load/store words at issue (R181 to R200): what an access whose lanes all pass their checks enters, what SETB and BADD write, and what
PREF leaves alone whatever lines it brings in. -/

namespace Sys2Proof.Machine

/-! ## Accesses whose checks all pass (R181 to R195) -/

/-- A memory word whose slot and engine have room and whose lanes all pass their checks goes on with what the checks give. -/
theorem Env.memIssue_passed {α : Type} {e : Env} {d : BitVec 3} {m : Mask} {chk : State → Nat → LaneRes α × State}
    {k : List (Nat × α) → State → Act} {ps : List (Nat × α)} {t : State} (hs : e.slotFree d = true) (hf : e.lsFull = false)
    (hp : passed (checkLanes chk (lanesOf m) e.s) = some (ps, t)) : e.memIssue d (e.lanesChecked m chk k) = k ps t :=
  (memIssue_free hs hf).trans (lanesChecked_passed hp)

/-- An access with a part per result of the checks needs no journal entry on a core without an armed epoch (R381). -/
theorem Env.device_map_unarmed {β : Type} {e : Env} {s : State} {ps : List β} {part : β → Part} {tgt : Nat} {mask : Mask}
    {wr : List (Nat × Word) → State → State} {go : Option Nat → List Part → State → Act} (hq : e.sq = false)
    (h : ps.any (fun p => (part p).ty = 2) = true → e.unarmed s) :
    e.device s (ps.map part) tgt mask wr go = go none (ps.map part) (e.unheld (ps.any fun p => (part p).ty = 2) s) := by
  have hany : (ps.map part).any (·.ty = 2) = ps.any fun p => (part p).ty = 2 := List.any_map
  rw [device_unarmed hq (hany ▸ h), hany]

/-- Settles O23: the checks pass, and a core without an armed epoch keeps no journal. -/
theorem globalAccessesComplete : Obligations.GlobalAccessesComplete := by
  unfold Obligations.GlobalAccessesComplete
  refine ⟨?ld, ?ldn, ?st, ?stn⟩ <;> intro f s e ps t h hs hf hp hd <;>
    exact issueWord_done h ((Env.memIssue_passed hs hf hp).trans (Env.device_map_unarmed (readyWord_ctx h).1 hd))

theorem Env.winScp_eq (e : Env) (ps : List (Nat × Place × Nat)) : e.winScp ps = if ∀ p ∈ ps, p.2.2 = e.loc.d then 1 else 2 :=
  if_congr (by simp) rfl rfl

theorem scratchAndWindowAccesses : Spec.ScratchAndWindowAccesses := by
  unfold Spec.ScratchAndWindowAccesses
  simp only [← Env.winScp_eq]
  refine ⟨?ldx, ?stx, ?ldw, ?stw⟩ <;> intro f s e ps t h hs hf hp <;> exact issueWord_done h (Env.memIssue_passed hs hf hp)

/-- A uniform load whose one check passes enters one part (R195). -/
theorem Env.loadUniform_passed {e : Env} {f : MemW} {n : Nat} {dst : LdDst} {pa ty : Nat} {t : State} (hq : e.sq = false)
    (hs : e.slotFree f.d = true) (hf : e.lsFull = false)
    (hp : e.checkGlobal e.s (e.gva f (lowLane e.g)) n n .load true = (.ok (pa, ty), t)) (hd : ty = 2 → e.unarmed t) :
    e.loadUniform f n dst = .done (e.start (e.unheld (ty = 2) t) f.d (.load dst (memOrd f) (memScp f 1)
      [{ lane := 0, pl := .glob pa, n := n, data := [], sc := none, ty := ty, sty := 0 }]) []) := by
  unfold Env.loadUniform
  rw [memIssue_free hs hf, Env.uniformChecked, hp]
  refine (Env.device_map_unarmed hq (by simpa using hd)).trans ?_
  simp

theorem mxAndUniformAccesses : Spec.MxAndUniformAccesses := by
  unfold Spec.MxAndUniformAccesses
  refine ⟨?ldmx, ?stmx, ?lds, ?ldb⟩
  case ldmx | stmx => intro f s e ps t h hs hf hp; exact issueWord_done h (Env.memIssue_passed hs hf hp)
  case lds | ldb => intro f s e pa ty t h hs hf hp hd; exact issueWord_done h (Env.loadUniform_passed (readyWord_ctx h).1 hs hf hp hd)

/-- Settles O26: the accesses of a lane each, then MX blocks and uniform loads. -/
theorem scratchWindowAndUniformAccessesComplete : Obligations.ScratchWindowAndUniformAccessesComplete :=
  ⟨scratchAndWindowAccesses, mxAndUniformAccesses⟩

/-! ## Base registers (R196, R197) -/

theorem baseWords : Spec.BaseWords := by
  unfold Spec.BaseWords
  refine ⟨fun f s e h hany hf => ⟨fun hz => ?pointer, fun hz => ?copy, fun hz => ?own, fun hz => ?peer⟩, fun f s e h hany hf => ?badd⟩
  case badd => exact issueWord_done h (by simp only [hany, hf]; rfl)
  all_goals exact issueWord_done h (by simp only [hany, hf, hz]; rfl)

/-! ## What a prefetch leaves alone (R198) -/

/-- The blocks with their warps, and the operations under way. -/
def State.work (s : State) : AMap Block × List Op := (s.blocks, s.ops)

theorem State.work_foldl {β : Type} {f : State → β → State} (h : ∀ s x, (f s x).work = s.work) (l : List β) (s : State) :
    (l.foldl f s).work = s.work := foldl_keeps State.work f h l s
@[simp] theorem State.updCore_work (s : State) (d a : Nat) (f : Core → Core) : (s.updCore d a f).work = s.work := rfl
@[simp] theorem State.updDom_work (s : State) (d : Nat) (f : Domain → Domain) : (s.updDom d f).work = s.work := rfl
@[simp] theorem State.setL1_work (s : State) (d sec : Nat) (e : Option L1Sec) : (s.setL1 d sec e).work = s.work := rfl
@[simp] theorem State.logEvent_work (s : State) (c d a : Nat) : (s.logEvent c d a).work = s.work := rfl
@[simp] theorem State.refuse_work (s : State) (q : Asker) (pa : Nat) : (s.refuse q pa).work = s.work := rfl
@[simp] theorem State.touch_work (s : State) (sec : Nat) : (s.touch sec).work = s.work := by
  unfold State.touch; split <;> rfl
@[simp] theorem State.invalidate_work (s : State) (sec d : Nat) (t : Bool) (o : Option Nat) : (s.invalidate sec d t o).work = s.work := by
  unfold State.invalidate; split <;> rfl
@[simp] theorem State.homeUpdated_work (s : State) (sec : Nat) (old : List Byte) (sys : Bool) : (s.homeUpdated sec old sys).work = s.work := by
  unfold State.homeUpdated; dsimp only; split <;> rfl
@[simp] theorem State.served_work (s : State) (q : Asker) (pa : Nat) : (s.served q pa).work = s.work := by
  unfold State.served; dsimp only; split <;> rfl
@[simp] theorem State.l1Forget_work (s : State) (d : Nat) (k : Option Nat) (sec : Nat) : (s.l1Forget d k sec).work = s.work := by
  unfold State.l1Forget State.onL1s; exact State.work_foldl (fun _ _ => State.updCore_work ..) _ s
@[simp] theorem State.l1WriteBack_work (s : State) (d sec : Nat) : (s.l1WriteBack d sec).work = s.work := by
  unfold State.l1WriteBack; split <;> simp
@[simp] theorem State.l1Recall_work (s : State) (d sec : Nat) : (s.l1Recall d sec).work = s.work := by
  unfold State.l1Recall; split
  · split <;> simp
  · rfl
@[simp] theorem State.l1Evict_work (s : State) (d a : Nat) (l : L1Line) : (s.l1Evict d a l).work = s.work :=
  State.work_foldl (fun _ _ => by split <;> simp) _ s
@[simp] theorem State.l1Fill_work (s : State) (d a sec : Nat) : (s.l1Fill d a sec).work = s.work := by
  unfold State.l1Fill; dsimp only; repeat' split
  all_goals simp
@[simp] theorem State.l1Read_work (s : State) (d a sec : Nat) : (s.l1Read d a sec).work = s.work := by
  unfold State.l1Read; simp
@[simp] theorem State.homeServe_work (s : State) (d sec : Nat) : (s.homeServe d sec).work = s.work := by
  unfold State.homeServe; dsimp only; split <;> simp
@[simp] theorem State.fetched_work (s : State) (d : Nat) (wide : Bool) (sec : Nat) : (s.fetched d wide sec).work = s.work := by
  unfold State.fetched; repeat' split
  · simp
  · rfl
  · exact s.homeServe_work d sec
@[simp] theorem State.walked_work (s : State) (d a : Nat) (r : WalkRes × List Nat) (q : Asker) : (s.walked d a r q).work = s.work := by
  have hread : (r.2.foldl (fun s sec => (s.homeServe d sec).served q (64 * sec)) s).work = s.work := State.work_foldl (fun _ _ => by simp) _ s
  unfold State.walked; dsimp only; split <;> simp [hread]
@[simp] theorem State.lookup_work (s : State) (d a asid va : Nat) : (s.lookup d a asid va).2.work = s.work := by
  unfold State.lookup; dsimp only; repeat' split
  all_goals simp
@[simp] theorem State.translate_work (s : State) (d a asid : Nat) (blk : Bool) (va : Nat) (kind : Kind) (n : Nat) :
    (s.translate d a asid blk va kind n).2.work = s.work := by
  rw [← s.lookup_work d a asid va]
  unfold State.translate; split <;> rename_i hl <;> rw [hl]
  split <;> rfl
theorem Env.work_of_translate {e : Env} {s t : State} {va : Nat} {kind : Kind} {n : Nat} {r : Trans} (h : e.translate s va kind n = (r, t)) :
    t.work = s.work := by
  rw [← s.translate_work e.loc.d e.loc.a e.blk.asid (!e.blk.isHandler) va kind n]; exact (congrArg (·.2.work) h).symm
@[simp] theorem State.prefetch_work (s : State) (d a : Nat) (l1 : Bool) (line : Nat) : (s.prefetch d a l1 line).work = s.work :=
  State.work_foldl (fun _ _ => by dsimp only; split <;> simp) _ s
@[simp] theorem Env.prefLane_work (e : Env) (f : MemW) (s : State) (L : Nat) : (e.prefLane f s L).work = s.work := by
  unfold Env.prefLane; split
  case h_1 ht =>
    rw [← Env.work_of_translate ht]; dsimp only; repeat' split
    · rfl
    · exact State.work_foldl (fun _ _ => by simp) _ _
    · simp
  case h_2 ht => exact Env.work_of_translate ht

/-! ## PREF, FENCE, CWB and CINV (R198 to R200) -/

theorem fenceAndCacheWords : Spec.FenceAndCacheWords := by
  unfold Spec.FenceAndCacheWords
  refine ⟨fun f s e h hf => ?pref, fun f s e h hs hf => ?fence, ?cwb, ?cinv⟩
  case pref =>
    intro t
    have hkept : t.kept = e.s.kept := State.kept_foldl (fun s L => e.prefLane_kept f s L) _ _
    have hwork : t.work = e.s.work := State.work_foldl (fun s L => e.prefLane_work f s L) _ _
    exact ⟨issueWord_done h (by simp [hf, t]), congrArg (·.1) hkept, congrArg (·.2.1) hkept, congrArg (·.1) hwork, congrArg (·.2) hwork⟩
  case fence => exact issueWord_done h (memIssue_free hs hf)
  case cwb | cinv => intro f s e ps t h hs hf hp; exact issueWord_done h (Env.memIssue_passed hs hf hp)

/-- Settles O25: the base-register words, then PREF by its frame and the words that enter an operation. -/
theorem baseFenceAndCacheWordsComplete : Obligations.BaseFenceAndCacheWordsComplete := ⟨baseWords, fenceAndCacheWords⟩

end Sys2Proof.Machine
end

-- ==== Loads, stores, fences and cache operations performed (O42, O60) ====
section
/-! PROOF. What a store leaves of memory and of the views of its domain (R190, R206, R207), and what the events that perform loads, stores, fences and
cache operations come to where nothing makes them wait (R187, R188, R199 to R201, R212, R225). -/

namespace Sys2Proof.Machine

/-! ## The bytes a store writes (R190, R206, R207) -/

/-- The dirty bytes that a store of bytes within one sector leaves there. -/
theorem mfind_foldl_dirty {pa : Nat} {bs : List Byte} (m : AMap Byte) (h : pa % 64 + bs.length ≤ 64) {i : Nat} (hi : i < bs.length) :
    mfind ((bs.mapIdx fun i b => (i, b)).foldl (fun m p => mput m ((pa + p.1) % 64) p.2) m) ((pa + i) % 64) = some (bs.getD i 0#8) := by
  induction bs using List.reverseRecOn with
  | nil => exact absurd hi (Nat.not_lt_zero i)
  | append_singleton bs b ih =>
    rw [List.length_append, List.length_singleton] at h hi
    simp only [List.mapIdx_concat, List.foldl_concat, mfind_mput]
    by_cases hlast : i = bs.length
    · subst hlast
      simp
    · rw [if_neg (by omega), ih (by omega) (by omega), List.getD_append _ _ _ _ (by omega)]

theorem State.storeDom_dirty {s : State} {d pa : Nat} (l1 : L1Use) {bs : List Byte} (hd : homeOf pa ≠ d) (h : pa % 64 + bs.length ≤ 64) {i : Nat}
    (hi : i < bs.length) : mfind (((s.storeDom d l1 pa bs).dom d).rs (pa / 64)).dirty ((pa + i) % 64) = some (bs.getD i 0#8) := by
  unfold State.storeDom
  extract_lets sec here old t
  rw [if_neg hd, State.dom_updDom_same, Domain.rs, Domain.setRs]
  simp only [sec, mget_mset_same]
  exact mfind_foldl_dirty _ h hi

/-- A domain reads its dirty bytes of a remote sector, at every scope (R207). -/
theorem State.viewBytes_of_dirty {s : State} {d pa n : Nat} (wide : Bool) {bs : List Byte} (hd : homeOf pa ≠ d) (hn : bs.length = n)
    (h : ∀ i < n, mfind ((s.dom d).rs (pa / 64)).dirty ((pa + i) % 64) = some (bs.getD i 0#8)) : s.viewBytes d wide pa n = bs := by
  unfold State.viewBytes
  rw [if_neg hd]
  refine List.ext_getElem (by simp [hn]) fun i hi _ => ?_
  simp only [List.length_map, List.length_range] at hi
  simp [h i hi, hn ▸ hi]

theorem State.notePersist_mem (s : State) (d a id pa : Nat) : (s.notePersist d a id pa).mem = s.mem := congrArg (·.1) (s.notePersist_kept d a id pa)
theorem State.notePersist_lost (s : State) (d a id pa : Nat) : (s.notePersist d a id pa).lost = s.lost :=
  congrArg (·.2.1) (s.notePersist_kept d a id pa)
theorem State.notePersist_doms (s : State) (d a id pa : Nat) : (s.notePersist d a id pa).doms = s.doms := by
  unfold State.notePersist; split <;> rfl

/-- A part at WAF or SYS scope, or where a tile is mapped, is written through to its home (R207, R330). -/
theorem State.writePart_wide {s : State} {scp pa : Nat} (x : Op) (nt rel : Bool) (bs : List Byte) (hc : regionOf pa ≠ .ctl)
    (hw : (2 ≤ scp || (s.tileAt pa).isSome) = true) : s.writePart x nt rel scp 0 (.glob pa) bs =
      (s.storeWide x.d (if nt && (s.tileAt pa).isNone then .merge x.a else .none) pa bs rel (if rel then some x.id else none) (scp = 3)).notePersist
        x.d x.a x.id pa := by
  unfold State.writePart
  simp [hc, hw]
/-- Every other part is written in its domain's own view. -/
theorem State.writePart_dom {s : State} {scp pa : Nat} (x : Op) (nt rel : Bool) (bs : List Byte) (hc : regionOf pa ≠ .ctl)
    (hw : (2 ≤ scp || (s.tileAt pa).isSome) = false) : s.writePart x nt rel scp 0 (.glob pa) bs =
      (s.storeDom x.d (if nt then .merge x.a else .dirty x.a (s.slotOf x.bid)) pa bs).notePersist x.d x.a x.id pa := by
  unfold State.writePart
  simp [hc, hw]

/-- A part that reaches its home, by its scope or because the home is the domain's own, is written there and nothing else is. -/
theorem State.byte_writePart_home {s : State} {x : Op} {scp pa : Nat} (nt rel : Bool) (bs : List Byte) (hc : regionOf pa ≠ .ctl)
    (hdirty : ((s.dom x.d).rs (pa / 64)).dirty = []) (hw : 2 ≤ scp ∨ homeOf pa = x.d) (a : Nat) :
    (s.writePart x nt rel scp 0 (.glob pa) bs).byte a = (s.memPut pa bs).byte a := by
  cases hwide : 2 ≤ scp || (s.tileAt pa).isSome with
  | true =>
    rw [State.writePart_wide x nt rel bs hc hwide]
    exact State.byte_congr (by rw [State.notePersist_mem, State.storeWide_mem_clean _ _ _ _ _ hdirty]) (by simp [State.notePersist_lost]) a
  | false =>
    have hhome : homeOf pa = x.d := hw.resolve_left (by simp at hwide; omega)
    rw [State.writePart_dom x nt rel bs hc hwide]
    exact State.byte_congr (by rw [State.notePersist_mem, State.storeDom_mem, if_pos hhome]) (by simp [State.notePersist_lost]) a

/-- Settles O60: a write that reaches the home by what it writes there, any other by the dirty bytes it leaves in its domain. -/
theorem storeWritesItsBytes : Obligations.StoreWritesItsBytes := by
  unfold Obligations.StoreWritesItsBytes
  intro s x nt rel scp pa bs hc hlen hdirty t
  refine ⟨fun hw => ?home, fun hscp hd ht => ?view⟩
  case home =>
    have hbyte (a : Nat) : t.byte a = (s.memPut pa bs).byte a := State.byte_writePart_home nt rel bs hc hdirty hw a
    exact ⟨fun k hk => (hbyte _).trans (s.byte_memPut_in pa k bs hk), fun a ha => (hbyte a).trans (s.byte_memPut_out pa a bs ha)⟩
  case view =>
    have hwrite : t = _ := State.writePart_dom x nt rel bs hc (by simp [ht]; omega)
    rw [hwrite]
    refine ⟨by rw [State.notePersist_mem, State.storeDom_mem, if_neg hd], State.viewBytes_of_dirty true hd rfl fun i hi => ?_⟩
    rw [State.rs_of_doms (State.notePersist_doms ..)]
    exact State.storeDom_dirty _ hd hlen hi

/-! ## One part of ordinary memory (R187, R190) -/

/-- The access at the sector of an operation's only part is that part. -/
theorem OpK.group_singleton {k : OpK} {p : Part} (hk : k.parts = [p]) : k.group p.pl.sector = [p] := by
  obtain ⟨secs, hgroup, -, hsub⟩ := k.group_isAccess p.pl.sector (by simp [hk])
  have hp : p ∈ k.group p.pl.sector := hsub (mem_partsTouching.mpr ⟨by simp [hk], _, List.mem_singleton_self _, p.touches_own⟩)
  have hle : (k.group p.pl.sector).Sublist [p] := by rw [hgroup, ← hk]; exact partsTouching_sublist _ secs
  exact hle.eq_of_length_le (List.length_pos_of_mem hp)

/-- A part without an MX scale has its effective scope. -/
theorem Part.scope_of_no_scale {p : Part} (hsc : p.sc = none) (x : Op) (scp ty : Nat) : p.scope x scp ty = effScp scp ty := by
  have hs : p.spread x.d = false := by unfold Part.spread; rw [hsc]; split <;> simp_all
  simp [Part.scope, hs]

theorem State.readPart_ordinary {s : State} {pa : Nat} (x : Op) (nt wide : Bool) (n : Nat) (hc : regionOf pa ≠ .ctl) (ht : s.tileAt pa = none) :
    s.readPart x nt wide 0 (.glob pa) n =
      ((s.loadSec x.d (if nt then none else some x.a) wide true pa n).1, x, (s.loadSec x.d (if nt then none else some x.a) wide true pa n).2) := by
  have hn : s.tileRead x.pins pa = none := by unfold State.tileRead; rw [ht]
  unfold State.readPart
  cases nt <;> simp [hc, hn, ht]

/-- A load of one word of ordinary memory reads the bytes its domain sees and delivers them; the operation stays as it is. -/
theorem State.loadPart_ordinary {s : State} {p : Part} {pa : Nat} (x : Op) (dst : LdDst) (ord scp : Nat) (hpl : p.pl = .glob pa) (hsc : p.sc = none)
    (hty : p.ty = 0) (hc : regionOf pa ≠ .ctl) (ht : s.tileAt pa = none) :
    let r := s.loadSec x.d (if opOf x.word = 0x88 then none else some x.a) (2 ≤ scp) true pa p.n
    let t := (r.2.partServed x false scp p).updBlock x.bid fun y => y.deliver (opWarp x) dst p.lane r.1 0#8
    (s.loadPart x dst ord scp p).1 = x ∧ (s.loadPart x dst ord scp p).2.1 = t.takeFrom x.bid (opWarp x) (ordAcq ord) scp p.pl := by
  unfold State.loadPart
  simp only [Part.scope_of_no_scale hsc, hty, hsc, hpl, s.readPart_ordinary x _ _ p.n hc ht, decide_eq_true_eq]
  exact ⟨trivial, rfl⟩

theorem State.storePart_ordinary {s : State} {p : Part} (x : Op) (ord scp : Nat) (hsc : p.sc = none) (hty : p.ty = 0) :
    s.storePart x ord scp p = ((s.partServed x true scp p).writePart x (opOf x.word = 0x89) (ordRel ord) scp 0 p.pl (p.data.take p.n)).passTo
      x.bid (opWarp x) (ordRel ord) scp p.pl := by
  unfold State.storePart
  simp only [Part.scope_of_no_scale hsc, hty, hsc]
  rfl

/-- Outside control space the one part of an access is stored. -/
theorem State.storeParts_singleton {s : State} {p : Part} {pa : Nat} (x : Op) (ord scp : Nat) (hpl : p.pl = .glob pa) (hc : regionOf pa ≠ .ctl) :
    s.storeParts x ord scp [p] = .ok (s.storePart x ord scp p) := by
  obtain ⟨lane, pl, n, data, sc, ty, sty⟩ := p
  subst hpl
  unfold State.storeParts
  simp [hc]

/-! ## Releases (R41, R210) -/

/-- Once the write-backs are made and confirmed, an operation that releases goes on as one that does not. -/
theorem State.releasing_over {s : State} {x : Op} {c : Prop} [Decidable c] (sys : Bool) (go : Out)
    (h : c → x.flushed = true ∧ s.confirming x.id = false) : (if c then s.releasing x sys go else go) = go := by
  unfold State.releasing
  split
  case isTrue hc => obtain ⟨hflushed, hconf⟩ := h hc; simp [hflushed, hconf]
  case isFalse => rfl
theorem State.releasing_begins {s : State} {x : Op} (sys : Bool) (go : Out) (hx : x.flushed = false) :
    (∀ t, s.flush x.d (.op x.id) x.id sys = .made t → s.releasing x sys go = .next (t.setOp { x with flushed := true })) ∧
    (∀ pa, s.flush x.d (.op x.id) x.id sys = .refused pa → s.releasing x sys go = .next (s.refuse (.op x.id) pa)) := by
  unfold State.releasing
  exact ⟨fun t h => by simp [hx, h], fun pa h => by simp [hx, h]⟩

/-! ## The events (R187, R188, R199 to R201, R212, R225) -/

section
variable {s : State} {o : Nat} {x : Op} (ho : s.op o = some x) (hx : x.performed = false)
include ho hx

/-- A load whose only part nothing holds up is read and over. -/
theorem loadComplete_singleton {dst : LdDst} {ord scp : Nat} {p : Part} (hk : x.k = .load dst ord scp [p]) (hj : x.jent = none)
    (hmay : s.partMay x p = true) (hb : s.partBlocked x false scp p = false) (hr : s.partRefused x false scp p = none) :
    exec (.loadComplete o p.pl) s =
      .next ((s.loadPart x dst ord scp p).2.1.loadDone { (s.loadPart x dst ord scp p).1 with k := .load dst ord scp [] }) := by
  have hgroup : x.k.group p.pl.sector = [p] := OpK.group_singleton (by rw [hk]; rfl)
  have hrest : x.k.without [p] = .load dst ord scp [] := by simp [hk, OpK.without]
  rw [hk] at hgroup hrest
  rw [exec_loadComplete]
  unfold execLoadComplete
  simp [ho, hx, hk, hgroup, hrest, hmay, hb, hr, hj, State.applyTagPart]

/-- A store whose only part nothing holds up, and whose release, if it is one, is made and confirmed, is stored. -/
theorem storePerformed_singleton {ord scp : Nat} {p : Part} {pa : Nat} (hk : x.k = .store ord scp [p]) (hpl : p.pl = .glob pa)
    (hc : regionOf pa ≠ .ctl) (hj : x.jent = none) (hmay : s.partMay x p = true) (hb : s.partBlocked x true scp p = false)
    (hr : s.partRefused x true scp p = none)
    (hrel : (x.flushed || (ordRel (effOrd ord p.ty) && decide (2 ≤ max (effScp scp p.ty) (effScp scp p.sty)))) = true →
      x.flushed = true ∧ s.confirming x.id = false) :
    let t := s.storePart x ord scp p
    exec (.storePerformed o p.pl) s = .next (t.setOp { x with k := .store ord scp [], performed := !t.confirming x.id }) := by
  have hgroup : x.k.group p.pl.sector = [p] := OpK.group_singleton (by rw [hk]; rfl)
  have hrest : x.k.without [p] = .store ord scp [] := by simp [hk, OpK.without]
  rw [hk] at hgroup hrest
  rw [exec_storePerformed]
  unfold execStorePerformed
  simp only [ho, hx, hk, hgroup, hrest, List.all_cons, List.all_nil, List.any_cons, List.any_nil, Bool.or_false, hmay, hb, List.findSome?_cons, hr]
  rw [State.storeParts_singleton x ord scp hpl hc, hj]
  exact State.releasing_over _ _ hrel

theorem storePerformed_fence {ord scp : Nat} {pth : Bool} (pl : Place) (hk : x.k = .fence ord scp pth) (hmay : s.fenceMay x pth = true) :
    exec (.storePerformed o pl) s =
      let t := s.setOp { x with performed := true }
      let go : Out := .next ((if ordAcq ord ∧ 2 ≤ scp then t.acquireWide x.d else t).fenced x.bid (opWarp x) ord scp pth)
      if ordRel ord ∧ 2 ≤ scp then s.releasing x (scp = 3) go else go := by
  rw [exec_storePerformed]
  unfold execStorePerformed
  simp [ho, hx, hk, hmay]

theorem storePerformed_cache {scp : Nat} {inv : Bool} {lines : List Nat} (pl : Place) (hk : x.k = .cache scp inv lines) (hmay : s.cacheMay x = true)
    (hl : ∀ l ∈ lines, s.unreachable (256 * l) = false ∧ s.backing (.op x.id) (256 * l) = false ∧
      (homeOf (256 * l) ≠ x.d → 2 ≤ scp → s.lineRefuses (256 * l) (.op x.id) = false)) :
    exec (.storePerformed o pl) s = .next ((lines.foldl (fun s l => (s.cacheLine x.d x.a scp inv l).served (.op x.id) (256 * l)) s).setOp
      { x with performed := true }) := by
  have hfree : lines.any (fun l => s.unreachable (256 * l) || s.backing (.op x.id) (256 * l)) = false :=
    List.any_eq_false.mpr fun l h => by simp [(hl l h).1, (hl l h).2.1]
  have hserves : lines.find? (fun l => (homeOf (256 * l) != x.d && 2 ≤ scp) && s.lineRefuses (256 * l) (.op x.id)) = none :=
    List.find?_eq_none.mpr fun l h => by simpa using (hl l h).2.2
  rw [exec_storePerformed]
  unfold execStorePerformed
  simp only [ho, hx, hk, hmay, hfree, hserves]
  rfl

theorem storePerformed_flush {all inv sys : Bool} {secs mine : List Nat} (pl : Place) (hk : x.k = .flush all inv sys secs)
    (hmine : (if all then (s.dom x.d).dirtyList x.d else secs) = mine)
    (hl : ∀ sec ∈ mine, s.unreachable (64 * sec) = false ∧ s.backing (.op x.id) (64 * sec) = false ∧
      (homeOf (64 * sec) ≠ x.d → sec ∈ (s.dom x.d).dirtyList x.d → s.lineRefuses (64 * sec) (.op x.id) = false)) :
    exec (.storePerformed o pl) s = .next ((mine.foldl (fun s sec => (s.flushSector x.d inv sys sec).served (.op x.id) (64 * sec)) s).setOp
      { x with performed := true, txn := [] }) := by
  have hfree : mine.any (fun sec => s.unreachable (64 * sec) || s.backing (.op x.id) (64 * sec)) = false :=
    List.any_eq_false.mpr fun sec h => by simp [(hl sec h).1, (hl sec h).2.1]
  have hserves : (mine.filter fun sec => homeOf (64 * sec) != x.d && ((s.dom x.d).dirtyList x.d).contains sec).find?
      (fun sec => s.lineRefuses (64 * sec) (.op x.id)) = none := by
    refine List.find?_eq_none.mpr fun sec h => ?_
    simp only [List.mem_filter, Bool.and_eq_true, bne_iff_ne, List.contains_iff_mem] at h
    obtain ⟨hsec, hfar, hlisted⟩ := h
    simp [(hl sec hsec).2.2 hfar hlisted]
  rw [exec_storePerformed]
  unfold execStorePerformed
  simp only [ho, hx, hk, hmine, hfree, hserves]
  rfl
end

theorem homeRetry_over {s : State} {q : Asker} {line : Nat} (h : ∃ r ∈ s.retries, r.q = q ∧ r.line = line ∧ r.back = 1) :
    exec (.homeRetry (q, line)) s =
      .next { s with retries := s.retries.map fun r => if r.q = q && r.line = line then { r with back := 0 } else r } := by
  rw [exec_homeRetry]
  exact if_pos (by simpa [and_assoc] using h)

/-- Settles O42, one lemma per event. -/
theorem performEventsComplete : Obligations.PerformEventsComplete := by
  unfold Obligations.PerformEventsComplete
  refine ⟨fun s o x ho hx => ⟨?load, ?store, ?fence, fun scp inv lines pl => storePerformed_cache ho hx pl, fun all inv sys secs pl hk =>
    storePerformed_flush ho hx pl hk rfl⟩, fun s q line => homeRetry_over⟩
  case load =>
    intro dst ord scp p pa hk hpl hsc hty hc ht hj hmay hb hr
    obtain ⟨hop, hread⟩ := s.loadPart_ordinary x dst ord scp hpl hsc hty hc ht
    rw [loadComplete_singleton ho hx hk hj hmay hb hr, hop, hread]
    simp [State.loadDone, OpK.parts]
  case store =>
    intro ord scp p pa hk hpl hsc hty hsty hc hj hrel hconf hmay hb hr
    have hflushed : (x.flushed || (ordRel (effOrd ord p.ty) && decide (2 ≤ max (effScp scp p.ty) (effScp scp p.sty)))) = true →
        x.flushed = true := by
      simpa [hty, hsty, effOrd, effScp, or_imp] using hrel
    rw [storePerformed_singleton ho hx hk hpl hc hj hmay hb hr fun h => ⟨hflushed h, hconf (hflushed h)⟩,
      State.storePart_ordinary x ord scp hsc hty]
  case fence =>
    intro ord scp pth pl hk hmay
    rw [storePerformed_fence ho hx pl hk hmay]
    refine ⟨fun hrel hwide hfl => ?begins, fun hdone => State.releasing_over _ _ fun h => hdone (by simpa using h)⟩
    case begins =>
      dsimp only
      rw [if_pos ⟨hrel, hwide⟩]
      exact State.releasing_begins _ _ hfl

end Sys2Proof.Machine
end

-- ==== The events of caches, directories, walkers and links (O44) ====
section
/-! PROOF. The events of the caches, directories, walkers and pool links: what each answers from the conditions on the state that let it act. -/

namespace Sys2Proof.Machine

/-! ## What a slice asks of a home (R207, R209, R212, R216) -/

/-- A request that no link, power or retry holds up is served, or refused while the line has an open transaction. -/
theorem State.sliceAsks_answered {s : State} {d pa : Nat} (go : State) (hu : s.unreachable pa = false) (hb : s.backing (.slice d) pa = false) :
    (s.lineRefuses pa (.slice d) = false → s.sliceAsks d pa go = .next (go.served (.slice d) pa)) ∧
    (s.lineRefuses pa (.slice d) = true → s.sliceAsks d pa go = .next (s.refuse (.slice d) pa)) := by
  unfold State.sliceAsks
  exact ⟨fun hr => by simp [hu, hb, hr], fun hr => by simp [hu, hb, hr]⟩

theorem remoteFetch_asks {s : State} {d sec : Nat} (hd : d < 64) (hc : cacheable (64 * sec) = true) (hh : homeOf (64 * sec) ≠ d)
    (ht : s.tileAt (64 * sec) = none) : exec (.remoteFetch d sec) s = s.sliceAsks d (64 * sec) (s.fetched d false sec) := by
  rw [exec_remoteFetch]
  exact if_neg (by simp [hd, hc, hh, ht])

theorem homeUpdate_asks {s : State} {d sec : Nat} (hdirty : ((s.dom d).rs sec).dirty ≠ []) :
    exec (.homeUpdate d sec) s = s.sliceAsks d (64 * sec) (s.writeBack d sec false none false) := by
  rw [exec_homeUpdate]
  exact if_neg (by simpa using hdirty)

/-! ## A core's L1 (Table 08-2) -/

section
variable {s : State} {d a sec : Nat} (huse : s.usable d a = true) (hc : cacheable (64 * sec) = true) (ht : s.tileAt (64 * sec) = none)
  (hu : s.unreachable (64 * sec) = false)
include huse hc ht hu

theorem l1DirectoryRequest_read : exec (.l1DirectoryRequest d a .read sec) s =
    if s.asksHome d false false (64 * sec) then s.sliceAsks d (64 * sec) ((s.fetched d false sec).l1Read d a sec)
    else .next ((s.fetched d false sec).l1Read d a sec) := by
  rw [exec_l1DirectoryRequest]
  exact if_neg (by simp [huse, hc, ht, hu])

theorem l1DirectoryRequest_write : exec (.l1DirectoryRequest d a .write sec) s =
    .next ((if homeOf (64 * sec) = d then s.touch sec else s).l1Write d a 0 sec) := by
  rw [exec_l1DirectoryRequest]
  exact if_neg (by simp [huse, hc, ht, hu])

theorem l1DirectoryRequest_replace {l : L1Line} (hl : (s.core d a).l1.find? (fun l => l.secs.contains sec) = some l) :
    exec (.l1DirectoryRequest d a .replace sec) s = .next (s.l1Evict d a l) := by
  rw [exec_l1DirectoryRequest]
  refine (if_neg (by simp [huse, hc, ht, hu])).trans ?_
  simp only [hl]
end

/-! ## Copies that go: confirmed invalidations, replacements, directory entries, snoops (R208, R209, R211, R215, R217, R435) -/

theorem remoteInvalidation_confirms {s : State} {d sec : Nat} {p : PInv} (hp : s.pinv.find? (fun p => p.d = d && p.sec = sec) = some p) :
    exec (.remoteInvalidation d sec) s = .next (
      let t := State.updDom { s with pinv := s.pinv.erase p } d fun x => x.setRs sec { x.rs sec with clean := none }
      match mfind (t.dom d).l1 sec with
      | some e => if e.st.isDirty then t else t.l1Drop d sec
      | none => t) := by
  rw [exec_remoteInvalidation]
  unfold execRemoteInvalidation
  rewrite [hp]
  rfl

section
variable {s : State} {d line : Nat} (hd : d < 64) (hu : s.unreachable (256 * line) = false)
include hd hu

theorem sliceReplacement_home (hh : homeOf (256 * line) = d) : exec (.sliceReplacement d line) s =
    .next (((List.range 4).map (4 * line + ·)).foldl (fun s sec => s.evictHome d sec) s) := by
  rw [exec_sliceReplacement]
  exact (if_neg (by simp [hd, hu])).trans (if_pos hh)

/-- A remote line goes through its home where a sector of it is remote-dirty. -/
theorem sliceReplacement_remote (hh : homeOf (256 * line) ≠ d) : exec (.sliceReplacement d line) s =
    let secs := (List.range 4).map (4 * line + ·)
    let go := secs.foldl (fun s sec => ((s.writeBack d sec false none false).l1Drop d sec).updDom d fun x => x.setRs sec RSec.empty) s
    if ∃ q ∈ secs, q ∈ (s.dom d).dirtyList d then s.sliceAsks d (256 * line) go else .next go := by
  rw [exec_sliceReplacement]
  refine (if_neg (by simp [hd, hu])).trans ((if_neg hh).trans ?_)
  exact if_congr (by simp only [List.any_eq_true, List.contains_iff_mem]) rfl rfl
end

theorem directoryEntryDrop_invalidates {s : State} {d line : Nat} {l : HomeLine} (hl : mfind s.hdir line = some l) (hh : homeOf (256 * line) = d)
    (hs : l.sharers ≠ 0#64) : exec (.directoryEntryDrop d line) s = .next (s.invalidateLine line) := by
  rw [exec_directoryEntryDrop]
  unfold execDirectoryEntryDrop
  rw [hl]
  exact if_pos (by simp [hh, hs])

theorem backInvalidationSnoop_pool {s : State} {line : Nat} (hr : regionOf (256 * line) = .pool) (hu : s.unreachable (256 * line) = false)
    (hg : s.svc.poolGone.contains (poolPort (256 * line)) = false) : exec (.backInvalidationSnoop line) s = .next (s.snoop line) := by
  rw [exec_backInvalidationSnoop]
  exact if_neg (by rw [hr, hu, hg]; decide)

theorem hostSnoop_host {s : State} {line : Nat} (hr : regionOf (256 * line) = .host) : exec (.hostSnoop line) s = .next (s.snoop line) := by
  rw [exec_hostSnoop]
  exact if_neg (by simp [hr])

/-! ## The walker (R219, R222) -/

theorem pageWalk_fills {s : State} {d asid : Nat} {va : Ptr} {e : TlbEnt} (hd : d < 64) (ha : asid < 4096)
    (he : (walk s d asid va.toNat).1 = .ok e) : exec (.pageWalk d asid va) s =
      .next ((s.walked d 0xFF (walk s d asid va.toNat)).updDom d fun x => { x with dtlb := (e :: x.dtlb).take 16384 }) := by
  rw [exec_pageWalk]
  refine (if_neg (by simp [hd, ha])).trans ?_
  simp only [he]

/-- A walk that meets an uncorrectable error or a refusal fills nothing. -/
theorem pageWalk_fails {s : State} {d asid : Nat} {va : Ptr} {l pa : Nat} (hd : d < 64) (ha : asid < 4096)
    (h : (walk s d asid va.toNat).1 = .bad l 5 ∨ (walk s d asid va.toNat).1 = .refused pa) :
    exec (.pageWalk d asid va) s = .next (s.walked d 0xFF (walk s d asid va.toNat)) := by
  rw [exec_pageWalk]
  refine (if_neg (by simp [hd, ha])).trans ?_
  obtain h | h := h <;> simp only [h]

/-! ## Pool links and reservations (R213, R216) -/

theorem poolLinkDown_goes {s : State} {p : Nat} (hp : p < 8) (hg : p ∉ s.svc.poolGone) (hdown : p ∉ s.svc.poolDown) : exec (.poolLinkDown p) s =
    .next (State.logEvent { s with svc := { s.svc with poolDown := s.svc.poolDown ++ [p] } } 0x44 (poolDom p) 0xFF) := by
  rw [exec_poolLinkDown]
  exact if_neg (by simp [hp, hg, hdown])

theorem poolLinkUp_returns {s : State} {p : Nat} (hdown : p ∈ s.svc.poolDown) : exec (.poolLinkUp p) s = .next (State.poolReturned
    (State.logEvent { s with svc := { s.svc with poolDown := s.svc.poolDown.filter (· != p) } } 0x44 (poolDom p) 0xFF) p) := by
  rw [exec_poolLinkUp]
  exact if_neg (by simp [hdown])

theorem reservationLapse_passesOn {s : State} {d line n : Nat} {l : HomeLine} {r : Asker} (hl : mfind s.hdir line = some l)
    (hr : l.resv = some (r, n)) (hh : homeOf (256 * line) = d) (hn : 2048 ≤ n) : exec (.reservationLapse d line) s =
      let rest := l.refused.filter (· != r)
      .next { s with hdir := mset HomeLine.zero s.hdir line { l with refused := rest, resv := rest.head?.map (·, 0) } } := by
  rw [exec_reservationLapse]
  unfold execReservationLapse
  simp only [hl, hr]
  exact if_pos (by simp [hh, hn])

/-- Settles O44, one lemma per event; what a slice asks of a home is answered by `State.sliceAsks_answered`. -/
theorem cacheEventsComplete : Obligations.CacheEventsComplete := by
  unfold Obligations.CacheEventsComplete
  intro s d sec pa line asks
  refine ⟨fun a huse hc ht hu => ⟨⟨fun hask hu hb => ?read, fun hask => ?readHere⟩, l1DirectoryRequest_write huse hc ht hu,
      fun l => l1DirectoryRequest_replace huse hc ht hu⟩,
    fun hd hc hh ht hu hb => ?fetch, fun hdirty hu hb => ?update, fun p => remoteInvalidation_confirms,
    fun hd hu => ⟨sliceReplacement_home hd hu, fun hh hq hu hb => ?replaceDirty, fun hh hq => ?replaceClean⟩,
    fun l => directoryEntryDrop_invalidates, fun asid va hd ha => ⟨fun e => pageWalk_fills hd ha, fun l pa => pageWalk_fails hd ha⟩,
    backInvalidationSnoop_pool, hostSnoop_host, fun p => poolLinkDown_goes, fun p => poolLinkUp_returns, fun l r n => reservationLapse_passesOn⟩
  case read => rw [l1DirectoryRequest_read huse hc ht hu, if_pos hask]; exact State.sliceAsks_answered _ hu hb
  case readHere => rw [l1DirectoryRequest_read huse hc ht hu, if_neg (by simpa using hask)]
  case fetch => rw [remoteFetch_asks hd hc hh ht]; exact State.sliceAsks_answered _ hu hb
  case update => rw [homeUpdate_asks hdirty]; exact State.sliceAsks_answered _ hu hb
  case replaceDirty =>
    have hasks := (sliceReplacement_remote hd hu hh).trans (if_pos hq)
    rw [hasks]
    exact State.sliceAsks_answered _ hu hb
  case replaceClean => exact (sliceReplacement_remote hd hu hh).trans (if_neg fun ⟨q, hmem, hlisted⟩ => hq q hmem hlisted)

end Sys2Proof.Machine
end

-- ==== HFLUSH.WBALL and the transactions it holds open (O39) ====
section
/-! PROOF. HFLUSH.WBALL holds a transaction open on every line of the dirty list that an L1 holds dirty (R212, R225); the statement of O39 says that it
opens none. A store to another domain's memory makes such a line. -/

namespace Sys2Proof.Machine

/-- The lines of a domain's dirty list that must be recalled from an L1 (R209, R225). -/
def State.recalledLines (s : State) (d : Nat) : List Nat :=
  ((((s.dom d).dirtyList d).filter fun sec => match mfind (s.dom d).l1 sec with | some x => x.st.isDirty | none => false).map (· / 4)).eraseDups

/-- The state in which a word has started the flush of the whole dirty list, with `lines` the transactions that it holds open. -/
def Env.flushAllStarted (e : Env) (f : SysW) (lines : List Nat) : State :=
  let u := e.start e.s f.d (.flush true (decide (f.f.toNat % 4 = 1)) (f.f.getLsbD 2) []) []
  { u with ops := u.ops.map fun y => if y.id = e.s.nextOp then { y with txn := lines } else y }

theorem hflush_all {f : SysW} {s : State} {e : Env} (h : readyWord (.hflush f) f.g f.lit [] (fun _ => true) s = some e) (hd : e.slotFree f.d = true)
    (hf : f.f.toNat % 4 = 2) : exec (.hflush f) s = e.retires (.hflush f) (e.flushAllStarted f (e.s.recalledLines e.loc.d)) := by
  rw [exec_hflush]
  refine issueWord_done h ?_
  rw [Env.slotted_free hd]
  exact if_pos hf

/-! ## The counterexample -/

/-- HFLUSH.WBALL with the guard that is always true, its slot 0. -/
def flushAllWord : SysW := { g := 7, d := 0, f := 2, s := 0, ba := 0, lit := none }
/-- Core 0 of domain 0 has stored a byte to the first sector of domain 1, and HFLUSH.WBALL is its next word. -/
def storedRemotely : State := (State.reset.placed (encode (.hflush flushAllWord))).storeDom 0 (.dirty 0 0) dramSize [1]

/-- The transactions that the operations of an outcome's state hold open. -/
def openTransactions (o : Out) : Option (List (List Nat)) := match o with | .next t => some (t.ops.map (·.txn)) | _ => none

/-- The word is ready to issue there; the flush holds the stored line's transaction open, and would hold none with an empty list of lines. -/
theorem flushAll_of_storedRemotely :
    (readyWord (.hflush flushAllWord) flushAllWord.g flushAllWord.lit [] (fun _ => true) storedRemotely).any (fun e => e.slotFree flushAllWord.d &&
      decide (openTransactions (e.retires (.hflush flushAllWord) (e.flushAllStarted flushAllWord (e.s.recalledLines e.loc.d))) = some [[dramSize / 256]]) &&
      decide (openTransactions (e.retires (.hflush flushAllWord) (e.flushAllStarted flushAllWord [])) = some [[]])) = true := by
  decide +kernel

/-- Refutes O39: its clause for HFLUSH.WBALL takes the lines whose transactions the recalls keep open from a list of sectors that is empty for that form,
where the word takes them from the dirty list. -/
theorem not_umbraAndHomeWordsComplete : ¬ Obligations.UmbraAndHomeWordsComplete := by
  unfold Obligations.UmbraAndHomeWordsComplete Spec.HomeWords
  rintro ⟨-, -, hflush, -⟩
  obtain ⟨e, hready, hruns⟩ := (Option.any_eq_true _ _).mp flushAll_of_storedRemotely
  simp only [Bool.and_eq_true, decide_eq_true_eq] at hruns
  obtain ⟨⟨hfree, hopens⟩, hnone⟩ := hruns
  have hclaim : exec (.hflush flushAllWord) storedRemotely = e.retires (.hflush flushAllWord) (e.flushAllStarted flushAllWord []) :=
    (hflush flushAllWord storedRemotely e ⟨hready, hfree⟩).1 rfl
  rw [hflush_all hready hfree rfl] at hclaim
  rw [hclaim, hnone] at hopens
  exact absurd hopens (by decide)

end Sys2Proof.Machine
end

-- ==== The copy words: what they enter, answer and record (O33, O34) ====
section
/-! PROOF. A copy that takes effect is an operation started as any other, with a record and a promise besides (R228 to R231, R235); what the copy words come to
when they meet none of their traps (R233 to R237, R240 to R245), and the fields of a record (Table 09-1). -/

namespace Sys2Proof.Machine

/-! ## The promise (R230, R231) -/

/-- A promise lies 1 to 2^30 ticks after the tick of issue. -/
theorem promise_sub (now : Tick) (n : Nat) : (promise now n - now).toNat = 1 + Config.freeNat n % 2 ^ 30 := by
  have hlt : Config.freeNat n % 2 ^ 30 < 2 ^ 30 := Nat.mod_lt _ (by decide)
  have hsub : promise now n - now = 1#64 + BitVec.ofNat 64 (Config.freeNat n % 2 ^ 30) := by
    unfold promise; rw [add_assoc, add_sub_cancel_left]; rfl
  rw [hsub, BitVec.toNat_add, BitVec.toNat_ofNat, BitVec.toNat_ofNat]
  omega

/-- An operation that is no multicast. -/
def OpK.Unicast (k : OpK) : Prop := ∀ h g ps n y o c p gs got, k ≠ .mcast h g ps n y o c p gs got

theorem Env.firstPromise_unicast (e : Env) (s : State) {k : OpK} (hk : k.Unicast) :
    e.firstPromise s k = (promise (e.s.sid e.loc.d) s.fresh, { s with fresh := s.fresh + 1 }) := by
  cases k with
  | mcast => exact (hk _ _ _ _ _ _ _ _ _ _ rfl).elim
  | _ => rfl

/-! ## The copy that takes effect (R228, R235) -/

/-- The state a copy that is no multicast starts from: its promise is drawn and counts among the transits issued. -/
def Env.promised (e : Env) (s : State) : State := State.issued { s with fresh := s.fresh + 1 } (promise (e.s.sid e.loc.d) s.fresh)

/-- The copy's operation is started as any other; then its record and the low half of its promise `p` are entered. -/
def Env.entersCopy (e : Env) (s : State) (d S : Nat) (r : CopyRec) (k : OpK) (p : Tick) : State :=
  (((e.start s (BitVec.ofNat 3 d) k []).noted s.nextOp).updBlock e.bid fun b =>
    { b with copies := mput b.copies (8 * e.w + d) { r with prom := p, st := 1 } }).updWarp e.bid e.w fun wp => wp.setS S (p.setWidth 32)

theorem Env.startCopy_unicast {e : Env} (hq : e.sq = false) (s : State) {d : Nat} (hd : d < 6) (S : Nat) (r : CopyRec) {k : OpK} (hk : k.Unicast) :
    (e.startCopy s d S r k).1 = e.entersCopy (e.promised s) d S r k (promise (e.s.sid e.loc.d) s.fresh) := by
  have h6 : d ≠ 6 := by omega
  unfold Env.startCopy
  rw [e.firstPromise_unicast s hk]
  cases k with
  | mcast => exact (hk _ _ _ _ _ _ _ _ _ _ rfl).elim
  | _ => simp [hq, h6, Env.promised, Env.entersCopy]

/-- What an operation notes of its places leaves its work as it is. -/
theorem State.noted_opKinds (s : State) (o : Nat) : (s.noted o).ops.map (·.k) = s.ops.map (·.k) := by
  unfold State.noted
  rw [List.map_map]
  exact List.map_congr_left fun x _ => by dsimp only [Function.comp]; split <;> rfl

theorem Env.entersCopy_block {e : Env} {s : State} {b : Block} (hq : e.sq = false) (hb : mfind s.blocks e.bid = some b) {d : Nat} (hd : d < 6) (S : Nat)
    (r : CopyRec) (k : OpK) (p : Tick) :
    let x := (b.updWarp e.w (·.claim d)).unrecord e.w d
    (e.entersCopy s d S r k p).block e.bid =
      { x with copies := mput x.copies (8 * e.w + d) { r with prom := p, st := 1 } }.updWarp e.w fun wp => wp.setS S (p.setWidth 32) := by
  have hdn : (BitVec.ofNat 3 d).toNat = d := by simp; omega
  have hstart : mfind ((e.start s (BitVec.ofNat 3 d) k []).noted s.nextOp).blocks e.bid = some ((b.updWarp e.w (·.claim d)).unrecord e.w d) := by
    unfold State.noted Env.start Env.claim
    rw [if_neg (by simp [hq]), hdn]
    exact (State.mfind_updBlock ..).trans (by rw [hb]; rfl)
  exact State.block_updBlock _ ((State.mfind_updBlock ..).trans (by rw [hstart]; rfl))

@[simp] theorem Warp.claim_sreg (wp : Warp) (d i : Nat) : (wp.claim d).sreg i = wp.sreg i := by
  unfold Warp.claim; split <;> rfl
@[simp] theorem Block.unrecord_warps (b : Block) (w d : Nat) : (b.unrecord w d).warps = b.warps := by
  unfold Block.unrecord; split <;> rfl

/-- The warp of the copy that has taken effect. -/
theorem Env.entersCopy_warp {e : Env} {s : State} {b : Block} (hq : e.sq = false) (hb : mfind s.blocks e.bid = some b) (hw : e.w < b.warps.length)
    {d : Nat} (hd : d < 6) (S : Nat) (r : CopyRec) (k : OpK) (p : Tick) :
    ((e.entersCopy s d S r k p).block e.bid).warp e.w = ((b.warp e.w).claim d).setS S (p.setWidth 32) := by
  rw [Env.entersCopy_block hq hb hd, Block.warp_updWarp _ (by simpa using hw)]
  exact congrArg (·.setS S (p.setWidth 32)) ((Block.unrecord_warp ..).trans (Block.warp_updWarp _ hw))

/-- Settles O33: the copy's operation is started as any other (R63), then its record and its promise are entered. -/
theorem startedCopy : Obligations.StartedCopy := by
  unfold Obligations.StartedCopy
  intro e s d S r k b hq hb hw hd hk t
  let p := promise (e.s.sid e.loc.d) s.fresh
  have ht : t = e.entersCopy (e.promised s) d S r k p := Env.startCopy_unicast hq s hd S r hk
  have hsub : (p - e.s.sid e.loc.d).toNat = 1 + Config.freeNat s.fresh % 2 ^ 30 := promise_sub ..
  have hlt : Config.freeNat s.fresh % 2 ^ 30 < 2 ^ 30 := Nat.mod_lt _ (by decide)
  obtain ⟨hmem, -, hdoms⟩ := Env.claim_frame hq (e.promised s) (BitVec.ofNat 3 d).toNat
  have hblock := Env.entersCopy_block hq (s := e.promised s) hb hd S r k p
  have hwarp := Env.entersCopy_warp hq (s := e.promised s) hb hw hd S r k p
  rw [← ht] at hblock hwarp
  refine ⟨p, by omega, by omega, ?low, ?record, ?work, ?pending, ht ▸ hmem, ht ▸ hdoms, fun S' hS => ?sregs, ?rf⟩
  case low => rw [hwarp, Warp.sreg_setS_same]
  case record => rw [hblock]; exact mfind_mput_same ..
  case work => rw [ht]; exact (State.noted_opKinds ..).trans List.map_append
  case pending => rw [hwarp]; exact Warp.claim_slotBusy_same _ hd
  case sregs => rw [hwarp, Warp.sreg_setS_ne _ _ hS, Warp.claim_sreg]
  case rf => rw [hblock]; exact Block.unrecord_rf ..

/-! ## The copy words at issue (R233 to R237, R240, R241) -/

/-- The work that a copy word enters for its segments: a CPYM asks for its group, every other copy has the segments themselves (R235, R237). -/
def copyWork (op : Nat) (f : AsyW) (r : CopyRec) (scp : Nat) (segs : List Seg) (srcs : List Piece) : OpK :=
  if op = 0xBA then
    .mcast (homeOf ((srcs.head?.map (·.pl.off)).getD 0)) none (sourcePages srcs none) r.len.toNat r.key r.ord (segsScp scp segs) 0
      (zipSegs (2 * segs.length + r.len.toNat) (segs.map fun g => { pl := g.dst, n := g.n, ty := g.ty, addr := 0, tile := none })
        ((imagePieces r.len.toNat).filterMap fun p => match p with | .ok p => some p | _ => none)) []
  else .copy r.ord scp (op != 0xBC && f.v.getLsbD 2) segs []

section
variable {e : Env} {op : Nat} {f : AsyW} {segs : List Seg} {srcs : List Piece} {t : State} (hs : e.slotFree f.d = true)
  (hp : e.s.copyPlan e.copyCx (e.copyRec op f) = .ok segs srcs t) (ht : t.sidHeld e.loc.d = false)
include hs hp ht

/-- A copy of no bytes completes at once, with the next tick as its transit. -/
theorem Env.copy_empty (hq : e.sq = false) (h : segs = []) : e.copy op f =
    .done (((t.issued (t.sid e.loc.d + 1#64)).updBlock e.bid fun b => b.unrecord e.w f.d.toNat).updWarp e.bid e.w fun wp =>
      wp.setS f.s.toNat ((t.sid e.loc.d + 1#64).setWidth 32)) := by
  subst h
  unfold Env.copy
  rw [Env.slotted_free hs]
  simp [hp, ht, hq]

theorem Env.copy_segments (h : segs ≠ []) (hf : e.copyFull = false) :
    let scp := t.copyScope e.copyCx (e.copyRec op f) f.lit segs
    let r := { e.copyRec op f with scp := segsScp scp segs }
    e.copy op f = .done (e.startCopy t f.d.toNat f.s.toNat r (copyWork op f r scp segs srcs)).1 := by
  unfold Env.copy
  rw [Env.slotted_free hs]
  simp only [hp]
  exact (if_neg (by simp [ht])).trans ((if_neg (by simpa using h)).trans (if_neg (by simp [hf])))
end

/-! ## CPYT (R240) -/

theorem Env.sidHeld_of_slotFree {e : Env} {d : BitVec 3} (h : e.slotFree d = true) : e.s.sidHeld e.loc.d = false := by
  unfold Env.slotFree at h
  simp only [Bool.and_eq_true, Bool.not_eq_true', Bool.or_eq_false_iff] at h
  obtain ⟨⟨-, hsid⟩, -⟩ := h
  exact hsid

/-- The record of a copy of object `x`'s image: as long as the object. -/
def Env.imageRec (e : Env) (f : AsyW) (x : Nat) : CopyRec :=
  { e.copyRec 0xBB f with key := e.sreg f.s.toNat, len := BitVec.ofNat 32 (4096 * ((e.s.dom e.loc.d).obj x).size) }

section
variable {e : Env} {f : AsyW} {x : Nat} (hs : e.slotFree f.d = true) (hf : e.copyFull = false)
  (hx : (e.s.dom e.loc.d).named (e.sreg f.s.toNat) = some x)
include hs hf hx

/-- A request for a promotion or an eviction moves no byte of its own. -/
theorem Env.tier_request (hv : f.v.toNat < 2) :
    e.tier f = .done (e.tierGo e.s f { e.copyRec 0xBB f with key := e.sreg f.s.toNat, len := 0#32 } x 1 []) := by
  unfold Env.tier
  rw [Env.slotted_free hs]
  simp only [hx]
  exact (if_pos hv).trans (if_neg (by simp [hf, Env.sidHeld_of_slotFree hs]))

theorem Env.tier_image {segs : List Seg} {srcs : List Piece} {t : State} (hv : 2 ≤ f.v.toNat)
    (hp : e.s.copyPlan e.copyCx (e.imageRec f x) = .ok segs srcs t) (ht : t.sidHeld e.loc.d = false) :
    e.tier f = .done (e.tierGo t f (e.imageRec f x) x (t.copyScope e.copyCx (e.imageRec f x) f.lit segs) segs) := by
  unfold Env.tier
  rw [Env.slotted_free hs]
  simp only [hx]
  refine (if_neg (Nat.not_lt.2 hv)).trans ?_
  split <;> rename_i hplan <;> cases hp.symm.trans hplan
  exact if_neg (by simp [hf, ht])
end

theorem copyWords : Spec.CopyWords := by
  unfold Spec.CopyWords
  intro goes plain tier
  have hgoes : ∀ (i : AsyW → Instr) (op : Nat) (k : AsyW → CopyRec → Nat → List Seg → List Piece → OpK),
      (∀ f s, exec (i f) s = issueWord (i f) f.g f.lit [] s (fun _ => true) fun e => e.copy op f) →
      (∀ f r scp segs srcs, copyWork op f r scp segs srcs = k f r scp segs srcs) → goes i op k := by
    intro i op k hi hk f s e segs srcs t h hs hp ht
    have hq := (readyWord_ctx h).1
    rw [hi]
    refine ⟨fun hn => issueWord_done h (Env.copy_empty hs hp ht hq hn), fun hn hf => ?_⟩
    have hc := Env.copy_segments hs hp ht hn hf
    simp only [hk] at hc
    exact issueWord_done h hc
  -- from here on the work of each word is read off the statement, which asks for `goes` as it stands
  clear_value goes
  refine ⟨hgoes .cpy 0xB8 _ (fun _ _ => rfl) fun _ _ _ _ _ => rfl, hgoes .cpy2 0xB9 _ (fun _ _ => rfl) fun _ _ _ _ _ => rfl,
    hgoes .cpyw 0xBC _ (fun _ _ => rfl) fun _ _ _ _ _ => rfl, hgoes .cpym 0xBA _ (fun _ _ => rfl) fun _ _ _ _ _ => rfl, ?_⟩
  have htier : ∀ i : AsyW → Instr, (∀ f s, exec (i f) s = issueWord (i f) f.g f.lit [] s (fun _ => true) fun e => e.tier f) → tier i := by
    intro i hi f s e x h hs hf hx
    rw [hi]
    exact ⟨fun hv => issueWord_done h (Env.tier_request hs hf hx hv), fun hv segs srcs t hp ht => issueWord_done h (Env.tier_image hs hf hx hv hp ht)⟩
  exact ⟨htier .cpytProm fun _ _ => rfl, htier .cpytEvct fun _ _ => rfl, htier .cpytScr fun _ _ => rfl, htier .cpytGlb fun _ _ => rfl⟩

/-! ## WAITT, TQRY and CPYC (R242 to R245) -/

/-- A copy that CPYC may cancel: a copy of an object's image until it ends, every other copy (R245). -/
def OpK.cancels (k : OpK) : Bool := match k with | .tier _ v ph _ _ _ _ => 2 ≤ v && ph < 3 | k => k.isCopy
theorem OpK.cancels_eq (k : OpK) : k.cancels = match k with | .tier _ v ph _ _ _ _ => decide (2 ≤ v ∧ ph < 3) | k => k.isCopy := by
  cases k with
  | tier => exact (Bool.decide_and ..).symm
  | _ => rfl

theorem waitt_answers {f : AsyW} {s : State} {e : Env} (h : readyWord (.waitt f) f.g f.lit [] (fun _ => true) s = some e) :
    (e.any = false ∨ e.wp.slotBusy f.v.toNat = false → exec (.waitt f) s = e.retires (.waitt f) e.s) ∧
    (e.any = true → e.wp.slotBusy f.v.toNat = true → e.s.sidHeld e.loc.d = false → exec (.waitt f) s =
      if reached (e.s.sid e.loc.d) (e.sreg f.s.toNat) then .next (e.s.missTransit e.bid e.w f.v.toNat f.s.toNat)
      else e.stands (e.setWarp fun wp => { wp with wait := some (.waitt f.v.toNat ((e.sreg f.s.toNat).setWidth 64)) })) := by
  rw [exec_waitt]
  unfold execWaitt
  rw [issueWord_ready h]
  refine ⟨fun hgo => ?_, fun hany hbusy hsid => ?_⟩
  · exact congrArg (e.finish _) (if_pos (by simpa using hgo))
  · refine (congrArg (e.finish _) ((if_neg (by simp [hany, hbusy])).trans (if_neg (by simp [hsid])))).trans ?_
    split <;> rfl

theorem tqry_answers {f : AsyW} {s : State} {e : Env} (h : readyWord (.tqry f) f.g f.lit [] (fun _ => true) s = some e) (hs : e.slotFree f.d = true) :
    let gone := e.wp.slotBusy f.v.toNat = false
    (e.slotRec f.v.toNat = none → exec (.tqry f) s = e.retires (.tqry f)
      (e.answered e.s f.d [(f.s.toNat, if gone then 1#32 else 0#32), (f.s.toNat + 1, 0#32)])) ∧
    (∀ r, e.slotRec f.v.toNat = some r → exec (.tqry f) s = e.retires (.tqry f) (e.answered e.s f.d
      [(f.s.toNat, BitVec.ofNat 32 ((if gone then 1 else 0) + 2 + (if r.st = 4 then 4 else 0) + (if r.late then 8 else 0) + (if r.rsm then 16 else 0)
          + (if r.st = 5 then 32 else 0))),
       (f.s.toNat + 1, if gone then BitVec.ofNat 32 r.done else r.prom.setWidth 32)])) := by
  intro gone
  rw [exec_tqry]
  unfold execTqry
  rw [issueWord_ready h, Env.slotted_free hs]
  refine ⟨fun hr => ?_, fun r hr => ?_⟩
  all_goals
    simp only [hr]
    by_cases hg : gone <;> simp [hg, gone] <;> rfl

theorem cpyc_answers {f : AsyW} {s : State} {e : Env} (h : readyWord (.cpyc f) f.g f.lit [] (fun _ => true) s = some e) (hs : e.slotFree f.d = true) :
    (e.slotOp f.v.toNat = none → exec (.cpyc f) s = e.retires (.cpyc f) (e.answered e.s f.d [(f.s.toNat, 0#32)])) ∧
    (∀ x, e.slotOp f.v.toNat = some x →
      (x.k.cancels = true → e.s.sidHeld x.d = false → exec (.cpyc f) s = e.retires (.cpyc f) (e.answered (e.s.cancelCopy x) f.d [(f.s.toNat, 1#32)])) ∧
      (x.k.cancels = false → exec (.cpyc f) s = e.retires (.cpyc f) (e.start e.s f.d (.cancel x.id) [(f.s.toNat, 0#32)]))) := by
  rw [exec_cpyc]
  unfold execCpyc
  rw [issueWord_ready h, Env.slotted_free hs]
  refine ⟨fun hn => ?_, fun x hx => ?_⟩
  · simp only [hn]
    rfl
  · simp only [hx]
    change (_ → _ → e.finish _ (if x.k.cancels && e.s.sidHeld x.d then .stall else if x.k.cancels then _ else _) = _) ∧
      (_ → e.finish _ (if x.k.cancels && e.s.sidHeld x.d then .stall else if x.k.cancels then _ else _) = _)
    exact ⟨fun hc hsid => by simp only [hc, hsid]; rfl, fun hc => by simp only [hc]; rfl⟩

theorem copyQueries : Spec.CopyQueries := by
  unfold Spec.CopyQueries
  refine ⟨fun f s e h => ?waitt, fun f s e h hs => tqry_answers h hs, fun f s e h hs => ?cpyc⟩
  case waitt =>
    obtain ⟨hgo, hwait⟩ := waitt_answers h
    refine ⟨hgo, fun hany hbusy hsid => ?_⟩
    rw [hwait hany hbusy hsid, ← reached_iff]
    exact ⟨fun hlate => if_pos hlate, fun hlate => if_neg hlate⟩
  case cpyc =>
    obtain ⟨hnone, hsome⟩ := cpyc_answers h hs
    refine ⟨hnone, fun x hx => ?_⟩
    intro may
    rw [show may = x.k.cancels from (OpK.cancels_eq x.k).symm]
    exact hsome x hx

/-! ## The words of a record (R228) -/

/-- A number cut at a bit and put together again. -/
theorem ofNat_div_append_ofNat (m n x : Nat) : BitVec.ofNat m (x / 2 ^ n) ++ BitVec.ofNat n x = BitVec.ofNat (m + n) x := by
  refine BitVec.eq_of_getLsbD_eq fun i hi => ?_
  rw [BitVec.getLsbD_append]
  split
  case isTrue hn => simp only [BitVec.getLsbD_ofNat, hn, hi]
  case isFalse hn =>
    have hm : i - n < m := by omega
    have hcut : i - n + n = i := by omega
    simp only [BitVec.getLsbD_ofNat, Nat.testBit_div_two_pow, hm, hi, hcut]

/-- A pointer is put together of the three words it is cut into, a tick of its two. -/
theorem words_append_three {n : Nat} (x : BitVec n) :
    BitVec.ofNat 32 (x.toNat / 2 ^ (32 * 2)) ++ BitVec.ofNat 32 (x.toNat / 2 ^ (32 * 1)) ++ BitVec.ofNat 32 (x.toNat / 2 ^ (32 * 0)) = x.setWidth 96 := by
  have hcut : x.toNat / 2 ^ (32 * 2) = x.toNat / 2 ^ 32 / 2 ^ 32 := by rw [Nat.div_div_eq_div_mul]; rfl
  rw [hcut, Nat.mul_one, ofNat_div_append_ofNat, Nat.mul_zero, pow_zero, Nat.div_one, ofNat_div_append_ofNat, BitVec.ofNat_toNat]
theorem words_append_two (x : BitVec 64) : BitVec.ofNat 32 (x.toNat / 2 ^ (32 * 1)) ++ BitVec.ofNat 32 (x.toNat / 2 ^ (32 * 0)) = x := by
  rw [Nat.mul_zero, pow_zero, Nat.div_one, Nat.mul_one, ofNat_div_append_ofNat, BitVec.ofNat_toNat, BitVec.setWidth_eq]

theorem CopyRec.words_head (r : CopyRec) (k : Nat) (hop : r.op < 256) (hv : r.v < 8) (hds : r.ds < 7) (hw : r.w < 16) (hord : r.ord < 8)
    (hscp : r.scp < 4) (hst : r.st < 8) (hk : k < 4) : ((r.words k).getD 0 0#32).toNat = r.op + 2 ^ 8 * r.v + 2 ^ 11 * r.ds + 2 ^ 14 * k + 2 ^ 16 * r.w +
      2 ^ 20 * r.ord + 2 ^ 23 * r.scp + 2 ^ 25 * r.st + 2 ^ 28 * (if r.rsm then 1 else 0) := by
  unfold CopyRec.words
  simp only [List.getD_cons_zero, Nat.mul_zero, pow_zero, Nat.div_one, BitVec.toNat_ofNat]
  split <;> omega

theorem copyRecordWords : Spec.CopyRecordWords := by
  unfold Spec.CopyRecordWords
  intro r k hop hv hds hw hord hscp hst hk w f
  have hhead : (w 0).toNat = _ := r.words_head k hop hv hds hw hord hscp hst hk
  have hrsm : (if r.rsm then 1 else 0) < 2 := by split <;> decide
  simp only [f, hhead]
  generalize (if r.rsm then 1 else 0) = m at *
  refine ⟨rfl, ?_, ?_, ?_, ?_, ?_, ?_, ?_, ?_, ?_, ?_, rfl, words_append_three r.dst, words_append_three r.src, rfl, rfl,
    words_append_two r.prom, words_append_two r.iss, rfl, rfl⟩ <;> omega

/-- Settles O34: the words that copy, those that ask about a copy, and the record they leave. -/
theorem copyEngineComplete : Obligations.CopyEngineComplete := ⟨copyWords, copyQueries, copyRecordWords⟩

end Sys2Proof.Machine
end

-- ==== The events of copies, multicast groups and tier objects (O45) ====
section
/-! PROOF. The events of copies, multicast groups and tier objects: what each answers from the conditions on the state that let it act (R235, R237 to R240,
R246, R247, R354 to R357). What a late joiner missed is sent or refused where nothing holds up the slice's reads, since a read holds up none
after it. -/

namespace Sys2Proof.Machine

/-! ## Multicast groups (R237 to R239) -/

/-- The tuple by which a request finds its group while sectors are still to be sent (R238). -/
def Mcast.takes (m : Mcast) (pages : List Nat) (n : Nat) (key : Word) (scp : Nat) : Bool :=
  m.pages = pages && m.n = n && m.key = key && m.scp = scp && m.sent < n / 64

/-- A group of that tuple that operation `o` has just opened. -/
def Mcast.opened (pages : List Nat) (n : Nat) (key : Word) (scp o : Nat) : Mcast :=
  { pages := pages, n := n, key := key, scp := scp, members := [o], late := [], age := 0, closed := false, sent := 0, pins := [] }

/-- A number above every key of a map is free. -/
theorem mfind_of_lt {α : Type} {m : AMap α} {j : Nat} (h : ∀ p ∈ m, p.1 < j) : mfind m j = none := by
  induction m with
  | nil => rfl
  | cons p m ih =>
    obtain ⟨k, v⟩ := p
    obtain ⟨hk, hm⟩ := List.forall_mem_cons.1 h
    unfold mfind
    rw [if_neg (Nat.ne_of_lt hk), ih hm]
theorem le_foldl_max_of_mem {l : List Nat} {a : Nat} (h : a ∈ l) : a ≤ l.foldl max 0 := by
  simpa only [List.max?_cons', Option.getD_some] using List.le_max?_getD_of_mem (k := 0) (List.mem_cons_of_mem 0 h)

/-- Request `x` has entered group `g`, its record in state `st`: 2 for a late joiner. -/
def State.joined (t : State) (x : Op) (k : OpK) (st : Nat) : State :=
  (t.setOp { x with k := k }).updCopyRec x fun r => { r with st := st, late := r.late || st = 2 }

section
variable {s : State} {o : Nat} {x : Op} {h n ord scp : Nat} {pages : List Nat} {key : Word} {p : Tick} {gs : List Seg} {got : AMap (List Byte)}
  (hx : s.op o = some x) (hk : x.k = .mcast h none pages n key ord scp p gs got) (hgo : ∀ go, s.copyGo x ord scp go = go)
include hx hk hgo

/-- A request joins the group of its tuple, as a member of the window while that is open, and late after it. -/
theorem cpymRequestArrival_joins {g : Nat} {m : Mcast} (hg : (s.dom h).mcasts.find? (fun q => q.2.takes pages n key scp) = some (g, m)) :
    exec (.cpymRequestArrival o) s =
      if m.age < 64 && !m.closed then
        .next (State.joined (s.updMcast h g fun m => { m with members := m.members ++ [o] }) x (.mcast h (some g) pages n key ord scp p gs got) 1)
      else .next (State.joined (s.updMcast h g fun m => { m with members := m.members ++ [o], late := m.late ++ [(o, m.sent)] }) x
        (.mcast h (some g) pages n key ord scp p gs got) 2) := by
  unfold Mcast.takes at hg
  rw [exec_cpymRequestArrival]
  unfold execCpymRequestArrival
  simp only [hx, hk, hgo, hg]
  rfl

/-- Without such a group it opens one. -/
theorem cpymRequestArrival_opens (hg : (s.dom h).mcasts.find? (fun q => q.2.takes pages n key scp) = none) : ∃ g, mfind (s.dom h).mcasts g = none ∧
    exec (.cpymRequestArrival o) s = .next (State.joined (s.updDom h fun y => { y with mcasts := mput y.mcasts g (Mcast.opened pages n key scp o) }) x
      (.mcast h (some g) pages n key ord scp p gs got) 1) := by
  unfold Mcast.takes at hg
  refine ⟨((s.dom h).mcasts.map (·.1 + 1)).foldl max 0, ?_, ?_⟩
  · exact mfind_of_lt fun p hp => le_foldl_max_of_mem (List.mem_map_of_mem (f := (·.1 + 1)) hp)
  · rw [exec_cpymRequestArrival]
    unfold execCpymRequestArrival
    simp only [hx, hk, hgo, hg]
    rfl
end

theorem multicastWindowClose_closes {s : State} {d i : Nat} {m : Mcast} (hm : mfind (s.dom d).mcasts i = some m) (hage : 64 ≤ m.age)
    (hopen : m.closed = false) : exec (.multicastWindowClose d i) s = .next (s.updMcast d i fun m => { m with closed := true }) := by
  rw [exec_multicastWindowClose]
  unfold execMulticastWindowClose
  rw [hm]
  exact if_pos (by simp [hage, hopen])

section
variable {s : State} {d i y k : Nat} {m : Mcast} {rest : List (Nat × Nat)} {pins : List (Nat × Bool)}
  (hm : mfind (s.dom d).mcasts i = some m) (hsent : m.n / 64 ≤ m.sent) (hlate : m.late = (y, k) :: rest)
include hm hsent hlate

theorem lateJoinerResend_resends {t : State} (hr : s.resend d y m.pages 0 k m.pins k = (.ok t, pins)) :
    exec (.lateJoinerResend d i) s = .next ((t.updMcast d i fun m => { m with late := rest, pins := pins }).closeGroup d i) := by
  rw [exec_lateJoinerResend]
  unfold execLateJoinerResend
  simp only [hm, hlate, hr]
  exact if_neg (Nat.not_lt.2 hsent)

theorem lateJoinerResend_refused {pa : Nat} (hr : s.resend d y m.pages 0 k m.pins k = (.refused pa, pins)) :
    exec (.lateJoinerResend d i) s = .next (s.refuse (.slice d) pa) := by
  rw [exec_lateJoinerResend]
  unfold execLateJoinerResend
  simp only [hm, hlate, hr]
  exact if_neg (Nat.not_lt.2 hsent)
end

/-! ## What holds a request up (R212, R216) -/

/-- What a request waits for: pool links that are down, domains without power, retries still to be made. -/
def State.holdups (s : State) : List Nat × (Nat → Bool) × List Retry := (s.svc.poolDown, fun d => (s.dom d).uoff, s.retries)

/-- A change of a domain that leaves it its power. -/
theorem State.updDom_holdups {s : State} {d : Nat} {f : Domain → Domain} (hf : (f (s.dom d)).uoff = (s.dom d).uoff) :
    (s.updDom d f).holdups = s.holdups := by
  have hoff : (fun k => ((s.updDom d f).dom k).uoff) = fun k => (s.dom k).uoff := by
    funext k
    rw [State.dom_updDom]
    split
    · rename_i hk; rw [hk, hf]
    · rfl
  unfold State.holdups
  rw [hoff]
  rfl
@[simp] theorem State.updCore_holdups (s : State) (d a : Nat) (f : Core → Core) : (s.updCore d a f).holdups = s.holdups := rfl
@[simp] theorem State.setL1_holdups (s : State) (d sec : Nat) (e : Option L1Sec) : (s.setL1 d sec e).holdups = s.holdups := State.updDom_holdups rfl
@[simp] theorem State.touch_holdups (s : State) (sec : Nat) : (s.touch sec).holdups = s.holdups := by
  unfold State.touch; split <;> rfl
@[simp] theorem State.invalidate_holdups (s : State) (sec d : Nat) (t : Bool) (o : Option Nat) : (s.invalidate sec d t o).holdups = s.holdups := by
  unfold State.invalidate; split <;> rfl
@[simp] theorem State.homeUpdated_holdups (s : State) (sec : Nat) (old : List Byte) (sys : Bool) : (s.homeUpdated sec old sys).holdups = s.holdups := by
  unfold State.homeUpdated; dsimp only; split <;> rfl
@[simp] theorem State.l1Forget_holdups (s : State) (d : Nat) (k : Option Nat) (sec : Nat) : (s.l1Forget d k sec).holdups = s.holdups := by
  unfold State.l1Forget State.onL1s; exact foldl_keeps State.holdups _ (fun _ _ => State.updCore_holdups ..) _ s
@[simp] theorem State.l1WriteBack_holdups (s : State) (d sec : Nat) : (s.l1WriteBack d sec).holdups = s.holdups := by
  unfold State.l1WriteBack; split <;> simp
@[simp] theorem State.l1Recall_holdups (s : State) (d sec : Nat) : (s.l1Recall d sec).holdups = s.holdups := by
  unfold State.l1Recall; repeat' split
  all_goals simp
@[simp] theorem State.homeServe_holdups (s : State) (d sec : Nat) : (s.homeServe d sec).holdups = s.holdups := by
  unfold State.homeServe; dsimp only; split <;> simp

/-- No pool link, power or retry holds up what the slice of domain `d` asks of the homes of addresses `A`. -/
structure State.SliceGoesOn (s : State) (d : Nat) (A : Nat → Prop) : Prop where
  reachable : ∀ pa, A pa → s.unreachable pa = false
  noRetry : ∀ r ∈ s.retries, r.q ≠ .slice d

theorem State.unreachable_congr {s t : State} (hp : t.svc.poolDown = s.svc.poolDown) (hu : ∀ d, (t.dom d).uoff = (s.dom d).uoff) (pa : Nat) :
    t.unreachable pa = s.unreachable pa := by
  unfold State.unreachable
  rw [hp]
  simp only [hu]

theorem State.SliceGoesOn.of_holdups {s t : State} {d : Nat} {A : Nat → Prop} (h : s.SliceGoesOn d A) (ht : t.holdups = s.holdups) :
    t.SliceGoesOn d A := by
  obtain ⟨hu, hr⟩ := h
  unfold State.holdups at ht
  simp only [Prod.mk.injEq] at ht
  obtain ⟨hdown, hoff, hretries⟩ := ht
  refine ⟨fun pa hpa => ?_, hretries ▸ hr⟩
  rw [State.unreachable_congr hdown (congrFun hoff), hu pa hpa]

/-- Being served leaves no more retries than there were. -/
theorem State.SliceGoesOn.served {s : State} {d : Nat} {A : Nat → Prop} (h : s.SliceGoesOn d A) (q : Asker) (pa : Nat) : (s.served q pa).SliceGoesOn d A := by
  obtain ⟨hu, hr⟩ := h
  unfold State.served
  dsimp only
  split
  · exact ⟨hu, fun r hmem => hr r (List.mem_of_mem_filter hmem)⟩
  · exact ⟨hu, hr⟩

theorem State.SliceGoesOn.backing {s : State} {d : Nat} {A : Nat → Prop} (h : s.SliceGoesOn d A) (pa : Nat) : s.backing (.slice d) pa = false := by
  have hnone : s.retry (.slice d) pa = none := List.find?_eq_none.2 fun r hmem => by simp [h.noRetry r hmem]
  unfold State.backing
  rw [hnone]
  rfl

/-- Such a request is refused or answered, and the next is held up as little. -/
theorem State.SliceGoesOn.readSector {s : State} {d : Nat} {A : Nat → Prop} (h : s.SliceGoesOn d A) (pins : List (Nat × Bool)) (wide : Bool) {pa : Nat}
    (hpa : A pa) : (∃ q, s.readSector (.slice d) d pins wide (.glob pa) = .refused q) ∨
      ∃ bs ps t, s.readSector (.slice d) d pins wide (.glob pa) = .ok bs ps t ∧ t.SliceGoesOn d A := by
  unfold State.readSector
  dsimp only
  generalize s.tileRead pins pa = tile
  obtain _ | ⟨p, ps⟩ := tile
  all_goals
    simp only [h.reachable pa hpa, h.backing, Bool.or_self, Bool.false_eq_true, if_false]
    split
    · exact .inl ⟨_, rfl⟩
    · exact .inr ⟨_, _, _, rfl, (h.of_holdups (State.homeServe_holdups ..)).served _ _⟩

/-- So the sectors a late joiner missed are sent, or the home of one refuses (R239). -/
theorem State.SliceGoesOn.resend {s : State} {d : Nat} {pages : List Nat} (h : s.SliceGoesOn d fun pa => ∃ k, pa = sourceSector pages k) (o n : Nat)
    (fuel i : Nat) (pins : List (Nat × Bool)) :
    (∃ pa ps, s.resend d o pages i n pins fuel = (.refused pa, ps)) ∨ ∃ t ps, s.resend d o pages i n pins fuel = (.ok t, ps) := by
  induction fuel generalizing s i pins with
  | zero => exact .inr ⟨_, _, rfl⟩
  | succ fuel ih =>
    unfold State.resend
    split
    · exact .inr ⟨_, _, rfl⟩
    · obtain ⟨pa, hr⟩ | ⟨bs, ps, t, hr, ht⟩ := h.readSector pins true ⟨i, rfl⟩
      · rw [hr]; exact .inl ⟨_, _, rfl⟩
      · rw [hr]; exact ih (ht.of_holdups (t := t.receive o i bs) rfl) _ _

theorem lateJoinerResend_answers {s : State} {d i : Nat} {m : Mcast} (hm : mfind (s.dom d).mcasts i = some m) (hsent : m.n / 64 ≤ m.sent)
    (hlate : m.late ≠ []) (hu : ∀ k, s.unreachable (sourceSector m.pages k) = false) (hr : ∀ r ∈ s.retries, r.q ≠ .slice d) :
    ∃ t, exec (.lateJoinerResend d i) s = .next t := by
  obtain ⟨⟨y, k⟩, rest, hrest⟩ := List.exists_cons_of_ne_nil hlate
  have hgo : s.SliceGoesOn d fun pa => ∃ k, pa = sourceSector m.pages k := ⟨fun pa ⟨k, hpa⟩ => hpa ▸ hu k, hr⟩
  obtain ⟨pa, ps, h⟩ | ⟨t, ps, h⟩ := hgo.resend y k k 0 m.pins
  · exact ⟨_, lateJoinerResend_refused hm hsent hrest h⟩
  · exact ⟨_, lateJoinerResend_resends hm hsent hrest h⟩

/-! ## The segments of one destination sector (R235, R240, R246, R247) -/

/-- Segments of one sector may be written: none is held up, and no home refuses one (R212). -/
def State.MayWrite (s : State) (x : Op) (shd : Bool) (scp : Nat) (gs : List Seg) : Prop :=
  gs ≠ [] ∧ ∀ g ∈ gs, s.copyBlocked x shd (g.scp scp) g.dst = false ∧ s.copyRefused x shd (g.scp scp) g.dst = none

theorem State.MayWrite.passes {s : State} {x : Op} {shd : Bool} {scp : Nat} {gs : List Seg} (h : s.MayWrite x shd scp gs) (stall go : Out)
    (refuse : Nat → Out) : (if gs.isEmpty || gs.any (fun g => s.copyBlocked x shd (g.scp scp) g.dst) then stall
      else match gs.findSome? fun g => s.copyRefused x shd (g.scp scp) g.dst with
        | some pa => refuse pa
        | none => go) = go := by
  obtain ⟨hne, hall⟩ := h
  have hfree : gs.any (fun g => s.copyBlocked x shd (g.scp scp) g.dst) = false := List.any_eq_false.2 fun g hg => by simp [(hall g hg).1]
  have hserved : (gs.findSome? fun g => s.copyRefused x shd (g.scp scp) g.dst) = none := List.findSome?_eq_none_iff.2 fun g hg => (hall g hg).2
  rw [hfree, hserved]
  exact if_neg (by simpa using hne)

/-- A copy writes the shadow buffer of a tile that its own reads are pinned to (R331). -/
def State.writesOwnTile (s : State) (x : Op) (shd : Bool) (gs : List Seg) : Bool := gs.any fun g => match g.dst with
  | .glob pa => (match (if shd then s.shadowOf pa else none) with | some (_, key, buf) => x.pins.contains (key, buf) | none => false)
  | _ => false

/-- The segments whose destination lies in the sector of a place, and those that are left. -/
def segsAt (pl : Place) (segs : List Seg) : List Seg := segs.filter fun g => g.dst.sector = pl.sector
def segsOff (pl : Place) (segs : List Seg) : List Seg := segs.filter fun g => g.dst.sector != pl.sector

section
variable {s : State} {o : Nat} {x : Op} {pl : Place} {scp : Nat} {segs : List Seg} (hx : s.op o = some x)
include hx

/-- The release of a copy's first write answers before it (R235). -/
theorem copySectorWrite_releases {t : State} {ord : Nat} {shd : Bool} {got : List (Place × List Byte)} (hk : x.k = .copy ord scp shd segs got)
    (hgo : ∀ go, s.copyGo x ord (segsScp scp segs) go = .next t) : exec (.copySectorWrite o pl) s = .next t := by
  rw [exec_copySectorWrite]
  unfold execCopySectorWrite
  simp only [hx, hk]
  exact hgo _

theorem copySectorWrite_copy {t : State} {x' : Op} {ord : Nat} {shd : Bool} {got got' : List (Place × List Byte)}
    (hk : x.k = .copy ord scp shd segs got) (hgo : ∀ go, s.copyGo x ord (segsScp scp segs) go = go) (hmay : s.MayWrite x shd scp (segsAt pl segs))
    (hg : s.gather x got (if s.writesOwnTile x shd (segsAt pl segs) then segs else segsAt pl segs) = .ok got' x' t) :
    exec (.copySectorWrite o pl) s =
      .next (t.sectorDone (if segs.all fun g => got'.any (·.1 = g.src.sector) then { x' with pins := [] } else x') shd scp
        ((segsAt pl segs).map fun g => (g, g.bytes (((got'.find? fun p => p.1 = g.src.sector).map (·.2)).getD [])))
        (.copy ord scp shd (segsOff pl segs) got')) := by
  rw [exec_copySectorWrite]
  unfold execCopySectorWrite
  simp only [hx, hk, hgo]
  refine (hmay.passes ..).trans ?_
  split <;> rename_i hgather <;> cases hg.symm.trans hgather
  rfl

/-- A member of a group writes what has been sent to it (R238). -/
theorem copySectorWrite_mcast {h g n ord : Nat} {pages : List Nat} {key : Word} {p : Tick} {got : AMap (List Byte)}
    (hk : x.k = .mcast h (some g) pages n key ord scp p segs got) (hmay : s.MayWrite x false scp (segsAt pl segs))
    (hgot : ∀ q ∈ segsAt pl segs, (mfind got (q.src.off / 64)).isSome = true) : exec (.copySectorWrite o pl) s =
      .next (s.sectorDone x false scp ((segsAt pl segs).map fun q => (q, q.bytes ((mfind got (q.src.off / 64)).getD [])))
        (.mcast h (some g) pages n key ord scp p (segsOff pl segs) got)) := by
  rw [exec_copySectorWrite]
  unfold execCopySectorWrite
  simp only [hx, hk]
  exact (if_pos (by rw [List.all_map]; exact List.all_eq_true.2 hgot)).trans (hmay.passes ..)

/-- A copy of an object's image reads it at T1 (R240). -/
theorem copySectorWrite_image {t : State} {i v ord : Nat} {got got' : List (Place × List Byte)} (hk : x.k = .tier i v 2 ord scp segs got)
    (hgo : ∀ go, s.copyGo x ord (segsScp scp segs) go = go) (hmay : s.MayWrite x false scp (segsAt pl segs))
    (hg : s.imageSectors x ((s.dom x.d).obj i).asid got ((segsAt pl segs).flatMap ((s.dom x.d).obj i).srcSectors) = .ok got' t) :
    exec (.copySectorWrite o pl) s = .next (t.sectorDone x false scp ((segsAt pl segs).map fun g => (g, ((s.dom x.d).obj i).segBytes got' g))
      (.tier i v 2 ord scp (segsOff pl segs) got')) := by
  rw [exec_copySectorWrite]
  unfold execCopySectorWrite
  simp only [hx, hk, hgo]
  refine (hmay.passes ..).trans ?_
  split <;> rename_i himage <;> cases hg.symm.trans himage
  rfl
end

/-- How a copy with no write left ends: the state its record takes, and whether it drops the pin of an object (R235, R240, R357). -/
theorem copyCompletion_ends {s : State} {o : Nat} {x : Op} (hx : s.op o = some x) (hsid : s.sidHeld x.d = false) :
    (∀ ord scp shd got, x.k = .copy ord scp shd [] got → exec (.copyCompletion o) s = .next (s.endCopy x 3)) ∧
    (∀ h g pages n key ord scp p got, x.k = .mcast h (some g) pages n key ord scp p [] got → exec (.copyCompletion o) s = .next (s.endCopy x 3)) ∧
    (∀ i v ord scp got, x.k = .tier i v 2 ord scp [] got → exec (.copyCompletion o) s = .next ((s.unpin x.d i).endCopy x 3)) ∧
    (∀ i v ord scp segs got, x.k = .tier i v 3 ord scp segs got → exec (.copyCompletion o) s = .next (s.endCopy x 3)) ∧
    (∀ i v ord scp segs got, x.k = .tier i v 4 ord scp segs got → exec (.copyCompletion o) s = .next (s.endCopy x 5)) := by
  rw [exec_copyCompletion]
  unfold execCopyCompletion
  simp only [hx, hsid]
  refine ⟨?_, ?_, ?_, ?_, ?_⟩
  all_goals intros; simp only [*]; rfl

/-! ## Promotions and evictions (R354 to R357) -/

/-- The better of two queued promotions: the one of the lesser layer, of equals the earlier (R356). -/
def Domain.leastLayer (x : Domain) (m : Option Nat) (p : Nat × Nat) : Option Nat := match m with
  | none => some p.1
  | some i => if (x.obj p.1).layer < (x.obj i).layer then some p.1 else some i

/-- The choice among queued promotions is one of them, and none has a lesser layer. -/
theorem Domain.foldl_leastLayer (x : Domain) (p : Nat × Nat) (q : List (Nat × Nat)) : ∃ j, q.foldl x.leastLayer (some p.1) = some j ∧
    (∃ n, (j, n) ∈ p :: q) ∧ ∀ r ∈ p :: q, (x.obj j).layer ≤ (x.obj r.1).layer := by
  induction q generalizing p with
  | nil => exact ⟨p.1, rfl, ⟨p.2, List.mem_cons_self⟩, by simp⟩
  | cons r q ih =>
    rw [List.foldl_cons, Domain.leastLayer]
    split
    case isTrue hlt =>
      obtain ⟨j, hj, ⟨n, hn⟩, hall⟩ := ih r
      exact ⟨j, hj, ⟨n, List.mem_cons_of_mem _ hn⟩, List.forall_mem_cons.2 ⟨(hall r List.mem_cons_self).trans hlt.le, hall⟩⟩
    case isFalse hge =>
      obtain ⟨j, hj, ⟨n, hn⟩, hall⟩ := ih p
      obtain ⟨hp, hq⟩ := List.forall_mem_cons.1 hall
      exact ⟨j, hj, ⟨n, List.cons_subset_cons _ (List.subset_cons_self ..) hn⟩,
        List.forall_mem_cons.2 ⟨hp, List.forall_mem_cons.2 ⟨hp.trans (Nat.not_lt.1 hge), hq⟩⟩⟩

theorem promotionServe_serves {s : State} {d : Nat} (hrun : (s.dom d).promrun.length < 4) (haged : (s.dom d).agedPromotion = none)
    (hq : (s.dom d).promq ≠ []) : ∃ j, (∃ n, (j, n) ∈ (s.dom d).promq) ∧
      (∀ p ∈ (s.dom d).promq, ((s.dom d).obj j).layer ≤ ((s.dom d).obj p.1).layer) ∧ exec (.promotionServe d) s = .next (s.servePromotion d j) := by
  obtain ⟨p, q, hpq⟩ := List.exists_cons_of_ne_nil hq
  obtain ⟨j, hj, hmem, hleast⟩ := (s.dom d).foldl_leastLayer p q
  have hbest : (s.dom d).promq.foldl (s.dom d).leastLayer none = some j := by rw [hpq]; exact hj
  refine ⟨j, hpq ▸ hmem, hpq ▸ hleast, ?_⟩
  rw [exec_promotionServe]
  refine (if_neg (by simp [hrun, haged])).trans ?_
  split <;> rename_i hfold <;> cases hbest.symm.trans hfold
  rfl

theorem promotionAging_serves {s : State} {d j : Nat} (hrun : (s.dom d).promrun.length < 4) (haged : (s.dom d).agedPromotion = some j) :
    exec (.promotionAging d) s = .next (s.servePromotion d j) := by
  rw [exec_promotionAging]
  unfold execPromotionAging
  rw [haged]
  exact if_neg (Nat.not_le.2 hrun)

/-- Object `i`'s promotion runs no longer. -/
def State.promotionOff (s : State) (d i : Nat) : State := s.updDom d fun x => { x with promrun := x.promrun.filter (· != i) }

theorem promotionDone_resident {s t : State} {d i : Nat} (hrun : (s.dom d).promrun.contains i = true) (hsid : s.sidHeld d = false)
    (hmove : ((s.dom d).obj i).move s d true = .ok t) :
    exec (.promotionDone d i) s = .next (((t.promotionOff d i).updObj d i fun y => { y with st := 1, tres := t.sid d }).settleObj d i) := by
  rw [exec_promotionDone]
  unfold execPromotionDone
  simp only [hrun, hsid, hmove]
  rfl

/-- What an eviction leaves: the object ABSENT, the requests for it done, a promotion queued behind it requested. -/
def State.evicted (s : State) (d i : Nat) (requeue : Bool) : State :=
  let t := s.updObj d i fun y => { y with st := 0, prq := false }
  let t := (t.tierOps d i 1).foldl (fun t x => t.tierPhase x 3) t
  if requeue then t.requestPromotion d i else t

/-- An object with its bytes to be written back is moved first. -/
theorem objectEvictionDone_absent {s t : State} {d i : Nat} (hst : ((s.dom d).obj i).st = 3)
    (hmove : (if ((s.dom d).obj i).wb then ((s.dom d).obj i).move s d false else .ok s) = .ok t) :
    exec (.objectEvictionDone d i) s = .next (t.evicted d i ((s.dom d).obj i).prq) := by
  rw [exec_objectEvictionDone]
  unfold execObjectEvictionDone
  simp only [hst, hmove]
  rfl

theorem objectTableWrite_writes {s : State} {d i k : Nat} (v : Word) (hd : d < 64) (hi : i < 16384) (hk : k < 16) :
    exec (.objectTableWrite d i k v) s = .next ((s.updObj d i fun y => y.write [(k, v)]).seqRecheckAll d) := by
  rw [exec_objectTableWrite]
  exact if_neg (by simp [hd, hi, hk])

/-- Settles O45, one lemma per event. -/
theorem copyEventsComplete : Obligations.CopyEventsComplete := by
  unfold Obligations.CopyEventsComplete
  intro s o d i
  refine ⟨fun x h pages n key ord scp p gs got hx hk hgo => ?arrival, fun m hm => ⟨fun hage hopen => multicastWindowClose_closes hm hage hopen,
      fun y k rest pins t hsent hlate hr => lateJoinerResend_resends hm hsent hlate hr, lateJoinerResend_answers hm⟩,
    fun x segs pl scp hx => ?sector, fun x hx hsid => copyCompletion_ends hx hsid,
    fun hrun => ⟨promotionServe_serves hrun, fun j => promotionAging_serves hrun⟩,
    fun t hrun hsid hmove => promotionDone_resident hrun hsid hmove, fun hst hwb => ?evicted, fun t hst hwb hmove => ?moved,
    fun k v hd hi hk => objectTableWrite_writes v hd hi hk⟩
  case arrival =>
    refine ⟨fun g m hg hage hopen => ?_, fun g m hg hlate => ?_, fun hg => cpymRequestArrival_opens hx hk hgo hg⟩
    · exact (cpymRequestArrival_joins hx hk hgo hg).trans (if_pos (by simp [hage, hopen]))
    · refine (cpymRequestArrival_joins hx hk hgo hg).trans (if_neg ?_)
      simpa using fun hage => hlate.resolve_left (Nat.not_le.2 hage)
  case sector =>
    exact ⟨fun ord shd got hk => ⟨fun t hgo => copySectorWrite_releases hx hk hgo, fun got' x' t hgo hmay hg => copySectorWrite_copy hx hk hgo hmay hg⟩,
      fun h g pages n key ord p got hk hmay hgot => copySectorWrite_mcast hx hk hmay hgot,
      fun i v ord got got' t hk hgo hmay hg => copySectorWrite_image hx hk hgo hmay hg⟩
  case evicted => exact objectEvictionDone_absent hst (by rw [hwb]; rfl)
  case moved => exact objectEvictionDone_absent hst (by rw [hwb]; exact hmove)

end Sys2Proof.Machine
end

-- ==== The words of the matrix engine (O27, O28) ====
section
/-! PROOF. The matrix words of one warp: each finds slot, engine and tile free and enters its operation, with what it does besides. The quartet
forms: a member that comes to issue where the three others stand with its word settles the rendezvous. -/

namespace Sys2Proof.Machine

/-! ## Words of one warp (R253, R254, R260) -/

/-- A whole warp's word that finds slot, engine and tile makes its own effect. -/
theorem Env.mtx_free {e : Env} {f : MtxW} {tile : Bool} {k : Env → Act} (hg : f.g = 7#3) (hrun : e.cl.run = e.wp.present) (hslot : e.slotFree f.d = true)
    (hroom : e.s.matrixFull e.loc.d e.loc.a = false) (htile : tile = true → f.t.toNat < rACCF e.blk.lrec) : e.mtx f tile k = k e := by
  have hacc : ¬ (tile && rACCF e.blk.lrec ≤ f.t.toNat) = true := by simpa using htile
  unfold Env.mtx
  rw [if_neg (by simp [Env.whole, hg, hrun]), Env.slotted_free hslot, if_neg (by simp [hroom]), if_neg hacc]

/-- With its conditions and `c`, the word of opcode `op` enters one operation with the operands captured at issue, and then makes `after`. -/
def MtxEnters (i : MtxW → Instr) (op : Nat) (tile : Bool) (c : Env → MtxW → Prop) (after : Env → MtxW → State → State) : Prop :=
  ∀ f s e, readyWord (i f) f.g (some f.lit) (mtxVs op f) (fun _ => true) s = some e → f.g = 7#3 → e.cl.run = e.wp.present → e.slotFree f.d = true →
    e.s.matrixFull e.loc.d e.loc.a = false → (tile = true → f.t.toNat < rACCF e.blk.lrec) → c e f →
    exec (i f) s = e.retires (i f) (after e f (e.start e.s f.d (.matrix op f.lit f.ar.toNat [e.blk.capture op f e.w f.t.toNat e.wp false]) []))

/-- A word's own effect `k` is that entry with `after` behind it. -/
theorem mtxEnters_of_effect {i : MtxW → Instr} {op : Nat} {tile : Bool} {c : Env → MtxW → Prop} {after : Env → MtxW → State → State} {k : MtxW → Env → Act}
    (hx : ∀ f s, exec (i f) s = issueMtx (i f) op f s fun e => e.mtx f tile (k f))
    (hk : ∀ (e : Env) f, c e f → ∀ t, e.mtxGo op f = .done t → k f e = .done (after e f t)) : MtxEnters i op tile c after := by
  intro f s e hready hg hrun hslot hroom htile hc
  have hgo : e.mtxGo op f = .done (e.start e.s f.d (.matrix op f.lit f.ar.toNat [e.blk.capture op f e.w f.t.toNat e.wp false]) []) := by
    unfold Env.mtxGo
    rw [(readyWord_ctx hready).1]
  rw [hx]
  exact issueWord_done hready ((Env.mtx_free hg hrun hslot hroom htile).trans (hk e f hc _ hgo))

/-- Words that only enter their operation. -/
theorem mtxEnters_only {i : MtxW → Instr} {op : Nat} {tile : Bool}
    (hx : ∀ f s, exec (i f) s = issueMtx (i f) op f s fun e => e.mtx f tile fun e => e.mtxGo op f) :
    MtxEnters i op tile (fun _ _ => True) fun _ _ t => t :=
  mtxEnters_of_effect hx fun _ _ _ _ hgo => hgo

/-- A pattern of bytes, and one of halves in the low word, can be used (R263). -/
theorem sparseBad_eq_none {lit : Word} {map : BitVec 64} (h : fmtByte (mFA lit) = true ∨ map.toNat < 2 ^ 32) : sparseBad lit map = none := by
  refine if_neg ?_
  rcases h with hbyte | hmap
  · simp [hbyte]
  · have hhigh : map.extractLsb' 32 32 = 0#32 := by
      apply BitVec.eq_of_toNat_eq
      rw [BitVec.extractLsb'_toNat, Nat.shiftRight_eq_div_pow, Nat.div_eq_of_lt hmap]
      rfl
    simp [hhigh]

/-- R263, R267: the pattern of MMSS is tested first. -/
theorem mmss_enters : MtxEnters .mmss 0xA5 true (fun e f => fmtByte (mFA f.lit) = true ∨ e.wp.spmMap.toNat < 2 ^ 32) fun _ _ t => t :=
  mtxEnters_of_effect (fun _ _ => rfl) fun e f hc t hgo => by
    rw [sparseBad_eq_none hc]
    exact hgo

/-- R271: ACCCV under stochastic rounding advances the generators of the lanes it has results for. -/
theorem acccv_enters : MtxEnters .acccv 0xAA true (fun _ _ => True) fun e f t =>
    if (f.lit.extractLsb' 22 2).toNat = 2 then
      t.updWarp e.bid e.w (fun wp => wp.updLanes (e.blk.resultLanes e.w) fun _ ln =>
        { ln with gen := advGenN ln.gen (if fmtByte (mFA f.lit) then 32 else 16) })
    else t :=
  mtxEnters_of_effect (fun _ _ => rfl) fun e f _ t hgo => by
    rw [hgo]
    by_cases hrnd : (f.lit.extractLsb' 22 2).toNat = 2
    · exact (if_neg (by simpa using hrnd)).trans (congrArg Act.done (if_pos hrnd).symm)
    · exact (if_pos (by simpa using hrnd)).trans (congrArg Act.done (if_neg hrnd).symm)

/-! R267 to R270: the words that only enter their operation. -/

theorem mms_enters : MtxEnters .mms 0xA4 true (fun _ _ => True) fun _ _ t => t := mtxEnters_only fun _ _ => rfl
theorem mmz_enters : MtxEnters .mmz 0xA6 true (fun _ _ => True) fun _ _ t => t := mtxEnters_only fun _ _ => rfl
theorem accmv_enters : MtxEnters .accmv 0xA7 true (fun _ _ => True) fun _ _ t => t := mtxEnters_only fun _ _ => rfl
theorem accld_enters : MtxEnters .accld 0xA8 true (fun _ _ => True) fun _ _ t => t := mtxEnters_only fun _ _ => rfl
theorem accsc_enters : MtxEnters .accsc 0xA9 true (fun _ _ => True) fun _ _ t => t := mtxEnters_only fun _ _ => rfl

/-- Register `r` of lane `L` as SPLD reads it: 0 in a lane of an absent quad (R16). -/
def Env.patWord (e : Env) (r L : Nat) : Word := if e.blk.absent e.w L then 0#32 else e.v r L
/-- SPLD's map, and the indices of its column `c` (R272). -/
def Env.patMap (e : Env) (f : MtxW) : BitVec 64 := e.patWord f.br.toNat 1 ++ e.patWord f.br.toNat 0
def Env.patIndex (e : Env) (f : MtxW) (c : Nat) : BitVec 16 := (e.patWord f.ar.toNat (c / 2)).extractLsb' (16 * (c % 2)) 16
/-- The columns of SPLD's map. -/
def Env.patCols (e : Env) (f : MtxW) : Nat := (List.range 64).countP (e.patMap f).getLsbD

/-- R263, R272: SPLD of a pattern each of whose index pairs rises replaces SPM. -/
theorem spld_enters : MtxEnters .spld 0xAB false
    (fun e f => ∀ c < e.patCols f, ∀ g < 4, ((e.patIndex f c).extractLsb' (4 * g) 2).toNat < ((e.patIndex f c).extractLsb' (4 * g + 2) 2).toNat)
    fun e f t => t.updWarp e.bid e.w fun wp =>
      { wp with spmMap := e.patMap f, spmIdx := (List.range (e.patCols f)).foldl (fun m c => mset 0#16 m c (e.patIndex f c)) [] } :=
  mtxEnters_of_effect (fun _ _ => rfl) fun e f hrise t hgo => by
    have hpass : (List.range (e.patCols f)).find? (fun c => (List.range 4).any fun g =>
        ((e.patIndex f c).extractLsb' (4 * g + 2) 2).toNat ≤ ((e.patIndex f c).extractLsb' (4 * g) 2).toNat) = none := by
      rw [List.find?_eq_none]
      intro c hc hany
      obtain ⟨g, hg, hle⟩ := List.any_eq_true.1 hany
      exact absurd (hrise c (List.mem_range.1 hc) g (List.mem_range.1 hg)) (Nat.not_lt.2 (of_decide_eq_true hle))
    rw [hgo]
    extract_lets v map n ix
    split
    case h_1 c hbad => cases hbad.symm.trans hpass
    case h_2 => rfl

/-- Settles O27, one lemma per word. -/
theorem oneWarpMatrixWordsComplete : Obligations.OneWarpMatrixWordsComplete := by
  unfold Obligations.OneWarpMatrixWordsComplete
  exact ⟨mms_enters, mmz_enters, accmv_enters, accld_enters, accsc_enters, mmss_enters, acccv_enters, spld_enters⟩

/-! ## Quartets (R261, R262, R266) -/

/-- A quartet form is the word of its fields, and its literal. -/
theorem encode_quartetForm {i : Instr} {f : MtxW} (h : mtxOf i = some f) :
    ∃ op : BitVec 8, op.toNat = i.opcode ∧ encode i = [mtxToWord op f, f.lit] := by
  cases i <;> cases h <;> exact ⟨_, rfl, rfl⟩

theorem opOf_mtxToWord (op : BitVec 8) (f : MtxW) : opOf (mtxToWord op f) = op.toNat :=
  congrArg BitVec.toNat (Laws.HeadWord.mtx_top op f)

/-- The register of MMQT's offset, as the rendezvous reads it from the word. -/
theorem offset_mtxToWord (op : BitVec 8) (f : MtxW) : ((mtxToWord op f).extractLsb' 2 4).toNat = f.br.toNat % 16 := by
  have hbr : (mtxToWord op f).extractLsb' 2 6 = f.br := congrArg MtxW.br (mtxOfWord_mtxToWord op f)
  rw [← hbr, BitVec.extractLsb'_toNat, BitVec.extractLsb'_toNat]
  omega

/-- Members with the words of one quartet form, and for MMQT with one offset, do not differ. -/
theorem Block.differing_eq_zero {x : Block} {q : Nat} {i : Instr} {f : MtxW} (hi : mtxOf i = some f)
    (hw : ∀ v ∈ quartetWarps q, x.quartetWords v = encode i)
    (hoff : i.opcode = 0xA3 → ∀ v ∈ quartetWarps q, (x.warp v).sreg (f.br.toNat % 16) = (x.warp (4 * q)).sreg (f.br.toNat % 16)) :
    x.differing (quartetWarps q) = 0 := by
  obtain ⟨op, hop, henc⟩ := encode_quartetForm hi
  have hfirst : (quartetWarps q).headD 0 = 4 * q := rfl
  unfold Block.differing
  dsimp only
  rw [hfirst, hw _ (mem_quartetWarps_first q), henc, List.headD_cons, opOf_mtxToWord, offset_mtxToWord, hop, List.filter_eq_nil_iff.2]
  · rfl
  · intro v hv
    rw [hw v hv, henc]
    by_cases h3 : i.opcode = 0xA3
    · simp [hoff h3 v hv]
    · simp [h3]

/-- A member as its quartet word finds it at issue: its clause has the word, and it has left its port for the rendezvous. -/
def State.quartetArrival (s : State) (i : Instr) (b w : Nat) (cl : Clause) : State :=
  (s.updWarp b w fun wp => { wp with rdv := true, clause := some { cl with ibuf := encode i ++ cl.ibuf.drop 2 } }).leavePort b w

/-- A quartet form at issue whose quartet is whole and stands is settled. -/
theorem issueQuartet_settles {i : Instr} {s u : State} {b w : Nat} {cl : Clause} (hf : s.focus = some (b, w)) (hc : ((s.block b).warp w).clause = some cl)
    (hwhole : (s.quartetArrival i b w cl).quartetBroken b (w / 4) = none)
    (ha : ∀ v ∈ quartetWarps (w / 4), ((s.quartetArrival i b w cl).block b).atQuartet v = true)
    (hu : (s.quartetArrival i b w cl).settle b (w / 4) = .next u) : issueQuartet i s = .next u := by
  unfold issueQuartet
  split
  case h_1 hnone => cases hf.symm.trans hnone
  case h_2 b' w' hfocus =>
    cases hf.symm.trans hfocus
    split
    case h_1 hnone => cases hc.symm.trans hnone
    case h_2 cl' hclause =>
      cases hc.symm.trans hclause
      extract_lets t q
      split
      case h_1 v hbroken => cases hwhole.symm.trans hbroken
      case h_2 =>
        rw [if_pos (show (quartetWarps q).all (t.block b).atQuartet = true from List.all_eq_true.2 ha)]
        split
        case h_1 v hv => exact hv.symm.trans hu
        case h_2 hno => exact absurd hu (hno u)

/-- Settles O28: the members pass the checks of the rendezvous, and it settles. -/
theorem quartetWordsComplete : Obligations.QuartetWordsComplete := by
  unfold Obligations.QuartetWordsComplete
  intro i f s b w cl hi hf hc
  extract_lets t x l q off
  intro hwhole hmember hroom himage
  have hwords : ∀ v ∈ quartetWarps q, x.quartetWords v = encode i := by
    intro v hv
    obtain ⟨-, -, -, -, c, hcl, htake, -⟩ := hmember v hv
    simp only [Block.quartetWords, hcl, htake]
  have hpasses : ∀ v ∈ quartetWarps q, x.MemberPasses i.opcode f v := by
    intro v hv
    obtain ⟨hat, hcheck, hslot, hbad, c, hcl, htake, hserve⟩ := hmember v hv
    obtain ⟨op, -, henc⟩ := encode_quartetForm hi
    have hlen : min 2 c.ibuf.length = 2 := by rw [← List.length_take, htake, henc]; rfl
    exact ⟨hat, hcheck, hslot, hbad, c, hcl, by omega, hserve⟩
  have hsame : x.differing (quartetWarps q) = 0 := Block.differing_eq_zero hi hwords fun h3 => (himage h3).2
  rw [exec_quartetForm hi, ← hwords _ (mem_quartetWarps_first q)]
  exact issueQuartet_settles hf hc hwhole (fun v hv => (hmember v hv).1) (settle_passes hpasses hsame hroom fun h3 => (himage h3).1)

end Sys2Proof.Machine
end

-- ==== The events of the matrix, drain, sequencer and umbra engines (O46) ====
section
/-! PROOF. The events of the matrix, drain, sequencer and umbra engines: what each answers from the conditions on the state that let it act. A drain
that releases does so before it takes its lines, and a cut leaves in its core the bank it wrote. -/

namespace Sys2Proof.Machine

/-! ## Matrix operations and drains (R258, R260, R280 to R282) -/

/-- The tiles or registers are written and the slots complete. -/
theorem matrixCompletion_applies {s : State} {o : Nat} {x : Op} {op dst : Nat} {lit : Word} {mems : List MtxMem} (ho : s.op o = some x)
    (hfree : s.tilesFree x = true) (hk : x.k = .matrix op lit dst mems) (st : Bool) : exec (.matrixCompletion o st) s =
      .next ((State.updBlock { s with fresh := if st then s.fresh + 1 else s.fresh } x.bid fun b =>
        b.matrix op lit dst (if st then some s.fresh else none) mems).completeOp x) := by
  rw [exec_matrixCompletion]
  unfold execMatrixCompletion
  simp only [ho, hk]
  exact if_pos hfree

/-- The addresses a drain asks of the homes of its sectors, and those of them whose lines it has not taken. -/
def State.drainAsked (s : State) (secs : List Place) : List Nat := secs.filterMap fun c => match c with | .glob pa => some (s.drainHome pa) | _ => none
def State.drainRest (s : State) (x : Op) (secs : List Place) : List Nat := (s.drainAsked secs).filter fun pa => !x.txn.contains (pa / 256)

/-- The lines of `l` are taken: a refused one is asked again, and otherwise `go`. -/
def State.takeLines (s : State) (q : Asker) (l : List Nat) (go : Out) : Out :=
  match l.find? fun pa => s.lineRefuses pa q with
  | some pa => .next (s.refuse q pa)
  | none => go

theorem State.takeLines_free {s : State} {q : Asker} {l : List Nat} (go : Out) (h : ∀ pa ∈ l, s.lineRefuses pa q = false) : s.takeLines q l go = go := by
  have hnone : l.find? (fun pa => s.lineRefuses pa q) = none := by simpa using h
  unfold State.takeLines
  rw [hnone]

/-- R212, R281: one home takes its lines at once, several one after the other. -/
theorem State.drainTake_eq (s : State) (x : Op) (secs : List Place) (go : Out) : s.drainTake x secs go =
    if ((s.drainAsked secs).map homeOf).eraseDups.length ≤ 1 then s.takeLines (.op x.id) (s.drainAsked secs) go
    else match ((s.drainRest x secs).map homeOf).min? with
      | none => go
      | some h =>
        let l := (s.drainRest x secs).filter (homeOf · = h)
        s.takeLines (.op x.id) l (.next ((l.foldl (fun s pa => s.served (.op x.id) pa) s).setOp { x with txn := x.txn ++ (l.map (· / 256)).eraseDups })) :=
  rfl

section
variable {s : State} {x : Op} {secs : List Place}

/-- At one home the lines are taken with the update. -/
theorem State.drainTake_oneHome (go : Out) (hone : ((s.drainAsked secs).map homeOf).eraseDups.length ≤ 1)
    (hasked : ∀ pa ∈ s.drainAsked secs, s.lineRefuses pa (.op x.id) = false) : s.drainTake x secs go = go := by
  rw [State.drainTake_eq, if_pos hone, State.takeLines_free go hasked]

/-- Of several homes all have their transactions open. -/
theorem State.drainTake_allTaken (go : Out) (hmany : 2 ≤ ((s.drainAsked secs).map homeOf).eraseDups.length) (hrest : s.drainRest x secs = []) :
    s.drainTake x secs go = go := by
  rw [State.drainTake_eq, if_neg (Nat.not_le.2 hmany), hrest]
  rfl

/-- Of several homes the lowest left opens its transaction (R281). -/
theorem State.drainTake_nextHome (go : Out) {h : Nat} (hmany : 2 ≤ ((s.drainAsked secs).map homeOf).eraseDups.length)
    (hmin : ((s.drainRest x secs).map homeOf).min? = some h) (hl : ∀ pa ∈ (s.drainRest x secs).filter (homeOf · = h), s.lineRefuses pa (.op x.id) = false) :
    s.drainTake x secs go = .next (
      let l := (s.drainRest x secs).filter (homeOf · = h)
      (l.foldl (fun s pa => s.served (.op x.id) pa) s).setOp { x with txn := x.txn ++ (l.map (· / 256)).eraseDups }) := by
  rw [State.drainTake_eq, if_neg (Nat.not_le.2 hmany), hmin]
  exact State.takeLines_free _ hl
end

section
variable {s : State} {o op reg tid : Nat} {x : Op} {lit : Word} {tile : Option Nat} {es : List DElem} (ho : s.op o = some x) (hfree : s.tilesFree x = true)
  (hk : x.k = .drain op lit reg tile tid es) (hes : es ≠ []) (hx : x.performed = false) (hmay : s.drainMay x lit es = true)
  (hblocked : ∀ p ∈ drainSectors es, s.drainBlocked x p = false)
include ho hfree hk hes hx hmay hblocked

/-- Where nothing holds it back, a drain with elements releases if it must and takes its lines. -/
theorem drainUpdateApply_takes : exec (.drainUpdateApply o) s =
    (let go := s.drainTake x (drainSectors es) (.next (s.drainApply x op lit reg tile tid es))
     if ordRel (litOrd lit) && 2 ≤ drainScope lit es then s.releasing x (drainScope lit es = 3) go else go) := by
  have hsecs : (drainSectors es).any (s.drainBlocked x) = false := by simpa using hblocked
  rw [exec_drainUpdateApply]
  unfold execDrainUpdateApply
  simp only [ho, hk]
  rw [if_neg (by simp [hx]), if_neg (by simpa using hes), if_neg (by simp [hmay, hfree, hsecs])]

/-- A wide release first writes back what its domain has dirty. -/
theorem drainUpdateApply_begins {t : State} (hwide : ordRel (litOrd lit) = true ∧ 2 ≤ drainScope lit es) (hflushed : x.flushed = false)
    (ht : s.flush x.d (.op x.id) x.id (drainScope lit es = 3) = .made t) :
    exec (.drainUpdateApply o) s = .next (t.setOp { x with flushed := true }) := by
  rw [drainUpdateApply_takes ho hfree hk hes hx hmay hblocked]
  exact (if_pos (by simpa using hwide)).trans ((State.releasing_begins _ _ hflushed).1 t ht)

/-- Once that is made and confirmed, or where there is none to make, the drain takes its lines. -/
theorem drainUpdateApply_released (h : ordRel (litOrd lit) = true ∧ 2 ≤ drainScope lit es → x.flushed = true ∧ s.confirming x.id = false) :
    exec (.drainUpdateApply o) s = s.drainTake x (drainSectors es) (.next (s.drainApply x op lit reg tile tid es)) := by
  rw [drainUpdateApply_takes ho hfree hk hes hx hmay hblocked]
  exact State.releasing_over _ _ fun hwide => h (by simpa using hwide)
end

/-! ## The sequencer (R361 to R366) -/

/-- The effect of a word replayed by the driver: a quartet form's for quartet QD, or the word's own for the driver's warp. -/
def Env.replayAct (e : Env) (q : Seq) (i : Instr) : Option Act :=
  match mtxOf i with
  | some f => some (e.replayQuartet q.qd i.opcode f)
  | none =>
    if e.wp.exited then some (.trapOpen .illegalConvergence none)
    else if !e.vsOk (seqVs i) then some (.trapOpen .registerRange none)
    else e.replay i

section
variable {s : State} {d a b : Nat} (hb : (s.seqOf d a).holder = some b) (hon : s.coreRuns d a = true) (hrun : (s.seqOf d a).running = true)
  (hphase : (s.seqOf d a).phase = 1)
include hb hon hrun hphase

/-- Past the last word the condition is tested. -/
theorem seqWordReplay_over (hw : (s.seqOf d a).nextWord = none) :
    exec (.seqWordReplay d a) s = .next ((s.updSeq d a fun q => { q with phase := 2 }).seqRecheck d a) := by
  rw [exec_seqWordReplay]
  unfold execSeqWordReplay
  simp only [hb, hw]
  exact if_neg (by simp [hon, hrun, hphase])

/-- A word whose effect is made is behind the driver. -/
theorem seqWordReplay_replays {k : Nat} {w lit : Word} {i : Instr} {rest : List Word} {t : State} (hw : (s.seqOf d a).nextWord = some (k, w, lit))
    (hi : decode (seqWords w lit) = .ok (i, rest)) (hparked : s.seqParked d a = false) (hcut : (s.core d a).cutting = false)
    (hmoving : (s.core d a).moving = false) (hops : ∀ x ∈ s.ops, x.seq = true → x.bid = b → x.ws.any (·.2 = 6) = false)
    (ht : ((s.seqAwait d a [6]).seqEnv b (s.seqOf d a) k w lit).replayAct (s.seqOf d a) i = some (.done t)) :
    exec (.seqWordReplay d a) s = .next (t.updSeq d a fun q => { q with wix := k + 1 }) := by
  have hnone : (s.ops.any fun x => x.seq && x.bid = b && x.ws.any (·.2 = 6)) = false := by
    rw [List.any_eq_false]
    intro x hx hwaits
    simp only [Bool.and_eq_true, decide_eq_true_eq] at hwaits
    obtain ⟨⟨hseq, hbid⟩, hws⟩ := hwaits
    exact Bool.false_ne_true ((hops x hx hseq hbid).symm.trans hws)
  rw [exec_seqWordReplay]
  unfold execSeqWordReplay
  simp only [hb, hw]
  rw [if_neg (by simp [hon, hrun, hphase]), if_neg (by simp [hparked, hcut, hmoving, hnone])]
  simp only [hi]
  split
  case h_1 u hu => cases hu.symm.trans ht; rfl
  all_goals
    rename_i hu
    cases hu.symm.trans ht
end

theorem Env.replayAct_quartet {e : Env} {q : Seq} {i : Instr} {f : MtxW} (hi : mtxOf i = some f) :
    e.replayAct q i = some (e.replayQuartet q.qd i.opcode f) := by
  unfold Env.replayAct
  rw [hi]
theorem Env.replayAct_word {e : Env} {q : Seq} {i : Instr} (hi : mtxOf i = none) (hwp : e.wp.exited = false) (hvs : e.vsOk (seqVs i) = true) :
    e.replayAct q i = e.replay i := by
  unfold Env.replayAct
  rw [hi]
  exact (if_neg (by simp [hwp])).trans (if_neg (by simp [hvs]))

/-- The claim of a killed holder ends with the last of its words (R358). -/
theorem seqTransition_ends {s : State} {d a : Nat} (hend : (s.seqOf d a).ending = true) (hops : ∀ x ∈ s.ops, x.seq = true → x.d = d → x.a ≠ a) :
    exec (.seqTransition d a) s = .next (s.seqRelease d a) := by
  have hnone : (s.ops.any fun x => x.seq && x.d = d && x.a = a) = false := by
    rw [List.any_eq_false]
    intro x hx
    simpa using hops x hx
  rw [exec_seqTransition]
  unfold execSeqTransition
  extract_lets q s1
  rw [if_pos hend, if_neg (by simp [hnone])]

section
variable {s : State} {d a : Nat} (hon : s.coreRuns d a = true) (hrun : (s.seqOf d a).running = true)
include hon hrun

theorem seqTransition_enters (hend : (s.seqOf d a).ending = false) (hphase : (s.seqOf d a).phase = 2) (htests : s.seqTests d a = true)
    (hparked : s.seqParked d a = true → (s.seqOf d a).qopZero = false) : exec (.seqTransition d a) s = .next (
      let q := s.seqOf d a
      let t := (s.seqAwait d a q.tested).updSeq d a fun q =>
        { q with sig := q.sig &&& ~~~(BitVec.ofNat 8 (q.cnd 16 8)), q := match q.qop with | some (i, x) => mset 0#32 q.q i x | none => q.q }
      let t := t.seqUnpin d a
      (if q.halt then t.updSeq d a fun q => { q with mode := 1 } else t.seqEnter d a q.next).qwaitServe d a) := by
  rw [exec_seqTransition]
  unfold execSeqTransition
  extract_lets q
  have hgoes : ¬ (!s.coreRuns d a || !q.running || q.phase != 2 || !s.seqTests d a || (s.seqParked d a && q.qopZero)) = true := by
    simpa [q, hon, hrun, hphase, htests] using hparked
  exact (if_neg (by simp [q, hend])).trans (if_neg hgoes)

theorem seqTimeout_times (hten : (s.seqOf d a).ten = true) (hphase : (s.seqOf d a).phase ≠ 1) (htests : (s.seqOf d a).phase = 2 → s.seqTests d a = false)
    (hdue : (s.seqOf d a).t0 + BitVec.ofNat 64 (s.seqOf d a).tout ≤ s.sid d) : exec (.seqTimeout d a) s = .next (
      let q := s.seqOf d a
      let t := (s.updSeq d a fun q => { q with tev := true }).logEvent 0x32 d a
      if q.tnext = q.cur then t.updSeq d a fun q => { q with t0 := s.sid d } else (t.seqUnpin d a).seqEnter d a q.tnext) := by
  rw [exec_seqTimeout]
  unfold execSeqTimeout
  extract_lets q t
  have hnot : ¬ (!s.coreRuns d a || !q.running || !q.ten || q.phase = 1 || s.sid d < q.t0 + BitVec.ofNat 64 q.tout || (q.phase = 2 && s.seqTests d a)) = true := by
    simpa [q, hon, hrun, hten, hphase, BitVec.not_lt.2 hdue] using htests
  rw [if_neg hnot]
  exact (apply_ite (fun u => (.next u : Out)) _ _ _).symm
end

/-! ## Cuts, seals and acknowledgements (R376 to R379, R382) -/

/-- An umbra engine whose cut has been taken to bank `w`, with `k` in it; `n` is the first operation after the cut. -/
def Umbra.cutTo (u : Umbra) (w : Bool) (k : Bank) (n : Nat) (arm : Bool) (now : List Nat) : Umbra :=
  { u.setBank w k with per := u.perNext, timer := 0, since := 0, reqs := [], openCut := some w, cutNo := u.cutNo + 1, cutOp := n, armed := arm,
                       base := some w, dirty := now }
theorem Umbra.cutTo_bank_same (u : Umbra) (w : Bool) (k : Bank) (n : Nat) (arm : Bool) (now : List Nat) : (u.cutTo w k n arm now).bank w = k :=
  Umbra.bank_setSame u w k
theorem Umbra.cutTo_bank_other (u : Umbra) (w : Bool) (k : Bank) (n : Nat) (arm : Bool) (now : List Nat) :
    (u.cutTo w k n arm now).bank (!w) = u.bank (!w) := by
  cases w <;> rfl

section
variable {s : State} {d a : Nat} (hon : s.coreRuns d a = true)
include hon

theorem periodicCut_asks (hopen : (s.core d a).umb.openCut = none) (hper : (s.core d a).umb.per ≠ 0) (hdue : (s.core d a).umb.per ≤ (s.core d a).umb.timer)
    (hheld : (s.core d a).held ≠ [] ∨ (s.core d a).seq.hold ≠ none) (hreqs : ∀ r ∈ (s.core d a).umb.reqs, r.kind ≠ 0) :
    exec (.periodicCut d a) s = .next (s.updUmbra d a fun u => { u with reqs := u.reqs ++ [{ kind := 0, warp := none, exit := none }] }) := by
  rw [exec_periodicCut]
  unfold execPeriodicCut
  refine if_pos ?_
  have hset : (!(s.core d a).held.isEmpty || (s.core d a).seq.hold.isSome) = true := by simpa [Option.isSome_iff_ne_none] using hheld
  have hfirst : ((s.core d a).umb.reqs.any fun r => r.kind = 0) = false := by simpa using hreqs
  simp [hon, hopen, hper, hdue, hset, hfirst]

theorem bankSeal_seals (hready : s.sealReady d a = true) (hmoving : (s.core d a).moving = false) : exec (.bankSeal d a) s = .next (s.sealed d a) := by
  rw [exec_bankSeal]
  unfold execBankSeal
  rw [if_neg (by simp [hon, hready]), if_pos (by simp [hmoving])]

/-- A core that is to move leaves its physical core with the seal (R389, R418). -/
theorem bankSeal_moves {t : State} (hready : s.sealReady d a = true) (hmoving : (s.core d a).moving = true) (ht : (s.sealed d a).moveCore d a = some t) :
    exec (.bankSeal d a) s = .next t := by
  rw [exec_bankSeal]
  unfold execBankSeal
  rw [if_neg (by simp [hon, hready]), if_neg (by simp [hmoving]), ht]

theorem journalAck_reaches {i : Nat} {e : JEnt} (he : (s.core d a).umb.journal[i]? = some e) (hst : e.st = 1) (hack : e.ack ≠ none) :
    exec (.journalAck d a i) s = .next (s.updJournal d a fun l => l.modify i fun e => { e with st := 2 }) := by
  rw [exec_journalAck]
  unfold execJournalAck
  rw [he]
  exact if_pos (by simp [hon, hst, Option.isSome_iff_ne_none, hack])

/-- What a cut leaves of its core: the state captured in the bank it goes to, the other bank as it was, no request left. -/
theorem cutInstant_captures (hopen : (s.core d a).umb.openCut = none) (hreqs : (s.core d a).umb.reqs ≠ [])
    (hstand : ∀ p ∈ (s.core d a).slots, ∀ w < (s.block p.2).warps.length, (s.block p.2).cuttable w = true)
    (hexits : ∀ p ∈ (s.core d a).held, s.exitOpen (s.core d a).umb p.2 = false) (hops : s.ops.any (s.cutWaits d a) = false) :
    let c := s.core d a
    let u := c.umb
    ∃ t, exec (.cutInstant d a) s = .next t ∧ t.mem = s.mem ∧
      let v := (t.core d a).umb
      let k := v.bank u.nextBank
      v.openCut = some u.nextBank ∧ v.reqs = [] ∧ v.timer = 0 ∧ v.cutNo = u.cutNo + 1 ∧ v.bank (!u.nextBank) = u.bank (!u.nextBank) ∧
      k.hseq = u.maxSeq + 1 ∧ k.tick = s.sid d ∧ k.pos = d + 64 * a ∧ k.mapgen = s.svc.mapgen ∧ k.whole = !(u.bank u.nextBank).valid ∧
      ((u.bank u.nextBank).valid = false → k.nsec = 17152) ∧ k.kind = (u.reqs.map (·.kind)).foldl max 0 ∧ k.jn = [] ∧
      ∃ img, k.img = some img ∧ img.slots = c.held ∧ img.seq = c.seq ∧ img.hq = c.hq ∧ img.hent = c.hent ∧ img.evth = c.evth := by
  intro c u
  rw [exec_cutInstant]
  unfold execCutInstant
  extract_lets which old pf arm now cut blocks img bank t
  have hslots : (c.slots.all fun p => (List.range (s.block p.2).warps.length).all (s.block p.2).cuttable) = true := by
    simpa using hstand
  have hheld : (c.held.any fun p => s.exitOpen u p.2) = false := by simpa using hexits
  have hcore : t.core d a = s.core d a := foldl_keeps (·.core d a) _ (fun s r => by split <;> rfl) _ s
  have hmem : t.mem = s.mem := foldl_keeps (·.mem) _ (fun s r => by split <;> rfl) _ s
  have humb : (t.core d a).umb = u := congrArg Core.umb hcore
  rw [if_neg (by simp [hon, hopen, hreqs, hops, c, u, hslots, hheld])]
  refine ⟨_, rfl, hmem, ?_⟩
  intro v k
  have hv : v = u.cutTo which bank t.nextOp arm now :=
    (congrArg Core.umb (State.core_updCore_same _ d a _)).trans (congrArg (Umbra.cutTo · which bank t.nextOp arm now) humb)
  have hk : k = bank := (congrArg (·.bank which) hv).trans <| Umbra.cutTo_bank_same u which bank t.nextOp arm now
  rw [hk, hv]
  exact ⟨rfl, rfl, rfl, rfl, Umbra.cutTo_bank_other u which bank t.nextOp arm now, rfl, rfl, rfl, rfl, rfl, fun hvalid => if_neg (by simp [old, which, hvalid]),
    rfl, rfl, img, rfl, rfl, rfl, rfl, rfl, rfl⟩
end

/-- Settles O46, one lemma per event. -/
theorem engineEventsComplete : Obligations.EngineEventsComplete := by
  unfold Obligations.EngineEventsComplete
  intro s o d a
  refine ⟨fun x ho hfree => ⟨fun op lit dst mems st hk => matrixCompletion_applies ho hfree hk st,
      fun op lit reg tile tid es hk hes hx hmay hblocked => ?drain⟩,
    fun b hb hon hrun hphase => ⟨seqWordReplay_over hb hon hrun hphase, fun k w lit i rest hw hi hparked hcut hmoving hops =>
      ⟨fun t hm hwp hvs ht => seqWordReplay_replays hb hon hrun hphase hw hi hparked hcut hmoving hops ((Env.replayAct_word hm hwp hvs).trans ht),
        fun f t hm ht => seqWordReplay_replays hb hon hrun hphase hw hi hparked hcut hmoving hops
          ((Env.replayAct_quartet hm).trans (congrArg some ht))⟩⟩,
    seqTransition_ends, fun hend hon hrun hphase htests hparked => seqTransition_enters hon hrun hend hphase htests hparked,
    fun hon hrun hten hphase htests hdue => seqTimeout_times hon hrun hten hphase htests hdue,
    fun hon hopen => ⟨periodicCut_asks hon hopen, cutInstant_captures hon hopen⟩,
    fun hon hready => ⟨bankSeal_seals hon hready, fun t => bankSeal_moves hon hready⟩,
    fun e he hon hst hack => journalAck_reaches hon he hst hack⟩
  case drain =>
    refine ⟨fun hwide hflushed t ht => drainUpdateApply_begins ho hfree hk hes hx hmay hblocked hwide hflushed ht, fun hover => ?_⟩
    have htake := drainUpdateApply_released ho hfree hk hes hx hmay hblocked hover
    exact ⟨fun hone hasked => htake.trans (State.drainTake_oneHome _ hone hasked),
      fun hmany hrest => htake.trans (State.drainTake_allTaken _ hmany hrest),
      fun hmany h hmin hl => htake.trans (State.drainTake_nextHome _ hmany hmin hl)⟩

end Sys2Proof.Machine
end

-- ==== Drain words at issue and the values of their elements (O31, O32) ====
section
/-! PROOF. The words of the drain engine: each that finds slot and engine free and whose elements pass their checks enters its operation. What
an element writes for the present value of its destination. -/

namespace Sys2Proof.Machine

/-! ## Entry (R276 to R279, R284, R285, R294) -/

/-- Without an armed epoch a drain update enters the operation with no journal entry, whether or not it reads what it modifies (R294, R381). -/
theorem Env.drainGo_unarmed {e : Env} {t : State} {op : Nat} {f : DrnW} {tile : Option Nat} {mask : Mask} {tgt : Nat} {es : List DElem}
    {adv : State → State} {wr : List (Nat × Word) → State → State} (hq : e.sq = false) (h : drainRmw op = true → e.unarmed t) :
    e.drainGo t op f tile mask tgt es adv wr =
      .done ((e.start (adv (e.unheld (drainRmw op) t)) f.d (.drain op f.lit f.v.toNat tile e.wp.tid es) []).noted t.nextOp) := by
  unfold Env.drainGo Env.unheld
  by_cases hrmw : drainRmw op = true
  · rw [if_pos hrmw, if_pos hrmw, journal_unarmed hq (h hrmw)]
    rfl
  · rw [if_neg hrmw, if_neg hrmw]

/-- No row fails for its lane where stochastic rounding finds all sixteen present (R279). -/
theorem Env.tileAbsent_none {e : Env} {f : DrnW} (h : dRND f.lit = 2 → ∀ m < 16, e.blk.absent e.w m = false) :
    (List.range 16).any (e.tileAbsent f) = false := by
  rw [List.any_eq_false]
  intro m hm habsent
  obtain ⟨hrnd, hm'⟩ := Bool.and_eq_true_iff.1 habsent
  rw [h (of_decide_eq_true hrnd) m (List.mem_range.1 hm)] at hm'
  cases hm'

/-- The word passes its checks, and finds slot and engine free. -/
def DrainReady (i : DrnW → Instr) (op : Nat) (f : DrnW) (s : State) (e : Env) : Prop :=
  readyWord (i f) f.g (some f.lit) (drnVs op f) (fun _ => true) s = some e ∧ e.slotFree f.d = true ∧ e.drainFull = false

/-- A tile form whose elements all pass their checks enters one operation with them. -/
def TileEnters (i : DrnW → Instr) (op : Nat) : Prop := ∀ f s e rs t, DrainReady i op f s e → f.t.toNat < rACCF e.blk.lrec →
  passed (checkLanes (e.tileCheck op f) (List.range (e.tileElems op f).length) e.s) = some (rs, t) →
  (dRND f.lit = 2 → ∀ m < 16, e.blk.absent e.w m = false) → (drainRmw op = true → e.unarmed t) →
  exec (i f) s = e.retires (i f) ((e.start (e.tileAdvance op f (e.tileOps op f rs).length (e.unheld (drainRmw op) t)) f.d
    (.drain op f.lit f.v.toNat (some f.t.toNat) e.wp.tid (e.tileOps op f rs)) []).noted t.nextOp)

theorem tileEnters_of_drainTile {i : DrnW → Instr} {op : Nat} (hx : ∀ f s, exec (i f) s = issueDrn (i f) op f s fun e => e.drainTile op f) :
    TileEnters i op := by
  intro f s e rs t ⟨hready, hslot, hroom⟩ htile hp hrows harm
  rw [hx]
  refine issueWord_done hready ?_
  unfold Env.drainTile
  rw [Env.slotted_free hslot, if_neg (Nat.not_le.2 htile), if_neg (by simp [hroom]), itemsChecked_passed hp,
    if_neg (by simp [Env.tileAbsent_none hrows])]
  exact Env.drainGo_unarmed (readyWord_ctx hready).1 harm

section
variable {i : DrnW → Instr} {op : Nat} {n : DrnW → Nat} {x : Env → DrnW → Nat → Nat × Nat × List NumEvent}

/-- A lane form whose contributing lanes, of which there are some, all pass their checks enters one operation with their elements. -/
def LanesEnter (i : DrnW → Instr) (op : Nat) (n : DrnW → Nat) (x : Env → DrnW → Nat → Nat × Nat × List NumEvent) : Prop :=
  ∀ f s e rs t, DrainReady i op f s e → e.contrib ≠ 0#32 →
    passed (checkLanes (e.laneCheck op f (n f)) (lanesOf e.contrib) e.s) = some (rs, t) → (drainRmw op = true → e.unarmed t) →
    exec (i f) s = e.retires (i f) ((e.start (e.laneAdvance op f (x e f) (e.unheld (drainRmw op) t)) f.d
      (.drain op f.lit f.v.toNat none e.wp.tid (laneOps (n f) (x e f) rs)) []).noted t.nextOp)

theorem lanesEnter_of_drainLanes (hx : ∀ f s, exec (i f) s = issueDrn (i f) op f s fun e => e.drainLanes op f (n f) (x e f)) :
    LanesEnter i op n x := by
  intro f s e rs t ⟨hready, hslot, hroom⟩ hlanes hp harm
  rw [hx]
  refine issueWord_done hready ?_
  unfold Env.drainLanes
  rw [Env.slotted_free hslot, if_neg hlanes, if_neg (by simp [hroom]), itemsChecked_passed hp]
  exact Env.drainGo_unarmed (readyWord_ctx hready).1 harm

/-- A lane form whose lanes are all helpers makes its draws and enters nothing (R289). -/
def HelpersAdvance (i : DrnW → Instr) (op : Nat) (x : Env → DrnW → Nat → Nat × Nat × List NumEvent) : Prop :=
  ∀ f s e, DrainReady i op f s e → e.contrib = 0#32 →
    exec (i f) s = e.retires (i f) ((e.laneAdvance op f (x e f) e.s).updBlock e.bid fun b => b.unrecord e.w f.d.toNat)

theorem helpersAdvance_of_drainLanes (hx : ∀ f s, exec (i f) s = issueDrn (i f) op f s fun e => e.drainLanes op f (n f) (x e f)) :
    HelpersAdvance i op x := by
  intro f s e ⟨hready, hslot, hroom⟩ hlanes
  rw [hx]
  refine issueWord_done hready ?_
  unfold Env.drainLanes
  rw [Env.slotted_free hslot, if_pos hlanes, if_neg (by simp [hroom])]
end

/-! ## The words (R284, R286 to R292) -/

theorem dst_enters : TileEnters .dst 0xB0 := tileEnters_of_drainTile fun _ _ => exec_dst
theorem dsta_enters : TileEnters .dsta 0xB1 := tileEnters_of_drainTile fun _ _ => exec_dsta
theorem dstm_enters : TileEnters .dstm 0xB2 := tileEnters_of_drainTile fun _ _ => exec_dstm

/-- A lane's operand in one register: of DSTV as it converts it, of ATOM and RED as it stands (R289, R290, R292). -/
def Env.dstvItem (e : Env) (f : DrnW) (L : Nat) : Nat × Nat × List NumEvent :=
  let p := drainConv (dFMT f.lit) (dRND f.lit) (e.lane L).gen (e.v f.v.toNat L)
  (p.1, 0, p.2)
def Env.atomItem (e : Env) (f : DrnW) (L : Nat) : Nat × Nat × List NumEvent := ((e.v f.v.toNat L).toNat, 0, [])
/-- The bytes of an ATOMC element, and what a lane gives it: the new value and the comparand, of one register each or of two (R291). -/
def atomcBytes (f : DrnW) : Nat := if dOP f.lit = 0 then 4 else 8
def Env.atomcItem (e : Env) (f : DrnW) (L : Nat) : Nat × Nat × List NumEvent :=
  let v := fun (j : Nat) => (e.v (f.v.toNat + j) L).toNat
  if dOP f.lit = 0 then (v 1, v 0, []) else (v 3 * 2 ^ 32 + v 2, v 1 * 2 ^ 32 + v 0, [])

theorem Env.atomc_eq_drainLanes (e : Env) (f : DrnW) : e.atomc f = e.drainLanes 0xB5 f (atomcBytes f) (e.atomcItem f) := by
  unfold Env.atomc atomcBytes Env.atomcItem
  by_cases hop : dOP f.lit = 0
  · simp only [if_pos hop]
  · simp only [if_neg hop]

theorem dstv_enters : LanesEnter .dstv 0xB3 (fun f => fmtBytes (dFMT f.lit)) Env.dstvItem := lanesEnter_of_drainLanes fun _ _ => exec_dstv
theorem dstv_advances : HelpersAdvance .dstv 0xB3 Env.dstvItem := helpersAdvance_of_drainLanes (n := fun f => fmtBytes (dFMT f.lit)) fun _ _ => exec_dstv
theorem atom_enters : LanesEnter .atom 0xB4 (fun _ => 4) Env.atomItem := lanesEnter_of_drainLanes fun _ _ => exec_atom
theorem red_enters : LanesEnter .red 0xB6 (fun _ => 4) Env.atomItem := lanesEnter_of_drainLanes fun _ _ => exec_red
theorem atomc_enters : LanesEnter .atomc 0xB5 atomcBytes Env.atomcItem :=
  lanesEnter_of_drainLanes fun f s => by simp only [exec_atomc, execAtomc, Env.atomc_eq_drainLanes]

/-- R284: DFENCE enters an operation of its own. -/
theorem dfence_enters {f : DrnW} {s : State} {e : Env} (h : DrainReady .dfence 0xB7 f s e) :
    exec (.dfence f) s = e.retires (.dfence f) (e.start e.s f.d (.dfence (litScp f.lit)) []) := by
  obtain ⟨hready, hslot, hroom⟩ := h
  rw [exec_dfence]
  refine issueWord_done hready ?_
  unfold Env.dfence
  rw [Env.slotted_free hslot, if_neg (by simp [hroom])]

/-- Settles O31, one lemma per word; DSTV has a second, for lanes that are all helpers. -/
theorem drainWordsComplete : Obligations.DrainWordsComplete := by
  unfold Obligations.DrainWordsComplete
  exact ⟨dst_enters, dsta_enters, dstm_enters, dstv_enters, dstv_advances, atom_enters, red_enters, atomc_enters, fun _ _ _ => dfence_enters⟩

/-! ## Element values (R286, R289 to R292) -/

/-- FMT 30 copies the word (R286). -/
theorem drainConv_copy (rnd : Nat) (draw w : Word) : (drainConv 30 rnd draw w).1 = w.toNat := rfl

/-- Operation 1 of DSTA adds words (Table 11-4). -/
theorem drainAdd_words (fmt rnd : Nat) (draw x : Word) (d : Nat) : (drainAdd fmt rnd 1 draw x d).1 = (BitVec.ofNat 32 d + x).toNat := rfl

/-- The floating formats round the word's value (R286). -/
theorem drainConv_float {fmt : Nat} (h : fmt ≤ 29) (rnd : Nat) (draw w : Word) : (drainConv fmt rnd draw w).1 = (roundTo fmt rnd draw (f32 w)).1 := by
  unfold drainConv
  rw [if_neg (by omega), if_neg (by omega)]

section
variable (b : Block) (lit : Word) (tile : Option Nat) (e : DElem) (d : Nat)

/-! An element by its operation code: the tile word converted, the tile word added, the operand, the new value or the present one. -/

theorem drainEl_dst (t : Nat) : b.drainEl 0xB0 lit (some t) e d = drainConv (dFMT lit) (dRND lit) e.draw (b.accWord t e.lane e.col) := rfl
theorem drainEl_dsta (t : Nat) : b.drainEl 0xB1 lit (some t) e d = drainAdd (dFMT lit) (dRND lit) (dOP lit) e.draw (b.accWord t e.lane e.col) d := rfl
theorem drainEl_dstv : b.drainEl 0xB3 lit tile e d = (e.x, []) := rfl
theorem drainEl_atomc : b.drainEl 0xB5 lit tile e d = (if d = e.cmp then e.x else d, []) := rfl

/-- ATOM and RED apply one operation (R290, R292). -/
theorem drainEl_atom {op : Nat} (h : op = 0xB4 ∨ op = 0xB6) :
    (b.drainEl op lit tile e d).1 = (atomOp (dOP lit) (BitVec.ofNat 32 d) (BitVec.ofNat 32 e.x)).toNat := by
  rcases h with rfl | rfl <;> rfl
end

/-- The signed and unsigned minimum and maximum of Table 11-5. -/
theorem atomOp_imin (w a : Word) : atomOp 2 w a = if w.toInt ≤ a.toInt then w else a := imin32_eq w a
theorem atomOp_imax (w a : Word) : atomOp 3 w a = if a.toInt ≤ w.toInt then w else a := by
  simp only [atomOp, imax32, BitVec.slt_iff_toInt_lt, ← not_le, ite_not]
theorem toNat_atomOp_umin (w a : Word) : (atomOp 4 w a).toNat = min w.toNat a.toNat := by
  simp only [atomOp, BitVec.ult_iff_lt, BitVec.lt_def, apply_ite BitVec.toNat]
  rw [min_comm, min_def_lt]
theorem toNat_atomOp_umax (w a : Word) : (atomOp 5 w a).toNat = max w.toNat a.toNat := by
  simp only [atomOp, BitVec.ult_iff_lt, BitVec.lt_def, apply_ite BitVec.toNat]
  rw [max_def_lt]
/-- The saturating sum of Table 11-5 is a word. -/
theorem toNat_atomOp_addSat (w a : Word) : (atomOp 12 w a).toNat = min (w.toNat + a.toNat) (2 ^ 32 - 1) :=
  Nat.mod_eq_of_lt (Nat.lt_of_le_of_lt (Nat.min_le_right _ _) (by decide))

/-- Settles O32, by the operation code and, for ATOM and RED, the operation. -/
theorem drainElementValues : Obligations.DrainElementValues := by
  unfold Obligations.DrainElementValues
  intro b lit tile d e v w a
  refine ⟨congrArg Prod.fst (drainEl_dstv b lit tile e d), congrArg Prod.fst (drainEl_atomc b lit tile e d), fun hfmt => ?copy,
    fun hfmt => ?float, fun hop => ?add, fun op hcode => ?atom⟩
  case copy => simp only [v, drainEl_dst, hfmt, drainConv_copy]
  case float => simp only [v, drainEl_dst, drainConv_float hfmt]
  case add => simp only [v, drainEl_dsta, hop, drainAdd_words]
  case atom =>
    have hv {k : Nat} (hk : dOP lit = k) : v op = (atomOp k w a).toNat := hk ▸ drainEl_atom b lit (some tile) e d hcode
    exact ⟨hv, hv, fun hk => (hv hk).trans (congrArg BitVec.toNat (atomOp_imin w a)), fun hk => (hv hk).trans (congrArg BitVec.toNat (atomOp_imax w a)),
      fun hk => (hv hk).trans (toNat_atomOp_umin w a), fun hk => (hv hk).trans (toNat_atomOp_umax w a), hv, hv, hv, hv, hv, hv,
      fun hk => (hv hk).trans (toNat_atomOp_addSat w a)⟩

end Sys2Proof.Machine
end

-- ==== Counters of task records and words written out (O35, O52) ====
section
/-! PROOF. Counters of task records: what a decrement does to a record, to the ready queue and to the stray count (R302, R303). The decoder
on words written out from the encodings. -/

namespace Sys2Proof.Machine

/-! ## Records after an update -/

@[simp] theorem State.recAt_updRec_same (s : State) (d i : Nat) (f : Rec → Rec) : (s.updRec d i f).recAt d i = f (s.recAt d i) := by
  simp [State.updRec, State.recAt, Domain.recOf]
@[simp] theorem State.ready_updRec_same (s : State) (d i : Nat) (f : Rec → Rec) : ((s.updRec d i f).dom d).ready = (s.dom d).ready := by
  simp [State.updRec]
@[simp] theorem State.recAt_makeReady_same (s : State) (d i : Nat) : (s.makeReady d i).recAt d i = { s.recAt d i with st := .ready } := by
  simp [State.makeReady, State.updRec, State.recAt, Domain.recOf]
@[simp] theorem State.ready_makeReady_same (s : State) (d i : Nat) : ((s.makeReady d i).dom d).ready = (s.dom d).ready ++ [i] := by
  simp [State.makeReady]

theorem Rec.cnt_lt (r : Rec) : r.cnt < 2 ^ 32 := Nat.mod_lt _ (by decide)
/-- The count is word 0 of the record (Table 12-1). -/
theorem Rec.cnt_setWord {r : Rec} (h : 0 < r.ws.length) {n : Nat} (hn : n < 2 ^ 32) : (r.setWord 0 (BitVec.ofNat 32 n)).cnt = n := by
  simp [Rec.cnt, Rec.setWord, recBits, h]
  omega

/-! ## The decrement (R302, R303) -/

/-- The record after a decrement by `m` that leaves it WAITING. -/
def Rec.lowered (r : Rec) (m : Nat) : Rec := { r.setWord 0 (BitVec.ofNat 32 (r.cnt - m)) with under := r.under || r.cnt < m }

theorem Rec.lowered_cnt {r : Rec} (h : 0 < r.ws.length) (m : Nat) : (r.lowered m).cnt = r.cnt - m :=
  Rec.cnt_setWord h (Nat.lt_of_le_of_lt (Nat.sub_le _ _) r.cnt_lt)

theorem State.decrement_waiting {s : State} {d i : Nat} (m : Nat) (h : (s.recAt d i).st = .waiting) :
    s.decrement d i m =
      let t := s.updRec d i (Rec.lowered · m)
      if (s.recAt d i).cnt ≤ m then t.makeReady d i else t := by
  unfold State.decrement
  simp only [h, if_true, Nat.sub_eq_zero_iff_le]
  rfl

/-- A stray decrement is counted and logged. -/
theorem State.decrement_stray {s : State} {d i : Nat} (m : Nat) (h : (s.recAt d i).st ≠ .waiting) :
    s.decrement d i m = (s.updDom d fun x => { x with enqStray := sat32 (x.enqStray + 1) }).logEvent 0x40 d 0xFF := if_neg h

/-- Settles O35, by the record's state and, while it is WAITING, by whether its count comes to 0. -/
theorem decrementEffect : Obligations.DecrementEffect := by
  unfold Obligations.DecrementEffect
  intro s d i m r hr hws t
  have hrec : s.recAt d i = r := by simp [State.recAt, Domain.recOf, hr]
  constructor
  · intro hst
    have ht : t = if r.cnt ≤ m then (s.updRec d i (Rec.lowered · m)).makeReady d i else s.updRec d i (Rec.lowered · m) := by
      have h := State.decrement_waiting (s := s) (d := d) (i := i) m (by rw [hrec, hst])
      rwa [hrec] at h
    have hcnt := Rec.lowered_cnt hws m
    by_cases hz : r.cnt ≤ m
    · rw [if_pos hz] at ht
      simp only [ht, if_pos hz, State.recAt_makeReady_same, State.recAt_updRec_same, State.ready_makeReady_same, State.ready_updRec_same, hrec]
      exact ⟨hcnt, rfl, trivial, trivial, rfl, rfl⟩
    · rw [if_neg hz] at ht
      simp only [ht, if_neg hz, State.recAt_updRec_same, State.ready_updRec_same, hrec]
      exact ⟨hcnt, rfl, hst, trivial, rfl, rfl⟩
  · intro hst
    have ht : t = _ := State.decrement_stray m (by rwa [hrec])
    rw [ht]
    refine ⟨?_, ?_, ?_, rfl, rfl⟩
    · simpa [State.recAt, Domain.recOf] using hrec
    · simp
    · simp [State.logEvent, State.logData]

/-! ## Words written out (Tables 03-5 to 03-9) -/

/-- Settles O52: the decoder evaluated on each of the words. -/
theorem specWordsDecode : Obligations.SpecWordsDecode :=
  ⟨rfl, rfl, rfl, rfl, rfl, rfl, rfl, rfl, rfl, rfl, rfl, rfl⟩

end Sys2Proof.Machine
end

-- ==== The task words (O36) ====
section
/-! PROOF. What each task word comes to once it has a free slot and no armed epoch: an outcome decided at issue, an answer, or a wait (R319 to R326). -/

namespace Sys2Proof.Machine

/-! ## Words whose outcome is decided at issue -/

/-- A task or publish word passes its checks and finds its slot free. -/
def AsyReady (i : AsyW → Instr) (f : AsyW) (s : State) (e : Env) : Prop :=
  readyWord (i f) f.g f.lit [] (fun _ => true) s = some e ∧ e.slotFree f.d = true

theorem AsyReady.sq {i : AsyW → Instr} {f : AsyW} {s : State} {e : Env} (h : AsyReady i f s e) : e.sq = false := (readyWord_ctx h.1).1

/-- A word of a free slot retires with what its own effect comes to. -/
theorem AsyReady.done {i : AsyW → Instr} {f : AsyW} {s t : State} {e : Env} {act : Env → Act} (h : AsyReady i f s e) (ha : act e = .done t) :
    issueAsy (i f) f s (fun e => e.slotted f.d act) = e.retires (i f) t :=
  issueWord_done h.1 ((Env.slotted_free h.2).trans ha)

/-- … so the outcome of a word without an entry is what it comes to with its warp no longer held. -/
theorem journal_unheld {e : Env} {s : State} {tgt : Nat} {mask : Mask} {wr : List (Nat × Word) → State → State} {go : Option Nat → State → Act}
    (hq : e.sq = false) (h : e.unarmed s) : e.journal s tgt mask wr go = go none (e.unheld true s) := journal_unarmed hq h

/-- The outcome of ENQ, by cases on the state of the record that its handle names (R320). -/
theorem Env.enqNow_eq (e : Env) (h : Word) (ws : List Word) (wafer : Bool) (u : State) :
    e.enqNow h ws wafer u = match e.useRec u h with
      | none => (3#32, u)
      | some (d, x) =>
        if 57344 ≤ x then (3#32, u)
        else if (u.recAt d x).st = .waiting ∨ (u.recAt d x).st = .ready ∨ (u.recAt d x).st = .running then (1#32, u)
        else (0#32, u.installRec d x ws wafer none) := by
  unfold Env.enqNow
  rcases e.useRec u h with _ | ⟨d, x⟩
  · rfl
  · simp only [hwIndex, decide_eq_true_eq]
    split
    · rfl
    · cases (u.recAt d x).st <;> rfl

section
variable {f : AsyW} {s t : State} {e : Env} {ws : List Word}

theorem enq_decides (h : AsyReady .enq f s e) (hr : e.recordAt f.ba.toNat false = some (ws, t)) (hu : e.unarmed t)
    (hend : e.recEnding t (e.enqHandle f t) = false) :
    exec (.enq f) s = e.retires (.enq f) (e.once t f.d f.s.toNat (e.enqNow (e.enqHandle f t) ws (f.v.getLsbD 0))) := by
  rw [exec_enq]
  refine h.done ((readRecord_at hr).trans ?_)
  simp only [hend, Bool.false_eq_true, if_false]
  exact uniformOp_unarmed h.sq hu

/-- A child finds room where an index is free and its level has a place (R321). -/
theorem State.spawnNow_isSome (s : State) (b d : Nat) (ws : List Word) (wafer : Bool) :
    (s.spawnNow b d ws wafer).isSome = ((s.dom d).freeHw.isSome && (s.dom d).levelRoom (rPRI ws)) := by
  unfold State.spawnNow
  dsimp only
  rcases (s.dom d).freeHw with _ | i
  · rfl
  · dsimp only
    cases (s.dom d).levelRoom (rPRI ws) <;> rfl

@[simp] theorem Env.unheld_dom (e : Env) (dev : Bool) (t : State) (d : Nat) : (e.unheld dev t).dom d = t.dom d := by
  cases dev <;> rfl

section
variable (h : AsyReady .spawn f s e) (hr : e.recordAt f.ba.toNat true = some (ws, t)) (hd : rDEPTH e.blk.lrec ≠ 8) (hu : e.unarmed t)
include h hr hd hu

/-- SPAWN with room for its child (R321). -/
theorem spawn_spawns (hroom : (t.spawnNow e.bid e.loc.d ws (f.v.getLsbD 0)).isSome = true) :
    exec (.spawn f) s = e.retires (.spawn f) (e.once t f.d f.s.toNat fun u =>
      (u.spawnNow e.bid e.loc.d ws (f.v.getLsbD 0)).getD (0#32, u)) := by
  have hunheld : ((e.unheld true t).spawnNow e.bid e.loc.d ws (f.v.getLsbD 0)).isSome = true := by
    rw [State.spawnNow_isSome, Env.unheld_dom, ← State.spawnNow_isSome, hroom]
  obtain ⟨⟨c, v⟩, hc⟩ := Option.isSome_iff_exists.1 hunheld
  have hnone : (t.spawnNow e.bid e.loc.d ws (f.v.getLsbD 0)).isNone = false := Option.isNone_eq_false_iff.2 hroom
  rw [exec_spawn]
  refine h.done ((readRecord_at hr).trans ?_)
  rw [if_neg hd, if_neg (by rw [hnone, Bool.and_false]; exact Bool.false_ne_true)]
  refine (journal_unheld h.sq hu).trans ?_
  unfold Env.once
  simp only [hc, Option.getD_some]
  rfl

/-- SPAWN without room stands at the blocking point (R321). -/
theorem spawn_waits (hroom : t.spawnNow e.bid e.loc.d ws (f.v.getLsbD 0) = none) :
    exec (.spawn f) s = e.stands (t.updWarp e.bid e.w fun wp => { wp with wait := some (.spawn ws (f.v.getLsbD 0) f.s.toNat f.d.toNat) }) := by
  rw [exec_spawn]
  refine (issueAsy_ready h.1).trans ?_
  rw [Env.slotted_free h.2, readRecord_at hr, if_neg hd, if_pos (by rw [oldEntry_unarmed hu, hroom]; rfl)]
  rfl
end

theorem tinc_decides (h : AsyReady .tinc f s e) (hu : e.unarmed e.s) :
    exec (.tinc f) s = e.retires (.tinc f) (e.once e.s f.d (f.s.toNat + 1) (e.changeNow (e.sreg f.s.toNat) (stepOf f.lit) true)) := by
  rw [exec_tinc]
  exact h.done (uniformOp_unarmed h.sq hu)

theorem tdec_decides (h : AsyReady .tdec f s e) (hr : e.released e.s 3 = some t) (hu : e.unarmed t) :
    exec (.tdec f) s = e.retires (.tdec f) (e.once t f.d (f.s.toNat + 1) (e.changeNow (e.sreg f.s.toNat) (stepOf f.lit) false)) := by
  rw [exec_tdec]
  refine h.done ((if_neg Bool.false_ne_true).trans ((release_free hr).trans ?_))
  exact uniformOp_unarmed h.sq hu

theorem tcancel_decides (h : AsyReady .tcancel f s e) (hu : e.unarmed e.s) :
    exec (.tcancel f) s = e.retires (.tcancel f) (e.once e.s f.d f.s.toNat (e.cancelNow (e.sreg f.s.toNat))) := by
  rw [exec_tcancel]
  exact h.done (uniformOp_unarmed h.sq hu)

theorem trearm_decides {u : State} (h : AsyReady .trearm f s e) (hr : e.released e.s 3 = some t)
    (hready : t.rearmReady (e.rearmAt t (e.sreg f.s.toNat)) = .ok u) (hu : e.unarmed u) :
    exec (.trearm f) s = e.retires (.trearm f) (e.once u f.d f.s.toNat (State.rearmNow (e.rearmAt t (e.sreg f.s.toNat)) e.lit.toNat)) := by
  rw [exec_trearm]
  refine h.done ((release_free hr).trans ?_)
  simp only [hready]
  exact uniformOp_unarmed h.sq hu
end

theorem taskWords : Spec.TaskWords := by
  unfold Spec.TaskWords
  refine ⟨fun f s e ws t h hr hu hend => ?enq, fun f s e ws t h hr hu hd => ⟨spawn_spawns h hr hd hu, spawn_waits h hr hd hu⟩,
    fun f s e h => tinc_decides h, fun f s e t h => tdec_decides h, fun f s e h => tcancel_decides h, fun f s e t u h hr => trearm_decides h hr⟩
  case enq =>
    rw [enq_decides h hr hu hend]
    exact congrArg (fun go => e.retires (.enq f) (e.once t f.d f.s.toNat go)) (funext fun u => Env.enqNow_eq ..)

/-! ## TWAIT (R323) -/

section
variable {f : AsyW} {s : State} {e : Env}

section
variable (h : readyWord (.twait f) f.g f.lit [] (fun _ => true) s = some e)
include h

theorem twait_skipped (hany : e.any = false) : exec (.twait f) s = e.retires (.twait f) e.s := by
  rw [exec_twait]
  exact issueWord_done h (if_pos (by simp [hany]))

theorem twait_unusable (hany : e.any = true) (hrec : e.useRec e.s (e.sreg f.s.toNat) = none) :
    exec (.twait f) s = e.retires (.twait f) (e.s.updWarp e.bid e.w fun wp => wp.setS f.s.toNat 0x00020000#32) := by
  rw [exec_twait]
  refine issueWord_done h ((if_neg (by simp [hany])).trans ?_)
  simp only [hrec]

section
variable {d i : Nat} (hany : e.any = true) (hrec : e.useRec e.s (e.sreg f.s.toNat) = some (d, i))
include hany hrec

/-- A record that has ended answers its status; a child of the block returns its index. -/
theorem twait_ended (hst : (e.s.recAt d i).st.terminal = true) (hfin : (e.s.recAt d i).fin = none) :
    exec (.twait f) s = e.retires (.twait f) (
      let t := (e.s.acquireWide e.loc.d).updWarp e.bid e.w fun wp => wp.setS f.s.toNat ((e.s.recAt d i).status &&& 0xFFFF#32)
      if 57344 ≤ i ∧ (e.s.recAt d i).parent = some e.bid then t.poolReturn d i else t) := by
  rw [exec_twait]
  refine issueWord_done h ((if_neg (by simp [hany])).trans ?_)
  simp only [hrec]
  refine (if_pos (by simp [hst, hfin])).trans ?_
  simp only [hwIndex, Bool.and_eq_true, decide_eq_true_eq]

/-- A deadline that is reached answers before the record has ended. -/
theorem twait_late (hst : (e.s.recAt d i).st.terminal = false) (hv : f.v.getLsbD 0 = true) (hsid : e.s.sidHeld e.loc.d = false)
    (hlate : reached (e.s.sid e.loc.d) (e.sreg (f.s.toNat + 1)) = true) :
    exec (.twait f) s = e.retires (.twait f) (e.s.updWarp e.bid e.w fun wp => wp.setS f.s.toNat 0x00010000#32) := by
  rw [exec_twait]
  refine issueWord_done h ((if_neg (by simp [hany])).trans ?_)
  simp only [hrec]
  exact (if_neg (by simp [hst])).trans ((if_neg (by simp [hsid])).trans (if_pos (by rw [hv, hst, hlate]; rfl)))

/-- A record that has not ended, or whose completion is still to be written, keeps the warp waiting. -/
theorem twait_waits (hst : (e.s.recAt d i).st.terminal = false ∨ (e.s.recAt d i).fin ≠ none)
    (hlate : f.v.getLsbD 0 = false ∨ (e.s.sidHeld e.loc.d = false ∧
      ((e.s.recAt d i).st.terminal = true ∨ reached (e.s.sid e.loc.d) (e.sreg (f.s.toNat + 1)) = false))) :
    exec (.twait f) s = e.stands (e.setWarp fun wp => { wp with wait := some (.twait (e.sreg f.s.toNat) f.s.toNat
      (if f.v.getLsbD 0 then some ((e.sreg (f.s.toNat + 1)).setWidth 64) else none)) }) := by
  have hrun : ¬ ((e.s.recAt d i).st.terminal && (e.s.recAt d i).fin.isNone) = true := by
    simp only [Bool.and_eq_true, Option.isNone_iff_eq_none, not_and_or, Bool.not_eq_true]
    exact hst
  have hsid : ¬ (f.v.getLsbD 0 && e.s.sidHeld e.loc.d) = true := by
    rcases hlate with hv | ⟨hsid, -⟩
    · rw [hv]; exact Bool.false_ne_true
    · rw [hsid, Bool.and_false]; exact Bool.false_ne_true
  have htime : ¬ (f.v.getLsbD 0 && !(e.s.recAt d i).st.terminal && reached (e.s.sid e.loc.d) (e.sreg (f.s.toNat + 1))) = true := by
    rcases hlate with hv | ⟨-, hend | hlate⟩
    · rw [hv]; exact Bool.false_ne_true
    · rw [hend, Bool.not_true, Bool.and_false]; exact Bool.false_ne_true
    · rw [hlate, Bool.and_false]; exact Bool.false_ne_true
  rw [exec_twait]
  refine (issueAsy_ready h).trans (congrArg (e.finish (Instr.words (.twait f))) (a₂ := .wait _) ((if_neg (by simp [hany])).trans ?_))
  simp only [hrec]
  exact (if_neg hrun).trans ((if_neg hsid).trans (if_neg htime))
end
end

/-! ## TSTAT (R324) -/

section
variable (h : AsyReady .tstat f s e)
include h

theorem tstat_unusable (hrec : e.useRec e.s (e.sreg f.s.toNat) = none) :
    exec (.tstat f) s = e.retires (.tstat f) (e.answered e.s f.d [(f.s.toNat, 128#32), (f.s.toNat + 1, 0#32)]) := by
  rw [exec_tstat]
  refine h.done ?_
  simp only [hrec]
  rfl

theorem tstat_usable {d i : Nat} (hrec : e.useRec e.s (e.sreg f.s.toNat) = some (d, i)) :
    let r := e.s.recAt d i
    exec (.tstat f) s = e.retires (.tstat f) (e.answered e.s f.d [(f.s.toNat, BitVec.ofNat 32 (r.st.code + (if r.under then 16 else 0)
        + (if (e.s.dom d).deferred i then 32 else 0) + (if r.wafer then 64 else 0) + 256 * r.code + 65536 * rPRI r.ws)),
      (f.s.toNat + 1, BitVec.ofNat 32 r.cnt)]) := by
  intro r
  rw [exec_tstat]
  refine h.done ?_
  simp only [hrec]
  rfl
end
end

theorem taskQueries : Spec.TaskQueries := by
  unfold Spec.TaskQueries
  refine ⟨fun f s e h => ⟨twait_skipped h, twait_unusable h, fun d i hany hrec => ⟨twait_ended h hany hrec, fun hst hv hsid hlate => ?late, ?waits⟩⟩,
    fun f s e h hd => ⟨tstat_unusable ⟨h, hd⟩, fun d i => tstat_usable ⟨h, hd⟩⟩⟩
  case late => exact twait_late h hany hrec hst hv hsid ((reached_iff ..).2 hlate)
  case waits =>
    intro hst hlate
    refine twait_waits h hany hrec hst (hlate.imp_right (And.imp_right (Or.imp_right fun hnot => ?_)))
    exact Bool.eq_false_iff.2 (mt (reached_iff ..).1 hnot)

/-- Settles O36, one lemma per word. -/
theorem taskEngineComplete : Obligations.TaskEngineComplete := ⟨taskWords, taskQueries⟩

end Sys2Proof.Machine
end

-- ==== The publish words (O37) ====
section
/-! PROOF. What each publish word comes to once it has a free slot: the answer to a handle it may not use, a publish, a binding, a group, a mapping
(R332, R340 to R348). -/

namespace Sys2Proof.Machine

/-- A word of a free slot that answers at once. -/
theorem AsyReady.answers {i : AsyW → Instr} {f : AsyW} {s t : State} {e : Env} {act : Env → Act} {res : List (Nat × Word)} (h : AsyReady i f s e)
    (ha : act e = e.quick t f.d res) : issueAsy (i f) f s (fun e => e.slotted f.d act) = e.retires (i f) (e.answered t f.d res) := h.done ha

/-! ## VPOST and VPOSTF (R343) -/

@[simp] theorem Env.unheld_tile (e : Env) (dev : Bool) (t : State) (d x : Nat) : (e.unheld dev t).tile d x = t.tile d x := by
  unfold State.tile; rw [Env.unheld_dom]
@[simp] theorem Env.useTile_unheld (e : Env) (dev : Bool) (t : State) (h : Word) : e.useTile (e.unheld dev t) h = e.useTile t h := by
  cases dev <;> rfl

/-- VPOST and VPOSTF publish an own tile unless it is FINAL (R343). -/
def PostsTile (i : AsyW → Instr) (final : Bool) : Prop := ∀ f s e, AsyReady i f s e →
  let h := e.sreg f.s.toNat
  (e.useTile e.s h = none → e.unarmed e.s → exec (i f) s = e.retires (i f) (e.answered e.s f.d [(f.s.toNat + 1, 0xFFFFFFFF#32)])) ∧
  (∀ d x t, e.useTile e.s h = some (d, x) → e.released e.s (scpOf f.lit) = some t → e.unarmed t → e.useTile t h = some (d, x) →
    e.shadowBusy t d x = false → t.sidHeld d = false → (t.tile d x).final = true ∨ (t.tile d x).ver ≠ 65535 →
    exec (i f) s = e.retires (i f) (e.once t f.d (f.s.toNat + 1) (State.publishNow d x final)))

theorem postsTile_of_vpost {i : AsyW → Instr} {final : Bool} (hx : ∀ f s, exec (i f) s = issueAsy (i f) f s fun e => e.vpost f final) :
    PostsTile i final := by
  intro f s e h
  rw [hx]
  unfold Env.vpost
  refine ⟨fun htile hu => h.answers ?_, fun d x t htile hr hu htile' hshadow hsid hver => h.done ?_⟩
  · simp only [htile]
    exact if_neg (by simp [oldEntry_unarmed hu])
  · have hroom : (!(t.tile d x).final && decide ((t.tile d x).ver = 65535)) = false := by
      rcases hver with hfinal | hver
      · rw [hfinal]; rfl
      · rw [decide_eq_false hver, Bool.and_false]
    simp only [htile]
    refine (release_free hr).trans ((if_neg (by simp [hshadow, hsid])).trans ?_)
    simp only [htile', hroom, Bool.and_false]
    refine (if_neg Bool.false_ne_true).trans ((journal_unheld h.sq hu).trans ?_)
    simp only [Env.useTile_unheld, htile', Env.unheld_tile, hroom]
    rfl

/-! ## SUBS, VERQ, RSTOP, SSACK (R344, R345, R348) -/

section
variable {f : AsyW} {s : State} {e : Env}

theorem subs_answers (h : AsyReady .subs f s e) :
    let r := e.subscribe e.s (e.sreg f.s.toNat) (e.sreg (f.s.toNat + 1)) (e.sreg (f.s.toNat + 2)) (if f.v.getLsbD 1 then 1 else 0) (f.v.getLsbD 0) e.lit
    exec (.subs f) s = e.retires (.subs f) (e.answered r.2 f.d [(f.s.toNat + 2, r.1)]) := by
  rw [exec_subs]
  exact h.answers rfl

theorem verq_unusable (h : AsyReady .verq f s e) (htile : e.useTile e.s (e.sreg f.s.toNat) = none) :
    exec (.verq f) s = e.retires (.verq f) (e.answered e.s f.d [(f.s.toNat + 1, 0xFFFFFFFF#32)]) := by
  rw [exec_verq]
  refine h.answers ?_
  simp only [htile]

theorem verq_usable {d x : Nat} (h : AsyReady .verq f s e) (htile : e.useTile e.s (e.sreg f.s.toNat) = some (d, x)) :
    let t := if 2 ≤ scpOf f.lit then e.s.acquireWide e.loc.d else e.s
    exec (.verq f) s = e.retires (.verq f) (e.answered t f.d [(f.s.toNat + 1, t.tileWord d x false)]) := by
  rw [exec_verq]
  refine h.answers ?_
  simp only [htile]

theorem rstop_unusable (h : AsyReady .rstop f s e) (htile : e.useTile e.s (e.sreg f.s.toNat) = none) :
    exec (.rstop f) s = e.retires (.rstop f) (e.answered e.s f.d [(f.s.toNat + 1, 0xFFFFFFFF#32)]) := by
  rw [exec_rstop]
  refine h.answers ?_
  simp only [htile]

theorem rstop_usable {d x : Nat} (h : AsyReady .rstop f s e) (htile : e.useTile e.s (e.sreg f.s.toNat) = some (d, x)) :
    exec (.rstop f) s = e.retires (.rstop f) (e.answered (e.s.updTile d x fun t => { t with stop := true }) f.d
      [(f.s.toNat + 1, e.s.tileWord d x false)]) := by
  rw [exec_rstop]
  refine h.answers ?_
  simp only [htile]

theorem ssack_unlinked (h : AsyReady .ssack f s e)
    (hlink : e.blk.isHandler = true ∨ recLink (e.s.recAt e.blk.rdom e.blk.ridx).ws (if f.v.getLsbD 0 then 1 else 0) = none) :
    exec (.ssack f) s = e.retires (.ssack f) (e.answered e.s f.d [(f.s.toNat, 0xFFFFFFFF#32)]) := by
  have hnone : (if e.blk.isHandler then none else recLink (e.s.recAt e.blk.rdom e.blk.ridx).ws (if f.v.getLsbD 0 then 1 else 0)) = none := by
    rcases hlink with hsup | hlink
    · exact if_pos hsup
    · rw [hlink, ite_self]
  rw [exec_ssack]
  refine h.answers ?_
  simp only [hnone]

/-- The tile's version is taken for the block's record and for the VERIN and STALE of its run (R348). -/
theorem ssack_takes {l : Nat × Nat × Nat} (h : AsyReady .ssack f s e) (hsup : e.blk.isHandler = false)
    (hlink : recLink (e.s.recAt e.blk.rdom e.blk.ridx).ws (if f.v.getLsbD 0 then 1 else 0) = some l) :
    let pos := if f.v.getLsbD 0 then 1 else 0
    let s' := e.s.acquireWide e.loc.d
    let t := s'.tile l.1 l.2.1
    exec (.ssack f) s = e.retires (.ssack f) (e.answered
      ((s'.updSub l fun u => { u with bv := t.ver, bvf := t.final }).updRun e.blk.rdom e.blk.ridx fun v =>
        ((v.1 &&& ~~~(0xFFFF#32 <<< (16 * pos))) ||| BitVec.ofNat 32 (t.ver * 2 ^ (16 * pos)),
         (v.2 &&& ~~~(BitVec.twoPow 32 pos ||| BitVec.twoPow 32 (2 + pos))) ||| (if t.final then BitVec.twoPow 32 (2 + pos) else 0#32))).settleGroups
      f.d [(f.s.toNat, BitVec.ofNat 32 (t.ver + if t.final then 65536 else 0))]) := by
  intro pos s' t
  have hsome : (if e.blk.isHandler then none else recLink (e.s.recAt e.blk.rdom e.blk.ridx).ws pos) = some l := by
    rw [hsup]; exact hlink
  rw [exec_ssack]
  refine h.answers ?_
  simp only [pos] at hsome
  simp only [hsome]
  rfl
end

theorem publishWords : Spec.PublishWords := by
  unfold Spec.PublishWords
  exact ⟨postsTile_of_vpost fun _ _ => exec_vpost, postsTile_of_vpost fun _ _ => exec_vpostf, fun f s e h => subs_answers h,
    fun f s e h => ⟨verq_unusable h, fun d x => verq_usable h⟩, fun f s e h => ⟨rstop_unusable h, fun d x => rstop_usable h⟩,
    fun f s e h => ⟨ssack_unlinked h, fun l => ssack_takes h⟩⟩

/-! ## GRPSET (R340, R346) -/

/-- GRPSET answers all ones for a group it may not use, and else what `go` decides on it. -/
def SetsGroup (i : AsyW → Instr) (go : Env → AsyW → Nat → Nat → Word → State → Word × State) : Prop := ∀ f s e, AsyReady i f s e →
  (e.useGroup e.s (e.sreg f.s.toNat) = none → exec (i f) s = e.retires (i f) (e.answered e.s f.d [(f.s.toNat + 1, 0xFFFFFFFF#32)])) ∧
  (∀ d x, e.useGroup e.s (e.sreg f.s.toNat) = some (d, x) →
    let r := go e f d x (e.sreg (f.s.toNat + 1)) e.s
    exec (i f) s = e.retires (i f) (e.answered r.2 f.d [(f.s.toNat + 1, r.1)]))

theorem setsGroup_of_grpset {i : AsyW → Instr} {go : Env → AsyW → Nat → Nat → Word → State → Word × State}
    (hx : ∀ f s, exec (i f) s = issueAsy (i f) f s fun e => e.grpset f (go e f)) : SetsGroup i go := by
  intro f s e h
  rw [hx]
  unfold Env.grpset
  exact ⟨fun hgroup => h.answers (by simp only [hgroup]; rfl), fun d x hgroup => h.answers (by simp only [hgroup])⟩

theorem grpsetNew_sets : SetsGroup .grpsetNew fun e f => e.grpNew (stepOf f.lit) := setsGroup_of_grpset fun _ _ => exec_grpsetNew
theorem grpsetAdd_sets : SetsGroup .grpsetAdd fun e _ => e.grpAdd := setsGroup_of_grpset fun _ _ => exec_grpsetAdd
theorem grpsetArm_sets : SetsGroup .grpsetArm fun _ _ d x _ => State.grpArm d x := setsGroup_of_grpset fun _ _ => exec_grpsetArm
theorem grpsetFree_sets : SetsGroup .grpsetFree fun _ _ d x _ => State.grpFree d x := setsGroup_of_grpset fun _ _ => exec_grpsetFree

/-! ## SHMAP (R347) -/

/-- SHMAP of the shadow pair at `pa` that has passed the checks of its address: the tile that its handle names, and the lines of the pair. -/
def Env.mapTile (e : Env) (f : AsyW) (pa : Nat) (s : State) : Act :=
  let n := 2 * e.lit.toNat
  let answer := fun (x : Word) => e.quick s f.d [(f.s.toNat + 1, x)]
  match s.tileNamed (e.sreg f.s.toNat) with
  | none => answer 0xFFFFFFFF#32
  | some (d, i) =>
    if (s.tile d i).mapped then answer 0x80000001#32
    else if (List.range (n / 256)).any fun k => homeOf (pa + 256 * k) != d then answer 0x80000002#32
    else if s.doms.any fun p => p.2.tiles.any fun q => q.2.mapped && q.2.base < pa + n && pa < q.2.base + 512 * q.2.szu then answer 0x80000003#32
    else
      let lines := (List.range (n / 256)).map fun k => pa + 256 * k
      if lines.any fun p => s.unreachable p || s.backing (.slice d) p then e.stay s
      else match lines.find? fun p => s.lineRefuses p (.slice d) with
      | some p => e.stay (s.refuse (.slice d) p)
      | none =>
        let s := lines.foldl (fun s p => (s.served (.slice d) p)) ((List.range (n / 64)).foldl (fun s k => s.recall (pa / 64 + k)) s)
        let s := s.updTile d i fun _ => { Tile.zero with mapped := true, base := pa, szu := e.lit.toNat / 256, asid := e.blk.asid }
        e.quick s f.d [(f.s.toNat + 1, 0#32)]

section
variable {f : AsyW} {s t u : State} {e : Env} {p : TlbEnt}

/-- A pair that lies aligned on one N page passes the checks of its address. -/
theorem shmap_checked (h : AsyReady .shmap f s e) (ha : (e.breg f.ba.toNat).toNat % 256 = 0)
    (hl : e.s.lookup e.loc.d e.loc.a e.blk.asid (e.breg f.ba.toNat).toNat = (.ok p, t))
    (hc : entryCode t p .store (!e.blk.isHandler) (2 * e.lit.toNat) = none) (hty : p.ty = 0)
    (hpage : (e.breg f.ba.toNat).toNat / 2 ^ pageBits p.size = ((e.breg f.ba.toNat).toNat + 2 * e.lit.toNat - 1) / 2 ^ pageBits p.size)
    (hpa : p.paOf (e.breg f.ba.toNat).toNat / 65536 = (p.paOf (e.breg f.ba.toNat).toNat + 2 * e.lit.toNat - 1) / 65536)
    (hm : e.mapTile f (p.paOf (e.breg f.ba.toNat).toNat) t = .done u) : exec (.shmap f) s = e.retires (.shmap f) u := by
  rw [exec_shmap]
  refine h.done ((if_neg (by simp [ha])).trans ?_)
  simp only [hl, hc]
  exact (if_neg (by simp [hty, ← hpage])).trans ((if_neg (by simp [← hpa])).trans hm)
end

section
variable {e : Env} {f : AsyW} {pa : Nat} {t : State}

theorem Env.mapTile_unnamed (hn : t.tileNamed (e.sreg f.s.toNat) = none) : e.mapTile f pa t = e.quick t f.d [(f.s.toNat + 1, 0xFFFFFFFF#32)] := by
  unfold Env.mapTile
  simp only [hn]

section
variable {d x : Nat} (hn : t.tileNamed (e.sreg f.s.toNat) = some (d, x))
include hn

theorem Env.mapTile_mapped (hm : (t.tile d x).mapped = true) : e.mapTile f pa t = e.quick t f.d [(f.s.toNat + 1, 0x80000001#32)] := by
  unfold Env.mapTile
  simp only [hn]
  exact if_pos hm

variable (hm : (t.tile d x).mapped = false)
include hm

theorem Env.mapTile_away (ha : ((List.range (2 * e.lit.toNat / 256)).any fun k => homeOf (pa + 256 * k) != d) = true) :
    e.mapTile f pa t = e.quick t f.d [(f.s.toNat + 1, 0x80000002#32)] := by
  unfold Env.mapTile
  simp only [hn]
  exact (if_neg (by simp [hm])).trans (if_pos ha)

variable (ha : ((List.range (2 * e.lit.toNat / 256)).any fun k => homeOf (pa + 256 * k) != d) = false)
include ha

theorem Env.mapTile_lies (hl : (t.doms.any fun q => q.2.tiles.any fun y =>
      y.2.mapped && decide (y.2.base < pa + 2 * e.lit.toNat) && decide (pa < y.2.base + 512 * y.2.szu)) = true) :
    e.mapTile f pa t = e.quick t f.d [(f.s.toNat + 1, 0x80000003#32)] := by
  unfold Env.mapTile
  simp only [hn]
  exact (if_neg (by simp [hm])).trans ((if_neg (ne_true_of_eq_false ha)).trans (if_pos hl))

/-- The lines of a pair that no home holds up return to their homes, and the tile is mapped. -/
theorem Env.mapTile_maps (hl : (t.doms.any fun q => q.2.tiles.any fun y =>
      y.2.mapped && decide (y.2.base < pa + 2 * e.lit.toNat) && decide (pa < y.2.base + 512 * y.2.szu)) = false) :
    let lines := (List.range (2 * e.lit.toNat / 256)).map fun k => pa + 256 * k
    (∀ p ∈ lines, t.unreachable p = false ∧ t.backing (.slice d) p = false ∧ t.lineRefuses p (.slice d) = false) →
    e.mapTile f pa t = e.quick ((lines.foldl (fun u p => u.served (.slice d) p)
        ((List.range (2 * e.lit.toNat / 64)).foldl (fun u k => u.recall (pa / 64 + k)) t)).updTile d x fun _ =>
      { Tile.zero with mapped := true, base := pa, szu := e.lit.toNat / 256, asid := e.blk.asid }) f.d [(f.s.toNat + 1, 0#32)] := by
  intro lines hfree
  have hwaits : ¬ (lines.any fun p => t.unreachable p || t.backing (.slice d) p) = true := by
    rw [List.any_eq_true]
    rintro ⟨p, hp, hw⟩
    obtain ⟨hreach, hback, -⟩ := hfree p hp
    simp [hreach, hback] at hw
  have hrefused : (lines.find? fun p => t.lineRefuses p (.slice d)) = none := by
    rw [List.find?_eq_none]
    intro p hp
    obtain ⟨-, -, href⟩ := hfree p hp
    exact ne_true_of_eq_false href
  unfold Env.mapTile
  simp only [hn]
  refine (if_neg (by simp [hm])).trans ((if_neg (ne_true_of_eq_false ha)).trans ((if_neg (ne_true_of_eq_false hl)).trans ((if_neg hwaits).trans ?_)))
  simp only [lines] at hrefused
  rw [hrefused]
end
end

/-! ## SHMAP.FREE (R347) -/

/-- A tile of the word's own ASID is not foreign. -/
theorem Env.not_foreign {e : Env} {asid : Nat} (hown : (e.blk.isHandler || asid == e.blk.asid) = true) :
    ¬ (!e.blk.isHandler && asid != e.blk.asid) = true := by
  rw [bne, ← Bool.not_or, hown]
  exact Bool.false_ne_true

section
variable {f : AsyW} {s : State} {e : Env} (h : AsyReady .shmapFree f s e)
include h

theorem shmapFree_unnamed (hn : e.s.tileNamed (e.sreg f.s.toNat) = none) :
    exec (.shmapFree f) s = e.retires (.shmapFree f) (e.answered e.s f.d [(f.s.toNat + 1, 0xFFFFFFFF#32)]) := by
  rw [exec_shmapFree]
  refine h.answers ?_
  simp only [hn]

section
variable {d x : Nat} (hn : e.s.tileNamed (e.sreg f.s.toNat) = some (d, x))
include hn

theorem shmapFree_foreign (hown : (e.blk.isHandler || (e.s.tile d x).asid == e.blk.asid) = false) :
    exec (.shmapFree f) s = e.retires (.shmapFree f) (e.answered e.s f.d [(f.s.toNat + 1, 0xFFFFFFFF#32)]) := by
  rw [exec_shmapFree]
  refine h.answers ?_
  simp only [hn]
  obtain ⟨hsup, hasid⟩ := Bool.or_eq_false_iff.1 hown
  exact if_pos (by rw [hsup, bne, hasid]; rfl)

variable (hown : (e.blk.isHandler || (e.s.tile d x).asid == e.blk.asid) = true)
include hown

theorem shmapFree_used (hused : (e.s.tile d x).subs ≠ [] ∨ (e.s.tile d x).grp ≠ none) :
    exec (.shmapFree f) s = e.retires (.shmapFree f) (e.answered e.s f.d [(f.s.toNat + 1, 0x80000001#32)]) := by
  rw [exec_shmapFree]
  refine h.answers ?_
  simp only [hn]
  exact (if_neg (Env.not_foreign hown)).trans (if_pos (by simpa [Option.isSome_iff_ne_none] using hused))

theorem shmapFree_unmaps (hsubs : (e.s.tile d x).subs = []) (hgrp : (e.s.tile d x).grp = none)
    (hback : e.s.bufferHeld e.s.nextOp (tileKey d x) false = false) (hfront : e.s.bufferHeld e.s.nextOp (tileKey d x) true = false) :
    exec (.shmapFree f) s = e.retires (.shmapFree f) (e.answered (e.s.updTile d x fun _ => Tile.zero) f.d [(f.s.toNat + 1, 0#32)]) := by
  rw [exec_shmapFree]
  refine h.answers ?_
  simp only [hn]
  exact (if_neg (Env.not_foreign hown)).trans ((if_neg (by simp [hsubs, hgrp])).trans (if_neg (by simp [hback, hfront])))
end
end

theorem groupAndMappingWords : Spec.GroupAndMappingWords := by
  unfold Spec.GroupAndMappingWords
  refine ⟨grpsetNew_sets, grpsetAdd_sets, grpsetArm_sets, grpsetFree_sets, fun f s e p t h => ?map,
    fun f s e h => ⟨shmapFree_unnamed h, fun d x hn => ⟨shmapFree_foreign h hn, shmapFree_used h hn, shmapFree_unmaps h hn⟩⟩⟩
  case map =>
    intro va n pa answer ha hl hc hty hpage hpa
    have answers {u : State} {x : Word} (hm : e.mapTile f pa t = e.quick u f.d [(f.s.toNat + 1, x)]) : answer u x :=
      shmap_checked h ha hl hc hty hpage hpa hm
    refine ⟨fun hn => answers (Env.mapTile_unnamed hn), fun d x hn => ⟨fun hm => answers (Env.mapTile_mapped hn hm), fun hm => ?_⟩⟩
    intro away lies
    refine ⟨fun haway => answers (Env.mapTile_away hn hm haway), fun haway hlies => answers (Env.mapTile_lies hn hm haway hlies), ?_⟩
    intro lines haway hlies hfree
    exact answers (Env.mapTile_maps hn hm haway hlies hfree)

/-- Settles O37, one lemma per word and outcome. -/
theorem publishEngineComplete : Obligations.PublishEngineComplete := ⟨publishWords, groupAndMappingWords⟩

end Sys2Proof.Machine
end

-- ==== The sequencer words (O38) ====
section
/-! PROOF. What each sequencer word comes to once it has a free slot: for a block that does not hold the sequencer, and for its holder, in each mode
(R358, R363, R367 to R372). -/

namespace Sys2Proof.Machine

/-! ## Words of the system format -/

/-- A sequencer, fabric or service word passes its checks and finds its slot free. -/
def SysReady (i : SysW → Instr) (f : SysW) (s : State) (e : Env) : Prop :=
  readyWord (i f) f.g f.lit [] (fun _ => true) s = some e ∧ e.slotFree f.d = true

theorem SysReady.sq {i : SysW → Instr} {f : SysW} {s : State} {e : Env} (h : SysReady i f s e) : e.sq = false := (readyWord_ctx h.1).1

section
variable {i : SysW → Instr} {f : SysW} {s t : State} {e : Env} {act : Env → Act} (h : SysReady i f s e)
include h

/-- A word of a free slot retires with what its own effect comes to. -/
theorem SysReady.done (ha : act e = .done t) : issueSys (i f) f s act = e.retires (i f) t := by
  rw [issueSys_ready h.1 h.2, ha]
  rfl
theorem SysReady.answers {res : List (Nat × Word)} (ha : act e = e.quick t f.d res) : issueSys (i f) f s act = e.retires (i f) (e.answered t f.d res) :=
  h.done ha
end

/-! ## The holder (R367) -/

theorem Seq.heldBy_iff {q : Seq} {b : Nat} : q.heldBy b = true ↔ q.holder = some b := by
  unfold Seq.heldBy; exact decide_eq_true_iff
theorem Seq.running_iff {q : Seq} : q.running = true ↔ q.mode = 2 := by
  unfold Seq.running; exact decide_eq_true_iff

section
variable {e : Env} {d : BitVec 3} {res : Option Nat} {k : Seq → Act}

theorem Env.asHolder_holds (h : e.core.seq.holder = some e.bid) : e.asHolder d res k = k e.core.seq := if_pos (Seq.heldBy_iff.2 h)
theorem Env.asHolder_other (h : e.core.seq.holder ≠ some e.bid) :
    e.asHolder d res k = e.quick e.s d (match res with | some S => [(S, 0xFFFFFFFF#32)] | none => []) := if_neg (mt Seq.heldBy_iff.1 h)
end

/-! ## SEQLD (R358, R368) -/

section
variable {f : SysW} {s t : State} {e : Env} {tab : List (List Word)}

section
variable (h : SysReady .seqld f s e) (hmin : 1 ≤ (e.sreg f.s.toNat).toNat) (hmax : (e.sreg f.s.toNat).toNat ≤ 64) (hend : e.core.seq.ending = false)
  (htab : e.readTable (e.sreg f.s.toNat).toNat (e.breg f.ba.toNat).toNat e.s = .ok tab t)
include h hmin hmax hend htab

/-- The sequencer is another block's, or the handler asks, which cannot hold it (log 26). -/
theorem seqld_lost (hlost : e.loc.k = 4 ∨ ((t.seqOf e.loc.d e.loc.a).hold ≠ none ∧ (t.seqOf e.loc.d e.loc.a).holder ≠ some e.bid)) :
    exec (.seqld f) s = e.retires (.seqld f) (e.answered t f.d [(f.s.toNat, 1#32)]) := by
  rw [exec_seqld]
  refine h.answers ((if_neg (by simp; omega)).trans ((if_neg (ne_true_of_eq_false hend)).trans ?_))
  simp only [htab]
  exact if_pos (by simpa [Option.isSome_iff_ne_none, Seq.heldBy] using hlost)

variable (hfree : ¬ (e.loc.k = 4 ∨ ((t.seqOf e.loc.d e.loc.a).hold ≠ none ∧ (t.seqOf e.loc.d e.loc.a).holder ≠ some e.bid)))
include hfree

theorem seqld_running (hmode : (t.seqOf e.loc.d e.loc.a).mode = 2) :
    exec (.seqld f) s = e.retires (.seqld f) (e.answered t f.d [(f.s.toNat, 2#32)]) := by
  rw [exec_seqld]
  refine h.answers ((if_neg (by simp; omega)).trans ((if_neg (ne_true_of_eq_false hend)).trans ?_))
  simp only [htab]
  exact (if_neg (by simpa [Option.isSome_iff_ne_none, Seq.heldBy] using hfree)).trans (if_pos (Seq.running_iff.2 hmode))

theorem seqld_loads (hmode : (t.seqOf e.loc.d e.loc.a).mode ≠ 2) (hgood : seqTableBad t.fresh (e.sreg f.s.toNat).toNat tab = none) :
    exec (.seqld f) s = e.retires (.seqld f) (e.answered
      (t.updSeq e.loc.d e.loc.a fun q => { q with hold := some (e.loc.k, e.bid), tab := tab, mode := 1 }) f.d [(f.s.toNat, 0#32)]) := by
  rw [exec_seqld]
  refine h.answers ((if_neg (by simp; omega)).trans ((if_neg (ne_true_of_eq_false hend)).trans ?_))
  simp only [htab, hgood]
  exact (if_neg (by simpa [Option.isSome_iff_ne_none, Seq.heldBy] using hfree)).trans (if_neg (mt Seq.running_iff.1 hmode))
end

/-! ## SEQGO (R358, R369) -/

/-- Some state of the table replays a quartet word, which drives the four warps of a quartet. -/
def Seq.hasQuartet (q : Seq) : Bool :=
  q.tab.any fun ent => (List.range 4).any fun k => ent.getD (2 * k) 0#32 != 0#32 && opQuartet (opOf (ent.getD (2 * k) 0#32))

/-- What a SEQGO of the holder with operand `x` comes to. -/
def Env.holderGoes (e : Env) (f : SysW) (x : Nat) : Act :=
  let q := e.core.seq
  let answer := fun (w : Word) => e.quick e.s f.d [(f.s.toNat, w)]
  if x / 2 ^ 10 != 0 || x / 2 ^ 6 % 4 != 0 then answer 0xFFFFFFFF#32
  else if q.mode = 0 then answer 0x80000001#32
  else if q.running then answer 0x80000002#32
  else if q.tab.length ≤ x % 64 then answer 0x80000003#32
  else if q.hasQuartet && e.blk.warps.length ≤ 4 * (x / 256) + 3 then answer 0x80000004#32
  else
    let s := e.s.updSeq e.loc.d e.loc.a fun q => { q with drv := e.w, qd := x / 256, frec := 0#32, mode := 2 }
    e.quick (s.seqEnter e.loc.d e.loc.a (x % 64)) f.d [(f.s.toNat, 0#32)]

section
variable (h : SysReady .seqgo f s e) (hend : e.core.seq.ending = false)
include h hend

theorem seqgo_other (hother : e.core.seq.holder ≠ some e.bid) :
    exec (.seqgo f) s = e.retires (.seqgo f) (e.answered e.s f.d [(f.s.toNat, 0xFFFFFFFF#32)]) := by
  rw [exec_seqgo]
  exact h.answers ((if_neg (ne_true_of_eq_false hend)).trans (Env.asHolder_other hother))

theorem seqgo_holder (hmine : e.core.seq.holder = some e.bid) {t : State} {y : Word}
    (ha : e.holderGoes f (e.sreg f.s.toNat).toNat = e.quick t f.d [(f.s.toNat, y)]) :
    exec (.seqgo f) s = e.retires (.seqgo f) (e.answered t f.d [(f.s.toNat, y)]) := by
  rw [exec_seqgo]
  exact h.answers ((if_neg (ne_true_of_eq_false hend)).trans ((Env.asHolder_holds hmine).trans ha))
end
end

section
variable {e : Env} {f : SysW} {x : Nat}

/-- A bit of the operand is set that must not be (R369). -/
theorem Env.holderGoes_field (hfield : ¬ (x < 2 ^ 10 ∧ x / 2 ^ 6 % 4 = 0)) : e.holderGoes f x = e.quick e.s f.d [(f.s.toNat, 0xFFFFFFFF#32)] :=
  if_pos (by simp; omega)

section
variable (hfield : x < 2 ^ 10 ∧ x / 2 ^ 6 % 4 = 0)
include hfield

theorem Env.holderGoes_unloaded (hmode : e.core.seq.mode = 0) : e.holderGoes f x = e.quick e.s f.d [(f.s.toNat, 0x80000001#32)] :=
  (if_neg (by simp; omega)).trans (if_pos hmode)

theorem Env.holderGoes_running (hmode : e.core.seq.mode = 2) : e.holderGoes f x = e.quick e.s f.d [(f.s.toNat, 0x80000002#32)] :=
  (if_neg (by simp; omega)).trans ((if_neg (by omega)).trans (if_pos (Seq.running_iff.2 hmode)))

section
variable (hloaded : e.core.seq.mode ≠ 0) (hstands : e.core.seq.mode ≠ 2)
include hloaded hstands

/-- The states of the table end before the one that SEQGO names. -/
theorem Env.holderGoes_beyond (hlen : e.core.seq.tab.length ≤ x % 64) : e.holderGoes f x = e.quick e.s f.d [(f.s.toNat, 0x80000003#32)] :=
  (if_neg (by simp; omega)).trans ((if_neg hloaded).trans ((if_neg (mt Seq.running_iff.1 hstands)).trans (if_pos hlen)))

variable (hlen : x % 64 < e.core.seq.tab.length)
include hlen

/-- The block has not the four warps of the quartet that SEQGO names. -/
theorem Env.holderGoes_short (hroom : ¬ (e.core.seq.hasQuartet = true → 4 * (x / 256) + 3 < e.blk.warps.length)) :
    e.holderGoes f x = e.quick e.s f.d [(f.s.toNat, 0x80000004#32)] :=
  (if_neg (by simp; omega)).trans ((if_neg hloaded).trans ((if_neg (mt Seq.running_iff.1 hstands)).trans ((if_neg (Nat.not_le.2 hlen)).trans
    (if_pos (by simpa using hroom)))))

theorem Env.holderGoes_enters (hroom : e.core.seq.hasQuartet = true → 4 * (x / 256) + 3 < e.blk.warps.length) :
    e.holderGoes f x = e.quick ((e.s.updSeq e.loc.d e.loc.a fun q => { q with drv := e.w, qd := x / 256, frec := 0#32, mode := 2 }).seqEnter
      e.loc.d e.loc.a (x % 64)) f.d [(f.s.toNat, 0#32)] :=
  (if_neg (by simp; omega)).trans ((if_neg hloaded).trans ((if_neg (mt Seq.running_iff.1 hstands)).trans ((if_neg (Nat.not_le.2 hlen)).trans
    (if_neg (by simpa using hroom)))))
end
end
end

/-! ## SEQSTOP (R369) -/

section
variable {f : SysW} {s : State} {e : Env}

section
variable (h : SysReady .seqstop f s e)
include h

theorem seqstop_other (hother : e.core.seq.holder ≠ some e.bid) :
    exec (.seqstop f) s = e.retires (.seqstop f) (e.answered e.s f.d [(f.s.toNat, 0xFFFFFFFF#32)]) := by
  rw [exec_seqstop]
  exact h.answers (Env.asHolder_other hother)

theorem seqstop_stops (hmine : e.core.seq.holder = some e.bid) :
    let t := e.s.seqStop e.loc.d e.loc.a
    exec (.seqstop f) s = e.retires (.seqstop f) (e.start (if f.f.getLsbD 0 then t.seqRelease e.loc.d e.loc.a else t) f.d (.after 3)
      [(f.s.toNat, e.core.seq.word true)]) := by
  rw [exec_seqstop]
  exact h.done (Env.asHolder_holds hmine)
end
end

theorem sequencerControl : Spec.SequencerControl := by
  unfold Spec.SequencerControl
  refine ⟨fun f s e tab t h => ?load, fun f s e h hend => ?go, fun f s e h => ⟨seqstop_other h, seqstop_stops h⟩⟩
  case load =>
    intro n q answer hmin hmax hend htab lost
    exact ⟨seqld_lost h hmin hmax hend htab, seqld_running h hmin hmax hend htab, seqld_loads h hmin hmax hend htab⟩
  case go =>
    intro x q answer field quartet room
    have answers (hmine : q.holder = some e.bid) {t : State} {y : Word} (ha : e.holderGoes f x = e.quick t f.d [(f.s.toNat, y)]) : answer t y :=
      seqgo_holder h hend hmine ha
    exact ⟨seqgo_other h hend, fun hmine => ⟨fun hfield => answers hmine (Env.holderGoes_field hfield),
      fun hfield hmode => answers hmine (Env.holderGoes_unloaded hfield hmode), fun hfield hmode => answers hmine (Env.holderGoes_running hfield hmode),
      fun hfield hloaded hstands => ⟨fun hlen => answers hmine (Env.holderGoes_beyond hfield hloaded hstands hlen),
        fun hlen hroom => answers hmine (Env.holderGoes_short hfield hloaded hstands hlen hroom),
        fun hlen hroom => answers hmine (Env.holderGoes_enters hfield hloaded hstands hlen hroom)⟩⟩⟩

/-! ## QSET, QDEC, SEQSIG (R363, R370) -/

/-- The scratch stores of the warp at issue are ordered before the matrix reads of the words that the sequencer then replays (R363). -/
def Env.signalled (e : Env) : State := e.s.onScr fun c y =>
  (y.pathFenceOf (.warp (agentBlock c e.bid) e.w)).flow (.warp (agentBlock c e.bid) e.w) (.seq (agentBlock c e.bid))

theorem Env.signal_free {e : Env} {k : State → Act} (h : e.s.lsBusy e.bid e.w false = false) : e.signal k = k e.signalled :=
  if_neg (ne_true_of_eq_false h)

section
variable {f : SysW} {s : State} {e : Env}

theorem qset_other (h : SysReady .qset f s e) (hother : e.core.seq.holder ≠ some e.bid) :
    exec (.qset f) s = e.retires (.qset f) (e.answered e.s f.d []) := by
  rw [exec_qset]
  exact h.answers (Env.asHolder_other hother)

theorem qset_sets (h : SysReady .qset f s e) (hmine : e.core.seq.holder = some e.bid) (hbusy : e.s.lsBusy e.bid e.w false = false) :
    exec (.qset f) s = e.retires (.qset f) (e.answered ((e.signalled.updSeq e.loc.d e.loc.a fun q =>
      { q with q := mset 0#32 q.q f.f.toNat (e.sreg f.s.toNat) }).qwaitServe e.loc.d e.loc.a) f.d []) := by
  rw [exec_qset]
  exact h.answers ((Env.asHolder_holds hmine).trans (Env.signal_free hbusy))

theorem qdec_other (h : SysReady .qdec f s e) (hother : e.core.seq.holder ≠ some e.bid) :
    exec (.qdec f) s = e.retires (.qdec f) (e.answered e.s f.d [(f.s.toNat, 0xFFFFFFFF#32)]) := by
  rw [exec_qdec]
  exact h.answers (Env.asHolder_other hother)

theorem qdec_lowers (h : SysReady .qdec f s e) (hmine : e.core.seq.holder = some e.bid) (hbusy : e.s.lsBusy e.bid e.w false = false) :
    let x := BitVec.ofNat 32 ((mget 0#32 e.core.seq.q f.f.toNat).toNat - stepOf f.lit)
    exec (.qdec f) s = e.retires (.qdec f) (e.answered ((e.signalled.updSeq e.loc.d e.loc.a fun q =>
      { q with q := mset 0#32 q.q f.f.toNat x }).qwaitServe e.loc.d e.loc.a) f.d [(f.s.toNat, x)]) := by
  rw [exec_qdec]
  exact h.answers ((Env.asHolder_holds hmine).trans (Env.signal_free hbusy))

theorem seqsig_other (h : SysReady .seqsig f s e) (hother : e.core.seq.holder ≠ some e.bid) :
    exec (.seqsig f) s = e.retires (.seqsig f) (e.answered e.s f.d []) := by
  rw [exec_seqsig]
  exact h.answers (Env.asHolder_other hother)

theorem seqsig_raises (h : SysReady .seqsig f s e) (hmine : e.core.seq.holder = some e.bid) (hbusy : e.s.lsBusy e.bid e.w false = false) :
    exec (.seqsig f) s = e.retires (.seqsig f) (e.answered (e.signalled.updSeq e.loc.d e.loc.a fun q =>
      { q with sig := q.sig ||| e.lit.setWidth 8 }) f.d []) := by
  rw [exec_seqsig]
  exact h.answers ((Env.asHolder_holds hmine).trans (Env.signal_free hbusy))

/-! ## QWAIT, SEQQ (R371, R372) -/

section
variable (h : readyWord (.qwait f) f.g f.lit [] (fun _ => true) s = some e)
include h

theorem qwait_skipped (hany : e.any = false) : exec (.qwait f) s = e.retires (.qwait f) e.s := by
  rw [exec_qwait]
  exact issueWord_done h (if_pos (by simp [hany]))

theorem qwait_other (hany : e.any = true) (hother : e.core.seq.holder ≠ some e.bid) :
    exec (.qwait f) s = e.retires (.qwait f) (e.setWarp fun wp => wp.setS f.s.toNat 8#32) := by
  rw [exec_qwait]
  exact issueWord_done h ((if_neg (by simp [hany])).trans (if_pos (by simpa [Seq.heldBy] using hother)))

section
variable (hany : e.any = true) (hmine : e.core.seq.holder = some e.bid)
include hany hmine

/-- The counter has reached 0, or the sequencer has faulted. -/
theorem qwait_returns (hnow : mget 0#32 e.core.seq.q f.f.toNat = 0#32 ∨ e.core.seq.mode = 3) :
    exec (.qwait f) s = e.retires (.qwait f) (((e.s.qwaitJoin e.bid e.w).updWarp e.bid e.w fun wp =>
      wp.setS f.s.toNat (e.core.seq.status f.f.toNat)).updSeq e.loc.d e.loc.a fun q => { q with tev := false }) := by
  rw [exec_qwait]
  exact issueWord_done h ((if_neg (by simp [hany])).trans ((if_neg (by simpa [Seq.heldBy] using hmine)).trans (if_pos (by simpa using hnow))))

theorem qwait_waits (hnot : ¬ (mget 0#32 e.core.seq.q f.f.toNat = 0#32 ∨ e.core.seq.mode = 3)) :
    exec (.qwait f) s = e.stands (e.setWarp fun wp => { wp with wait := some (.qwait f.f.toNat f.s.toNat) }) := by
  rw [exec_qwait]
  refine (issueWord_ready h).trans (congrArg (e.finish (Instr.words (.qwait f))) (a₂ := .wait _) ?_)
  exact (if_neg (by simp [hany])).trans ((if_neg (by simpa [Seq.heldBy] using hmine)).trans (if_neg (by simpa using hnot)))
end
end

theorem seqq_answers (h : SysReady .seqq f s e) :
    let mine := decide (e.core.seq.holder = some e.bid)
    exec (.seqq f) s = e.retires (.seqq f) (e.answered (if mine then e.s.updSeq e.loc.d e.loc.a fun q => { q with tev := false } else e.s) f.d
      [(f.s.toNat, e.core.seq.word mine), (f.s.toNat + 1, e.core.seq.frec)]) := by
  rw [exec_seqq]
  exact h.answers rfl
end

theorem sequencerWords : Spec.SequencerWords := by
  unfold Spec.SequencerWords
  exact ⟨fun f s e h => ⟨qset_other h, fun ⟨hmine, hbusy⟩ => qset_sets h hmine hbusy⟩,
    fun f s e h => ⟨qdec_other h, fun ⟨hmine, hbusy⟩ => qdec_lowers h hmine hbusy⟩,
    fun f s e h => ⟨seqsig_other h, fun ⟨hmine, hbusy⟩ => seqsig_raises h hmine hbusy⟩,
    fun f s e h => ⟨qwait_skipped h, qwait_other h, fun hany hmine => ⟨qwait_returns h hany hmine, qwait_waits h hany hmine⟩⟩,
    fun f s e h => seqq_answers h⟩

/-- Settles O38, one lemma per word and outcome. -/
theorem sequencerComplete : Obligations.SequencerComplete := ⟨sequencerControl, sequencerWords⟩

end Sys2Proof.Machine
end

-- ==== The fabric words (O40) ====
section
/-! PROOF. A fabric word of legal operands enters one message to its device, or answers that the device is unreachable (R397, R399, R400, R407 to R412). -/

namespace Sys2Proof.Machine

/-! ## Routes (R396) -/

section
variable {f : Domain → Domain} (hu : ∀ x, (f x).uoff = x.uoff)
include hu

theorem State.uoff_updDom (s : State) (d k : Nat) : ((s.updDom d f).dom k).uoff = (s.dom k).uoff := by
  rw [State.dom_updDom]
  split
  · rename_i h; rw [hu, h]
  · rfl
theorem State.portLive_updDom (s : State) (d p : Nat) : (s.updDom d f).portLive p = s.portLive p := by
  unfold State.portLive
  rw [State.uoff_updDom hu]
  rfl
theorem State.route_updDom (hf : ∀ x, (f x).fab = x.fab) (s : State) (d k dev : Nat) : (s.updDom d f).route k dev = s.route k dev := by
  have hword (i : Nat) : (s.updDom d f).fabWord k i = s.fabWord k i := by
    unfold State.fabWord
    rw [State.dom_updDom]
    split
    · rename_i h; rw [hf, h]
    · rfl
  unfold State.route
  simp only [hword, State.portLive_updDom hu, State.updDom_svc]
  rfl
end

@[simp] theorem Env.unheld_route (e : Env) (dev : Bool) (t : State) (d k : Nat) : (e.unheld dev t).route d k = t.route d k := by
  cases dev <;> rfl

/-! ## A message enters (R408) -/

/-- The next identifier of the domain is used. -/
def Env.numbered (e : Env) (t : State) (body : FabBody) : State :=
  if bodyNamed body then t.updDom e.loc.d fun x => { x with sentNo := (t.dom e.loc.d).sentNo + 1 } else t
@[simp] theorem Env.numbered_route (e : Env) (t : State) (body : FabBody) (d dev : Nat) : (e.numbered t body).route d dev = t.route d dev := by
  unfold Env.numbered
  split
  · exact State.route_updDom (by intro; rfl) (by intro; rfl) ..
  · rfl
@[simp] theorem Env.numbered_svc (e : Env) (t : State) (body : FabBody) : (e.numbered t body).svc = t.svc := by
  unfold Env.numbered; split <;> rfl
@[simp] theorem Env.numbered_nextOp (e : Env) (t : State) (body : FabBody) : (e.numbered t body).nextOp = t.nextOp := by
  unfold Env.numbered; split <;> rfl

/-- The message `id` of a word that issues without a journal entry; `u` the state that its operation is entered in. -/
def Env.message (e : Env) (u : State) (id : FabId) (dev : Nat) (rel : Bool) (srcs : List Nat) (body : FabBody) : FabOut :=
  { dev := dev, port := (u.route e.loc.d dev).portOf, rel := rel, srcs := srcs, sent := [], code := 0, ended := none, tries := 0, back := 0,
    msg := { src := u.svc.dev, id := id, port := none, op := some u.nextOp, jtag := none, body := body } }
/-- The next identifier of the word's domain. -/
def Env.nextFabId (e : Env) (t : State) : FabId := { dev := t.svc.dev, dom := e.loc.d, num := (t.dom e.loc.d).sentNo % 2 ^ 52 }
/-- The state in which a word has entered its message. -/
def Env.entersMessage (e : Env) (t : State) (f : SysW) (dev : Nat) (rel : Bool) (srcs : List Nat) (body : FabBody) : State :=
  e.start (e.numbered (e.unheld true t) body) f.d (.fabric (e.message t (e.nextFabId t) dev rel srcs body)) [(f.s.toNat, 0#32)]

section
variable {e : Env} {t : State} {f : SysW} {dev tgt : Nat} {rel : Bool} {srcs : List Nat} {body : FabBody} (hu : e.unarmed t)
include hu

theorem Env.sendMsg_unreachable (hr : t.route e.loc.d dev = .gone) : e.sendMsg t f dev tgt rel srcs body = e.quick t f.d [(f.s.toNat, 1#32)] := by
  unfold Env.sendMsg
  simp only [oldEntry_unarmed hu, hr]
  rfl

theorem Env.sendMsg_enters (hq : e.sq = false) (hr : t.route e.loc.d dev ≠ .gone) :
    e.sendMsg t f dev tgt rel srcs body = .done (e.entersMessage t f dev rel srcs body) := by
  have hlost : ¬ (match t.route e.loc.d dev with | .gone => true | _ => false) = true := by
    cases h : t.route e.loc.d dev with
    | gone => exact (hr h).elim
    | here => exact Bool.false_ne_true
    | port p => exact Bool.false_ne_true
  have hmessage (id : FabId) : e.message (e.numbered (e.unheld true t) body) id dev rel srcs body = e.message t id dev rel srcs body := by
    unfold Env.message
    rw [Env.numbered_route, Env.unheld_route, Env.numbered_svc, Env.numbered_nextOp]
    rfl
  unfold Env.sendMsg
  refine (if_neg fun h => hlost (Bool.and_eq_true_iff.1 h).2).trans ((journal_unheld hq hu).trans ((if_neg hlost).trans ?_))
  unfold Env.entersMessage
  rw [← hmessage]
  rfl
end

/-! ## FSEND, FENQ, FSIG, FFENCE (R409 to R412) -/

/-- A fabric word answers 0x01 where its device is unreachable, and else enters its message. -/
def SendsMessage (i : Instr) (f : SysW) (s : State) (e : Env) (t : State) (dev : Nat) (rel : Bool) (srcs : List Nat) (body : FabBody) : Prop :=
  (t.route e.loc.d dev = .gone → exec i s = e.retires i (e.answered t f.d [(f.s.toNat, 1#32)])) ∧
  (t.route e.loc.d dev ≠ .gone → exec i s = e.retires i (e.entersMessage t f dev rel srcs body))

theorem sendsMessage_of_sendMsg {i : SysW → Instr} {f : SysW} {s t : State} {e : Env} {act : Env → Act} {dev tgt : Nat} {rel : Bool} {srcs : List Nat}
    {body : FabBody} (hx : exec (i f) s = issueSys (i f) f s act) (h : SysReady i f s e) (hu : e.unarmed t)
    (ha : act e = e.sendMsg t f dev tgt rel srcs body) : SendsMessage (i f) f s e t dev rel srcs body :=
  ⟨fun hr => hx.trans (h.answers (ha.trans (Env.sendMsg_unreachable hu hr))),
    fun hr => hx.trans (h.done (ha.trans (Env.sendMsg_enters hu h.sq hr)))⟩

section
variable {f : SysW} {s : State} {e : Env} {ps : List (Nat × Nat)} {t : State}

theorem fsend_sends (h : SysReady .fsend f s e) (hsec : (e.sreg f.s.toNat).toNat % 64 = 0) (hpos : 0 < (e.sreg f.s.toNat).toNat)
    (hmax : (e.sreg f.s.toNat).toNat ≤ 2 ^ 24)
    (htag : ∀ x ∈ (if f.f.getLsbD 0 then some (e.sreg (f.s.toNat + 1)) else none), x.toNat < 2 ^ 28 ∧ x.toNat / 2 ^ 22 % 64 = fpDev (e.breg f.ba.toNat))
    (hres : fpRes (e.breg f.ba.toNat) = false) (hend : fpOff (e.breg f.ba.toNat) + (e.sreg f.s.toNat).toNat ≤ 2 ^ 40)
    (hoff : fpOff (e.breg f.ba.toNat) % 64 = 0) (hsrc : (e.breg (f.ba.toNat + 1)).toNat % 64 = 0)
    (hps : e.sendSectors ((e.sreg f.s.toNat).toNat / 64) (e.breg (f.ba.toNat + 1)).toNat e.s = (.ok ps, t)) (hu : e.unarmed t) :
    SendsMessage (.fsend f) f s e t (fpDev (e.breg f.ba.toNat)) (f.f.getLsbD 1) (ps.map (·.1))
      (.data (fpApr (e.breg f.ba.toNat)) (fpOff (e.breg f.ba.toNat)) ((e.sreg f.s.toNat).toNat / 64) 0 []
        (if f.f.getLsbD 0 then some (e.sreg (f.s.toNat + 1)) else none)) := by
  refine sendsMessage_of_sendMsg exec_fsend h hu (tgt := (e.breg f.ba.toNat).toNat) ?_
  refine (if_neg (by simp; omega)).trans ?_
  generalize (if f.f.getLsbD 0 then some (e.sreg (f.s.toNat + 1)) else none) = tag at htag ⊢
  have hgood : (match tag with
      | some x => if x.toNat / 2 ^ 28 != 0 || x.toNat / 2 ^ 22 % 64 != fpDev (e.breg f.ba.toNat) then some x else none
      | none => none) = none := by
    cases tag with
    | none => rfl
    | some x =>
      obtain ⟨hlt, hdev⟩ := htag x rfl
      exact if_neg (by simp; omega)
  split
  · rename_i x hbad
    cases hgood.symm.trans hbad
  · refine (if_neg (by simp [hres]; omega)).trans ((if_neg (by simp [hoff])).trans ((if_neg (by simp [hsrc])).trans ?_))
    simp only [hps]

theorem fsig_signals (h : SysReady .fsig f s e) (hu : e.unarmed e.s) (hf : f.f = 2#5) (hx : (e.sreg (f.s.toNat + 1)).toNat < 2 ^ 28) :
    SendsMessage (.fsig f) f s e e.s ((e.sreg (f.s.toNat + 1)).toNat / 2 ^ 22 % 64) true [] (.dec (e.sreg (f.s.toNat + 1))) :=
  sendsMessage_of_sendMsg exec_fsig h hu ((if_pos hf).trans (if_neg (by simp; omega)))

theorem fsig_writes (h : SysReady .fsig f s e) (hu : e.unarmed e.s) (hf : f.f ≠ 2#5) (hres : fpRes (e.breg f.ba.toNat) = false)
    (hend : fpOff (e.breg f.ba.toNat) + 4 ≤ 2 ^ 40) (hoff : fpOff (e.breg f.ba.toNat) % 4 = 0) :
    SendsMessage (.fsig f) f s e e.s (fpDev (e.breg f.ba.toNat)) true [] (if f.f = 0#5 then .set (fpApr (e.breg f.ba.toNat)) (fpOff (e.breg f.ba.toNat))
      (e.sreg (f.s.toNat + 1)) else .add (fpApr (e.breg f.ba.toNat)) (fpOff (e.breg f.ba.toNat)) (e.sreg (f.s.toNat + 1))) :=
  sendsMessage_of_sendMsg exec_fsig h hu ((if_neg hf).trans ((if_neg (by simp [hres]; omega)).trans (if_neg (by simp [hoff]))))

theorem ffence_enters (h : SysReady .ffence f s e) : exec (.ffence f) s = e.retires (.ffence f) (e.start e.s f.d .ffence []) := by
  rw [exec_ffence]
  exact h.done rfl

/-- FENQ's record is read after the release, where no acquire of the warp is outstanding (R410). -/
theorem fenq_sends {v u : State} {bs : List Byte} {pins : List (Nat × Bool)} (h : SysReady .fenq f s e) (hh : (e.sreg f.s.toNat).toNat < 2 ^ 28)
    (ha : (e.breg f.ba.toNat).toNat % 64 = 0) (hps : e.sendSectors 1 (e.breg f.ba.toNat).toNat e.s = (.ok ps, t)) (hr : e.released t 3 = some v)
    (hacq : e.acquiring v = false)
    (hread : v.readSector (.core e.loc.d e.loc.a) e.loc.d [] false (.glob (ps.headD (0, 0)).1) = .ok bs pins u)
    (hu : e.unarmed (u.keepCopy e.loc.d (ps.headD (0, 0)).2 (.glob (ps.headD (0, 0)).1))) :
    SendsMessage (.fenq f) f s e (u.keepCopy e.loc.d (ps.headD (0, 0)).2 (.glob (ps.headD (0, 0)).1)) ((e.sreg f.s.toNat).toNat / 2 ^ 22 % 64) true []
      (.enq (handleDom (e.sreg f.s.toNat)) ((e.sreg f.s.toNat).toNat % 2 ^ 16) (f.f.getLsbD 0) (recWords bs)) := by
  refine sendsMessage_of_sendMsg exec_fenq h hu (tgt := (e.sreg f.s.toNat).toNat) ?_
  refine (if_neg (by simp; omega)).trans ((if_neg (by simp [ha])).trans ?_)
  simp only [hps]
  refine (release_free hr).trans ((if_neg (ne_true_of_eq_false hacq)).trans ?_)
  simp only [hread]
end

theorem fabricWords : Spec.FabricWords := by
  unfold Spec.FabricWords
  exact ⟨fun f s e ps t h => fsend_sends h, fun f s e ps t v bs pins u h => fenq_sends h,
    fun f s e h hu => ⟨fsig_signals h hu, fsig_writes h hu⟩, fun f s e h => ffence_enters h⟩

end Sys2Proof.Machine
end

-- ==== The service words (O40) ====
section
/-! PROOF. What each service word comes to once it has a free slot and legal operands (R430 to R434). -/

namespace Sys2Proof.Machine

/-! ## Operands and buffers (R430, R212, R216) -/

theorem Env.handlerOnly_handler {e : Env} (h : e.blk.isHandler = true) (k : Act) : e.handlerOnly k = k := if_pos h
theorem Env.operand_fits {e : Env} {r n : Nat} (h : (e.sreg r).toNat < 2 ^ n) (k : Nat → Act) : e.operand r n k = k (e.sreg r).toNat :=
  if_neg (by simp [Nat.div_eq_of_lt h])

/-- No line of a buffer has to wait for its home, or is refused by it. -/
def Env.bufferFree (e : Env) (t : State) (ps : List (Nat × Nat)) : Prop := ∀ p ∈ ps, t.unreachable p.1 = false ∧
  t.backing (.core e.loc.d e.loc.a) p.1 = false ∧ t.lineRefuses p.1 (.core e.loc.d e.loc.a) = false
/-- The homes of a buffer have been asked for its lines. -/
def Env.bufferAsked (e : Env) (t : State) (ps : List (Nat × Nat)) : State := ps.foldl (fun (s : State) p => s.served (.core e.loc.d e.loc.a) p.1) t

theorem Env.toBuffer_free {e : Env} {t : State} {ps : List (Nat × Nat)} (h : e.bufferFree t ps) (go : State → Act) :
    e.toBuffer t ps go = go (e.bufferAsked t ps) := by
  have hwaits : ¬ (ps.any fun p => t.unreachable p.1 || t.backing (.core e.loc.d e.loc.a) p.1) = true := by
    rw [List.any_eq_true]
    rintro ⟨p, hp, hw⟩
    obtain ⟨hreach, hback, -⟩ := h p hp
    simp [hreach, hback] at hw
  have hrefused : (ps.find? fun p => t.lineRefuses p.1 (.core e.loc.d e.loc.a)) = none := by
    rw [List.find?_eq_none]
    intro p hp
    obtain ⟨-, -, href⟩ := h p hp
    exact ne_true_of_eq_false href
  unfold Env.toBuffer
  refine (if_neg hwaits).trans ?_
  rw [hrefused]
  rfl

/-! ## Power, retirement, parked blocks, quotes (R431) -/

section
variable {f : SysW} {s : State} {e : Env} (hsup : e.blk.isHandler = true)
include hsup

section
variable (h : SysReady .svcVf f s e) (hx : (e.sreg f.s.toNat).toNat < 2 ^ 9)
include h hx

/-- An uncore island has no point P3. -/
theorem svcVf_absent (hp : (e.sreg f.s.toNat).toNat / 64 % 2 = 1 ∧ (e.sreg f.s.toNat).toNat / 128 = 3) :
    exec (.svcVf f) s = e.retires (.svcVf f) (e.answered e.s f.d [(f.s.toNat, 1#32)]) := by
  rw [exec_svcVf]
  exact h.answers ((Env.handlerOnly_handler hsup _).trans ((Env.operand_fits hx _).trans (if_pos (by simpa using hp))))

theorem svcVf_sets (hp : ¬ ((e.sreg f.s.toNat).toNat / 64 % 2 = 1 ∧ (e.sreg f.s.toNat).toNat / 128 = 3)) :
    exec (.svcVf f) s = e.retires (.svcVf f) (e.answered (e.s.setPoint ((e.sreg f.s.toNat).toNat % 64) ((e.sreg f.s.toNat).toNat / 64 % 2 = 1)
      ((e.sreg f.s.toNat).toNat / 128)) f.d [(f.s.toNat, 0#32)]) := by
  rw [exec_svcVf]
  exact h.answers ((Env.handlerOnly_handler hsup _).trans ((Env.operand_fits hx _).trans (if_neg (by simpa using hp))))
end

/-- SVC.RETIRE with operand `x`: its answer, and the state in which the unit is retired. -/
def State.retired (s : State) (x : Nat) : Word × State := s.retireAt (x % 64) (x / 2 ^ 6 % 16) (x / 2 ^ 10 % 16) (x / 2 ^ 14 % 4) (x / 2 ^ 16)

section
variable (h : SysReady .svcRetire f s e) (hx : (e.sreg f.s.toNat).toNat < 2 ^ 19) (hkind : (e.sreg f.s.toNat).toNat / 2 ^ 14 % 4 ≠ 3)
include h hx hkind

theorem svcRetire_retires (hstays : mfind (e.s.retired (e.sreg f.s.toNat).toNat).2.blocks e.bid ≠ none) :
    exec (.svcRetire f) s = e.retires (.svcRetire f) (e.answered (e.s.retired (e.sreg f.s.toNat).toNat).2 f.d
      [(f.s.toNat, (e.s.retired (e.sreg f.s.toNat).toNat).1)]) := by
  rw [exec_svcRetire]
  refine h.answers ((Env.handlerOnly_handler hsup _).trans ((Env.operand_fits hx _).trans ((if_neg hkind).trans (if_neg ?_))))
  rwa [Option.isNone_iff_eq_none]

/-- Where the retirement has ended the word's own block, no word of it retires. -/
theorem svcRetire_ends (hgone : mfind (e.s.retired (e.sreg f.s.toNat).toNat).2.blocks e.bid = none) :
    exec (.svcRetire f) s = .next (e.s.retired (e.sreg f.s.toNat).toNat).2 := by
  rw [exec_svcRetire]
  refine (issueSys_ready h.1 h.2).trans (congrArg (e.finish (Instr.words (.svcRetire f))) (a₂ := .ended _) ?_)
  refine (Env.handlerOnly_handler hsup _).trans ((Env.operand_fits hx _).trans ((if_neg hkind).trans (if_pos ?_)))
  rwa [Option.isNone_iff_eq_none]
end

section
variable (h : SysReady .svcPkill f s e)
include h

theorem svcPkill_ends {d i k g : Nat} {w : Tick} (hn : e.s.named (e.sreg f.s.toNat) = some (d, i)) (hkind : (e.s.recAt d i).kind = .park k g w)
    (hst : (e.s.recAt d i).st ≠ .free) :
    exec (.svcPkill f) s = e.retires (.svcPkill f) (e.answered (e.s.endParked k) f.d [(f.s.toNat, 0#32)]) := by
  rw [exec_svcPkill]
  refine h.answers ((Env.handlerOnly_handler hsup _).trans ?_)
  simp only [hn, hkind]
  exact if_neg hst

/-- The handle names no parked block. -/
theorem svcPkill_none (hnone : ∀ d i k g w, e.s.named (e.sreg f.s.toNat) = some (d, i) → (e.s.recAt d i).kind = .park k g w →
      (e.s.recAt d i).st = .free) :
    exec (.svcPkill f) s = e.retires (.svcPkill f) (e.answered e.s f.d [(f.s.toNat, 1#32)]) := by
  rw [exec_svcPkill]
  refine h.answers ((Env.handlerOnly_handler hsup _).trans ?_)
  rcases hn : e.s.named (e.sreg f.s.toNat) with _ | ⟨d, i⟩
  · simp only [hn]
  · rcases hkind : (e.s.recAt d i).kind with _ | _ | ⟨k, g, w⟩
    · simp only [hn, hkind]
    · simp only [hn, hkind]
    · simp only [hn, hkind]
      exact if_pos (hnone d i k g w hn hkind)
end
end

theorem svcQuote_stores {f : SysW} {s : State} {e : Env} {ps : List (Nat × Nat)} {t : State} (h : SysReady .svcQuote f s e)
    (ha : (e.breg f.ba.toNat).toNat % 256 = 0) (hb : e.buffer true 258 (e.breg f.ba.toNat).toNat 16480 e.s = (.ok ps, t)) (hfree : e.bufferFree t ps) :
    let u := e.bufferAsked t ps
    let head := u.quoteHead e.loc.d (u.viewBytes e.loc.d true ((ps.headD (0, 0)).1 + 16) 32)
    exec (.svcQuote f) s = e.retires (.svcQuote f) (e.answered (State.storeBuffer { u with fresh := u.fresh + 1 } e.loc.d ps
      (head ++ (List.range 16224).map (Config.signature head u.fresh))) f.d [(f.s.toNat, 16480#32)]) := by
  intro u head
  rw [exec_svcQuote]
  refine h.answers ((if_neg (by simp [ha])).trans ?_)
  simp only [hb]
  exact Env.toBuffer_free hfree _

/-! ## CAPQ (R432) -/

section
variable {f : SysW} {s : State} {e : Env}

section
variable (h : SysReady .capq f s e)
include h

theorem capq_grade (hf : f.f.toNat % 4 = 0) (hx : (e.sreg f.s.toNat).toNat < 8) :
    exec (.capq f) s = e.retires (.capq f) (e.answered e.s f.d [(f.s.toNat, e.s.gradeWord (e.sreg f.s.toNat).toNat)]) := by
  rw [exec_capq]
  refine h.answers ?_
  simp only [hf]
  exact if_neg (Nat.not_le.2 hx)

theorem capq_identity (hf : f.f.toNat % 4 = 1) (hx : (e.sreg f.s.toNat).toNat < 32) :
    exec (.capq f) s = e.retires (.capq f) (e.answered e.s f.d [(f.s.toNat, idWord (e.sreg f.s.toNat).toNat)]) := by
  rw [exec_capq]
  refine h.answers ?_
  simp only [hf]
  exact if_neg (Nat.not_le.2 hx)

theorem capq_shortfall {pa ty : Nat} {t u : State} {bs : List Byte} {pins : List (Nat × Bool)} (hf : f.f.toNat % 4 = 2)
    (ha : (e.breg f.ba.toNat).toNat % 32 = 0) (htr : e.translate e.s (e.breg f.ba.toNat).toNat .load 32 = (.ok pa ty, t))
    (htile : ∀ d i x, t.tileAt pa ≠ some (d, i, x, false))
    (hread : t.readSector (.core e.loc.d e.loc.a) e.loc.d [] false (.glob (pa / 64 * 64)) = .ok bs pins u) :
    exec (.capq f) s = e.retires (.capq f) (e.answered (u.keepCopy e.loc.d ty (.glob pa)) f.d
      [(f.s.toNat, u.shortfall fun i => leNat ((bs.drop (pa % 64 + 4 * i)).take 4))]) := by
  rw [exec_capq]
  refine h.answers ?_
  simp only [hf]
  refine (if_neg (by simp [ha])).trans ?_
  rcases hat : t.tileAt pa with _ | ⟨d, i, x, _ | _⟩
  · simp only [htr, hat, hread]
  · exact (htile d i x hat).elim
  · simp only [htr, hat, hread]

theorem capq_cluster (hf : f.f.toNat % 4 = 3) (hx : (e.sreg f.s.toNat).toNat < 256) :
    let x := (e.sreg f.s.toNat).toNat
    exec (.capq f) s = e.retires (.capq f) (e.answered e.s f.d [(f.s.toNat, if x / 64 = 3 then 0x80000000#32 else
      let cs := e.s.clusterCores (x % 64) (x / 64)
      BitVec.ofNat 32 (cs.length + 2 ^ 8 * ((cs.map (e.s.slotsOffered (x % 64))).foldl (· + ·) 0)))]) := by
  intro x
  rw [exec_capq]
  refine h.answers ?_
  simp only [hf]
  exact Env.operand_fits (n := 8) hx _
end

/-! ## PWRQ, CLKQ, HSTAT (R433) -/

section
variable (h : SysReady .pwrq f s e)
include h

theorem pwrq_points (hf : f.f.toNat % 4 = 0) :
    let i := (e.sreg f.s.toNat).toNat
    let x := e.s.dom (i % 64)
    let un := decide (i / 64 % 2 = 1)
    exec (.pwrq f) s = e.retires (.pwrq f) (e.answered e.s f.d [(f.s.toNat, BitVec.ofNat 32 ((if un then x.reqU else x.reqC)
      + 4 * (if un then x.effU else x.effC) + (if x.throttledAt un then 2 ^ 4 else 0)))]) := by
  intro i x un
  rw [exec_pwrq]
  refine h.answers ?_
  simp only [hf, un, decide_eq_true_eq]
  rfl

theorem pwrq_droops (hf : f.f.toNat % 4 = 2) :
    let i := (e.sreg f.s.toNat).toNat
    let x := e.s.dom (i % 64)
    exec (.pwrq f) s = e.retires (.pwrq f) (e.answered e.s f.d
      [(f.s.toNat, BitVec.ofNat 32 (if decide (i / 64 % 2 = 1) then x.droopU else x.droopC))]) := by
  intro i x
  rw [exec_pwrq]
  refine h.answers ?_
  simp only [hf, decide_eq_true_eq]
  rfl

/-- The module's power, under its limit of 25,000 W, and the domain's hottest junction are free values (log 32). -/
theorem pwrq_measures (hf : f.f.toNat % 4 = 1 ∨ f.f.toNat % 4 = 3) :
    ∃ v : Word, exec (.pwrq f) s = e.retires (.pwrq f) (e.answered { e.s with fresh := e.s.fresh + 1 } f.d [(f.s.toNat, v)]) ∧
      (f.f.toNat % 4 = 1 → v.toNat / 2 ^ 16 = 25000) := by
  rw [exec_pwrq]
  rcases hf with hf | hf
  · refine ⟨BitVec.ofNat 32 (Config.freeNat e.s.fresh % 2 ^ 16 + 2 ^ 16 * 25000), h.answers ?_, fun _ => ?_⟩
    · simp only [hf]
    · rw [BitVec.toNat_ofNat]
      omega
  · refine ⟨Config.freeWord e.s.fresh, h.answers ?_, fun hf' => absurd hf' (by omega)⟩
    simp only [hf]
end

theorem clkq_answers (h : SysReady .clkq f s e) :
    let ck := if e.blk.isHandler then e.s.clocks e.loc.d e.loc.a else (0, 0)
    exec (.clkq f) s = e.retires (.clkq f) (e.answered e.s f.d
      [(f.s.toNat, BitVec.ofNat 32 (e.s.clockSource e.loc.d e.loc.a + 4 * ck.1 + 16 * ck.2 + 2 ^ 8 * e.core.cksw)),
       (f.s.toNat + 1, e.core.cktick.setWidth 32)]) := by
  rw [exec_clkq]
  exact h.answers rfl

/-! ## EVLOG (R434) -/

theorem evlogPut_appends (h : SysReady .evlogPut f s e) (hmin : 0x8000 ≤ (e.sreg f.s.toNat).toNat) (hmax : (e.sreg f.s.toNat).toNat < 2 ^ 16) :
    let t := e.s.logData (e.sreg f.s.toNat).toNat e.loc.d e.loc.a ((e.sreg (f.s.toNat + 1)).setWidth 64)
    exec (.evlogPut f) s = e.retires (.evlogPut f) (e.answered t f.d [(f.s.toNat, BitVec.ofNat 32 t.log.length)]) := by
  rw [exec_evlogPut]
  exact h.answers (if_neg (by simp; omega))

section
variable {ps : List (Nat × Nat)} {t : State} (h : SysReady .evlogGet f s e) (hsup : e.blk.isHandler = true)
  (ha : (e.breg f.ba.toNat).toNat % 32 = 0) (hb : e.buffer false 1 (e.breg f.ba.toNat).toNat 32 e.s = (.ok ps, t))
include h hsup ha hb

/-- The number of the entry that EVLOG.GET asks for. -/
def Env.entryAsked (e : Env) (f : SysW) : Nat := (e.sreg f.s.toNat).toNat + 2 ^ 32 * (e.sreg (f.s.toNat + 1)).toNat

theorem evlogGet_absent (hq : e.entryAsked f = 0 ∨ t.log.length < e.entryAsked f) :
    exec (.evlogGet f) s = e.retires (.evlogGet f) (e.answered t f.d [(f.s.toNat, 2#32)]) := by
  rw [exec_evlogGet]
  refine h.answers ((Env.handlerOnly_handler hsup _).trans ((if_neg (by simp [ha])).trans ?_))
  simp only [hb]
  exact if_pos (by simpa [Env.entryAsked] using hq)

/-- Of the log the last 65,536 entries can be read. -/
theorem evlogGet_old (hpos : 0 < e.entryAsked f) (hold : e.entryAsked f + 65536 ≤ t.log.length) :
    exec (.evlogGet f) s = e.retires (.evlogGet f) (e.answered t f.d [(f.s.toNat, 1#32)]) := by
  rw [exec_evlogGet]
  refine h.answers ((Env.handlerOnly_handler hsup _).trans ((if_neg (by simp [ha])).trans ?_))
  simp only [hb]
  exact (if_neg (by unfold Env.entryAsked at hpos hold; simp; omega)).trans (if_pos hold)

theorem evlogGet_stores {x : LogEnt} (hpos : 0 < e.entryAsked f) (hnew : t.log.length < e.entryAsked f + 65536)
    (hx : t.log[e.entryAsked f - 1]? = some x) (hfree : e.bufferFree t ps) :
    exec (.evlogGet f) s = e.retires (.evlogGet f) (e.answered
      ((e.bufferAsked t ps).storeBuffer e.loc.d ps (leBytes 32 (logNat (e.entryAsked f) x))) f.d [(f.s.toNat, 0#32)]) := by
  have hlen : e.entryAsked f - 1 < t.log.length := (List.getElem?_eq_some_iff.1 hx).1
  rw [exec_evlogGet]
  refine h.answers ((Env.handlerOnly_handler hsup _).trans ((if_neg (by simp [ha])).trans ?_))
  simp only [hb]
  refine (if_neg (by unfold Env.entryAsked at hpos hlen; simp; omega)).trans ((if_neg (Nat.not_le.2 hnew)).trans ?_)
  unfold Env.entryAsked at hx
  simp only [hx]
  exact Env.toBuffer_free hfree _
end
end

theorem serviceWords : Spec.ServiceWords := by
  unfold Spec.ServiceWords
  refine ⟨fun f s e h hsup hx => ⟨svcVf_absent hsup h hx, svcVf_sets hsup h hx⟩,
    fun f s e h hsup hx hkind => ⟨svcRetire_retires hsup h hx hkind, svcRetire_ends hsup h hx hkind⟩,
    fun f s e h hsup => ⟨fun d i k g w => svcPkill_ends hsup h, svcPkill_none hsup h⟩,
    fun f s e ps t h => svcQuote_stores h,
    fun f s e h => ⟨capq_grade h, capq_identity h, fun pa ty t bs pins u => capq_shortfall h, capq_cluster h⟩,
    fun f s e h => ⟨pwrq_points h, pwrq_droops h, pwrq_measures h⟩, fun f s e h => clkq_answers h,
    fun f s e h hmin hmax => ?put,
    fun f s e ps t h hsup ha hb => ⟨evlogGet_absent h hsup ha hb, evlogGet_old h hsup ha hb, fun x => evlogGet_stores h hsup ha hb⟩,
    fun f s e h => ?hstat⟩
  case put =>
    exact ⟨e.s.logData (e.sreg f.s.toNat).toNat e.loc.d e.loc.a ((e.sreg (f.s.toNat + 1)).setWidth 64), by simp [State.logData], rfl,
      ⟨_, rfl, rfl, rfl, rfl, rfl⟩, evlogPut_appends h hmin hmax⟩
  case hstat =>
    intro i d x here ret
    refine exec_hstat.trans (SysReady.answers (i := .hstat) h ?_)
    simp only [here, decide_eq_true_eq]
    rfl

/-- Settles O40, one lemma per word and outcome. -/
theorem fabricAndServiceWordsComplete : Obligations.FabricAndServiceWordsComplete := ⟨fabricWords, serviceWords⟩

end Sys2Proof.Machine
end

-- ==== The events of the fabric engine (O48) ====
section
/-! PROOF. What the arrival, acknowledgement and re-sending of fabric messages, the loss and return of ports and the writes of the fabric's registers do
where their conditions hold (R395 to R411, R419). -/

namespace Sys2Proof.Machine

/-! ## First arrivals (R400, R402, R404) -/

/-- The message's range is whole sectors, or an aligned word of a signal. -/
def bodyFits (b : FabBody) : Prop := ∀ r, bodyRange b = some r → r.2.1 % (if r.2.2.2 then 4 else 64) = 0 ∧ r.2.2.1 ≠ 0
/-- The domain holds an acknowledgement for a message of this identifier: it has arrived before. -/
def State.fabKnown (s : State) (t : Nat) (m : FabMsg) : Bool := m.op.isNone && bodyNamed m.body && ((s.dom t).inboxOf m.id).isSome
/-- A message as its receiver enters it. -/
def State.fabEntered (s : State) (tbl : Nat) (m : FabMsg) (got : List Nat) (code : Nat) : FabIn :=
  { msg := m, tbl := tbl, base := s.fabBase tbl m, got := got, rel := none, made := false,
    code := if (bodyRange m.body).isSome && (s.fabBase tbl m).isNone then 2 else code }
/-- The receiver has accepted a message. -/
def State.fabAccepted (s : State) (tbl : Nat) (m : FabMsg) (got : List Nat) (code : Nat) : State :=
  s.updDom (s.fabTarget tbl m) fun x =>
    { x with fabIn := x.fabIn ++ [s.fabEntered tbl m got code], fabRef := x.fabRef.filter fun r => r.1 != m.id }

section
variable {s : State} {tbl : Nat} {m : FabMsg} {got : List Nat} {code : Nat} {go : State → Nat → FabIn → Out} (ht : s.fabTarget tbl m < 64)
  (hu : (s.dom (s.fabTarget tbl m)).uoff = false) (hfit : bodyFits m.body)
include ht hu hfit

/-- What a first arrival comes to where its target domain has power. -/
theorem State.fabAccept_eq : s.fabAccept tbl m got code go =
    if s.fabKnown (s.fabTarget tbl m) m then .next s
    else if s.fabFull (s.fabTarget tbl m) m then .next (s.fabRefuse (s.fabTarget tbl m) m)
    else go (s.fabAccepted tbl m got code) (s.fabTarget tbl m) (s.fabEntered tbl m got code) := by
  have hmisfit : (match bodyRange m.body with | some r => r.2.1 % (if r.2.2.2 then 4 else 64) != 0 || r.2.2.1 = 0 | none => false) = false := by
    cases hr : bodyRange m.body with
    | none => rfl
    | some r =>
      obtain ⟨hmod, hn⟩ := hfit r hr
      simp [hmod, hn]
  unfold State.fabAccept
  refine if_neg fun h => ?_
  rcases Bool.or_eq_true_iff.1 h with h | h
  · simp only [hu, Bool.or_false, decide_eq_true_eq] at h
    omega
  · exact Bool.false_ne_true (hmisfit.symm.trans h)
end

/-- A first arrival by the table of domain `tbl` is known, refused, or accepted; `go` gives the states that an accepted one goes on to. -/
def AcceptsMessage (s : State) (m : FabMsg) (i : Instr) (tbl : Nat) (got : List Nat) (code : Nat) (go : State → Nat → FabIn → State → Prop) : Prop :=
  s.fabTarget tbl m < 64 → (s.dom (s.fabTarget tbl m)).uoff = false → bodyFits m.body →
    (s.fabKnown (s.fabTarget tbl m) m = true → exec i s = .next s) ∧
    (s.fabKnown (s.fabTarget tbl m) m = false → s.fabFull (s.fabTarget tbl m) m = true → exec i s = .next (s.fabRefuse (s.fabTarget tbl m) m)) ∧
    (s.fabKnown (s.fabTarget tbl m) m = false → s.fabFull (s.fabTarget tbl m) m = false →
      ∀ v, go (s.fabAccepted tbl m got code) (s.fabTarget tbl m) (s.fabEntered tbl m got code) v → exec i s = .next v)

theorem accepts_of_fabAccept {s : State} {m : FabMsg} {i : Instr} {tbl : Nat} {got : List Nat} {code : Nat} {go : State → Nat → FabIn → State → Prop}
    {act : State → Nat → FabIn → Out} (hx : exec i s = s.fabAccept tbl m got code act) (hgo : ∀ u t e v, go u t e v → act u t e = .next v) :
    AcceptsMessage s m i tbl got code go := by
  intro ht hu hfit
  rw [hx, State.fabAccept_eq ht hu hfit]
  exact ⟨fun hknown => if_pos hknown, fun hnew hfull => (if_neg (ne_true_of_eq_false hnew)).trans (if_pos hfull),
    fun hnew hroom v hv => (if_neg (ne_true_of_eq_false hnew)).trans ((if_neg (ne_true_of_eq_false hroom)).trans (hgo _ _ _ v hv))⟩

/-! ## C0 and C2 messages (R402, R410, R411) -/

/-- An accepted C0 or C2 message goes on as far as it can. -/
def GoesOn (u : State) (t : Nat) (e : FabIn) (v : State) : Prop := v = u.fabStep t e

section
variable {s : State} {m : FabMsg} {i : Instr} (hx : exec i s = s.fabArrive m)
include hx

/-- A message under way takes its next step. -/
theorem arrival_steps {t : Nat} {e : FabIn} (he : s.fabEntry m = some (t, e)) (hu : (s.dom t).uoff = false) (hstep : s.fabStep t e ≠ s) :
    exec i s = .next (s.fabStep t e) := by
  rw [hx]
  unfold State.fabArrive State.waiting
  simp only [he]
  exact (if_neg (ne_true_of_eq_false hu)).trans (if_neg hstep)

/-- A local message arrives once its operation may send it. -/
theorem arrival_local {x : Op} {f : FabOut} (he : s.fabEntry m = none) (hs : s.fabSender m = some (x, f)) (hbody : f.msg.body = m.body) :
    exec i s = s.fabGo x f none (s.fabAccept x.d m [] 0 fun s t e => .next (s.fabStep t e)) := by
  rw [hx]
  unfold State.fabArrive
  simp only [he, hs]
  exact if_neg (by simp [hbody])

/-- A message of another device arrives by a port that is up. -/
theorem arrival_foreign {tbl : Nat} (he : s.fabEntry m = none) (hs : s.fabSender m = none) (hfrom : s.fabFrom m = some tbl) :
    AcceptsMessage s m i tbl [] 0 GoesOn := by
  refine accepts_of_fabAccept (act := fun s t e => .next (s.fabStep t e)) ?_ fun u t e v hv => by rw [hv]
  rw [hx]
  unfold State.fabArrive
  simp only [he, hs, hfrom]
end

/-! ## C1 messages (R402, R403, R409) -/

/-- A packet of `bytes` from sector `k` on is performed. -/
def PacketDone (n k : Nat) (bytes : List Byte) (tag : Option Word) (u : State) (t : Nat) (e : FabIn) (v : State) : Prop :=
  ∃ c, u.fabPacket t e n k bytes tag = .ok c v
/-- Sector `k` of a local FSEND is read once, and its packet performed. -/
def SectorDone (x : Op) (f : FabOut) (n k : Nat) (bytes : List Byte) (tag : Option Word) (u : State) (t : Nat) (e : FabIn) (v : State) : Prop :=
  ∃ pins r, u.readSector (.op x.id) x.d x.pins true (.glob (f.srcs.getD k 0)) = .ok bytes pins r ∧
    PacketDone n k bytes tag (r.setOp { x with k := .fabric { f with sent := f.sent ++ [k] }, pins := pins }) t e v

theorem State.fabSector_done {s v : State} {x : Op} {f : FabOut} {t n k : Nat} {e : FabIn} {bytes : List Byte} {tag : Option Word}
    (h : SectorDone x f n k bytes tag s t e v) : s.fabSector x f t e n k bytes tag = .next v := by
  obtain ⟨pins, r, hread, c, hpacket⟩ := h
  unfold State.fabSector
  simp only [hread]
  refine (if_neg (by simp)).trans ?_
  simp only [hpacket]

section
variable {s : State} {m : FabMsg} {apr off n k : Nat} {bytes : List Byte} {tag : Option Word} (hm : m.body = .data apr off n k bytes tag)
  (hmod : bytes.length % 64 = 0) (hne : bytes ≠ []) (hlen : k + bytes.length / 64 ≤ n)
include hmod hne hlen

/-- The packet is whole sectors of its message. -/
theorem packet_fits : ¬ (bytes.length != 64 * (bytes.length / 64) || decide (bytes.length / 64 = 0) || decide (n < k + bytes.length / 64)) = true := by
  have hpos := List.length_pos_iff.2 hne
  simp
  omega

include hm

section
variable {x : Op} {f : FabOut} (hs : s.fabSender m = some (x, f)) (hbody : f.msg.body = .data apr off n 0 [] tag) (hnew : f.sent.contains k = false)
  (hone : bytes.length = 64)
include hs hbody hnew hone

section
variable (hgo : ∀ go, s.fabGo x f (some (apr, (off + 64 * k) / 256)) go = go)
include hgo

theorem c1Arrival_nextSector {t : Nat} {e : FabIn} {v : State} (he : s.fabEntry m = some (t, e)) (hu : (s.dom t).uoff = false)
    (hv : SectorDone x f n k bytes tag s t e v) : exec (.fabricC1Arrival m) s = .next v := by
  rw [exec_fabricC1Arrival]
  unfold execFabricC1Arrival
  simp only [hm, hs, he, hgo]
  exact (if_neg (packet_fits hmod hne hlen)).trans ((if_neg (by simpa [hbody, hone] using hnew)).trans ((if_neg (ne_true_of_eq_false hu)).trans
    (State.fabSector_done hv)))

theorem c1Arrival_firstSector (he : s.fabEntry m = none) :
    AcceptsMessage s m (.fabricC1Arrival m) x.d f.sent f.code (SectorDone x f n k bytes tag) := by
  refine accepts_of_fabAccept (act := fun s t e => s.fabSector x f t e n k bytes tag) ?_ fun u t e v hv => State.fabSector_done hv
  rw [exec_fabricC1Arrival]
  unfold execFabricC1Arrival
  simp only [hm, hs, he, hgo]
  exact (if_neg (packet_fits hmod hne hlen)).trans (if_neg (by simpa [hbody, hone] using hnew))
end
end

section
variable {tbl : Nat} (hs : s.fabSender m = none) (hfrom : s.fabFrom m = some tbl)
include hs hfrom

theorem c1Arrival_nextPacket {t i : Nat} {w : List Byte} {e : FabIn} {v : State} (he : s.fabEntry m = some (t, e)) (hu : (s.dom t).uoff = false)
    (hbody : e.msg.body = .data apr off n i w tag) (hv : PacketDone n k bytes tag s t e v) : exec (.fabricC1Arrival m) s = .next v := by
  obtain ⟨c, hpacket⟩ := hv
  rw [exec_fabricC1Arrival]
  unfold execFabricC1Arrival
  simp only [hm, hs, hfrom, he, hbody, hpacket]
  exact (if_neg (packet_fits hmod hne hlen)).trans (if_neg (by simp [hu]))

theorem c1Arrival_firstPacket (he : s.fabEntry m = none) :
    AcceptsMessage s m (.fabricC1Arrival m) tbl [] 0 (PacketDone n k bytes tag) := by
  have hx := exec_fabricC1Arrival (m := m) (s := s)
  unfold execFabricC1Arrival at hx
  simp only [hm, hs, hfrom, he] at hx
  refine accepts_of_fabAccept (hx.trans (if_neg (packet_fits hmod hne hlen))) fun u t e v hv => ?_
  obtain ⟨c, hpacket⟩ := hv
  simp only [hpacket]
end
end

/-! ## Acknowledgements and re-sending (R397, R404, R405, R409) -/

section
variable {s : State} {o : Nat} {x : Op} {f : FabOut} (hop : s.op o = some x) (hk : x.k = .fabric f)
include hop hk

/-- A local message's operation takes the status that the message ended with. -/
theorem fabricAck_local {st : Word} (hrun : x.performed = false) (hport : f.port = none) (hend : f.ended = some st) :
    exec (.fabricAck o st) s = .next (s.fabAcked x st) := by
  rw [exec_fabricAck]
  unfold execFabricAck
  simp only [hop, hk, hport]
  exact (if_neg (ne_true_of_eq_false hrun)).trans (if_pos hend)

/-- The answer of another device, once the whole message has been read and sent. -/
theorem fabricAck_foreign {p : Nat} {st : Word} {bs : List Byte} {pins : List (Nat × Bool)} {t : State} (hrun : x.performed = false)
    (hport : f.port = some p) (hlive : s.portLive p = true) (hst : statusOk f.msg.body st = true) (hgo : ∀ go, s.fabGo x f none go = go)
    (hread : State.fabReads (.op x.id) x.d f.srcs x.pins s = .ok bs pins t) :
    exec (.fabricAck o st) s = .next ((t.applyTag x.d x.a x.jent [] [(0, st)]).fabAcked x st) := by
  rw [exec_fabricAck]
  unfold execFabricAck
  simp only [hop, hk, hport, hgo, hread]
  exact (if_neg (ne_true_of_eq_false hrun)).trans (if_neg (by simp [hlive, hst]))

theorem fabricResend_resends (hback : f.back = 1) (hlive : ∀ p, f.port = some p → s.portLive p = true) :
    exec (.fabricResend o) s = .next (s.setOp { x with k := .fabric { f with back := 0 } }) := by
  rw [exec_fabricResend]
  unfold execFabricResend
  simp only [hop, hk]
  refine if_pos ?_
  cases hport : f.port with
  | none => simp [hback]
  | some p => simp [hback, hlive p hport]
end

/-! ## Ports (R405) -/

theorem portDown_goes {s : State} {p : Nat} (h : s.portLive p = true) : exec (.portDown p) s = .next
    (State.portsGone { s with svc := { s.svc with portDown := s.svc.portDown ++ [p] } } s).retable := by
  rw [exec_portDown]
  exact if_neg (by simp [h])

/-- The operations of a state aside, the return of a port changes nothing. -/
theorem State.portsBack_keeps {γ : Type} (q : State → γ) (hq : ∀ s x, q (s.setOp x) = q s) (s : State) : q s.portsBack = q s := by
  unfold State.portsBack
  refine foldl_keeps q _ (fun s x => ?_) _ s
  cases x.k with
  | fabric f =>
    cases hport : f.port with
    | none => simp only [hport]
    | some p =>
      simp only [hport]
      split
      · rfl
      · split
        · exact hq _ _
        · rfl
  | _ => rfl

theorem portUp_returns {s : State} {p : Nat} (h : p ∈ s.svc.portDown) :
    ∃ t, exec (.portUp p) s = .next t ∧ t.svc.portDown = s.svc.portDown.filter (· != p) ∧ t.mem = s.mem ∧ t.blocks = s.blocks := by
  rw [exec_portUp]
  refine ⟨_, if_neg (by simp [h]), ?_, ?_, ?_⟩
  · exact State.portsBack_keeps (·.svc.portDown) (fun _ _ => rfl) _
  · exact State.portsBack_keeps (·.mem) (fun _ _ => rfl) _
  · exact State.portsBack_keeps (·.blocks) (fun _ _ => rfl) _

/-! ## Registers and confirmations (R20, R400, R419) -/

section
variable {s : State} {d : Nat} (hd : d < 64)
include hd

theorem fabricManagement_assigns : exec (.fabricManagement d) s = .next (State.retable { s with svc := { s.svc with dev := d } }) := by
  rw [exec_fabricManagement]
  exact if_neg (Nat.not_le.2 hd)

theorem fdiscWrite_clears : exec (.fdiscWrite d) s = .next (s.updDom d fun x => { x with fdiscEnded := 0, fdiscRefused := 0 }) := by
  rw [exec_fdiscWrite]
  exact if_neg (Nat.not_le.2 hd)

theorem controlRegisterWrite_writes {off : Nat} {x : Word} (hoff : off < 2 ^ 30) (hal : off % 4 = 0) :
    exec (.controlRegisterWrite d off x) s = .next (s.ctlWrite d off (leBytes 4 x.toNat)) := by
  rw [exec_controlRegisterWrite]
  exact if_neg (by simp [hal]; omega)

/-- The target forgets a message of another device. -/
theorem acknowledgementReceiptConfirmed_forgets {id : FabId} (hbox : ((s.dom d).inboxOf id).isSome = true) (hdev : id.dev ≠ s.svc.dev) :
    exec (.acknowledgementReceiptConfirmed d id) s = .next (s.updDom d fun x => { x with inbox := x.inbox.filter fun p => p.1 != id }) := by
  rw [exec_acknowledgementReceiptConfirmed]
  obtain ⟨w, hw⟩ := Option.isSome_iff_exists.1 hbox
  exact if_neg (by simp [hd, hw, hdev])
end

/-- Settles O48, one lemma per event. -/
theorem fabricEventsComplete : Obligations.FabricEventsComplete := by
  unfold Obligations.FabricEventsComplete
  intro s m o d accept
  refine ⟨fun hc => ?arrival, fun apr off n k bytes tag hm hmod hne hlen => ⟨fun x f hs hbody hnew hone => ?sector, fun tbl hs hfrom => ?packet⟩,
    fun x f hop hk => ⟨fun st => fabricAck_local hop hk, fun p st bs pins t => fabricAck_foreign hop hk, fabricResend_resends hop hk⟩,
    portDown_goes, portUp_returns, fun hd => ⟨fabricManagement_assigns hd, fdiscWrite_clears hd, fun off x => controlRegisterWrite_writes hd,
      fun id => acknowledgementReceiptConfirmed_forgets hd⟩⟩
  case arrival =>
    intro arrive go
    have hx : exec arrive s = s.fabArrive m := by
      by_cases h0 : bodyClass m.body = 0
      · rw [show arrive = .fabricC0Arrival m from if_pos h0, exec_fabricC0Arrival]
        exact if_pos h0
      · rw [show arrive = .fabricC2Arrival m from if_neg h0, exec_fabricC2Arrival]
        exact if_pos (hc.resolve_left h0)
    refine ⟨fun t e => arrival_steps hx, fun x f he hs hbody => ⟨fun t hgo => (arrival_local hx he hs hbody).trans (hgo _), fun hgo => ?_⟩,
      fun tbl he hs => arrival_foreign hx he hs⟩
    exact accepts_of_fabAccept ((arrival_local hx he hs hbody).trans (hgo _)) fun u t e v hv => by rw [hv]
  case sector =>
    intro sector hgo
    exact ⟨fun t e v he hu hv => c1Arrival_nextSector hm hmod hne hlen hs hbody hnew hone hgo he hu hv,
      c1Arrival_firstSector hm hmod hne hlen hs hbody hnew hone hgo⟩
  case packet =>
    exact ⟨fun t e v he hu ⟨i, w, hbody⟩ hv => c1Arrival_nextPacket hm hmod hne hlen hs hfrom he hu hbody hv,
      c1Arrival_firstPacket hm hmod hne hlen hs hfrom⟩

end Sys2Proof.Machine
end
